-- ==== Sys2Proof/Word.lean ====
section
/-! DEFINITION. The plain word types and the fixed-size tables the model uses. -/

namespace Sys2Proof

/-- A 32-bit register or instruction word. -/
abbrev Word := BitVec 32
/-- A 64-bit value. -/
abbrev DWord := BitVec 64
/-- One byte. -/
abbrev Byte := BitVec 8
/-- A lane mask: lane l is bit l (R3). -/
abbrev Mask := BitVec 32
/-- One value for each of the 32 lanes of a squad (R20). -/
abbrev Lanes (α : Type) := Vector α 32

/-- Entry `i` of a table, the default outside it. -/
def vget {α : Type} [Inhabited α] {n : Nat} (v : Vector α n) (i : Nat) : α := v.toArray.getD i default

/-- A table with entry `i` replaced; unchanged outside the table. -/
def vset {α : Type} {n : Nat} (v : Vector α n) (i : Nat) (x : α) : Vector α n := v.setIfInBounds i x

/-- A value for each lane. -/
def lanes {α : Type} (f : Nat → α) : Lanes α :=
  ⟨#[f 0, f 1, f 2, f 3, f 4, f 5, f 6, f 7, f 8, f 9, f 10, f 11, f 12, f 13, f 14, f 15,
     f 16, f 17, f 18, f 19, f 20, f 21, f 22, f 23, f 24, f 25, f 26, f 27, f 28, f 29, f 30, f 31], rfl⟩

/-- The lane numbers in ascending order (R8). -/
def laneList : List Nat :=
  [0, 1, 2, 3, 4, 5, 6, 7, 8, 9, 10, 11, 12, 13, 14, 15,
   16, 17, 18, 19, 20, 21, 22, 23, 24, 25, 26, 27, 28, 29, 30, 31]

/-- The lanes of a mask, ascending. -/
def Mask.list (m : Mask) : List Nat := laneList.filter (fun l => m.getLsbD l)

/-- The mask of the lanes that satisfy `f`. -/
def maskOf (f : Nat → Bool) : Mask :=
  laneList.foldl (fun m l => if f l then m ||| (1#32 <<< l) else m) 0#32

end Sys2Proof
end

