-- ==== Sys2Proof/Operand.lean ====
section
/-! DEFINITION. The operand names of Table 9-2 and the operands of the events that have no encoding. -/

namespace Sys2Proof

/-- A seven-bit operand name (R111, Table 9-2). -/
inductive Opnd where
  | v (n : Fin 64)
  | s (n : Fin 32)
  | a (n : Fin 16)
  | p (n : Fin 8)
  | zero | lid | sqid | tmid | em | br | fmt | lclk
deriving DecidableEq, Repr, Inhabited

/-- The value classes, in the order U < A < V (R57). -/
inductive Cls where
  | u | a | v
deriving DecidableEq, Repr, Inhabited

/-- A squad is named by its launch number, its team's tmid and its sqid (R336). -/
structure SquadKey where
  lid : Nat
  tmid : Nat
  sqid : Nat
deriving DecidableEq, Repr, Inhabited

/-- A team is named by its launch number and its tmid. -/
structure TeamKey where
  lid : Nat
  tmid : Nat
deriving DecidableEq, Repr, Inhabited

/-- The team of a squad. -/
def SquadKey.team (k : SquadKey) : TeamKey := ⟨k.lid, k.tmid⟩

/-- Which single-key sparse operation a home slice accepts next (R309). -/
inductive KeyOp where
  /-- the next lane of a squad's SST not yet accepted -/
  | sst (k : SquadKey)
  /-- one lane's operation of a pending sparse read -/
  | read (k : SquadKey) (seq : Nat)
  /-- the next insert of a SPAR command -/
  | spar (cmd : Nat)
deriving DecidableEq, Repr, Inhabited

/-- An access that reaches the part from outside (R238). -/
inductive OuterOp where
  | read (n : Nat)
  | write (bytes : List Byte)
  /-- an indivisible read-modify-write of `n` bytes with the operation code of Table 9-7 -/
  | atomic (opn : BitVec 4) (n : Nat) (x : DWord)
  /-- a row that a peer's DSP sends to a shoe of the team on a core of this part (R260) -/
  | row (core shoe : Nat) (bytes : List Byte)
deriving DecidableEq, Repr, Inhabited

/-- A management-window register (Table 29-1) or another item that the manual has system software
set through the management window. -/
inductive MgmtReg where
  | nqbase | nqsize | nqhead | lcopol | lcokey (n : Fin 8) (dword : Fin 4) | drain | mxgate | ntok | pcap
  /-- a register of Table 29-1 that is read-only, a CAP mirror or a reserved offset -/
  | readOnly (offset : Nat)
  /-- one 64-bit word of an ASID table entry (R354) -/
  | asid (n : Nat) (dword : Fin 4)
  /-- a host or peer window: base, length and link port, `none` for host memory, and the first address of
  the peer's memory that it maps to (R392, R404) -/
  | window (base len : Nat) (port : Option Nat) (peer : Nat)
  /-- a range of the context pool (R350) -/
  | contextPool (base len : Nat)
  /-- a free 64 MiB frame given to the promotion engine (R359) -/
  | promotionFrame (pa : Nat)
  /-- pause or resume promotion (R359) -/
  | promotionPause
  /-- the ASID to which a receiving link port is bound (R260) -/
  | portAsid (port : Nat)
deriving DecidableEq, Repr, Inhabited

/-- A word of a register file or an accumulator element (R68). -/
inductive WordRef where
  | v (n l : Nat) | s (n w : Nat) | a (n w : Nat) | p (n : Nat) | t (n i : Nat)
deriving DecidableEq, Repr, Inhabited

/-- What fails parity: a squad's register word, an element of a core's accumulator store, or a word of HBM
that its own code corrects (R403). -/
inductive ParityTarget where
  | reg (k : SquadKey) (w : WordRef)
  | acc (core tile row col : Nat)
  | hbm (pa : Nat)
deriving DecidableEq, Repr, Inhabited

/-- What a load request of R375 supplies: the object's bytes and the choices of system software. -/
structure LoadRequest where
  bytes : List Byte
  asid : Nat
  /-- the virtual addresses chosen for DECKS, CODE, CONST and DATA -/
  va : List Nat
  /-- fresh frames of 64 KiB: for the pages of DECKS, CODE, CONST and DATA in that order, then for the records -/
  frames : List Nat
  /-- fresh frames of 8 KiB for page tables that the mapping needs -/
  tables : List Nat
  /-- the region table index and GEN chosen for each REGIONS entry -/
  regions : List (Nat × BitVec 16)
  /-- the virtual address chosen for the launch records and lease lists -/
  records : Nat
deriving DecidableEq, Repr, Inhabited

/-- What a debug stop names (R399). -/
inductive StopTarget where
  | launch (lid : Nat)
  | command (cmd : Nat)
  | arm (lid : Nat) (on : Bool)
deriving DecidableEq, Repr, Inhabited

/-- A causal experiment (R401). -/
structure Experiment where
  lid : Nat
  suit : Nat
  first : Nat
  last : Nat
  delay : Nat
  points : List (Nat × Nat)
deriving DecidableEq, Repr, Inhabited

/-- An experiment starts, or one that runs ends (R401). -/
inductive ExperimentOp where
  | start (e : Experiment)
  | stop (id : Nat)
deriving DecidableEq, Repr, Inhabited

/-- A HASH that firmware issues over an ASID at a launch completion (R400): the fields of its record. -/
structure HashRequest where
  asid : Nat
  base : Nat
  len : Nat
  out : Nat
deriving DecidableEq, Repr, Inhabited

/-- The completion of a launch: its number, and the HASH that firmware issues then, if any (R400). -/
structure CompletionRequest where
  lid : Nat
  hash : Option HashRequest
deriving DecidableEq, Repr, Inhabited

/-- The save of a team's context, with its scratch and stock or without (R350, R352). -/
structure SaveRequest where
  t : TeamKey
  copy : Bool
deriving DecidableEq, Repr, Inhabited

/-- The limit that makes firmware throttle: the power asked for in watts, and whether the cold plate is at its
limit (R394). -/
structure LimitHit where
  watts : Nat
  plate : Bool
deriving DecidableEq, Repr, Inhabited

/-- What makes a page of a lease resident: its frame, and the permission bits of its leaf (R341, R355). -/
structure ResidentPage where
  frame : Nat
  perm : DWord
deriving DecidableEq, Repr, Inhabited

/-- The start of a launch: its submission, the frames with which the scheduler makes the missing pages of its lease
resident, lowest page first, and fresh frames of 8 KiB for page tables that this needs (R341). -/
structure LaunchRequest where
  pid : Nat
  pages : List ResidentPage
  tables : List Nat
deriving DecidableEq, Repr, Inhabited

/-- A handle that the walker passes to a launch: that of the launch, or of its graph, phase or job (R339), or of a
node of its graph (R333). -/
inductive PassedHandle where
  | launch | graph | phase | job
  | node (n : Nat)
deriving DecidableEq, Repr, Inhabited

/-- A parameter word in which the launches of a node receive a handle. -/
structure HandleSlot where
  node : Nat
  word : Nat
  handle : PassedHandle
deriving DecidableEq, Repr, Inhabited

/-- What system software says of a graph beside its nodes: the phase that it belongs to, and where its launches
receive handles (R333, R339; log 5). -/
structure GraphForm where
  phase : Option Nat
  slots : List HandleSlot
deriving DecidableEq, Repr, Inhabited

/-- What a SEG word says: bit 31 and SLOTS (R129, R103). -/
structure SegWord where
  c : Bool
  slots : BitVec 8
deriving DecidableEq, Repr, Inhabited

end Sys2Proof
end

