-- ==== Sys2Proof/Syntax.lean ====
section
/-! DEFINITION. The instruction set: one constructor for each row of the spec's opcode table.
A word's constructor carries the fields of Table 9-3 that the table gives it, in word order from bit 31
down; an event's constructor carries what selects the occurrence. -/

namespace Sys2Proof

/-- An instruction word or a step of the part. Bit 31 of a word (C or RB, R103) is the field `c`;
DEAL ends its run whatever it holds (R97), and a packet's chains are read from its words (R105). -/
inductive Instr where
  /-- NOP (R128) -/
  | nop (c : Bool)
  /-- SEG (R77) -/
  | seg (w : SegWord)
  /-- NXT (R130) -/
  | nxt (c : Bool) (t : BitVec 6)
  /-- NXTC (R130) -/
  | nxtc (c : Bool) (p : Opnd) (t : BitVec 6) (f : BitVec 6) (e : Bool)
  /-- NXTI (R130) -/
  | nxti (c : Bool) (p : Opnd) (e : Bool)
  /-- DEAL (R84) -/
  | deal
  /-- FOLD (R130) -/
  | fold (c : Bool)
  /-- CALL (R132) -/
  | call (c : Bool) (i : BitVec 17)
  /-- CALLP (R132) -/
  | callp (c : Bool) (p : Opnd) (i : BitVec 17)
  /-- RET (R131) -/
  | ret (c : Bool)
  /-- TRAP (R136) -/
  | trap (c : Bool) (i : BitVec 17)
  /-- ERET (R137) -/
  | eret (c : Bool) (k : BitVec 4)
  /-- BRK (R136) -/
  | brk (c : Bool) (i : BitVec 17)
  /-- EMSET (R133) -/
  | emset (c : Bool) (a : Opnd) (e : Bool)
  /-- EMGET (R134) -/
  | emget (c : Bool) (d : Opnd) (m : Bool)
  /-- YIELD (R135) -/
  | yield (c : Bool)
  /-- IADD (R152) -/
  | iadd (c : Bool) (d : Opnd) (a : Opnd) (b : Opnd) (e : Bool) (f : Bool) (m : Bool)
  /-- ISUB (R152) -/
  | isub (c : Bool) (d : Opnd) (a : Opnd) (b : Opnd) (e : Bool) (f : Bool) (m : Bool)
  /-- IMUL (R152) -/
  | imul (c : Bool) (d : Opnd) (a : Opnd) (b : Opnd) (e : Bool) (f : Bool) (m : Bool)
  /-- IMULH (R152) -/
  | imulh (c : Bool) (d : Opnd) (a : Opnd) (b : Opnd) (e : Bool) (f : Bool) (m : Bool)
  /-- IMAD (R155) -/
  | imad (c : Bool) (d : Opnd) (a : Opnd) (b : Opnd) (e : Bool) (f : Bool) (m : Bool)
  /-- IMIN (R152) -/
  | imin (c : Bool) (d : Opnd) (a : Opnd) (b : Opnd) (e : Bool) (f : Bool) (m : Bool)
  /-- IMAX (R152) -/
  | imax (c : Bool) (d : Opnd) (a : Opnd) (b : Opnd) (e : Bool) (f : Bool) (m : Bool)
  /-- IABS (R154) -/
  | iabs (c : Bool) (d : Opnd) (a : Opnd) (e : Bool) (m : Bool)
  /-- AND (R152) -/
  | and (c : Bool) (d : Opnd) (a : Opnd) (b : Opnd) (e : Bool) (f : Bool)
  /-- OR (R152) -/
  | or (c : Bool) (d : Opnd) (a : Opnd) (b : Opnd) (e : Bool) (f : Bool)
  /-- XOR (R152) -/
  | xor (c : Bool) (d : Opnd) (a : Opnd) (b : Opnd) (e : Bool) (f : Bool)
  /-- SHL (R152) -/
  | shl (c : Bool) (d : Opnd) (a : Opnd) (b : Opnd) (e : Bool) (f : Bool) (m : Bool)
  /-- SHR (R152) -/
  | shr (c : Bool) (d : Opnd) (a : Opnd) (b : Opnd) (e : Bool) (f : Bool)
  /-- SAR (R152) -/
  | sar (c : Bool) (d : Opnd) (a : Opnd) (b : Opnd) (e : Bool) (f : Bool)
  /-- IADDMIN (R156) -/
  | iaddmin (c : Bool) (d : Opnd) (a : Opnd) (b : Opnd) (e : Bool) (f : Bool)
  /-- CMOV (R157) -/
  | cmov (c : Bool) (d : Opnd) (a : Opnd) (b : Opnd) (e : Bool) (f : Bool)
  /-- ICEQ (R153) -/
  | iceq (c : Bool) (d : Opnd) (a : Opnd) (b : Opnd) (e : Bool) (f : Bool)
  /-- ICNE (R153) -/
  | icne (c : Bool) (d : Opnd) (a : Opnd) (b : Opnd) (e : Bool) (f : Bool)
  /-- ICLT (R153) -/
  | iclt (c : Bool) (d : Opnd) (a : Opnd) (b : Opnd) (e : Bool) (f : Bool)
  /-- ICLE (R153) -/
  | icle (c : Bool) (d : Opnd) (a : Opnd) (b : Opnd) (e : Bool) (f : Bool)
  /-- ICLTU (R153) -/
  | icltu (c : Bool) (d : Opnd) (a : Opnd) (b : Opnd) (e : Bool) (f : Bool)
  /-- ICLEU (R153) -/
  | icleu (c : Bool) (d : Opnd) (a : Opnd) (b : Opnd) (e : Bool) (f : Bool)
  /-- POPC (R154) -/
  | popc (c : Bool) (d : Opnd) (a : Opnd) (e : Bool)
  /-- CLZ (R154) -/
  | clz (c : Bool) (d : Opnd) (a : Opnd) (e : Bool)
  /-- BREV (R154) -/
  | brev (c : Bool) (d : Opnd) (a : Opnd) (e : Bool)
  /-- BFX (R158) -/
  | bfx (c : Bool) (d : Opnd) (a : Opnd) (b : Opnd) (e : Bool) (f : Bool) (m : Bool)
  /-- BFI (R158) -/
  | bfi (c : Bool) (d : Opnd) (a : Opnd) (b : Opnd) (e : Bool) (f : Bool)
  /-- IDIV (R159) -/
  | idiv (c : Bool) (d : Opnd) (a : Opnd) (b : Opnd) (e : Bool) (f : Bool) (m : Bool)
  /-- IREM (R159) -/
  | irem (c : Bool) (d : Opnd) (a : Opnd) (b : Opnd) (e : Bool) (f : Bool) (m : Bool)
  /-- AGET (R165) -/
  | aget (c : Bool) (d : Opnd) (a : Opnd) (e : Bool) (m : Bool)
  /-- RGET (R167) -/
  | rget (c : Bool) (d : Opnd) (a : Opnd) (b : Opnd) (e : Bool) (f : Bool)
  /-- RPUT (R168) -/
  | rput (c : Bool) (d : Opnd) (a : Opnd) (b : Opnd) (f : Bool)
  /-- IADDI (R160) -/
  | iaddi (c : Bool) (d : Opnd) (a : Opnd) (i : BitVec 10)
  /-- ANDI (R160) -/
  | andi (c : Bool) (d : Opnd) (a : Opnd) (i : BitVec 10)
  /-- ORI (R160) -/
  | ori (c : Bool) (d : Opnd) (a : Opnd) (i : BitVec 10)
  /-- XORI (R160) -/
  | xori (c : Bool) (d : Opnd) (a : Opnd) (i : BitVec 10)
  /-- SHLI (R160) -/
  | shli (c : Bool) (d : Opnd) (a : Opnd) (i : BitVec 10)
  /-- SHRI (R160) -/
  | shri (c : Bool) (d : Opnd) (a : Opnd) (i : BitVec 10)
  /-- SARI (R160) -/
  | sari (c : Bool) (d : Opnd) (a : Opnd) (i : BitVec 10)
  /-- ICEQI (R160) -/
  | iceqi (c : Bool) (d : Opnd) (a : Opnd) (i : BitVec 10)
  /-- ICLTI (R160) -/
  | iclti (c : Bool) (d : Opnd) (a : Opnd) (i : BitVec 10)
  /-- ICLTUI (R160) -/
  | icltui (c : Bool) (d : Opnd) (a : Opnd) (i : BitVec 10)
  /-- MOVK (R161) -/
  | movk (c : Bool) (d : Opnd) (i : BitVec 17)
  /-- MOVKH (R161) -/
  | movkh (c : Bool) (d : Opnd) (i : BitVec 16)
  /-- PROM (R162) -/
  | prom (c : Bool) (d : Opnd) (a : Opnd) (b : Opnd) (e : Bool) (f : Bool) (m : Bool)
  /-- DEMU (R163) -/
  | demu (c : Bool) (d : Opnd) (a : Opnd) (e : Bool) (m : Bool)
  /-- UNIQ (R164) -/
  | uniq (c : Bool) (d : Opnd) (a : Opnd) (b : Opnd) (e : Bool) (f : Bool)
  /-- SETE (R166) -/
  | sete (c : Bool) (d : Opnd) (m : Bool)
  /-- FADD (R175) -/
  | fadd (c : Bool) (d : Opnd) (a : Opnd) (b : Opnd) (e : Bool) (f : Bool)
  /-- FSUB (R175) -/
  | fsub (c : Bool) (d : Opnd) (a : Opnd) (b : Opnd) (e : Bool) (f : Bool)
  /-- FMUL (R175) -/
  | fmul (c : Bool) (d : Opnd) (a : Opnd) (b : Opnd) (e : Bool) (f : Bool)
  /-- FFMA (R175) -/
  | ffma (c : Bool) (d : Opnd) (a : Opnd) (b : Opnd) (e : Bool) (f : Bool) (m : Bool)
  /-- FMIN (R176) -/
  | fmin (c : Bool) (d : Opnd) (a : Opnd) (b : Opnd) (e : Bool) (f : Bool)
  /-- FMAX (R176) -/
  | fmax (c : Bool) (d : Opnd) (a : Opnd) (b : Opnd) (e : Bool) (f : Bool)
  /-- FRCP (R177) -/
  | frcp (c : Bool) (d : Opnd) (a : Opnd) (e : Bool)
  /-- FRSQ (R177) -/
  | frsq (c : Bool) (d : Opnd) (a : Opnd) (e : Bool)
  /-- FSQRT (R177) -/
  | fsqrt (c : Bool) (d : Opnd) (a : Opnd) (e : Bool)
  /-- FEXP2 (R177) -/
  | fexp2 (c : Bool) (d : Opnd) (a : Opnd) (e : Bool)
  /-- FLOG2 (R177) -/
  | flog2 (c : Bool) (d : Opnd) (a : Opnd) (e : Bool)
  /-- FCEQ (R178) -/
  | fceq (c : Bool) (d : Opnd) (a : Opnd) (b : Opnd) (e : Bool) (f : Bool)
  /-- FCLT (R178) -/
  | fclt (c : Bool) (d : Opnd) (a : Opnd) (b : Opnd) (e : Bool) (f : Bool)
  /-- FCLE (R178) -/
  | fcle (c : Bool) (d : Opnd) (a : Opnd) (b : Opnd) (e : Bool) (f : Bool)
  /-- FCLASS (R179) -/
  | fclass (c : Bool) (d : Opnd) (a : Opnd) (e : Bool)
  /-- FRND (R180) -/
  | frnd (c : Bool) (d : Opnd) (a : Opnd) (b : Opnd) (e : Bool) (f : Bool)
  /-- CVTFI (R181) -/
  | cvtfi (c : Bool) (d : Opnd) (a : Opnd) (b : Opnd) (e : Bool) (f : Bool) (m : Bool)
  /-- CVTIF (R182) -/
  | cvtif (c : Bool) (d : Opnd) (a : Opnd) (e : Bool) (m : Bool)
  /-- CVTN (R183) -/
  | cvtn (c : Bool) (d : Opnd) (a : Opnd) (b : Opnd) (e : Bool) (f : Bool)
  /-- CVTW (R184) -/
  | cvtw (c : Bool) (d : Opnd) (a : Opnd) (b : Opnd) (e : Bool) (f : Bool)
  /-- CVTH (R185) -/
  | cvth (c : Bool) (d : Opnd) (a : Opnd) (b : Opnd) (e : Bool) (f : Bool) (m : Bool)
  /-- SETFMT (R186) -/
  | setfmt (c : Bool) (a : Opnd) (e : Bool)
  /-- GETFMT (R187) -/
  | getfmt (c : Bool) (d : Opnd)
  /-- RAND (R188) -/
  | rand (c : Bool) (d : Opnd) (a : Opnd) (b : Opnd) (e : Bool) (f : Bool) (m : Bool)
  /-- SHFL (R191) -/
  | shfl (c : Bool) (d : Opnd) (a : Opnd) (b : Opnd) (e : Bool) (f : Bool)
  /-- SHUP (R192) -/
  | shup (c : Bool) (d : Opnd) (a : Opnd) (b : Opnd) (e : Bool) (f : Bool)
  /-- SHDN (R192) -/
  | shdn (c : Bool) (d : Opnd) (a : Opnd) (b : Opnd) (e : Bool) (f : Bool)
  /-- BCAST (R193) -/
  | bcast (c : Bool) (d : Opnd) (a : Opnd) (b : Opnd) (e : Bool) (f : Bool)
  /-- VANY (R194) -/
  | vany (c : Bool) (d : Opnd) (a : Opnd) (e : Bool)
  /-- VBAL (R194) -/
  | vbal (c : Bool) (d : Opnd) (a : Opnd) (e : Bool)
  /-- RDADD (R195) -/
  | rdadd (c : Bool) (d : Opnd) (a : Opnd) (e : Bool) (m : Bool)
  /-- RDMIN (R195) -/
  | rdmin (c : Bool) (d : Opnd) (a : Opnd) (e : Bool) (m : Bool)
  /-- LD (R203) -/
  | ld (c : Bool) (d : Opnd) (b : Opnd) (s : BitVec 2) (o : Bool) (e : Bool) (n : BitVec 6)
  /-- LDSX (R203) -/
  | ldsx (c : Bool) (d : Opnd) (b : Opnd) (s : BitVec 2) (o : Bool) (e : Bool) (n : BitVec 6)
  /-- ST (R204) -/
  | st (c : Bool) (d : Opnd) (b : Opnd) (s : BitVec 2) (e : Bool) (n : BitVec 6)
  /-- LDSC (R206) -/
  | ldsc (c : Bool) (d : Opnd) (b : Opnd) (s : BitVec 2) (e : Bool) (n : BitVec 6)
  /-- STSC (R206) -/
  | stsc (c : Bool) (d : Opnd) (b : Opnd) (s : BitVec 2) (e : Bool) (n : BitVec 6)
  /-- AMO (R209) -/
  | amo (c : Bool) (d : Opnd) (b : Opnd) (s : BitVec 2) (e : Bool) (p : BitVec 4) (g : BitVec 2)
  /-- AMOR (R209) -/
  | amor (c : Bool) (d : Opnd) (b : Opnd) (s : BitVec 2) (e : Bool) (p : BitVec 4) (g : BitVec 2)
  /-- CAS (R211) -/
  | cas (c : Bool) (d : Opnd) (b : Opnd) (s : BitVec 2) (e : Bool) (g : BitVec 2)
  /-- FENCE (R213) -/
  | fence (c : Bool) (k : BitVec 2) (g : BitVec 3)
  /-- IFENCE (R214) -/
  | ifence (c : Bool)
  /-- PF (R215) -/
  | pf (c : Bool) (b : Opnd) (s : BitVec 2) (o : Bool) (e : Bool) (n : BitVec 6)
  /-- L1INV (R216) -/
  | l1inv (c : Bool)
  /-- SHTAKE (R218) -/
  | shtake (c : Bool) (d : Opnd) (a : Opnd) (m : Bool)
  /-- SHPUT (R219) -/
  | shput (c : Bool) (a : Opnd) (b : Opnd) (m : Bool)
  /-- SHQRY (R220) -/
  | shqry (c : Bool) (d : Opnd) (a : Opnd)
  /-- WAITE (R222) -/
  | waite (c : Bool) (a : Opnd) (b : Opnd)
  /-- TLD (R287) -/
  | tld (c : Bool) (t : BitVec 3) (l : Bool) (x : BitVec 5) (i : BitVec 5) (v : Opnd) (e : Bool) (f : BitVec 2)
  /-- TST (R287) -/
  | tst (c : Bool) (t : BitVec 3) (l : Bool) (x : BitVec 5) (i : BitVec 5) (v : Opnd) (e : Bool) (f : BitVec 2)
  /-- TMOV (R289) -/
  | tmov (c : Bool) (t : BitVec 3) (l : Bool) (x : BitVec 5) (i : BitVec 5) (v : Opnd) (e : Bool) (f : Bool)
  /-- ZCLR (R290) -/
  | zclr (c : Bool) (z : BitVec 3) (f : BitVec 3)
  /-- ZRD (R291) -/
  | zrd (c : Bool) (t : BitVec 3) (l : Bool) (x : BitVec 5) (i : BitVec 5) (v : Opnd) (f : BitVec 2)
  /-- ZXF (R293) -/
  | zxf (c : Bool) (z : BitVec 3) (b : BitVec 5) (e : Bool) (m : Bool)
  /-- MMA (R295) -/
  | mma (c : Bool) (z : BitVec 3) (a : BitVec 3) (b : BitVec 5) (s : BitVec 5) (f : BitVec 3) (e : Bool)
  /-- MMAS (R296) -/
  | mmas (c : Bool) (z : BitVec 3) (a : BitVec 3) (b : BitVec 5) (s : BitVec 5) (t : BitVec 3) (f : BitVec 3) (e : Bool)
  /-- MATRIX_K_STEP (R40) -/
  | matrixKStep (core : Nat) (sqs : List SquadKey)
  /-- SLD (R322) -/
  | sld (c : Bool) (d : Opnd) (a : Opnd) (b : Opnd) (e : Bool) (f : Bool) (m : Bool)
  /-- SST (R323) -/
  | sst (c : Bool) (d : Opnd) (a : Opnd) (b : Opnd) (e : Bool) (f : Bool) (m : Bool)
  /-- SCUR (R325) -/
  | scur (c : Bool) (d : Opnd) (a : Opnd) (b : Opnd) (e : Bool) (f : Bool)
  /-- SNXT (R326) -/
  | snxt (c : Bool) (d : Opnd) (a : Opnd) (b : Opnd) (e : Bool) (f : Bool)
  /-- SISX (R327) -/
  | sisx (c : Bool) (d : Opnd) (a : Opnd) (b : Opnd) (e : Bool) (f : Bool)
  /-- SINGLE_KEY_OPERATION (R309) -/
  | singleKeyOperation (op : KeyOp)
  /-- ENG_STK (R258) -/
  | engStk (c : Bool) (d : Opnd) (a : BitVec 5) (b : BitVec 5)
  /-- ENG_CPY (R258) -/
  | engCpy (c : Bool) (d : Opnd) (a : BitVec 5) (b : BitVec 5)
  /-- ENG_DENSE (R314) -/
  | engDense (c : Bool) (d : Opnd) (a : BitVec 5) (b : BitVec 5)
  /-- ENG_SPAR (R315) -/
  | engSpar (c : Bool) (d : Opnd) (a : BitVec 5) (b : BitVec 5)
  /-- ENG_DSP (R260) -/
  | engDsp (c : Bool) (d : Opnd) (a : BitVec 5)
  /-- ENG_CMB (R261) -/
  | engCmb (c : Bool) (d : Opnd) (a : BitVec 5) (b : BitVec 5)
  /-- ENG_QAPP (R329) -/
  | engQapp (c : Bool) (d : Opnd) (a : BitVec 5) (b : BitVec 5)
  /-- ENG_GCOND (R332) -/
  | engGcond (c : Bool) (d : Opnd) (a : BitVec 5) (b : BitVec 5)
  /-- ENG_LVLW (R339) -/
  | engLvlw (c : Bool) (d : Opnd) (a : BitVec 5) (b : BitVec 5)
  /-- ENG_CANCEL (R340) -/
  | engCancel (c : Bool) (d : Opnd) (a : BitVec 5) (b : BitVec 5)
  /-- ENG_HASH (R400) -/
  | engHash (c : Bool) (d : Opnd) (a : BitVec 5)
  /-- ENG_KGROW (R306) -/
  | engKgrow (c : Bool) (d : Opnd) (a : BitVec 5) (b : BitVec 5)
  /-- ENGINE_SHOE_PUBLISH (R259) -/
  | engineShoePublish (cmd : Nat)
  /-- TICKET_FILL (R262) -/
  | ticketFill (cmd : Nat)
  /-- BAR_ARRIVE (R224) -/
  | barArrive (c : Bool) (d : Opnd) (a : BitVec 5) (n : BitVec 4)
  /-- BAR_WAIT (R225) -/
  | barWait (c : Bool) (b : BitVec 5) (n : BitVec 4)
  /-- BAR_SYNC (R225) -/
  | barSync (c : Bool) (a : BitVec 5) (n : BitVec 4)
  /-- BAR_SYNC_COMPLETION (R225) -/
  | barSyncCompletion (k : SquadKey)
  /-- SYS_RDSR (R138) -/
  | sysRdsr (c : Bool) (d : Opnd) (a : BitVec 5) (b : BitVec 5)
  /-- SYS_WRSR (R138) -/
  | sysWrsr (c : Bool) (d : Opnd) (a : BitVec 5) (b : BitVec 5)
  /-- SHOE_CONFIGURE (R217) -/
  | shoeConfigure (k : SquadKey) (n : BitVec 4) (x : DWord)
  /-- SYS_HALT (R139) -/
  | sysHalt (c : Bool)
  /-- PRODUCER_WRITE (R64) -/
  | producerWrite (k : SquadKey) (seq : Nat)
  /-- MERGE_STEP (R231) -/
  | mergeStep (core : Nat) (sqs : List SquadKey)
  /-- SHOE_TAKE_SERVE (R218) -/
  | shoeTakeServe (t : TeamKey) (n : BitVec 4) (free : Bool)
  /-- RUN_ISSUE (R342) -/
  | runIssue (core : Nat)
  /-- SQUAD_DEMOTION (R342) -/
  | squadDemotion (k : SquadKey)
  /-- SQUAD_PROMOTION (R342) -/
  | squadPromotion (k : SquadKey)
  /-- SQUAD_RETIREMENT (R96) -/
  | squadRetirement (k : SquadKey)
  /-- SQUAD_STOP (R340) -/
  | squadStop (k : SquadKey)
  /-- POWER_TOKEN_PASS (R280) -/
  | powerTokenPass (die : Nat) (cluster : Nat)
  /-- SUBARRAY_POWER_GATE (R281) -/
  | subarrayPowerGate (core : Nat) (sub : Nat)
  /-- SUBARRAY_WAKE (R281) -/
  | subarrayWake (core : Nat) (sub : Nat)
  /-- QUEUE_RECORD_TAKE (R329) -/
  | queueRecordTake (graph : Nat) (node : Nat)
  /-- KERNEL_NODE_FIRE (R332) -/
  | kernelNodeFire (graph : Nat) (node : Nat)
  /-- RECORD_NODE_FIRE (R332) -/
  | recordNodeFire (graph : Nat) (node : Nat)
  /-- RECORD_NODE_TIMEOUT (R332) -/
  | recordNodeTimeout (graph : Nat) (node : Nat)
  /-- CONDITIONAL_NODE_FIRE (R332) -/
  | conditionalNodeFire (graph : Nat) (node : Nat)
  /-- WHILE_NODE_FIRE (R332) -/
  | whileNodeFire (graph : Nat) (node : Nat)
  /-- LAUNCH_START (R336) -/
  | launchStart (req : LaunchRequest)
  /-- TEAM_START (R335) -/
  | teamStart (lid : Nat)
  /-- LAUNCH_COMPLETION (R337) -/
  | launchCompletion (r : CompletionRequest)
  /-- JOB_COMPLETION (R330) -/
  | jobCompletion (job : Nat)
  /-- GRAPH_REGISTRATION (R333) -/
  | graphRegistration (asid : Nat) (base : Nat) (count : Nat) (form : GraphForm)
  /-- PREEMPTION_REQUEST (R347) -/
  | preemptionRequest (lid : Nat) (teams : Option (List Nat))
  /-- DRAIN_LIMIT_EXPIRY (R348) -/
  | drainLimitExpiry (t : TeamKey)
  /-- TEAM_CONTEXT_SAVE (R350) -/
  | teamContextSave (r : SaveRequest)
  /-- TEAM_RESUME (R353) -/
  | teamResume (t : TeamKey) (core : Nat)
  /-- PAGE_WALK (R358) -/
  | pageWalk (core : Nat) (asid : Nat) (va : Nat)
  /-- SHOOT_DOWN (R358) -/
  | shootDown (asids : Option (List Nat)) (lo : Nat) (hi : Nat)
  /-- PROMOTION (R359) -/
  | promotion (die : Nat) (asid : Nat) (va : Nat)
  /-- MIGRATION_REQUEST (R361) -/
  | migrationRequest (asid : Nat) (va : Nat) (frame : Nat)
  /-- MIGRATION_COMPLETION (R361) -/
  | migrationCompletion (asid : Nat) (va : Nat)
  /-- HOST_MEMORY_ACCESS (R238) -/
  | hostMemoryAccess (pa : Nat) (op : OuterOp)
  /-- PEER_ACCESS (R238) -/
  | peerAccess (port : Nat) (pa : Nat) (op : OuterOp)
  /-- LINK_PORT_DOWN (R393) -/
  | linkPortDown (port : Nat)
  /-- THROTTLE (R394) -/
  | throttle (ntok : BitVec 16) (limit : LimitHit) (clocks : List Nat)
  /-- RESET (R396) -/
  | reset
  /-- FIRMWARE_READY (R396) -/
  | firmwareReady
  /-- ATTESTATION_REPORT (R397) -/
  | attestationReport (nonce : List Byte)
  /-- BOOTST_READ (R388) -/
  | bootstRead
  /-- NOTIFICATION_RING_SETUP (R389) -/
  | notificationRingSetup (base : DWord) (size : DWord)
  /-- MGMT_REGISTER_WRITE (R388) -/
  | mgmtRegisterWrite (reg : MgmtReg) (x : DWord)
  /-- CORE_COUNTER_CLEAR (R101) -/
  | coreCounterClear (core : Nat)
  /-- OBJECT_LOAD (R375) -/
  | objectLoad (req : LoadRequest)
  /-- OBJECT_UNLOAD (R377) -/
  | objectUnload (obj : Nat)
  /-- DEBUG_STOP (R399) -/
  | debugStop (target : StopTarget)
  /-- CAUSAL_EXPERIMENT (R401) -/
  | causalExperiment (op : ExperimentOp)
  /-- WAIT_FOR_GRAPH_SAMPLE (R402) -/
  | waitForGraphSample
  /-- REGISTER_PARITY_FAILURE (R68) -/
  | registerParityFailure (target : ParityTarget)
  /-- DIE_L2_ACCEPTANCE (R233) -/
  | dieL2Acceptance (core : Nat) (stamp : Nat)
  /-- HOME_ACCEPTANCE (R227) -/
  | homeAcceptance (die : Nat) (stamp : Nat)
  /-- LINK_RETRAIN_COMPLETE (R393) -/
  | linkRetrainComplete (port : Nat)
deriving DecidableEq, Repr, Inhabited

end Sys2Proof
end

