-- ==== Sys2Proof/Decode.lean ====
section
/-! DEFINITION. The decoder of instruction words (R111 to R123) and the encoder from the same tables. -/

namespace Sys2Proof

/-- Why a word is no instruction word, before the checks on operand codes and classes (Table 9-9). -/
inductive Reject where
  /-- a zero field is not zero (R112, R114) -/
  | zeroField
  /-- a function field holds a reserved value (R120 to R122) -/
  | reservedFunction
deriving DecidableEq, Repr

/-- The operand that a seven-bit code names (Table 9-2). -/
def Opnd.ofCode (c : BitVec 7) : Opnd :=
  if h : c.toNat < 64 then .v ⟨c.toNat, h⟩
  else if h : c.toNat < 96 then .s ⟨c.toNat - 64, by omega⟩
  else if h : c.toNat < 112 then .a ⟨c.toNat - 96, by omega⟩
  else if h : c.toNat < 120 then .p ⟨c.toNat - 112, by omega⟩
  else match c.toNat with
    | 120 => .zero
    | 121 => .lid
    | 122 => .sqid
    | 123 => .tmid
    | 124 => .em
    | 125 => .br
    | 126 => .fmt
    | _ => .lclk

/-- The code that names an operand (Table 9-2). -/
def Opnd.code : Opnd → BitVec 7
  | .v n => BitVec.ofNat 7 n.val
  | .s n => BitVec.ofNat 7 (64 + n.val)
  | .a n => BitVec.ofNat 7 (96 + n.val)
  | .p n => BitVec.ofNat 7 (112 + n.val)
  | .zero => 120#7
  | .lid => 121#7
  | .sqid => 122#7
  | .tmid => 123#7
  | .em => 124#7
  | .br => 125#7
  | .fmt => 126#7
  | .lclk => 127#7

/-! The nine formats (Table 9-3), bit 31 leftmost. -/

/-- Format W3 (Table 9-3). -/
def fmtW3 (c : Bool) (op : BitVec 7) (d : BitVec 7) (a : BitVec 7) (b : BitVec 7) (e : Bool) (f : Bool) (m : Bool) : Word :=
  (((((((BitVec.ofBool c) ++ op) ++ d) ++ a) ++ b) ++ BitVec.ofBool e) ++ BitVec.ofBool f) ++ BitVec.ofBool m

/-- Format WI (Table 9-3). -/
def fmtWI (c : Bool) (op : BitVec 7) (d : BitVec 7) (a : BitVec 7) (i : BitVec 10) : Word :=
  ((((BitVec.ofBool c) ++ op) ++ d) ++ a) ++ i

/-- Format WK (Table 9-3). -/
def fmtWK (c : Bool) (op : BitVec 7) (d : BitVec 7) (i : BitVec 17) : Word :=
  (((BitVec.ofBool c) ++ op) ++ d) ++ i

/-- Format WM (Table 9-3). -/
def fmtWM (c : Bool) (op : BitVec 7) (d : BitVec 7) (b : BitVec 7) (z : BitVec 2) (o : Bool) (e : Bool) (n : BitVec 6) : Word :=
  (((((((BitVec.ofBool c) ++ op) ++ d) ++ b) ++ z) ++ BitVec.ofBool o) ++ BitVec.ofBool e) ++ n

/-- Format WT (Table 9-3). -/
def fmtWT (c : Bool) (op : BitVec 7) (t : BitVec 3) (l : Bool) (x : BitVec 5) (i : BitVec 5) (v : BitVec 7) (e : Bool) (f : BitVec 2) : Word :=
  ((((((((BitVec.ofBool c) ++ op) ++ t) ++ BitVec.ofBool l) ++ x) ++ i) ++ v) ++ BitVec.ofBool e) ++ f

/-- Format WX (Table 9-3). -/
def fmtWX (c : Bool) (op : BitVec 7) (z : BitVec 3) (a : BitVec 3) (b : BitVec 5) (s : BitVec 5) (t : BitVec 3) (f : BitVec 3) (e : Bool) (m : Bool) : Word :=
  (((((((((BitVec.ofBool c) ++ op) ++ z) ++ a) ++ b) ++ s) ++ t) ++ f) ++ BitVec.ofBool e) ++ BitVec.ofBool m

/-- Format WB (Table 9-3). -/
def fmtWB (c : Bool) (op : BitVec 7) (p : BitVec 7) (t : BitVec 6) (f : BitVec 6) (k : BitVec 4) (e : Bool) : Word :=
  ((((((BitVec.ofBool c) ++ op) ++ p) ++ t) ++ f) ++ k) ++ BitVec.ofBool e

/-- Format WS (Table 9-3). -/
def fmtWS (c : Bool) (op : BitVec 7) (s : BitVec 8) (z : BitVec 16) : Word :=
  (((BitVec.ofBool c) ++ op) ++ s) ++ z

/-- Format WE (Table 9-3). -/
def fmtWE (c : Bool) (op : BitVec 7) (d : BitVec 7) (a : BitVec 5) (b : BitVec 5) (n : BitVec 7) : Word :=
  (((((BitVec.ofBool c) ++ op) ++ d) ++ a) ++ b) ++ n

/-- The instruction a word stands for, or why it stands for none (R117 to R123). Checks that look at
operand codes and classes are `Instr.wf`'s. -/
def decode (w : Word) : Except Reject Instr :=
  match (w.extractLsb' 24 7).toNat with
  | 0x00 => if w.extractLsb' 16 8 = 0#8 ∧ w.extractLsb' 0 16 = 0#16 then .ok (.nop (w.getLsbD 31)) else .error .zeroField
  | 0x01 => if w.extractLsb' 0 16 = 0#16 then .ok (.seg ⟨w.getLsbD 31, w.extractLsb' 16 8⟩) else .error .zeroField
  | 0x02 => if w.extractLsb' 17 7 = 0#7 ∧ w.extractLsb' 5 6 = 0#6 ∧ w.extractLsb' 1 4 = 0#4 ∧ w.getLsbD 0 = false then .ok (.nxt (w.getLsbD 31) (w.extractLsb' 11 6)) else .error .zeroField
  | 0x03 => if w.extractLsb' 1 4 = 0#4 then .ok (.nxtc (w.getLsbD 31) (.ofCode (w.extractLsb' 17 7)) (w.extractLsb' 11 6) (w.extractLsb' 5 6) (w.getLsbD 0)) else .error .zeroField
  | 0x04 => if w.extractLsb' 11 6 = 0#6 ∧ w.extractLsb' 5 6 = 0#6 ∧ w.extractLsb' 1 4 = 0#4 then .ok (.nxti (w.getLsbD 31) (.ofCode (w.extractLsb' 17 7)) (w.getLsbD 0)) else .error .zeroField
  | 0x05 => if w.extractLsb' 16 8 = 0#8 ∧ w.extractLsb' 0 16 = 0#16 then .ok .deal else .error .zeroField
  | 0x06 => if w.extractLsb' 16 8 = 0#8 ∧ w.extractLsb' 0 16 = 0#16 then .ok (.fold (w.getLsbD 31)) else .error .zeroField
  | 0x07 => if w.extractLsb' 17 7 = 0#7 then .ok (.call (w.getLsbD 31) (w.extractLsb' 0 17)) else .error .zeroField
  | 0x08 => .ok (.callp (w.getLsbD 31) (.ofCode (w.extractLsb' 17 7)) (w.extractLsb' 0 17))
  | 0x09 => if w.extractLsb' 16 8 = 0#8 ∧ w.extractLsb' 0 16 = 0#16 then .ok (.ret (w.getLsbD 31)) else .error .zeroField
  | 0x0A => if w.extractLsb' 17 7 = 0#7 then .ok (.trap (w.getLsbD 31) (w.extractLsb' 0 17)) else .error .zeroField
  | 0x0B => if w.extractLsb' 17 7 = 0#7 ∧ w.extractLsb' 11 6 = 0#6 ∧ w.extractLsb' 5 6 = 0#6 ∧ w.getLsbD 0 = false then .ok (.eret (w.getLsbD 31) (w.extractLsb' 1 4)) else .error .zeroField
  | 0x0C => if w.extractLsb' 17 7 = 0#7 then .ok (.brk (w.getLsbD 31) (w.extractLsb' 0 17)) else .error .zeroField
  | 0x0D => if w.extractLsb' 17 7 = 0#7 ∧ w.extractLsb' 3 7 = 0#7 ∧ w.getLsbD 1 = false ∧ w.getLsbD 0 = false then .ok (.emset (w.getLsbD 31) (.ofCode (w.extractLsb' 10 7)) (w.getLsbD 2)) else .error .zeroField
  | 0x0E => if w.extractLsb' 10 7 = 0#7 ∧ w.extractLsb' 3 7 = 0#7 ∧ w.getLsbD 2 = false ∧ w.getLsbD 1 = false then .ok (.emget (w.getLsbD 31) (.ofCode (w.extractLsb' 17 7)) (w.getLsbD 0)) else .error .zeroField
  | 0x0F => if w.extractLsb' 16 8 = 0#8 ∧ w.extractLsb' 0 16 = 0#16 then .ok (.yield (w.getLsbD 31)) else .error .zeroField
  | 0x10 => .ok (.iadd (w.getLsbD 31) (.ofCode (w.extractLsb' 17 7)) (.ofCode (w.extractLsb' 10 7)) (.ofCode (w.extractLsb' 3 7)) (w.getLsbD 2) (w.getLsbD 1) (w.getLsbD 0))
  | 0x11 => .ok (.isub (w.getLsbD 31) (.ofCode (w.extractLsb' 17 7)) (.ofCode (w.extractLsb' 10 7)) (.ofCode (w.extractLsb' 3 7)) (w.getLsbD 2) (w.getLsbD 1) (w.getLsbD 0))
  | 0x12 => .ok (.imul (w.getLsbD 31) (.ofCode (w.extractLsb' 17 7)) (.ofCode (w.extractLsb' 10 7)) (.ofCode (w.extractLsb' 3 7)) (w.getLsbD 2) (w.getLsbD 1) (w.getLsbD 0))
  | 0x13 => .ok (.imulh (w.getLsbD 31) (.ofCode (w.extractLsb' 17 7)) (.ofCode (w.extractLsb' 10 7)) (.ofCode (w.extractLsb' 3 7)) (w.getLsbD 2) (w.getLsbD 1) (w.getLsbD 0))
  | 0x14 => .ok (.imad (w.getLsbD 31) (.ofCode (w.extractLsb' 17 7)) (.ofCode (w.extractLsb' 10 7)) (.ofCode (w.extractLsb' 3 7)) (w.getLsbD 2) (w.getLsbD 1) (w.getLsbD 0))
  | 0x15 => .ok (.imin (w.getLsbD 31) (.ofCode (w.extractLsb' 17 7)) (.ofCode (w.extractLsb' 10 7)) (.ofCode (w.extractLsb' 3 7)) (w.getLsbD 2) (w.getLsbD 1) (w.getLsbD 0))
  | 0x16 => .ok (.imax (w.getLsbD 31) (.ofCode (w.extractLsb' 17 7)) (.ofCode (w.extractLsb' 10 7)) (.ofCode (w.extractLsb' 3 7)) (w.getLsbD 2) (w.getLsbD 1) (w.getLsbD 0))
  | 0x17 => if w.extractLsb' 3 7 = 0#7 ∧ w.getLsbD 1 = false then .ok (.iabs (w.getLsbD 31) (.ofCode (w.extractLsb' 17 7)) (.ofCode (w.extractLsb' 10 7)) (w.getLsbD 2) (w.getLsbD 0)) else .error .zeroField
  | 0x18 => if w.getLsbD 0 = false then .ok (.and (w.getLsbD 31) (.ofCode (w.extractLsb' 17 7)) (.ofCode (w.extractLsb' 10 7)) (.ofCode (w.extractLsb' 3 7)) (w.getLsbD 2) (w.getLsbD 1)) else .error .zeroField
  | 0x19 => if w.getLsbD 0 = false then .ok (.or (w.getLsbD 31) (.ofCode (w.extractLsb' 17 7)) (.ofCode (w.extractLsb' 10 7)) (.ofCode (w.extractLsb' 3 7)) (w.getLsbD 2) (w.getLsbD 1)) else .error .zeroField
  | 0x1A => if w.getLsbD 0 = false then .ok (.xor (w.getLsbD 31) (.ofCode (w.extractLsb' 17 7)) (.ofCode (w.extractLsb' 10 7)) (.ofCode (w.extractLsb' 3 7)) (w.getLsbD 2) (w.getLsbD 1)) else .error .zeroField
  | 0x1B => .ok (.shl (w.getLsbD 31) (.ofCode (w.extractLsb' 17 7)) (.ofCode (w.extractLsb' 10 7)) (.ofCode (w.extractLsb' 3 7)) (w.getLsbD 2) (w.getLsbD 1) (w.getLsbD 0))
  | 0x1C => if w.getLsbD 0 = false then .ok (.shr (w.getLsbD 31) (.ofCode (w.extractLsb' 17 7)) (.ofCode (w.extractLsb' 10 7)) (.ofCode (w.extractLsb' 3 7)) (w.getLsbD 2) (w.getLsbD 1)) else .error .zeroField
  | 0x1D => if w.getLsbD 0 = false then .ok (.sar (w.getLsbD 31) (.ofCode (w.extractLsb' 17 7)) (.ofCode (w.extractLsb' 10 7)) (.ofCode (w.extractLsb' 3 7)) (w.getLsbD 2) (w.getLsbD 1)) else .error .zeroField
  | 0x1E => if w.getLsbD 0 = false then .ok (.iaddmin (w.getLsbD 31) (.ofCode (w.extractLsb' 17 7)) (.ofCode (w.extractLsb' 10 7)) (.ofCode (w.extractLsb' 3 7)) (w.getLsbD 2) (w.getLsbD 1)) else .error .zeroField
  | 0x1F => if w.getLsbD 0 = false then .ok (.cmov (w.getLsbD 31) (.ofCode (w.extractLsb' 17 7)) (.ofCode (w.extractLsb' 10 7)) (.ofCode (w.extractLsb' 3 7)) (w.getLsbD 2) (w.getLsbD 1)) else .error .zeroField
  | 0x20 => if w.getLsbD 0 = false then .ok (.iceq (w.getLsbD 31) (.ofCode (w.extractLsb' 17 7)) (.ofCode (w.extractLsb' 10 7)) (.ofCode (w.extractLsb' 3 7)) (w.getLsbD 2) (w.getLsbD 1)) else .error .zeroField
  | 0x21 => if w.getLsbD 0 = false then .ok (.icne (w.getLsbD 31) (.ofCode (w.extractLsb' 17 7)) (.ofCode (w.extractLsb' 10 7)) (.ofCode (w.extractLsb' 3 7)) (w.getLsbD 2) (w.getLsbD 1)) else .error .zeroField
  | 0x22 => if w.getLsbD 0 = false then .ok (.iclt (w.getLsbD 31) (.ofCode (w.extractLsb' 17 7)) (.ofCode (w.extractLsb' 10 7)) (.ofCode (w.extractLsb' 3 7)) (w.getLsbD 2) (w.getLsbD 1)) else .error .zeroField
  | 0x23 => if w.getLsbD 0 = false then .ok (.icle (w.getLsbD 31) (.ofCode (w.extractLsb' 17 7)) (.ofCode (w.extractLsb' 10 7)) (.ofCode (w.extractLsb' 3 7)) (w.getLsbD 2) (w.getLsbD 1)) else .error .zeroField
  | 0x24 => if w.getLsbD 0 = false then .ok (.icltu (w.getLsbD 31) (.ofCode (w.extractLsb' 17 7)) (.ofCode (w.extractLsb' 10 7)) (.ofCode (w.extractLsb' 3 7)) (w.getLsbD 2) (w.getLsbD 1)) else .error .zeroField
  | 0x25 => if w.getLsbD 0 = false then .ok (.icleu (w.getLsbD 31) (.ofCode (w.extractLsb' 17 7)) (.ofCode (w.extractLsb' 10 7)) (.ofCode (w.extractLsb' 3 7)) (w.getLsbD 2) (w.getLsbD 1)) else .error .zeroField
  | 0x26 => if w.extractLsb' 3 7 = 0#7 ∧ w.getLsbD 1 = false ∧ w.getLsbD 0 = false then .ok (.popc (w.getLsbD 31) (.ofCode (w.extractLsb' 17 7)) (.ofCode (w.extractLsb' 10 7)) (w.getLsbD 2)) else .error .zeroField
  | 0x27 => if w.extractLsb' 3 7 = 0#7 ∧ w.getLsbD 1 = false ∧ w.getLsbD 0 = false then .ok (.clz (w.getLsbD 31) (.ofCode (w.extractLsb' 17 7)) (.ofCode (w.extractLsb' 10 7)) (w.getLsbD 2)) else .error .zeroField
  | 0x28 => if w.extractLsb' 3 7 = 0#7 ∧ w.getLsbD 1 = false ∧ w.getLsbD 0 = false then .ok (.brev (w.getLsbD 31) (.ofCode (w.extractLsb' 17 7)) (.ofCode (w.extractLsb' 10 7)) (w.getLsbD 2)) else .error .zeroField
  | 0x29 => .ok (.bfx (w.getLsbD 31) (.ofCode (w.extractLsb' 17 7)) (.ofCode (w.extractLsb' 10 7)) (.ofCode (w.extractLsb' 3 7)) (w.getLsbD 2) (w.getLsbD 1) (w.getLsbD 0))
  | 0x2A => if w.getLsbD 0 = false then .ok (.bfi (w.getLsbD 31) (.ofCode (w.extractLsb' 17 7)) (.ofCode (w.extractLsb' 10 7)) (.ofCode (w.extractLsb' 3 7)) (w.getLsbD 2) (w.getLsbD 1)) else .error .zeroField
  | 0x2B => .ok (.idiv (w.getLsbD 31) (.ofCode (w.extractLsb' 17 7)) (.ofCode (w.extractLsb' 10 7)) (.ofCode (w.extractLsb' 3 7)) (w.getLsbD 2) (w.getLsbD 1) (w.getLsbD 0))
  | 0x2C => .ok (.irem (w.getLsbD 31) (.ofCode (w.extractLsb' 17 7)) (.ofCode (w.extractLsb' 10 7)) (.ofCode (w.extractLsb' 3 7)) (w.getLsbD 2) (w.getLsbD 1) (w.getLsbD 0))
  | 0x2D => if w.extractLsb' 3 7 = 0#7 ∧ w.getLsbD 1 = false then .ok (.aget (w.getLsbD 31) (.ofCode (w.extractLsb' 17 7)) (.ofCode (w.extractLsb' 10 7)) (w.getLsbD 2) (w.getLsbD 0)) else .error .zeroField
  | 0x2E => if w.getLsbD 0 = false then .ok (.rget (w.getLsbD 31) (.ofCode (w.extractLsb' 17 7)) (.ofCode (w.extractLsb' 10 7)) (.ofCode (w.extractLsb' 3 7)) (w.getLsbD 2) (w.getLsbD 1)) else .error .zeroField
  | 0x2F => if w.getLsbD 2 = false ∧ w.getLsbD 0 = false then .ok (.rput (w.getLsbD 31) (.ofCode (w.extractLsb' 17 7)) (.ofCode (w.extractLsb' 10 7)) (.ofCode (w.extractLsb' 3 7)) (w.getLsbD 1)) else .error .zeroField
  | 0x30 => .ok (.iaddi (w.getLsbD 31) (.ofCode (w.extractLsb' 17 7)) (.ofCode (w.extractLsb' 10 7)) (w.extractLsb' 0 10))
  | 0x31 => .ok (.andi (w.getLsbD 31) (.ofCode (w.extractLsb' 17 7)) (.ofCode (w.extractLsb' 10 7)) (w.extractLsb' 0 10))
  | 0x32 => .ok (.ori (w.getLsbD 31) (.ofCode (w.extractLsb' 17 7)) (.ofCode (w.extractLsb' 10 7)) (w.extractLsb' 0 10))
  | 0x33 => .ok (.xori (w.getLsbD 31) (.ofCode (w.extractLsb' 17 7)) (.ofCode (w.extractLsb' 10 7)) (w.extractLsb' 0 10))
  | 0x34 => .ok (.shli (w.getLsbD 31) (.ofCode (w.extractLsb' 17 7)) (.ofCode (w.extractLsb' 10 7)) (w.extractLsb' 0 10))
  | 0x35 => .ok (.shri (w.getLsbD 31) (.ofCode (w.extractLsb' 17 7)) (.ofCode (w.extractLsb' 10 7)) (w.extractLsb' 0 10))
  | 0x36 => .ok (.sari (w.getLsbD 31) (.ofCode (w.extractLsb' 17 7)) (.ofCode (w.extractLsb' 10 7)) (w.extractLsb' 0 10))
  | 0x37 => .ok (.iceqi (w.getLsbD 31) (.ofCode (w.extractLsb' 17 7)) (.ofCode (w.extractLsb' 10 7)) (w.extractLsb' 0 10))
  | 0x38 => .ok (.iclti (w.getLsbD 31) (.ofCode (w.extractLsb' 17 7)) (.ofCode (w.extractLsb' 10 7)) (w.extractLsb' 0 10))
  | 0x39 => .ok (.icltui (w.getLsbD 31) (.ofCode (w.extractLsb' 17 7)) (.ofCode (w.extractLsb' 10 7)) (w.extractLsb' 0 10))
  | 0x3A => .ok (.movk (w.getLsbD 31) (.ofCode (w.extractLsb' 17 7)) (w.extractLsb' 0 17))
  | 0x3B => if w.getLsbD 16 = false then .ok (.movkh (w.getLsbD 31) (.ofCode (w.extractLsb' 17 7)) (w.extractLsb' 0 16)) else .error .zeroField
  | 0x3C => .ok (.prom (w.getLsbD 31) (.ofCode (w.extractLsb' 17 7)) (.ofCode (w.extractLsb' 10 7)) (.ofCode (w.extractLsb' 3 7)) (w.getLsbD 2) (w.getLsbD 1) (w.getLsbD 0))
  | 0x3D => if w.extractLsb' 3 7 = 0#7 ∧ w.getLsbD 1 = false then .ok (.demu (w.getLsbD 31) (.ofCode (w.extractLsb' 17 7)) (.ofCode (w.extractLsb' 10 7)) (w.getLsbD 2) (w.getLsbD 0)) else .error .zeroField
  | 0x3E => if w.getLsbD 0 = false then .ok (.uniq (w.getLsbD 31) (.ofCode (w.extractLsb' 17 7)) (.ofCode (w.extractLsb' 10 7)) (.ofCode (w.extractLsb' 3 7)) (w.getLsbD 2) (w.getLsbD 1)) else .error .zeroField
  | 0x3F => if w.extractLsb' 10 7 = 0#7 ∧ w.extractLsb' 3 7 = 0#7 ∧ w.getLsbD 2 = false ∧ w.getLsbD 1 = false then .ok (.sete (w.getLsbD 31) (.ofCode (w.extractLsb' 17 7)) (w.getLsbD 0)) else .error .zeroField
  | 0x40 => if w.getLsbD 0 = false then .ok (.fadd (w.getLsbD 31) (.ofCode (w.extractLsb' 17 7)) (.ofCode (w.extractLsb' 10 7)) (.ofCode (w.extractLsb' 3 7)) (w.getLsbD 2) (w.getLsbD 1)) else .error .zeroField
  | 0x41 => if w.getLsbD 0 = false then .ok (.fsub (w.getLsbD 31) (.ofCode (w.extractLsb' 17 7)) (.ofCode (w.extractLsb' 10 7)) (.ofCode (w.extractLsb' 3 7)) (w.getLsbD 2) (w.getLsbD 1)) else .error .zeroField
  | 0x42 => if w.getLsbD 0 = false then .ok (.fmul (w.getLsbD 31) (.ofCode (w.extractLsb' 17 7)) (.ofCode (w.extractLsb' 10 7)) (.ofCode (w.extractLsb' 3 7)) (w.getLsbD 2) (w.getLsbD 1)) else .error .zeroField
  | 0x43 => .ok (.ffma (w.getLsbD 31) (.ofCode (w.extractLsb' 17 7)) (.ofCode (w.extractLsb' 10 7)) (.ofCode (w.extractLsb' 3 7)) (w.getLsbD 2) (w.getLsbD 1) (w.getLsbD 0))
  | 0x44 => if w.getLsbD 0 = false then .ok (.fmin (w.getLsbD 31) (.ofCode (w.extractLsb' 17 7)) (.ofCode (w.extractLsb' 10 7)) (.ofCode (w.extractLsb' 3 7)) (w.getLsbD 2) (w.getLsbD 1)) else .error .zeroField
  | 0x45 => if w.getLsbD 0 = false then .ok (.fmax (w.getLsbD 31) (.ofCode (w.extractLsb' 17 7)) (.ofCode (w.extractLsb' 10 7)) (.ofCode (w.extractLsb' 3 7)) (w.getLsbD 2) (w.getLsbD 1)) else .error .zeroField
  | 0x46 => if w.extractLsb' 3 7 = 0#7 ∧ w.getLsbD 1 = false ∧ w.getLsbD 0 = false then .ok (.frcp (w.getLsbD 31) (.ofCode (w.extractLsb' 17 7)) (.ofCode (w.extractLsb' 10 7)) (w.getLsbD 2)) else .error .zeroField
  | 0x47 => if w.extractLsb' 3 7 = 0#7 ∧ w.getLsbD 1 = false ∧ w.getLsbD 0 = false then .ok (.frsq (w.getLsbD 31) (.ofCode (w.extractLsb' 17 7)) (.ofCode (w.extractLsb' 10 7)) (w.getLsbD 2)) else .error .zeroField
  | 0x48 => if w.extractLsb' 3 7 = 0#7 ∧ w.getLsbD 1 = false ∧ w.getLsbD 0 = false then .ok (.fsqrt (w.getLsbD 31) (.ofCode (w.extractLsb' 17 7)) (.ofCode (w.extractLsb' 10 7)) (w.getLsbD 2)) else .error .zeroField
  | 0x49 => if w.extractLsb' 3 7 = 0#7 ∧ w.getLsbD 1 = false ∧ w.getLsbD 0 = false then .ok (.fexp2 (w.getLsbD 31) (.ofCode (w.extractLsb' 17 7)) (.ofCode (w.extractLsb' 10 7)) (w.getLsbD 2)) else .error .zeroField
  | 0x4A => if w.extractLsb' 3 7 = 0#7 ∧ w.getLsbD 1 = false ∧ w.getLsbD 0 = false then .ok (.flog2 (w.getLsbD 31) (.ofCode (w.extractLsb' 17 7)) (.ofCode (w.extractLsb' 10 7)) (w.getLsbD 2)) else .error .zeroField
  | 0x4B => if w.getLsbD 0 = false then .ok (.fceq (w.getLsbD 31) (.ofCode (w.extractLsb' 17 7)) (.ofCode (w.extractLsb' 10 7)) (.ofCode (w.extractLsb' 3 7)) (w.getLsbD 2) (w.getLsbD 1)) else .error .zeroField
  | 0x4C => if w.getLsbD 0 = false then .ok (.fclt (w.getLsbD 31) (.ofCode (w.extractLsb' 17 7)) (.ofCode (w.extractLsb' 10 7)) (.ofCode (w.extractLsb' 3 7)) (w.getLsbD 2) (w.getLsbD 1)) else .error .zeroField
  | 0x4D => if w.getLsbD 0 = false then .ok (.fcle (w.getLsbD 31) (.ofCode (w.extractLsb' 17 7)) (.ofCode (w.extractLsb' 10 7)) (.ofCode (w.extractLsb' 3 7)) (w.getLsbD 2) (w.getLsbD 1)) else .error .zeroField
  | 0x4E => if w.extractLsb' 3 7 = 0#7 ∧ w.getLsbD 1 = false ∧ w.getLsbD 0 = false then .ok (.fclass (w.getLsbD 31) (.ofCode (w.extractLsb' 17 7)) (.ofCode (w.extractLsb' 10 7)) (w.getLsbD 2)) else .error .zeroField
  | 0x4F => if w.getLsbD 0 = false then .ok (.frnd (w.getLsbD 31) (.ofCode (w.extractLsb' 17 7)) (.ofCode (w.extractLsb' 10 7)) (.ofCode (w.extractLsb' 3 7)) (w.getLsbD 2) (w.getLsbD 1)) else .error .zeroField
  | 0x50 => .ok (.cvtfi (w.getLsbD 31) (.ofCode (w.extractLsb' 17 7)) (.ofCode (w.extractLsb' 10 7)) (.ofCode (w.extractLsb' 3 7)) (w.getLsbD 2) (w.getLsbD 1) (w.getLsbD 0))
  | 0x51 => if w.extractLsb' 3 7 = 0#7 ∧ w.getLsbD 1 = false then .ok (.cvtif (w.getLsbD 31) (.ofCode (w.extractLsb' 17 7)) (.ofCode (w.extractLsb' 10 7)) (w.getLsbD 2) (w.getLsbD 0)) else .error .zeroField
  | 0x52 => if w.getLsbD 0 = false then .ok (.cvtn (w.getLsbD 31) (.ofCode (w.extractLsb' 17 7)) (.ofCode (w.extractLsb' 10 7)) (.ofCode (w.extractLsb' 3 7)) (w.getLsbD 2) (w.getLsbD 1)) else .error .zeroField
  | 0x53 => if w.getLsbD 0 = false then .ok (.cvtw (w.getLsbD 31) (.ofCode (w.extractLsb' 17 7)) (.ofCode (w.extractLsb' 10 7)) (.ofCode (w.extractLsb' 3 7)) (w.getLsbD 2) (w.getLsbD 1)) else .error .zeroField
  | 0x54 => .ok (.cvth (w.getLsbD 31) (.ofCode (w.extractLsb' 17 7)) (.ofCode (w.extractLsb' 10 7)) (.ofCode (w.extractLsb' 3 7)) (w.getLsbD 2) (w.getLsbD 1) (w.getLsbD 0))
  | 0x55 => if w.extractLsb' 17 7 = 0#7 ∧ w.extractLsb' 3 7 = 0#7 ∧ w.getLsbD 1 = false ∧ w.getLsbD 0 = false then .ok (.setfmt (w.getLsbD 31) (.ofCode (w.extractLsb' 10 7)) (w.getLsbD 2)) else .error .zeroField
  | 0x56 => if w.extractLsb' 10 7 = 0#7 ∧ w.extractLsb' 3 7 = 0#7 ∧ w.getLsbD 2 = false ∧ w.getLsbD 1 = false ∧ w.getLsbD 0 = false then .ok (.getfmt (w.getLsbD 31) (.ofCode (w.extractLsb' 17 7))) else .error .zeroField
  | 0x57 => .ok (.rand (w.getLsbD 31) (.ofCode (w.extractLsb' 17 7)) (.ofCode (w.extractLsb' 10 7)) (.ofCode (w.extractLsb' 3 7)) (w.getLsbD 2) (w.getLsbD 1) (w.getLsbD 0))
  | 0x58 => if w.getLsbD 0 = false then .ok (.shfl (w.getLsbD 31) (.ofCode (w.extractLsb' 17 7)) (.ofCode (w.extractLsb' 10 7)) (.ofCode (w.extractLsb' 3 7)) (w.getLsbD 2) (w.getLsbD 1)) else .error .zeroField
  | 0x59 => if w.getLsbD 0 = false then .ok (.shup (w.getLsbD 31) (.ofCode (w.extractLsb' 17 7)) (.ofCode (w.extractLsb' 10 7)) (.ofCode (w.extractLsb' 3 7)) (w.getLsbD 2) (w.getLsbD 1)) else .error .zeroField
  | 0x5A => if w.getLsbD 0 = false then .ok (.shdn (w.getLsbD 31) (.ofCode (w.extractLsb' 17 7)) (.ofCode (w.extractLsb' 10 7)) (.ofCode (w.extractLsb' 3 7)) (w.getLsbD 2) (w.getLsbD 1)) else .error .zeroField
  | 0x5B => if w.getLsbD 0 = false then .ok (.bcast (w.getLsbD 31) (.ofCode (w.extractLsb' 17 7)) (.ofCode (w.extractLsb' 10 7)) (.ofCode (w.extractLsb' 3 7)) (w.getLsbD 2) (w.getLsbD 1)) else .error .zeroField
  | 0x5C => if w.extractLsb' 3 7 = 0#7 ∧ w.getLsbD 1 = false ∧ w.getLsbD 0 = false then .ok (.vany (w.getLsbD 31) (.ofCode (w.extractLsb' 17 7)) (.ofCode (w.extractLsb' 10 7)) (w.getLsbD 2)) else .error .zeroField
  | 0x5D => if w.extractLsb' 3 7 = 0#7 ∧ w.getLsbD 1 = false ∧ w.getLsbD 0 = false then .ok (.vbal (w.getLsbD 31) (.ofCode (w.extractLsb' 17 7)) (.ofCode (w.extractLsb' 10 7)) (w.getLsbD 2)) else .error .zeroField
  | 0x5E => if w.extractLsb' 3 7 = 0#7 ∧ w.getLsbD 1 = false then .ok (.rdadd (w.getLsbD 31) (.ofCode (w.extractLsb' 17 7)) (.ofCode (w.extractLsb' 10 7)) (w.getLsbD 2) (w.getLsbD 0)) else .error .zeroField
  | 0x5F => if w.extractLsb' 3 7 = 0#7 ∧ w.getLsbD 1 = false then .ok (.rdmin (w.getLsbD 31) (.ofCode (w.extractLsb' 17 7)) (.ofCode (w.extractLsb' 10 7)) (w.getLsbD 2) (w.getLsbD 0)) else .error .zeroField
  | 0x60 => .ok (.ld (w.getLsbD 31) (.ofCode (w.extractLsb' 17 7)) (.ofCode (w.extractLsb' 10 7)) (w.extractLsb' 8 2) (w.getLsbD 7) (w.getLsbD 6) (w.extractLsb' 0 6))
  | 0x61 => .ok (.ldsx (w.getLsbD 31) (.ofCode (w.extractLsb' 17 7)) (.ofCode (w.extractLsb' 10 7)) (w.extractLsb' 8 2) (w.getLsbD 7) (w.getLsbD 6) (w.extractLsb' 0 6))
  | 0x62 => if w.getLsbD 7 = false then .ok (.st (w.getLsbD 31) (.ofCode (w.extractLsb' 17 7)) (.ofCode (w.extractLsb' 10 7)) (w.extractLsb' 8 2) (w.getLsbD 6) (w.extractLsb' 0 6)) else .error .zeroField
  | 0x63 => if w.getLsbD 7 = false then .ok (.ldsc (w.getLsbD 31) (.ofCode (w.extractLsb' 17 7)) (.ofCode (w.extractLsb' 10 7)) (w.extractLsb' 8 2) (w.getLsbD 6) (w.extractLsb' 0 6)) else .error .zeroField
  | 0x64 => if w.getLsbD 7 = false then .ok (.stsc (w.getLsbD 31) (.ofCode (w.extractLsb' 17 7)) (.ofCode (w.extractLsb' 10 7)) (w.extractLsb' 8 2) (w.getLsbD 6) (w.extractLsb' 0 6)) else .error .zeroField
  | 0x65 => if w.getLsbD 7 = false then .ok (.amo (w.getLsbD 31) (.ofCode (w.extractLsb' 17 7)) (.ofCode (w.extractLsb' 10 7)) (w.extractLsb' 8 2) (w.getLsbD 6) (w.extractLsb' 2 4) (w.extractLsb' 0 2)) else .error .zeroField
  | 0x66 => if w.getLsbD 7 = false then .ok (.amor (w.getLsbD 31) (.ofCode (w.extractLsb' 17 7)) (.ofCode (w.extractLsb' 10 7)) (w.extractLsb' 8 2) (w.getLsbD 6) (w.extractLsb' 2 4) (w.extractLsb' 0 2)) else .error .zeroField
  | 0x67 => if w.getLsbD 7 = false ∧ w.extractLsb' 2 4 = 0#4 then .ok (.cas (w.getLsbD 31) (.ofCode (w.extractLsb' 17 7)) (.ofCode (w.extractLsb' 10 7)) (w.extractLsb' 8 2) (w.getLsbD 6) (w.extractLsb' 0 2)) else .error .zeroField
  | 0x68 => if w.extractLsb' 17 7 = 0#7 ∧ w.extractLsb' 10 7 = 0#7 ∧ w.extractLsb' 8 2 = 0#2 ∧ w.getLsbD 7 = false ∧ w.getLsbD 6 = false ∧ w.getLsbD 5 = false then .ok (.fence (w.getLsbD 31) (w.extractLsb' 3 2) (w.extractLsb' 0 3)) else .error .zeroField
  | 0x69 => if w.extractLsb' 16 8 = 0#8 ∧ w.extractLsb' 0 16 = 0#16 then .ok (.ifence (w.getLsbD 31)) else .error .zeroField
  | 0x6A => if w.extractLsb' 17 7 = 0#7 then .ok (.pf (w.getLsbD 31) (.ofCode (w.extractLsb' 10 7)) (w.extractLsb' 8 2) (w.getLsbD 7) (w.getLsbD 6) (w.extractLsb' 0 6)) else .error .zeroField
  | 0x6B => if w.extractLsb' 16 8 = 0#8 ∧ w.extractLsb' 0 16 = 0#16 then .ok (.l1inv (w.getLsbD 31)) else .error .zeroField
  | 0x6C => if w.extractLsb' 3 7 = 0#7 ∧ w.getLsbD 2 = false ∧ w.getLsbD 1 = false then .ok (.shtake (w.getLsbD 31) (.ofCode (w.extractLsb' 17 7)) (.ofCode (w.extractLsb' 10 7)) (w.getLsbD 0)) else .error .zeroField
  | 0x6D => if w.extractLsb' 17 7 = 0#7 ∧ w.getLsbD 2 = false ∧ w.getLsbD 1 = false then .ok (.shput (w.getLsbD 31) (.ofCode (w.extractLsb' 10 7)) (.ofCode (w.extractLsb' 3 7)) (w.getLsbD 0)) else .error .zeroField
  | 0x6E => if w.extractLsb' 3 7 = 0#7 ∧ w.getLsbD 2 = false ∧ w.getLsbD 1 = false ∧ w.getLsbD 0 = false then .ok (.shqry (w.getLsbD 31) (.ofCode (w.extractLsb' 17 7)) (.ofCode (w.extractLsb' 10 7))) else .error .zeroField
  | 0x6F => if w.extractLsb' 17 7 = 0#7 ∧ w.getLsbD 2 = false ∧ w.getLsbD 1 = false ∧ w.getLsbD 0 = false then .ok (.waite (w.getLsbD 31) (.ofCode (w.extractLsb' 10 7)) (.ofCode (w.extractLsb' 3 7))) else .error .zeroField
  | 0x70 => .ok (.tld (w.getLsbD 31) (w.extractLsb' 21 3) (w.getLsbD 20) (w.extractLsb' 15 5) (w.extractLsb' 10 5) (.ofCode (w.extractLsb' 3 7)) (w.getLsbD 2) (w.extractLsb' 0 2))
  | 0x71 => .ok (.tst (w.getLsbD 31) (w.extractLsb' 21 3) (w.getLsbD 20) (w.extractLsb' 15 5) (w.extractLsb' 10 5) (.ofCode (w.extractLsb' 3 7)) (w.getLsbD 2) (w.extractLsb' 0 2))
  | 0x72 => if w.getLsbD 1 = false then .ok (.tmov (w.getLsbD 31) (w.extractLsb' 21 3) (w.getLsbD 20) (w.extractLsb' 15 5) (w.extractLsb' 10 5) (.ofCode (w.extractLsb' 3 7)) (w.getLsbD 2) (w.getLsbD 0)) else .error .zeroField
  | 0x73 => if w.extractLsb' 18 3 = 0#3 ∧ w.extractLsb' 13 5 = 0#5 ∧ w.extractLsb' 8 5 = 0#5 ∧ w.extractLsb' 5 3 = 0#3 ∧ w.getLsbD 1 = false ∧ w.getLsbD 0 = false then .ok (.zclr (w.getLsbD 31) (w.extractLsb' 21 3) (w.extractLsb' 2 3)) else .error .zeroField
  | 0x74 => if w.getLsbD 2 = false then .ok (.zrd (w.getLsbD 31) (w.extractLsb' 21 3) (w.getLsbD 20) (w.extractLsb' 15 5) (w.extractLsb' 10 5) (.ofCode (w.extractLsb' 3 7)) (w.extractLsb' 0 2)) else .error .zeroField
  | 0x75 => if w.extractLsb' 18 3 = 0#3 ∧ w.extractLsb' 8 5 = 0#5 ∧ w.extractLsb' 5 3 = 0#3 ∧ w.extractLsb' 2 3 = 0#3 then .ok (.zxf (w.getLsbD 31) (w.extractLsb' 21 3) (w.extractLsb' 13 5) (w.getLsbD 1) (w.getLsbD 0)) else .error .zeroField
  | 0x76 => if w.extractLsb' 5 3 = 0#3 ∧ w.getLsbD 0 = false then .ok (.mma (w.getLsbD 31) (w.extractLsb' 21 3) (w.extractLsb' 18 3) (w.extractLsb' 13 5) (w.extractLsb' 8 5) (w.extractLsb' 2 3) (w.getLsbD 1)) else .error .zeroField
  | 0x77 => if w.getLsbD 0 = false then .ok (.mmas (w.getLsbD 31) (w.extractLsb' 21 3) (w.extractLsb' 18 3) (w.extractLsb' 13 5) (w.extractLsb' 8 5) (w.extractLsb' 5 3) (w.extractLsb' 2 3) (w.getLsbD 1)) else .error .zeroField
  | 0x78 => .ok (.sld (w.getLsbD 31) (.ofCode (w.extractLsb' 17 7)) (.ofCode (w.extractLsb' 10 7)) (.ofCode (w.extractLsb' 3 7)) (w.getLsbD 2) (w.getLsbD 1) (w.getLsbD 0))
  | 0x79 => .ok (.sst (w.getLsbD 31) (.ofCode (w.extractLsb' 17 7)) (.ofCode (w.extractLsb' 10 7)) (.ofCode (w.extractLsb' 3 7)) (w.getLsbD 2) (w.getLsbD 1) (w.getLsbD 0))
  | 0x7A => if w.getLsbD 0 = false then .ok (.scur (w.getLsbD 31) (.ofCode (w.extractLsb' 17 7)) (.ofCode (w.extractLsb' 10 7)) (.ofCode (w.extractLsb' 3 7)) (w.getLsbD 2) (w.getLsbD 1)) else .error .zeroField
  | 0x7B => if w.getLsbD 0 = false then .ok (.snxt (w.getLsbD 31) (.ofCode (w.extractLsb' 17 7)) (.ofCode (w.extractLsb' 10 7)) (.ofCode (w.extractLsb' 3 7)) (w.getLsbD 2) (w.getLsbD 1)) else .error .zeroField
  | 0x7C => if w.getLsbD 0 = false then .ok (.sisx (w.getLsbD 31) (.ofCode (w.extractLsb' 17 7)) (.ofCode (w.extractLsb' 10 7)) (.ofCode (w.extractLsb' 3 7)) (w.getLsbD 2) (w.getLsbD 1)) else .error .zeroField
  | 0x7D =>
    match (w.extractLsb' 0 7).toNat with
      | 0 => .ok (.engStk (w.getLsbD 31) (.ofCode (w.extractLsb' 17 7)) (w.extractLsb' 12 5) (w.extractLsb' 7 5))
      | 1 => .ok (.engCpy (w.getLsbD 31) (.ofCode (w.extractLsb' 17 7)) (w.extractLsb' 12 5) (w.extractLsb' 7 5))
      | 2 => .ok (.engDense (w.getLsbD 31) (.ofCode (w.extractLsb' 17 7)) (w.extractLsb' 12 5) (w.extractLsb' 7 5))
      | 3 => .ok (.engSpar (w.getLsbD 31) (.ofCode (w.extractLsb' 17 7)) (w.extractLsb' 12 5) (w.extractLsb' 7 5))
      | 4 => if w.extractLsb' 7 5 = 0#5 then .ok (.engDsp (w.getLsbD 31) (.ofCode (w.extractLsb' 17 7)) (w.extractLsb' 12 5)) else .error .zeroField
      | 5 => .ok (.engCmb (w.getLsbD 31) (.ofCode (w.extractLsb' 17 7)) (w.extractLsb' 12 5) (w.extractLsb' 7 5))
      | 6 => .ok (.engQapp (w.getLsbD 31) (.ofCode (w.extractLsb' 17 7)) (w.extractLsb' 12 5) (w.extractLsb' 7 5))
      | 7 => .ok (.engGcond (w.getLsbD 31) (.ofCode (w.extractLsb' 17 7)) (w.extractLsb' 12 5) (w.extractLsb' 7 5))
      | 8 => .ok (.engLvlw (w.getLsbD 31) (.ofCode (w.extractLsb' 17 7)) (w.extractLsb' 12 5) (w.extractLsb' 7 5))
      | 9 => .ok (.engCancel (w.getLsbD 31) (.ofCode (w.extractLsb' 17 7)) (w.extractLsb' 12 5) (w.extractLsb' 7 5))
      | 10 => if w.extractLsb' 7 5 = 0#5 then .ok (.engHash (w.getLsbD 31) (.ofCode (w.extractLsb' 17 7)) (w.extractLsb' 12 5)) else .error .zeroField
      | 11 => .ok (.engKgrow (w.getLsbD 31) (.ofCode (w.extractLsb' 17 7)) (w.extractLsb' 12 5) (w.extractLsb' 7 5))
      | _ => .error .reservedFunction
  | 0x7E =>
    if w.getLsbD 6 = true then .error .reservedFunction
    else match (w.extractLsb' 0 2).toNat with
      | 0 => if w.extractLsb' 7 5 = 0#5 then .ok (.barArrive (w.getLsbD 31) (.ofCode (w.extractLsb' 17 7)) (w.extractLsb' 12 5) (w.extractLsb' 2 4)) else .error .zeroField
      | 1 => if w.extractLsb' 17 7 = 0#7 ∧ w.extractLsb' 12 5 = 0#5 then .ok (.barWait (w.getLsbD 31) (w.extractLsb' 7 5) (w.extractLsb' 2 4)) else .error .zeroField
      | 2 => if w.extractLsb' 17 7 = 0#7 ∧ w.extractLsb' 7 5 = 0#5 then .ok (.barSync (w.getLsbD 31) (w.extractLsb' 12 5) (w.extractLsb' 2 4)) else .error .zeroField
      | _ => .error .reservedFunction
  | _ =>
    match (w.extractLsb' 0 7).toNat with
      | 0 => .ok (.sysRdsr (w.getLsbD 31) (.ofCode (w.extractLsb' 17 7)) (w.extractLsb' 12 5) (w.extractLsb' 7 5))
      | 1 => .ok (.sysWrsr (w.getLsbD 31) (.ofCode (w.extractLsb' 17 7)) (w.extractLsb' 12 5) (w.extractLsb' 7 5))
      | 2 => if w.extractLsb' 17 7 = 0#7 ∧ w.extractLsb' 12 5 = 0#5 ∧ w.extractLsb' 7 5 = 0#5 then .ok (.sysHalt (w.getLsbD 31)) else .error .zeroField
      | _ => .error .reservedFunction

/-- The words of an instruction, from the same tables; an event has none. -/
def encode : Instr → List Word
  | .nop c => [fmtWS c 0x00#7 0#8 0#16]
  | .seg w => [fmtWS w.c 0x01#7 w.slots 0#16]
  | .nxt c t => [fmtWB c 0x02#7 0#7 t 0#6 0#4 false]
  | .nxtc c p t f e => [fmtWB c 0x03#7 p.code t f 0#4 e]
  | .nxti c p e => [fmtWB c 0x04#7 p.code 0#6 0#6 0#4 e]
  | .deal => [fmtWS false 0x05#7 0#8 0#16]
  | .fold c => [fmtWS c 0x06#7 0#8 0#16]
  | .call c i => [fmtWK c 0x07#7 0#7 i]
  | .callp c p i => [fmtWK c 0x08#7 p.code i]
  | .ret c => [fmtWS c 0x09#7 0#8 0#16]
  | .trap c i => [fmtWK c 0x0A#7 0#7 i]
  | .eret c k => [fmtWB c 0x0B#7 0#7 0#6 0#6 k false]
  | .brk c i => [fmtWK c 0x0C#7 0#7 i]
  | .emset c a e => [fmtW3 c 0x0D#7 0#7 a.code 0#7 e false false]
  | .emget c d m => [fmtW3 c 0x0E#7 d.code 0#7 0#7 false false m]
  | .yield c => [fmtWS c 0x0F#7 0#8 0#16]
  | .iadd c d a b e f m => [fmtW3 c 0x10#7 d.code a.code b.code e f m]
  | .isub c d a b e f m => [fmtW3 c 0x11#7 d.code a.code b.code e f m]
  | .imul c d a b e f m => [fmtW3 c 0x12#7 d.code a.code b.code e f m]
  | .imulh c d a b e f m => [fmtW3 c 0x13#7 d.code a.code b.code e f m]
  | .imad c d a b e f m => [fmtW3 c 0x14#7 d.code a.code b.code e f m]
  | .imin c d a b e f m => [fmtW3 c 0x15#7 d.code a.code b.code e f m]
  | .imax c d a b e f m => [fmtW3 c 0x16#7 d.code a.code b.code e f m]
  | .iabs c d a e m => [fmtW3 c 0x17#7 d.code a.code 0#7 e false m]
  | .and c d a b e f => [fmtW3 c 0x18#7 d.code a.code b.code e f false]
  | .or c d a b e f => [fmtW3 c 0x19#7 d.code a.code b.code e f false]
  | .xor c d a b e f => [fmtW3 c 0x1A#7 d.code a.code b.code e f false]
  | .shl c d a b e f m => [fmtW3 c 0x1B#7 d.code a.code b.code e f m]
  | .shr c d a b e f => [fmtW3 c 0x1C#7 d.code a.code b.code e f false]
  | .sar c d a b e f => [fmtW3 c 0x1D#7 d.code a.code b.code e f false]
  | .iaddmin c d a b e f => [fmtW3 c 0x1E#7 d.code a.code b.code e f false]
  | .cmov c d a b e f => [fmtW3 c 0x1F#7 d.code a.code b.code e f false]
  | .iceq c d a b e f => [fmtW3 c 0x20#7 d.code a.code b.code e f false]
  | .icne c d a b e f => [fmtW3 c 0x21#7 d.code a.code b.code e f false]
  | .iclt c d a b e f => [fmtW3 c 0x22#7 d.code a.code b.code e f false]
  | .icle c d a b e f => [fmtW3 c 0x23#7 d.code a.code b.code e f false]
  | .icltu c d a b e f => [fmtW3 c 0x24#7 d.code a.code b.code e f false]
  | .icleu c d a b e f => [fmtW3 c 0x25#7 d.code a.code b.code e f false]
  | .popc c d a e => [fmtW3 c 0x26#7 d.code a.code 0#7 e false false]
  | .clz c d a e => [fmtW3 c 0x27#7 d.code a.code 0#7 e false false]
  | .brev c d a e => [fmtW3 c 0x28#7 d.code a.code 0#7 e false false]
  | .bfx c d a b e f m => [fmtW3 c 0x29#7 d.code a.code b.code e f m]
  | .bfi c d a b e f => [fmtW3 c 0x2A#7 d.code a.code b.code e f false]
  | .idiv c d a b e f m => [fmtW3 c 0x2B#7 d.code a.code b.code e f m]
  | .irem c d a b e f m => [fmtW3 c 0x2C#7 d.code a.code b.code e f m]
  | .aget c d a e m => [fmtW3 c 0x2D#7 d.code a.code 0#7 e false m]
  | .rget c d a b e f => [fmtW3 c 0x2E#7 d.code a.code b.code e f false]
  | .rput c d a b f => [fmtW3 c 0x2F#7 d.code a.code b.code false f false]
  | .iaddi c d a i => [fmtWI c 0x30#7 d.code a.code i]
  | .andi c d a i => [fmtWI c 0x31#7 d.code a.code i]
  | .ori c d a i => [fmtWI c 0x32#7 d.code a.code i]
  | .xori c d a i => [fmtWI c 0x33#7 d.code a.code i]
  | .shli c d a i => [fmtWI c 0x34#7 d.code a.code i]
  | .shri c d a i => [fmtWI c 0x35#7 d.code a.code i]
  | .sari c d a i => [fmtWI c 0x36#7 d.code a.code i]
  | .iceqi c d a i => [fmtWI c 0x37#7 d.code a.code i]
  | .iclti c d a i => [fmtWI c 0x38#7 d.code a.code i]
  | .icltui c d a i => [fmtWI c 0x39#7 d.code a.code i]
  | .movk c d i => [fmtWK c 0x3A#7 d.code i]
  | .movkh c d i => [fmtWK c 0x3B#7 d.code (BitVec.ofBool false ++ i)]
  | .prom c d a b e f m => [fmtW3 c 0x3C#7 d.code a.code b.code e f m]
  | .demu c d a e m => [fmtW3 c 0x3D#7 d.code a.code 0#7 e false m]
  | .uniq c d a b e f => [fmtW3 c 0x3E#7 d.code a.code b.code e f false]
  | .sete c d m => [fmtW3 c 0x3F#7 d.code 0#7 0#7 false false m]
  | .fadd c d a b e f => [fmtW3 c 0x40#7 d.code a.code b.code e f false]
  | .fsub c d a b e f => [fmtW3 c 0x41#7 d.code a.code b.code e f false]
  | .fmul c d a b e f => [fmtW3 c 0x42#7 d.code a.code b.code e f false]
  | .ffma c d a b e f m => [fmtW3 c 0x43#7 d.code a.code b.code e f m]
  | .fmin c d a b e f => [fmtW3 c 0x44#7 d.code a.code b.code e f false]
  | .fmax c d a b e f => [fmtW3 c 0x45#7 d.code a.code b.code e f false]
  | .frcp c d a e => [fmtW3 c 0x46#7 d.code a.code 0#7 e false false]
  | .frsq c d a e => [fmtW3 c 0x47#7 d.code a.code 0#7 e false false]
  | .fsqrt c d a e => [fmtW3 c 0x48#7 d.code a.code 0#7 e false false]
  | .fexp2 c d a e => [fmtW3 c 0x49#7 d.code a.code 0#7 e false false]
  | .flog2 c d a e => [fmtW3 c 0x4A#7 d.code a.code 0#7 e false false]
  | .fceq c d a b e f => [fmtW3 c 0x4B#7 d.code a.code b.code e f false]
  | .fclt c d a b e f => [fmtW3 c 0x4C#7 d.code a.code b.code e f false]
  | .fcle c d a b e f => [fmtW3 c 0x4D#7 d.code a.code b.code e f false]
  | .fclass c d a e => [fmtW3 c 0x4E#7 d.code a.code 0#7 e false false]
  | .frnd c d a b e f => [fmtW3 c 0x4F#7 d.code a.code b.code e f false]
  | .cvtfi c d a b e f m => [fmtW3 c 0x50#7 d.code a.code b.code e f m]
  | .cvtif c d a e m => [fmtW3 c 0x51#7 d.code a.code 0#7 e false m]
  | .cvtn c d a b e f => [fmtW3 c 0x52#7 d.code a.code b.code e f false]
  | .cvtw c d a b e f => [fmtW3 c 0x53#7 d.code a.code b.code e f false]
  | .cvth c d a b e f m => [fmtW3 c 0x54#7 d.code a.code b.code e f m]
  | .setfmt c a e => [fmtW3 c 0x55#7 0#7 a.code 0#7 e false false]
  | .getfmt c d => [fmtW3 c 0x56#7 d.code 0#7 0#7 false false false]
  | .rand c d a b e f m => [fmtW3 c 0x57#7 d.code a.code b.code e f m]
  | .shfl c d a b e f => [fmtW3 c 0x58#7 d.code a.code b.code e f false]
  | .shup c d a b e f => [fmtW3 c 0x59#7 d.code a.code b.code e f false]
  | .shdn c d a b e f => [fmtW3 c 0x5A#7 d.code a.code b.code e f false]
  | .bcast c d a b e f => [fmtW3 c 0x5B#7 d.code a.code b.code e f false]
  | .vany c d a e => [fmtW3 c 0x5C#7 d.code a.code 0#7 e false false]
  | .vbal c d a e => [fmtW3 c 0x5D#7 d.code a.code 0#7 e false false]
  | .rdadd c d a e m => [fmtW3 c 0x5E#7 d.code a.code 0#7 e false m]
  | .rdmin c d a e m => [fmtW3 c 0x5F#7 d.code a.code 0#7 e false m]
  | .ld c d b s o e n => [fmtWM c 0x60#7 d.code b.code s o e n]
  | .ldsx c d b s o e n => [fmtWM c 0x61#7 d.code b.code s o e n]
  | .st c d b s e n => [fmtWM c 0x62#7 d.code b.code s false e n]
  | .ldsc c d b s e n => [fmtWM c 0x63#7 d.code b.code s false e n]
  | .stsc c d b s e n => [fmtWM c 0x64#7 d.code b.code s false e n]
  | .amo c d b s e p g => [fmtWM c 0x65#7 d.code b.code s false e (p ++ g)]
  | .amor c d b s e p g => [fmtWM c 0x66#7 d.code b.code s false e (p ++ g)]
  | .cas c d b s e g => [fmtWM c 0x67#7 d.code b.code s false e (0#4 ++ g)]
  | .fence c k g => [fmtWM c 0x68#7 0#7 0#7 0#2 false false (BitVec.ofBool false ++ k ++ g)]
  | .ifence c => [fmtWS c 0x69#7 0#8 0#16]
  | .pf c b s o e n => [fmtWM c 0x6A#7 0#7 b.code s o e n]
  | .l1inv c => [fmtWS c 0x6B#7 0#8 0#16]
  | .shtake c d a m => [fmtW3 c 0x6C#7 d.code a.code 0#7 false false m]
  | .shput c a b m => [fmtW3 c 0x6D#7 0#7 a.code b.code false false m]
  | .shqry c d a => [fmtW3 c 0x6E#7 d.code a.code 0#7 false false false]
  | .waite c a b => [fmtW3 c 0x6F#7 0#7 a.code b.code false false false]
  | .tld c t l x i v e f => [fmtWT c 0x70#7 t l x i v.code e f]
  | .tst c t l x i v e f => [fmtWT c 0x71#7 t l x i v.code e f]
  | .tmov c t l x i v e f => [fmtWT c 0x72#7 t l x i v.code e (BitVec.ofBool false ++ BitVec.ofBool f)]
  | .zclr c z f => [fmtWX c 0x73#7 z 0#3 0#5 0#5 0#3 f false false]
  | .zrd c t l x i v f => [fmtWT c 0x74#7 t l x i v.code false f]
  | .zxf c z b e m => [fmtWX c 0x75#7 z 0#3 b 0#5 0#3 0#3 e m]
  | .mma c z a b s f e => [fmtWX c 0x76#7 z a b s 0#3 f e false]
  | .mmas c z a b s t f e => [fmtWX c 0x77#7 z a b s t f e false]
  | .sld c d a b e f m => [fmtW3 c 0x78#7 d.code a.code b.code e f m]
  | .sst c d a b e f m => [fmtW3 c 0x79#7 d.code a.code b.code e f m]
  | .scur c d a b e f => [fmtW3 c 0x7A#7 d.code a.code b.code e f false]
  | .snxt c d a b e f => [fmtW3 c 0x7B#7 d.code a.code b.code e f false]
  | .sisx c d a b e f => [fmtW3 c 0x7C#7 d.code a.code b.code e f false]
  | .engStk c d a b => [fmtWE c 0x7D#7 d.code a b 0#7]
  | .engCpy c d a b => [fmtWE c 0x7D#7 d.code a b 1#7]
  | .engDense c d a b => [fmtWE c 0x7D#7 d.code a b 2#7]
  | .engSpar c d a b => [fmtWE c 0x7D#7 d.code a b 3#7]
  | .engDsp c d a => [fmtWE c 0x7D#7 d.code a 0#5 4#7]
  | .engCmb c d a b => [fmtWE c 0x7D#7 d.code a b 5#7]
  | .engQapp c d a b => [fmtWE c 0x7D#7 d.code a b 6#7]
  | .engGcond c d a b => [fmtWE c 0x7D#7 d.code a b 7#7]
  | .engLvlw c d a b => [fmtWE c 0x7D#7 d.code a b 8#7]
  | .engCancel c d a b => [fmtWE c 0x7D#7 d.code a b 9#7]
  | .engHash c d a => [fmtWE c 0x7D#7 d.code a 0#5 10#7]
  | .engKgrow c d a b => [fmtWE c 0x7D#7 d.code a b 11#7]
  | .barArrive c d a n => [fmtWE c 0x7E#7 d.code a 0#5 (BitVec.ofBool false ++ n ++ 0#2)]
  | .barWait c b n => [fmtWE c 0x7E#7 0#7 0#5 b (BitVec.ofBool false ++ n ++ 1#2)]
  | .barSync c a n => [fmtWE c 0x7E#7 0#7 a 0#5 (BitVec.ofBool false ++ n ++ 2#2)]
  | .sysRdsr c d a b => [fmtWE c 0x7F#7 d.code a b 0#7]
  | .sysWrsr c d a b => [fmtWE c 0x7F#7 d.code a b 1#7]
  | .sysHalt c => [fmtWE c 0x7F#7 0#7 0#5 0#5 2#7]
  | .matrixKStep _ _ => []
  | .singleKeyOperation _ => []
  | .engineShoePublish _ => []
  | .ticketFill _ => []
  | .barSyncCompletion _ => []
  | .shoeConfigure _ _ _ => []
  | .producerWrite _ _ => []
  | .mergeStep _ _ => []
  | .shoeTakeServe _ _ _ => []
  | .runIssue _ => []
  | .squadDemotion _ => []
  | .squadPromotion _ => []
  | .squadRetirement _ => []
  | .squadStop _ => []
  | .powerTokenPass _ _ => []
  | .subarrayPowerGate _ _ => []
  | .subarrayWake _ _ => []
  | .queueRecordTake _ _ => []
  | .kernelNodeFire _ _ => []
  | .recordNodeFire _ _ => []
  | .recordNodeTimeout _ _ => []
  | .conditionalNodeFire _ _ => []
  | .whileNodeFire _ _ => []
  | .launchStart _ => []
  | .teamStart _ => []
  | .launchCompletion _ => []
  | .jobCompletion _ => []
  | .graphRegistration _ _ _ _ => []
  | .preemptionRequest _ _ => []
  | .drainLimitExpiry _ => []
  | .teamContextSave _ => []
  | .teamResume _ _ => []
  | .pageWalk _ _ _ => []
  | .shootDown _ _ _ => []
  | .promotion _ _ _ => []
  | .migrationRequest _ _ _ => []
  | .migrationCompletion _ _ => []
  | .hostMemoryAccess _ _ => []
  | .peerAccess _ _ _ => []
  | .linkPortDown _ => []
  | .throttle _ _ _ => []
  | .reset => []
  | .firmwareReady => []
  | .attestationReport _ => []
  | .bootstRead => []
  | .notificationRingSetup _ _ => []
  | .mgmtRegisterWrite _ _ => []
  | .coreCounterClear _ => []
  | .objectLoad _ => []
  | .objectUnload _ => []
  | .debugStop _ => []
  | .causalExperiment _ => []
  | .waitForGraphSample => []
  | .registerParityFailure _ => []
  | .dieL2Acceptance _ _ => []
  | .homeAcceptance _ _ => []
  | .linkRetrainComplete _ => []

/-- The instruction that the decoder reads from an instruction whose bits are `w`, numbered as the
opcode table numbers them. Every instruction of this hardware is one 32-bit word (R102). -/
def decodeTableWord (nbits w : Nat) : Option Instr :=
  if nbits ≤ 32 then
    match decode (BitVec.ofNat 32 w) with
    | .ok i => some i
    | .error _ => none
  else none

end Sys2Proof
end

