-- ==== Sys2Proof/Machine/Forms.lean ====
section
/-! DEFINITION. What each word admits in its operand fields, what registers it reads and writes, and
its pipe: the tables behind undefined encoding (R123), the checks of R63 and chain conflicts (R106). -/

namespace Sys2Proof

/-- The class of an operand (Table 9-2). -/
def Opnd.cls : Opnd → Cls
  | .v _ | .p _ | .br => .v
  | .a _ | .lid => .a
  | .s _ | .zero | .sqid | .tmid | .em | .fmt | .lclk => .u

/-- The higher of two classes, U < A < V (R57). -/
def Cls.join : Cls → Cls → Cls
  | .v, _ | _, .v => .v
  | .a, _ | _, .a => .a
  | .u, .u => .u

def Opnd.isV : Opnd → Bool | .v _ => true | _ => false
def Opnd.isS : Opnd → Bool | .s _ => true | _ => false
def Opnd.isA : Opnd → Bool | .a _ => true | _ => false
def Opnd.isP : Opnd → Bool | .p _ => true | _ => false
/-- A register, as opposed to a special operand (R55). -/
def Opnd.isReg : Opnd → Bool | .v _ | .s _ | .a _ | .p _ => true | _ => false
/-- An even v register, which names a pair (R9). -/
def Opnd.isEven : Opnd → Bool | .v n => n.val % 2 == 0 | _ => false
/-- A v register whose number is a multiple of four (R211, R319). -/
def Opnd.isQuad : Opnd → Bool | .v n => n.val % 4 == 0 | _ => false
/-- "Uniform" operand fields: s0 to s31 and the uniform special operands (R174). -/
def Opnd.isUniform (o : Opnd) : Bool := o.cls == .u
/-- The codes a BASE admits (R198, R287). -/
def Opnd.isBase (o : Opnd) : Bool := o.isEven || o.isS || o.isA

/-- The register above a register in its file. -/
def Opnd.up (k : Nat) : Opnd → Opnd
  | .v n => .v (Fin.ofNat 64 (n.val + k))
  | .s n => .s (Fin.ofNat 32 (n.val + k))
  | o => o
/-- The two registers of a pair (R9). -/
def Opnd.pair (o : Opnd) : List Opnd := if o.isV then [o, o.up 1] else [o]
/-- The four registers of a group (R326). -/
def Opnd.group4 (o : Opnd) : List Opnd := [o, o.up 1, o.up 2, o.up 3]
/-- The s register a five-bit field names (R111). -/
def sReg (x : BitVec 5) : Opnd := .s x.toFin

/-- The registers of a memory datum: a pair for 64 bits in the varying file (R198). -/
def wide (sz : BitVec 2) (d : Opnd) : List Opnd := if sz = 3#2 then d.pair else [d]
/-- The registers that CAS reads (R211). -/
def casGroup (sz : BitVec 2) (d : Opnd) : List Opnd :=
  if d.isV then (if sz = 3#2 then d.group4 else [d, d.up 1]) else [d, d.up 1]
/-- The registers of an address operand, all served by one E bit (R116). -/
def Opnd.baseUse (o : Opnd) (e : Bool) : List (Opnd × Bool) := o.pair.map (·, e)

namespace Machine

/-! ## Undefined encoding: operand codes and classes -/

/-- A destination of the join class (R57, R147). -/
def dstOk (d : Opnd) : Cls → Bool
  | .u => d.isS
  | .a => d.isA
  | .v => d.isV || d.isP

/-- The integer forms of Table 11-3: an affine join only where Table 5-4 defines it (R59, R151). -/
def intForm (affine : Bool) (d : Opnd) (j : Cls) : Bool := (j != .a || affine) && dstOk d j

/-- The float forms of Table 12-1: U or V, and only the v and s codes in D (R170, R174). -/
def fpForm (d : Opnd) : Cls → Bool
  | .u => d.isS
  | .v => d.isV
  | .a => false

/-- R155. -/
def imadForm (d a b : Opnd) (m : Bool) : Bool :=
  if d.isS then a.cls == .u && b.cls == .u && !m else d.isEven

/-- R160: the shift amount of an immediate shift. -/
def shiftImm (w : Nat) (i : BitVec 10) : Bool := !i.msb && i.toNat < w

/-- R162. -/
def promForm (d a b : Opnd) (f m : Bool) : Bool :=
  if d.isA then a.cls == .u && b.isUniform && !m
  else a.cls != .v && b == .v 0 && !f && (if m then d.isEven else d.isV || d.isP)

/-- R188, R189. -/
def randForm (d a b : Opnd) (e m : Bool) : Bool :=
  if m then a == .v 0 && !e && fpForm d b.cls else a.isUniform && fpForm d (a.cls.join b.cls)

/-- Whether an address operand gives one uniform address (R198). -/
def uBase (b : Opnd) : Bool := b.isS

/-- R198: the destination of a load. -/
def loadForm (d b : Opnd) (s : BitVec 2) : Bool :=
  b.isBase && (if uBase b then d.isS else if s = 3#2 then d.isEven else d.isV)

/-- R198: the data of a store or the operand of AMO. -/
def storeForm (d b : Opnd) (s : BitVec 2) : Bool := b.isBase && (!(s = 3#2 && d.isV) || d.isEven)

/-- R118, R197: sizes and operation codes of AMO and AMOR. -/
def atomicForm (s : BitVec 2) (p : BitVec 4) : Bool := 2 ≤ s.toNat && p.toNat ≤ 11 && (p.toNat < 9 || s = 2#2)

/-- R198: the operand and destination of AMOR. -/
def amorForm (d b : Opnd) (s : BitVec 2) : Bool :=
  b.isBase && (if uBase b && d.isS then true else if s = 3#2 then d.isEven else d.isV)

/-- R211. -/
def casForm (d b : Opnd) (s : BitVec 2) : Bool :=
  b.isBase && (match d with
    | .s n => uBase b && n.val % 2 == 0 && 2 ≤ s.toNat
    | .v _ => if s = 3#2 then d.isQuad else s = 2#2 && d.isEven
    | _ => false)

/-- R291. -/
def zrdForm (l : Bool) (x i : BitVec 5) (v : Opnd) (f : BitVec 2) : Bool :=
  match f.toNat with
  | 0 => l && v.isV
  | 1 => !l && (match v with | .v n => n.val < 8 | _ => false)
  | 2 => !l && x == 0#5 && i == 0#5 && v.isS
  | _ => false

/-- R319: the key and handle operands of the sparse words. -/
def keyForm (a b : Opnd) : Bool := (a.isEven || a.isS || a.isA || a == .zero) && b.isS

/-- R319: SNXT and SISX. -/
def cursorForm (d a b : Opnd) : Bool :=
  d.isQuad && a.isEven && b.isS &&
    (match d, a with | .v n, .v k => n.val / 4 != k.val / 4 | _, _ => false)

/-- Whether the operand codes, classes and function values of a word are admitted (R123). A word for
which this fails raises undefined encoding when it issues. -/
def wfInstr : Instr → Bool
  | .nop _ => true
  | .seg _ => true
  | .nxt _ _ => true
  | .nxtc _ p _ _ _ => p.isP
  | .nxti _ p _ => p.isV || p.isS || p.isA || p == .br
  | .deal => true
  | .fold _ => true
  | .call _ _ => true
  | .callp _ p _ => p.isP
  | .ret _ => true
  | .trap _ _ => true
  | .eret _ k => k.toNat ≤ 1
  | .brk _ _ => true
  | .emset _ a _ => a.isS || a == .zero || a == .em || a.isP
  | .emget _ d _ => d.isV || d.isS
  | .yield _ => true
  | .iadd _ d a b _ _ _ => intForm true d (a.cls.join b.cls)
  | .isub _ d a b _ _ _ => intForm true d (a.cls.join b.cls)
  | .imul _ d a b _ _ _ => intForm (!(a.cls == .a && b.cls == .a)) d (a.cls.join b.cls)
  | .imulh _ d a b _ _ _ => intForm false d (a.cls.join b.cls)
  | .imad _ d a b _ _ m => imadForm d a b m
  | .imin _ d a b _ _ _ => intForm false d (a.cls.join b.cls)
  | .imax _ d a b _ _ _ => intForm false d (a.cls.join b.cls)
  | .iabs _ d a _ _ => intForm false d a.cls
  | .and _ d a b _ _ => intForm false d (a.cls.join b.cls)
  | .or _ d a b _ _ => intForm false d (a.cls.join b.cls)
  | .xor _ d a b _ _ => intForm false d (a.cls.join b.cls)
  | .shl _ d a b _ _ _ => intForm (a.cls == .a && b.cls == .u) d (a.cls.join b.cls)
  | .shr _ d a b _ _ => intForm false d (a.cls.join b.cls)
  | .sar _ d a b _ _ => intForm false d (a.cls.join b.cls)
  | .iaddmin _ d a b _ _ => intForm false d ((a.cls.join b.cls).join d.cls)
  | .cmov _ d a b _ _ => intForm false d ((a.cls.join b.cls).join d.cls)
  | .iceq _ d a b _ _ => intForm false d (a.cls.join b.cls)
  | .icne _ d a b _ _ => intForm false d (a.cls.join b.cls)
  | .iclt _ d a b _ _ => intForm false d (a.cls.join b.cls)
  | .icle _ d a b _ _ => intForm false d (a.cls.join b.cls)
  | .icltu _ d a b _ _ => intForm false d (a.cls.join b.cls)
  | .icleu _ d a b _ _ => intForm false d (a.cls.join b.cls)
  | .popc _ d a _ => intForm false d a.cls
  | .clz _ d a _ => intForm false d a.cls
  | .brev _ d a _ => intForm false d a.cls
  | .bfx _ d a b _ _ _ => intForm false d (a.cls.join b.cls)
  | .bfi _ d a b _ _ => intForm false d ((a.cls.join b.cls).join d.cls)
  | .idiv _ d a b _ _ _ => intForm false d (a.cls.join b.cls)
  | .irem _ d a b _ _ _ => intForm false d (a.cls.join b.cls)
  | .aget _ d a _ _ => d.isS && (a.isA || a == .lid)
  | .rget _ d a _ _ _ => d.isV && a.isV
  | .rput _ d a _ _ => a.isV && d.isV
  | .iaddi _ d a _ => intForm true d a.cls
  | .andi _ d a _ => intForm false d a.cls
  | .ori _ d a _ => intForm false d a.cls
  | .xori _ d a _ => intForm false d a.cls
  | .shli _ d a i => intForm false d a.cls && shiftImm (if a.cls == .u then 64 else 32) i
  | .shri _ d a i => intForm false d a.cls && shiftImm (if a.cls == .u then 64 else 32) i
  | .sari _ d a i => intForm false d a.cls && shiftImm (if a.cls == .u then 64 else 32) i
  | .iceqi _ d a _ => intForm false d a.cls
  | .iclti _ d a _ => intForm false d a.cls
  | .icltui _ d a _ => intForm false d a.cls
  | .movk _ d _ => d.isS
  | .movkh _ d _ => d.isS || d.isV
  | .prom _ d a b _ f m => promForm d a b f m
  | .demu _ d a _ _ => a.isV && (d.isS || d.isA)
  | .uniq _ d a b _ _ => a.isV && b.isUniform && d.isS
  | .sete _ d _ => d.isReg
  | .fadd _ d a b _ _ => fpForm d (a.cls.join b.cls)
  | .fsub _ d a b _ _ => fpForm d (a.cls.join b.cls)
  | .fmul _ d a b _ _ => fpForm d (a.cls.join b.cls)
  | .ffma _ d a b _ _ _ => fpForm d ((a.cls.join b.cls).join d.cls)
  | .fmin _ d a b _ _ => fpForm d (a.cls.join b.cls)
  | .fmax _ d a b _ _ => fpForm d (a.cls.join b.cls)
  | .frcp _ d a _ => fpForm d a.cls
  | .frsq _ d a _ => fpForm d a.cls
  | .fsqrt _ d a _ => fpForm d a.cls
  | .fexp2 _ d a _ => fpForm d a.cls
  | .flog2 _ d a _ => fpForm d a.cls
  | .fceq _ d a b _ _ => intForm false d (a.cls.join b.cls)
  | .fclt _ d a b _ _ => intForm false d (a.cls.join b.cls)
  | .fcle _ d a b _ _ => intForm false d (a.cls.join b.cls)
  | .fclass _ d a _ => fpForm d a.cls
  | .frnd _ d a b _ _ => b.isUniform && fpForm d (a.cls.join b.cls)
  | .cvtfi _ d a b _ _ _ => b.isUniform && fpForm d (a.cls.join b.cls)
  | .cvtif _ d a _ _ => fpForm d a.cls
  | .cvtn _ d a b _ _ => b.isUniform && fpForm d ((a.cls.join b.cls).join d.cls)
  | .cvtw _ d a b _ _ => b.isUniform && fpForm d (a.cls.join b.cls)
  | .cvth _ d a b _ _ _ => fpForm d (a.cls.join b.cls)
  | .setfmt _ a _ => a.isUniform
  | .getfmt _ d => d.isV || d.isS
  | .rand _ d a b e _ m => randForm d a b e m
  | .shfl _ d a _ _ _ => d.isV && a.isV
  | .shup _ d a b _ _ => d.isV && a.isV && b.isUniform
  | .shdn _ d a b _ _ => d.isV && a.isV && b.isUniform
  | .bcast _ d a b _ _ => d.isV && a.isV && b.isUniform
  | .vany _ d a _ => (d.isV || d.isP) && (a.isV || a.isP)
  | .vbal _ d a _ => d.isV && (a.isV || a.isP)
  | .rdadd _ d a _ _ => d.isV && a.isV
  | .rdmin _ d a _ _ => d.isV && a.isV
  | .ld _ d b s _ _ _ => loadForm d b s
  | .ldsx _ d b s _ _ _ => loadForm d b s && s != 3#2
  | .st _ d b s _ _ => storeForm d b s
  | .ldsc _ d b s _ _ => loadForm d b s
  | .stsc _ d b s _ _ => storeForm d b s
  | .amo _ d b s _ p _ => storeForm d b s && atomicForm s p
  | .amor _ d b s _ p _ => amorForm d b s && atomicForm s p
  | .cas _ d b s _ _ => casForm d b s
  | .fence _ k g => k.toNat ≤ 2 && g.toNat ≤ 4
  | .ifence _ => true
  | .pf _ b _ _ _ _ => b.isBase
  | .l1inv _ => true
  | .shtake _ d a _ => d.isS && a.isUniform
  | .shput _ a b _ => a.isUniform && b.isUniform
  | .shqry _ d a => d.isS && a.isUniform
  | .waite _ _ _ => true
  | .tld _ _ l _ _ v _ _ => if l then v.isBase else v.isS
  | .tst _ _ l _ _ v _ _ => if l then v.isBase else v.isS
  | .tmov _ _ _ _ _ v e f => v.isV && (f || !e)
  | .zclr _ _ _ => true
  | .zrd _ _ l x i v f => zrdForm l x i v f
  | .zxf _ _ _ _ _ => true
  | .mma _ _ _ _ _ _ _ => true
  | .mmas _ _ _ _ _ _ _ _ => true
  | .matrixKStep _ _ => true
  | .sld _ d a b _ _ m => keyForm a b && (if m then d.isEven else d.isV)
  | .sst _ d a b _ _ m => keyForm a b && (!m || d.isEven || d.isS)
  | .scur _ d a b _ _ => keyForm a b && d.isEven
  | .snxt _ d a b _ _ => cursorForm d a b
  | .sisx _ d a b _ _ => cursorForm d a b
  | .singleKeyOperation _ => true
  | .engStk _ d _ _ => d.isS
  | .engCpy _ d _ _ => d.isS
  | .engDense _ d _ _ => d.isS
  | .engSpar _ d _ _ => d.isS
  | .engDsp _ d _ => d.isS
  | .engCmb _ d _ _ => d.isS
  | .engQapp _ d _ _ => d.isS
  | .engGcond _ d _ _ => d.isS
  | .engLvlw _ d _ _ => d.isS
  | .engCancel _ d _ _ => d.isS
  | .engHash _ d _ => d.isS
  | .engKgrow _ d _ _ => d.isS
  | .engineShoePublish _ => true
  | .ticketFill _ => true
  | .barArrive _ d _ _ => d.isS
  | .barWait _ _ _ => true
  | .barSync _ _ _ => true
  | .barSyncCompletion _ => true
  | .sysRdsr _ d _ _ => d.isS
  | .sysWrsr _ d _ _ => d.isS
  | .shoeConfigure _ _ _ => true
  | .sysHalt _ => true
  | .producerWrite _ _ => true
  | .mergeStep _ _ => true
  | .shoeTakeServe _ _ _ => true
  | .runIssue _ => true
  | .squadDemotion _ => true
  | .squadPromotion _ => true
  | .squadRetirement _ => true
  | .squadStop _ => true
  | .powerTokenPass _ _ => true
  | .subarrayPowerGate _ _ => true
  | .subarrayWake _ _ => true
  | .queueRecordTake _ _ => true
  | .kernelNodeFire _ _ => true
  | .recordNodeFire _ _ => true
  | .recordNodeTimeout _ _ => true
  | .conditionalNodeFire _ _ => true
  | .whileNodeFire _ _ => true
  | .launchStart _ => true
  | .teamStart _ => true
  | .launchCompletion _ => true
  | .jobCompletion _ => true
  | .graphRegistration _ _ _ _ => true
  | .preemptionRequest _ _ => true
  | .drainLimitExpiry _ => true
  | .teamContextSave _ => true
  | .teamResume _ _ => true
  | .pageWalk _ _ _ => true
  | .shootDown _ _ _ => true
  | .promotion _ _ _ => true
  | .migrationRequest _ _ _ => true
  | .migrationCompletion _ _ => true
  | .hostMemoryAccess _ _ => true
  | .peerAccess _ _ _ => true
  | .linkPortDown _ => true
  | .throttle _ _ _ => true
  | .reset => true
  | .firmwareReady => true
  | .attestationReport _ => true
  | .bootstRead => true
  | .notificationRingSetup _ _ => true
  | .mgmtRegisterWrite _ _ => true
  | .coreCounterClear _ => true
  | .objectLoad _ => true
  | .objectUnload _ => true
  | .debugStop _ => true
  | .causalExperiment _ => true
  | .waitForGraphSample => true
  | .registerParityFailure _ => true
  | .dieL2Acceptance _ _ => true
  | .homeAcceptance _ _ => true
  | .linkRetrainComplete _ => true

/-! ## Registers read and written -/

/-- The registers a word reads, in the order its description lists its sources, each with its E bit;
the registers it writes; and, where R62 applies, the operand code that TINFO1 reports. -/
structure Usage where
  srcs : List (Opnd × Bool)
  dst : List Opnd
  part : Option Nat
deriving DecidableEq, Repr

/-- R62 applies to a destination of class U or A. -/
def partCode (d : Opnd) : Option Nat := if d.isS || d.isA then some d.code.toNat else none

/-- R155: the V form reads and writes a pair. -/
def imadUsage (d a b : Opnd) (e f : Bool) : Usage :=
  ⟨[(a, e), (b, f)] ++ d.pair.map (·, false), d.pair, partCode d⟩

/-- R291. -/
def zrdUsage (x : BitVec 5) (v : Opnd) (f : BitVec 2) : Usage :=
  match f.toNat with
  | 0 => ⟨[(sReg x, false)], [v], none⟩
  | 1 => ⟨[(sReg x, false)], [], none⟩
  | _ => ⟨[], [v], partCode v⟩

/-- The register use of each word; `fmt` decides whether a matrix word reads its scale descriptor (R294). -/
def usage (fmt : Word) : Instr → Usage
  | .nop _ => ⟨[], [], none⟩
  | .seg _ => ⟨[], [], none⟩
  | .nxt _ _ => ⟨[], [], none⟩
  | .nxtc _ p _ _ e => ⟨[(p, e)], [], none⟩
  | .nxti _ p e => ⟨[(p, e)], [], none⟩
  | .deal => ⟨[], [], none⟩
  | .fold _ => ⟨[], [], none⟩
  | .call _ _ => ⟨[], [], none⟩
  | .callp _ _ _ => ⟨[], [], none⟩
  | .ret _ => ⟨[], [], none⟩
  | .trap _ _ => ⟨[], [], none⟩
  | .eret _ _ => ⟨[], [], none⟩
  | .brk _ _ => ⟨[], [], none⟩
  | .emset _ a e => ⟨[(a, e)], [], none⟩
  | .emget _ d _ => ⟨[], [d], partCode d⟩
  | .yield _ => ⟨[], [], none⟩
  | .iadd _ d a b e f _ => ⟨[(a, e), (b, f)], [d], partCode d⟩
  | .isub _ d a b e f _ => ⟨[(a, e), (b, f)], [d], partCode d⟩
  | .imul _ d a b e f _ => ⟨[(a, e), (b, f)], [d], partCode d⟩
  | .imulh _ d a b e f _ => ⟨[(a, e), (b, f)], [d], partCode d⟩
  | .imad _ d a b e f _ => imadUsage d a b e f
  | .imin _ d a b e f _ => ⟨[(a, e), (b, f)], [d], partCode d⟩
  | .imax _ d a b e f _ => ⟨[(a, e), (b, f)], [d], partCode d⟩
  | .iabs _ d a e _ => ⟨[(a, e)], [d], partCode d⟩
  | .and _ d a b e f => ⟨[(a, e), (b, f)], [d], partCode d⟩
  | .or _ d a b e f => ⟨[(a, e), (b, f)], [d], partCode d⟩
  | .xor _ d a b e f => ⟨[(a, e), (b, f)], [d], partCode d⟩
  | .shl _ d a b e f _ => ⟨[(a, e), (b, f)], [d], partCode d⟩
  | .shr _ d a b e f => ⟨[(a, e), (b, f)], [d], partCode d⟩
  | .sar _ d a b e f => ⟨[(a, e), (b, f)], [d], partCode d⟩
  | .iaddmin _ d a b e f => ⟨[(a, e), (b, f), (d, false)], [d], partCode d⟩
  | .cmov _ d a b e f => ⟨[(a, e), (b, f), (d, false)], [d], partCode d⟩
  | .iceq _ d a b e f => ⟨[(a, e), (b, f)], [d], partCode d⟩
  | .icne _ d a b e f => ⟨[(a, e), (b, f)], [d], partCode d⟩
  | .iclt _ d a b e f => ⟨[(a, e), (b, f)], [d], partCode d⟩
  | .icle _ d a b e f => ⟨[(a, e), (b, f)], [d], partCode d⟩
  | .icltu _ d a b e f => ⟨[(a, e), (b, f)], [d], partCode d⟩
  | .icleu _ d a b e f => ⟨[(a, e), (b, f)], [d], partCode d⟩
  | .popc _ d a e => ⟨[(a, e)], [d], partCode d⟩
  | .clz _ d a e => ⟨[(a, e)], [d], partCode d⟩
  | .brev _ d a e => ⟨[(a, e)], [d], partCode d⟩
  | .bfx _ d a b e f _ => ⟨[(a, e), (b, f)], [d], partCode d⟩
  | .bfi _ d a b e f => ⟨[(a, e), (b, f), (d, false)], [d], partCode d⟩
  | .idiv _ d a b e f _ => ⟨[(a, e), (b, f)], [d], partCode d⟩
  | .irem _ d a b e f _ => ⟨[(a, e), (b, f)], [d], partCode d⟩
  | .aget _ d a e _ => ⟨[(a, e)], [d], partCode d⟩
  | .rget _ d _ b _ f => ⟨[(b, f)], [d], partCode d⟩
  | .rput _ d _ b f => ⟨[(d, false), (b, f)], [], none⟩
  | .iaddi _ d a _ => ⟨[(a, false)], [d], partCode d⟩
  | .andi _ d a _ => ⟨[(a, false)], [d], partCode d⟩
  | .ori _ d a _ => ⟨[(a, false)], [d], partCode d⟩
  | .xori _ d a _ => ⟨[(a, false)], [d], partCode d⟩
  | .shli _ d a _ => ⟨[(a, false)], [d], partCode d⟩
  | .shri _ d a _ => ⟨[(a, false)], [d], partCode d⟩
  | .sari _ d a _ => ⟨[(a, false)], [d], partCode d⟩
  | .iceqi _ d a _ => ⟨[(a, false)], [d], partCode d⟩
  | .iclti _ d a _ => ⟨[(a, false)], [d], partCode d⟩
  | .icltui _ d a _ => ⟨[(a, false)], [d], partCode d⟩
  | .movk _ d _ => ⟨[], [d], partCode d⟩
  | .movkh _ d _ => ⟨[(d, false)], [d], partCode d⟩
  | .prom _ d a b e f m => ⟨if d.isA then [(a, e), (b, f)] else [(a, e)], if m then d.pair else [d], partCode d⟩
  | .demu _ d a e _ => ⟨[(a, e)], [d], partCode d⟩
  | .uniq _ d a b e f => ⟨[(a, e), (b, f)], [d], partCode d⟩
  | .sete _ d _ => ⟨[], [d], partCode d⟩
  | .fadd _ d a b e f => ⟨[(a, e), (b, f)], [d], partCode d⟩
  | .fsub _ d a b e f => ⟨[(a, e), (b, f)], [d], partCode d⟩
  | .fmul _ d a b e f => ⟨[(a, e), (b, f)], [d], partCode d⟩
  | .ffma _ d a b e f _ => ⟨[(a, e), (b, f), (d, false)], [d], partCode d⟩
  | .fmin _ d a b e f => ⟨[(a, e), (b, f)], [d], partCode d⟩
  | .fmax _ d a b e f => ⟨[(a, e), (b, f)], [d], partCode d⟩
  | .frcp _ d a e => ⟨[(a, e)], [d], partCode d⟩
  | .frsq _ d a e => ⟨[(a, e)], [d], partCode d⟩
  | .fsqrt _ d a e => ⟨[(a, e)], [d], partCode d⟩
  | .fexp2 _ d a e => ⟨[(a, e)], [d], partCode d⟩
  | .flog2 _ d a e => ⟨[(a, e)], [d], partCode d⟩
  | .fceq _ d a b e f => ⟨[(a, e), (b, f)], [d], partCode d⟩
  | .fclt _ d a b e f => ⟨[(a, e), (b, f)], [d], partCode d⟩
  | .fcle _ d a b e f => ⟨[(a, e), (b, f)], [d], partCode d⟩
  | .fclass _ d a e => ⟨[(a, e)], [d], partCode d⟩
  | .frnd _ d a b e f => ⟨[(a, e), (b, f)], [d], partCode d⟩
  | .cvtfi _ d a b e f _ => ⟨[(a, e), (b, f)], [d], partCode d⟩
  | .cvtif _ d a e _ => ⟨[(a, e)], [d], partCode d⟩
  | .cvtn _ d a b e f => ⟨[(a, e), (b, f), (d, false)], [d], partCode d⟩
  | .cvtw _ d a b e f => ⟨[(a, e), (b, f)], [d], partCode d⟩
  | .cvth _ d a b e f _ => ⟨[(a, e), (b, f)], [d], partCode d⟩
  | .setfmt _ a e => ⟨[(a, e)], [], some 0x7E⟩
  | .getfmt _ d => ⟨[], [d], partCode d⟩
  | .rand _ d a b e f m => ⟨(if m then [(b, f)] else [(a, e), (b, f)]), [d], partCode d⟩
  | .shfl _ d a b e f => ⟨[(a, e), (b, f)], [d], partCode d⟩
  | .shup _ d a b e f => ⟨[(a, e), (b, f), (d, false)], [d], partCode d⟩
  | .shdn _ d a b e f => ⟨[(a, e), (b, f), (d, false)], [d], partCode d⟩
  | .bcast _ d a b e f => ⟨[(a, e), (b, f)], [d], partCode d⟩
  | .vany _ d a e => ⟨[(a, e)], [d], partCode d⟩
  | .vbal _ d a e => ⟨[(a, e)], [d], partCode d⟩
  | .rdadd _ d a e _ => ⟨[(a, e)], [d], partCode d⟩
  | .rdmin _ d a e _ => ⟨[(a, e)], [d], partCode d⟩
  | .ld _ d b s _ e _ => ⟨b.baseUse e, wide s d, partCode d⟩
  | .ldsx _ d b s _ e _ => ⟨b.baseUse e, wide s d, partCode d⟩
  | .st _ d b s e _ => ⟨b.baseUse e ++ (wide s d).map (·, false), [], none⟩
  | .ldsc _ d b s e _ => ⟨b.baseUse e, wide s d, partCode d⟩
  | .stsc _ d b s e _ => ⟨b.baseUse e ++ (wide s d).map (·, false), [], none⟩
  | .amo _ d b s e _ _ => ⟨b.baseUse e ++ (wide s d).map (·, false), [], none⟩
  | .amor _ d b s e _ _ => ⟨b.baseUse e ++ (wide s d).map (·, false), wide s d, partCode d⟩
  | .cas _ d b s e _ => ⟨b.baseUse e ++ (casGroup s d).map (·, false), wide s d, partCode d⟩
  | .fence _ _ _ => ⟨[], [], none⟩
  | .ifence _ => ⟨[], [], none⟩
  | .pf _ b _ _ e _ => ⟨b.baseUse e, [], none⟩
  | .l1inv _ => ⟨[], [], none⟩
  | .shtake _ d a _ => ⟨[(a, false)], [d], partCode d⟩
  | .shput _ a b _ => ⟨[(a, false), (b, false)], [], none⟩
  | .shqry _ d a => ⟨[(a, false)], [d], partCode d⟩
  | .waite _ a b => ⟨[(a, false), (b, false)], [], none⟩
  | .tld _ _ _ x _ v e _ => ⟨(sReg x, false) :: v.baseUse e, [], none⟩
  | .tst _ _ _ x _ v e _ => ⟨(sReg x, false) :: v.baseUse e, [], none⟩
  | .tmov _ _ _ x _ v e f => ⟨if f then [(sReg x, false), (v, e)] else [(sReg x, false)], if f then [] else [v], none⟩
  | .zclr _ _ _ => ⟨[], [], none⟩
  | .zrd _ _ _ x _ v f => zrdUsage x v f
  | .zxf _ _ b e _ => ⟨[(sReg b, e)], [], none⟩
  | .mma _ _ _ b s _ e => ⟨(sReg b, e) :: (if fmt.getLsbD 18 then [(sReg s, false)] else []), [], none⟩
  | .mmas _ _ _ b s _ _ e => ⟨(sReg b, e) :: (if fmt.getLsbD 18 then [(sReg s, false)] else []), [], none⟩
  | .matrixKStep _ _ => ⟨[], [], none⟩
  | .sld _ d a b e f m => ⟨a.baseUse e ++ [(b, f)], if m then d.pair else [d], none⟩
  | .sst _ d a b e f m => ⟨a.baseUse e ++ [(b, f)] ++ (if m then d.pair else [d]).map (·, false), [], none⟩
  | .scur _ d a b e f => ⟨a.baseUse e ++ [(b, f)], d.pair, none⟩
  | .snxt _ d a b e f => ⟨a.baseUse e ++ [(b, f)], d.group4 ++ a.pair, none⟩
  | .sisx _ d a b e f => ⟨a.baseUse e ++ [(b, f)], d.group4 ++ a.pair, none⟩
  | .singleKeyOperation _ => ⟨[], [], none⟩
  | .engStk _ d a b => ⟨[(sReg a, false), (sReg b, false)], [d], partCode d⟩
  | .engCpy _ d a b => ⟨[(sReg a, false), (sReg b, false)], [d], partCode d⟩
  | .engDense _ d a b => ⟨[(sReg a, false), (sReg b, false)], [d], partCode d⟩
  | .engSpar _ d a b => ⟨[(sReg a, false), (sReg b, false)], [d], partCode d⟩
  | .engDsp _ d a => ⟨[(sReg a, false)], [d], partCode d⟩
  | .engCmb _ d a b => ⟨[(sReg a, false), (sReg b, false)], [d], partCode d⟩
  | .engQapp _ d a b => ⟨[(sReg a, false), (sReg b, false)], [d], partCode d⟩
  | .engGcond _ d a b => ⟨[(sReg a, false), (sReg b, false)], [d], partCode d⟩
  | .engLvlw _ d a b => ⟨[(sReg a, false), (sReg b, false)], [d], partCode d⟩
  | .engCancel _ d a b => ⟨[(sReg a, false), (sReg b, false)], [d], partCode d⟩
  | .engHash _ d a => ⟨[(sReg a, false)], [d], partCode d⟩
  | .engKgrow _ d a b => ⟨[(sReg a, false), (sReg b, false)], [d], partCode d⟩
  | .engineShoePublish _ => ⟨[], [], none⟩
  | .ticketFill _ => ⟨[], [], none⟩
  | .barArrive _ d a _ => ⟨[(sReg a, false)], [d], partCode d⟩
  | .barWait _ b _ => ⟨[(sReg b, false)], [], none⟩
  | .barSync _ a _ => ⟨[(sReg a, false)], [], none⟩
  | .barSyncCompletion _ => ⟨[], [], none⟩
  | .sysRdsr _ d _ _ => ⟨[], [d], partCode d⟩
  | .sysWrsr _ d a b => ⟨[(d, false)], [], some (0x400 + (a ++ b).toNat)⟩
  | .shoeConfigure _ _ _ => ⟨[], [], none⟩
  | .sysHalt _ => ⟨[], [], none⟩
  | .producerWrite _ _ => ⟨[], [], none⟩
  | .mergeStep _ _ => ⟨[], [], none⟩
  | .shoeTakeServe _ _ _ => ⟨[], [], none⟩
  | .runIssue _ => ⟨[], [], none⟩
  | .squadDemotion _ => ⟨[], [], none⟩
  | .squadPromotion _ => ⟨[], [], none⟩
  | .squadRetirement _ => ⟨[], [], none⟩
  | .squadStop _ => ⟨[], [], none⟩
  | .powerTokenPass _ _ => ⟨[], [], none⟩
  | .subarrayPowerGate _ _ => ⟨[], [], none⟩
  | .subarrayWake _ _ => ⟨[], [], none⟩
  | .queueRecordTake _ _ => ⟨[], [], none⟩
  | .kernelNodeFire _ _ => ⟨[], [], none⟩
  | .recordNodeFire _ _ => ⟨[], [], none⟩
  | .recordNodeTimeout _ _ => ⟨[], [], none⟩
  | .conditionalNodeFire _ _ => ⟨[], [], none⟩
  | .whileNodeFire _ _ => ⟨[], [], none⟩
  | .launchStart _ => ⟨[], [], none⟩
  | .teamStart _ => ⟨[], [], none⟩
  | .launchCompletion _ => ⟨[], [], none⟩
  | .jobCompletion _ => ⟨[], [], none⟩
  | .graphRegistration _ _ _ _ => ⟨[], [], none⟩
  | .preemptionRequest _ _ => ⟨[], [], none⟩
  | .drainLimitExpiry _ => ⟨[], [], none⟩
  | .teamContextSave _ => ⟨[], [], none⟩
  | .teamResume _ _ => ⟨[], [], none⟩
  | .pageWalk _ _ _ => ⟨[], [], none⟩
  | .shootDown _ _ _ => ⟨[], [], none⟩
  | .promotion _ _ _ => ⟨[], [], none⟩
  | .migrationRequest _ _ _ => ⟨[], [], none⟩
  | .migrationCompletion _ _ => ⟨[], [], none⟩
  | .hostMemoryAccess _ _ => ⟨[], [], none⟩
  | .peerAccess _ _ _ => ⟨[], [], none⟩
  | .linkPortDown _ => ⟨[], [], none⟩
  | .throttle _ _ _ => ⟨[], [], none⟩
  | .reset => ⟨[], [], none⟩
  | .firmwareReady => ⟨[], [], none⟩
  | .attestationReport _ => ⟨[], [], none⟩
  | .bootstRead => ⟨[], [], none⟩
  | .notificationRingSetup _ _ => ⟨[], [], none⟩
  | .mgmtRegisterWrite _ _ => ⟨[], [], none⟩
  | .coreCounterClear _ => ⟨[], [], none⟩
  | .objectLoad _ => ⟨[], [], none⟩
  | .objectUnload _ => ⟨[], [], none⟩
  | .debugStop _ => ⟨[], [], none⟩
  | .causalExperiment _ => ⟨[], [], none⟩
  | .waitForGraphSample => ⟨[], [], none⟩
  | .registerParityFailure _ => ⟨[], [], none⟩
  | .dieL2Acceptance _ _ => ⟨[], [], none⟩
  | .homeAcceptance _ _ => ⟨[], [], none⟩
  | .linkRetrainComplete _ => ⟨[], [], none⟩

/-! ## Pipes and chains -/

/-- The pipes of Table 9-1. -/
inductive Pipe where
  | c | i | f | m | x
deriving DecidableEq, Repr

/-- The sequencer or format state a word writes (R106). -/
inductive SeqPiece where
  | em | fmt | brNext
deriving DecidableEq, Repr

/-- The pipe of each word (R109). -/
def pipe : Instr → Option Pipe
  | .nop _ => none
  | .seg _ => some .c
  | .nxt _ _ => some .c
  | .nxtc _ _ _ _ _ => some .c
  | .nxti _ _ _ => some .c
  | .deal => some .c
  | .fold _ => some .c
  | .call _ _ => some .c
  | .callp _ _ _ => some .c
  | .ret _ => some .c
  | .trap _ _ => some .c
  | .eret _ _ => some .c
  | .brk _ _ => some .c
  | .emset _ _ _ => some .c
  | .emget _ _ _ => some .c
  | .yield _ => some .c
  | .iadd _ _ _ _ _ _ _ => some .i
  | .isub _ _ _ _ _ _ _ => some .i
  | .imul _ _ _ _ _ _ _ => some .i
  | .imulh _ _ _ _ _ _ _ => some .i
  | .imad _ _ _ _ _ _ _ => some .i
  | .imin _ _ _ _ _ _ _ => some .i
  | .imax _ _ _ _ _ _ _ => some .i
  | .iabs _ _ _ _ _ => some .i
  | .and _ _ _ _ _ _ => some .i
  | .or _ _ _ _ _ _ => some .i
  | .xor _ _ _ _ _ _ => some .i
  | .shl _ _ _ _ _ _ _ => some .i
  | .shr _ _ _ _ _ _ => some .i
  | .sar _ _ _ _ _ _ => some .i
  | .iaddmin _ _ _ _ _ _ => some .i
  | .cmov _ _ _ _ _ _ => some .i
  | .iceq _ _ _ _ _ _ => some .i
  | .icne _ _ _ _ _ _ => some .i
  | .iclt _ _ _ _ _ _ => some .i
  | .icle _ _ _ _ _ _ => some .i
  | .icltu _ _ _ _ _ _ => some .i
  | .icleu _ _ _ _ _ _ => some .i
  | .popc _ _ _ _ => some .i
  | .clz _ _ _ _ => some .i
  | .brev _ _ _ _ => some .i
  | .bfx _ _ _ _ _ _ _ => some .i
  | .bfi _ _ _ _ _ _ => some .i
  | .idiv _ _ _ _ _ _ _ => some .i
  | .irem _ _ _ _ _ _ _ => some .i
  | .aget _ _ _ _ _ => some .i
  | .rget _ _ _ _ _ _ => some .i
  | .rput _ _ _ _ _ => some .i
  | .iaddi _ _ _ _ => some .i
  | .andi _ _ _ _ => some .i
  | .ori _ _ _ _ => some .i
  | .xori _ _ _ _ => some .i
  | .shli _ _ _ _ => some .i
  | .shri _ _ _ _ => some .i
  | .sari _ _ _ _ => some .i
  | .iceqi _ _ _ _ => some .i
  | .iclti _ _ _ _ => some .i
  | .icltui _ _ _ _ => some .i
  | .movk _ _ _ => some .i
  | .movkh _ _ _ => some .i
  | .prom _ _ _ _ _ _ _ => some .i
  | .demu _ _ _ _ _ => some .i
  | .uniq _ _ _ _ _ _ => some .i
  | .sete _ _ _ => some .i
  | .fadd _ _ _ _ _ _ => some .f
  | .fsub _ _ _ _ _ _ => some .f
  | .fmul _ _ _ _ _ _ => some .f
  | .ffma _ _ _ _ _ _ _ => some .f
  | .fmin _ _ _ _ _ _ => some .f
  | .fmax _ _ _ _ _ _ => some .f
  | .frcp _ _ _ _ => some .f
  | .frsq _ _ _ _ => some .f
  | .fsqrt _ _ _ _ => some .f
  | .fexp2 _ _ _ _ => some .f
  | .flog2 _ _ _ _ => some .f
  | .fceq _ _ _ _ _ _ => some .f
  | .fclt _ _ _ _ _ _ => some .f
  | .fcle _ _ _ _ _ _ => some .f
  | .fclass _ _ _ _ => some .f
  | .frnd _ _ _ _ _ _ => some .f
  | .cvtfi _ _ _ _ _ _ _ => some .f
  | .cvtif _ _ _ _ _ => some .f
  | .cvtn _ _ _ _ _ _ => some .f
  | .cvtw _ _ _ _ _ _ => some .f
  | .cvth _ _ _ _ _ _ _ => some .f
  | .setfmt _ _ _ => some .f
  | .getfmt _ _ => some .f
  | .rand _ _ _ _ _ _ _ => some .f
  | .shfl _ _ _ _ _ _ => some .f
  | .shup _ _ _ _ _ _ => some .f
  | .shdn _ _ _ _ _ _ => some .f
  | .bcast _ _ _ _ _ _ => some .f
  | .vany _ _ _ _ => some .f
  | .vbal _ _ _ _ => some .f
  | .rdadd _ _ _ _ _ => some .f
  | .rdmin _ _ _ _ _ => some .f
  | .ld _ _ _ _ _ _ _ => some .m
  | .ldsx _ _ _ _ _ _ _ => some .m
  | .st _ _ _ _ _ _ => some .m
  | .ldsc _ _ _ _ _ _ => some .m
  | .stsc _ _ _ _ _ _ => some .m
  | .amo _ _ _ _ _ _ _ => some .m
  | .amor _ _ _ _ _ _ _ => some .m
  | .cas _ _ _ _ _ _ => some .m
  | .fence _ _ _ => some .m
  | .ifence _ => some .m
  | .pf _ _ _ _ _ _ => some .m
  | .l1inv _ => some .m
  | .shtake _ _ _ _ => some .m
  | .shput _ _ _ _ => some .m
  | .shqry _ _ _ => some .m
  | .waite _ _ _ => some .m
  | .tld _ _ _ _ _ _ _ _ => some .x
  | .tst _ _ _ _ _ _ _ _ => some .x
  | .tmov _ _ _ _ _ _ _ _ => some .x
  | .zclr _ _ _ => some .x
  | .zrd _ _ _ _ _ _ _ => some .x
  | .zxf _ _ _ _ _ => some .x
  | .mma _ _ _ _ _ _ _ => some .x
  | .mmas _ _ _ _ _ _ _ _ => some .x
  | .matrixKStep _ _ => none
  | .sld _ _ _ _ _ _ _ => some .m
  | .sst _ _ _ _ _ _ _ => some .m
  | .scur _ _ _ _ _ _ => some .m
  | .snxt _ _ _ _ _ _ => some .m
  | .sisx _ _ _ _ _ _ => some .m
  | .singleKeyOperation _ => none
  | .engStk _ _ _ _ => some .c
  | .engCpy _ _ _ _ => some .c
  | .engDense _ _ _ _ => some .c
  | .engSpar _ _ _ _ => some .c
  | .engDsp _ _ _ => some .c
  | .engCmb _ _ _ _ => some .c
  | .engQapp _ _ _ _ => some .c
  | .engGcond _ _ _ _ => some .c
  | .engLvlw _ _ _ _ => some .c
  | .engCancel _ _ _ _ => some .c
  | .engHash _ _ _ => some .c
  | .engKgrow _ _ _ _ => some .c
  | .engineShoePublish _ => none
  | .ticketFill _ => none
  | .barArrive _ _ _ _ => some .c
  | .barWait _ _ _ => some .c
  | .barSync _ _ _ => some .c
  | .barSyncCompletion _ => none
  | .sysRdsr _ _ _ _ => some .c
  | .sysWrsr _ _ _ _ => some .c
  | .shoeConfigure _ _ _ => none
  | .sysHalt _ => some .c
  | .producerWrite _ _ => none
  | .mergeStep _ _ => none
  | .shoeTakeServe _ _ _ => none
  | .runIssue _ => none
  | .squadDemotion _ => none
  | .squadPromotion _ => none
  | .squadRetirement _ => none
  | .squadStop _ => none
  | .powerTokenPass _ _ => none
  | .subarrayPowerGate _ _ => none
  | .subarrayWake _ _ => none
  | .queueRecordTake _ _ => none
  | .kernelNodeFire _ _ => none
  | .recordNodeFire _ _ => none
  | .recordNodeTimeout _ _ => none
  | .conditionalNodeFire _ _ => none
  | .whileNodeFire _ _ => none
  | .launchStart _ => none
  | .teamStart _ => none
  | .launchCompletion _ => none
  | .jobCompletion _ => none
  | .graphRegistration _ _ _ _ => none
  | .preemptionRequest _ _ => none
  | .drainLimitExpiry _ => none
  | .teamContextSave _ => none
  | .teamResume _ _ => none
  | .pageWalk _ _ _ => none
  | .shootDown _ _ _ => none
  | .promotion _ _ _ => none
  | .migrationRequest _ _ _ => none
  | .migrationCompletion _ _ => none
  | .hostMemoryAccess _ _ => none
  | .peerAccess _ _ _ => none
  | .linkPortDown _ => none
  | .throttle _ _ _ => none
  | .reset => none
  | .firmwareReady => none
  | .attestationReport _ => none
  | .bootstRead => none
  | .notificationRingSetup _ _ => none
  | .mgmtRegisterWrite _ _ => none
  | .coreCounterClear _ => none
  | .objectLoad _ => none
  | .objectUnload _ => none
  | .debugStop _ => none
  | .causalExperiment _ => none
  | .waitForGraphSample => none
  | .registerParityFailure _ => none
  | .dieL2Acceptance _ _ => none
  | .homeAcceptance _ _ => none
  | .linkRetrainComplete _ => none

/-- The words that stand alone (R108). -/
def standsAlone : Instr → Bool
  | .nop _ => false
  | .seg _ => true
  | .nxt _ _ => false
  | .nxtc _ _ _ _ _ => false
  | .nxti _ _ _ => false
  | .deal => true
  | .fold _ => false
  | .call _ _ => true
  | .callp _ _ _ => true
  | .ret _ => false
  | .trap _ _ => true
  | .eret _ _ => true
  | .brk _ _ => true
  | .emset _ _ _ => false
  | .emget _ _ _ => false
  | .yield _ => true
  | .iadd _ _ _ _ _ _ _ => false
  | .isub _ _ _ _ _ _ _ => false
  | .imul _ _ _ _ _ _ _ => false
  | .imulh _ _ _ _ _ _ _ => false
  | .imad _ _ _ _ _ _ _ => false
  | .imin _ _ _ _ _ _ _ => false
  | .imax _ _ _ _ _ _ _ => false
  | .iabs _ _ _ _ _ => false
  | .and _ _ _ _ _ _ => false
  | .or _ _ _ _ _ _ => false
  | .xor _ _ _ _ _ _ => false
  | .shl _ _ _ _ _ _ _ => false
  | .shr _ _ _ _ _ _ => false
  | .sar _ _ _ _ _ _ => false
  | .iaddmin _ _ _ _ _ _ => false
  | .cmov _ _ _ _ _ _ => false
  | .iceq _ _ _ _ _ _ => false
  | .icne _ _ _ _ _ _ => false
  | .iclt _ _ _ _ _ _ => false
  | .icle _ _ _ _ _ _ => false
  | .icltu _ _ _ _ _ _ => false
  | .icleu _ _ _ _ _ _ => false
  | .popc _ _ _ _ => false
  | .clz _ _ _ _ => false
  | .brev _ _ _ _ => false
  | .bfx _ _ _ _ _ _ _ => false
  | .bfi _ _ _ _ _ _ => false
  | .idiv _ _ _ _ _ _ _ => false
  | .irem _ _ _ _ _ _ _ => false
  | .aget _ _ _ _ _ => false
  | .rget _ _ _ _ _ _ => false
  | .rput _ _ _ _ _ => false
  | .iaddi _ _ _ _ => false
  | .andi _ _ _ _ => false
  | .ori _ _ _ _ => false
  | .xori _ _ _ _ => false
  | .shli _ _ _ _ => false
  | .shri _ _ _ _ => false
  | .sari _ _ _ _ => false
  | .iceqi _ _ _ _ => false
  | .iclti _ _ _ _ => false
  | .icltui _ _ _ _ => false
  | .movk _ _ _ => false
  | .movkh _ _ _ => false
  | .prom _ _ _ _ _ _ _ => false
  | .demu _ _ _ _ _ => false
  | .uniq _ _ _ _ _ _ => false
  | .sete _ _ _ => false
  | .fadd _ _ _ _ _ _ => false
  | .fsub _ _ _ _ _ _ => false
  | .fmul _ _ _ _ _ _ => false
  | .ffma _ _ _ _ _ _ _ => false
  | .fmin _ _ _ _ _ _ => false
  | .fmax _ _ _ _ _ _ => false
  | .frcp _ _ _ _ => false
  | .frsq _ _ _ _ => false
  | .fsqrt _ _ _ _ => false
  | .fexp2 _ _ _ _ => false
  | .flog2 _ _ _ _ => false
  | .fceq _ _ _ _ _ _ => false
  | .fclt _ _ _ _ _ _ => false
  | .fcle _ _ _ _ _ _ => false
  | .fclass _ _ _ _ => false
  | .frnd _ _ _ _ _ _ => false
  | .cvtfi _ _ _ _ _ _ _ => false
  | .cvtif _ _ _ _ _ => false
  | .cvtn _ _ _ _ _ _ => false
  | .cvtw _ _ _ _ _ _ => false
  | .cvth _ _ _ _ _ _ _ => false
  | .setfmt _ _ _ => false
  | .getfmt _ _ => false
  | .rand _ _ _ _ _ _ _ => false
  | .shfl _ _ _ _ _ _ => false
  | .shup _ _ _ _ _ _ => false
  | .shdn _ _ _ _ _ _ => false
  | .bcast _ _ _ _ _ _ => false
  | .vany _ _ _ _ => false
  | .vbal _ _ _ _ => false
  | .rdadd _ _ _ _ _ => false
  | .rdmin _ _ _ _ _ => false
  | .ld _ _ _ _ _ _ _ => false
  | .ldsx _ _ _ _ _ _ _ => false
  | .st _ _ _ _ _ _ => false
  | .ldsc _ _ _ _ _ _ => false
  | .stsc _ _ _ _ _ _ => false
  | .amo _ _ _ _ _ _ _ => false
  | .amor _ _ _ _ _ _ _ => false
  | .cas _ _ _ _ _ _ => false
  | .fence _ _ _ => false
  | .ifence _ => false
  | .pf _ _ _ _ _ _ => false
  | .l1inv _ => false
  | .shtake _ _ _ _ => false
  | .shput _ _ _ _ => false
  | .shqry _ _ _ => false
  | .waite _ _ _ => false
  | .tld _ _ _ _ _ _ _ _ => false
  | .tst _ _ _ _ _ _ _ _ => false
  | .tmov _ _ _ _ _ _ _ _ => false
  | .zclr _ _ _ => false
  | .zrd _ _ _ _ _ _ _ => false
  | .zxf _ _ _ _ _ => false
  | .mma _ _ _ _ _ _ _ => false
  | .mmas _ _ _ _ _ _ _ _ => false
  | .matrixKStep _ _ => false
  | .sld _ _ _ _ _ _ _ => false
  | .sst _ _ _ _ _ _ _ => false
  | .scur _ _ _ _ _ _ => false
  | .snxt _ _ _ _ _ _ => false
  | .sisx _ _ _ _ _ _ => false
  | .singleKeyOperation _ => false
  | .engStk _ _ _ _ => false
  | .engCpy _ _ _ _ => false
  | .engDense _ _ _ _ => false
  | .engSpar _ _ _ _ => false
  | .engDsp _ _ _ => false
  | .engCmb _ _ _ _ => false
  | .engQapp _ _ _ _ => false
  | .engGcond _ _ _ _ => false
  | .engLvlw _ _ _ _ => false
  | .engCancel _ _ _ _ => false
  | .engHash _ _ _ => false
  | .engKgrow _ _ _ _ => false
  | .engineShoePublish _ => false
  | .ticketFill _ => false
  | .barArrive _ _ _ _ => false
  | .barWait _ _ _ => false
  | .barSync _ _ _ => false
  | .barSyncCompletion _ => false
  | .sysRdsr _ _ _ _ => false
  | .sysWrsr _ _ _ _ => false
  | .shoeConfigure _ _ _ => false
  | .sysHalt _ => true
  | .producerWrite _ _ => false
  | .mergeStep _ _ => false
  | .shoeTakeServe _ _ _ => false
  | .runIssue _ => false
  | .squadDemotion _ => false
  | .squadPromotion _ => false
  | .squadRetirement _ => false
  | .squadStop _ => false
  | .powerTokenPass _ _ => false
  | .subarrayPowerGate _ _ => false
  | .subarrayWake _ _ => false
  | .queueRecordTake _ _ => false
  | .kernelNodeFire _ _ => false
  | .recordNodeFire _ _ => false
  | .recordNodeTimeout _ _ => false
  | .conditionalNodeFire _ _ => false
  | .whileNodeFire _ _ => false
  | .launchStart _ => false
  | .teamStart _ => false
  | .launchCompletion _ => false
  | .jobCompletion _ => false
  | .graphRegistration _ _ _ _ => false
  | .preemptionRequest _ _ => false
  | .drainLimitExpiry _ => false
  | .teamContextSave _ => false
  | .teamResume _ _ => false
  | .pageWalk _ _ _ => false
  | .shootDown _ _ _ => false
  | .promotion _ _ _ => false
  | .migrationRequest _ _ _ => false
  | .migrationCompletion _ _ => false
  | .hostMemoryAccess _ _ => false
  | .peerAccess _ _ _ => false
  | .linkPortDown _ => false
  | .throttle _ _ _ => false
  | .reset => false
  | .firmwareReady => false
  | .attestationReport _ => false
  | .bootstRead => false
  | .notificationRingSetup _ _ => false
  | .mgmtRegisterWrite _ _ => false
  | .coreCounterClear _ => false
  | .objectLoad _ => false
  | .objectUnload _ => false
  | .debugStop _ => false
  | .causalExperiment _ => false
  | .waitForGraphSample => false
  | .registerParityFailure _ => false
  | .dieL2Acceptance _ _ => false
  | .homeAcceptance _ _ => false
  | .linkRetrainComplete _ => false

/-- The sequencer or format state that a word writes (R106). -/
def seqWrites : Instr → List SeqPiece
  | .nop _ => []
  | .seg _ => []
  | .nxt _ _ => [.brNext]
  | .nxtc _ _ _ _ _ => [.brNext]
  | .nxti _ _ _ => [.brNext]
  | .deal => []
  | .fold _ => [.brNext]
  | .call _ _ => []
  | .callp _ _ _ => []
  | .ret _ => [.brNext]
  | .trap _ _ => []
  | .eret _ _ => []
  | .brk _ _ => []
  | .emset _ _ _ => [.em]
  | .emget _ _ _ => []
  | .yield _ => []
  | .iadd _ _ _ _ _ _ _ => []
  | .isub _ _ _ _ _ _ _ => []
  | .imul _ _ _ _ _ _ _ => []
  | .imulh _ _ _ _ _ _ _ => []
  | .imad _ _ _ _ _ _ _ => []
  | .imin _ _ _ _ _ _ _ => []
  | .imax _ _ _ _ _ _ _ => []
  | .iabs _ _ _ _ _ => []
  | .and _ _ _ _ _ _ => []
  | .or _ _ _ _ _ _ => []
  | .xor _ _ _ _ _ _ => []
  | .shl _ _ _ _ _ _ _ => []
  | .shr _ _ _ _ _ _ => []
  | .sar _ _ _ _ _ _ => []
  | .iaddmin _ _ _ _ _ _ => []
  | .cmov _ _ _ _ _ _ => []
  | .iceq _ _ _ _ _ _ => []
  | .icne _ _ _ _ _ _ => []
  | .iclt _ _ _ _ _ _ => []
  | .icle _ _ _ _ _ _ => []
  | .icltu _ _ _ _ _ _ => []
  | .icleu _ _ _ _ _ _ => []
  | .popc _ _ _ _ => []
  | .clz _ _ _ _ => []
  | .brev _ _ _ _ => []
  | .bfx _ _ _ _ _ _ _ => []
  | .bfi _ _ _ _ _ _ => []
  | .idiv _ _ _ _ _ _ _ => []
  | .irem _ _ _ _ _ _ _ => []
  | .aget _ _ _ _ _ => []
  | .rget _ _ _ _ _ _ => []
  | .rput _ _ _ _ _ => []
  | .iaddi _ _ _ _ => []
  | .andi _ _ _ _ => []
  | .ori _ _ _ _ => []
  | .xori _ _ _ _ => []
  | .shli _ _ _ _ => []
  | .shri _ _ _ _ => []
  | .sari _ _ _ _ => []
  | .iceqi _ _ _ _ => []
  | .iclti _ _ _ _ => []
  | .icltui _ _ _ _ => []
  | .movk _ _ _ => []
  | .movkh _ _ _ => []
  | .prom _ _ _ _ _ _ _ => []
  | .demu _ _ _ _ _ => []
  | .uniq _ _ _ _ _ _ => []
  | .sete _ _ _ => []
  | .fadd _ _ _ _ _ _ => []
  | .fsub _ _ _ _ _ _ => []
  | .fmul _ _ _ _ _ _ => []
  | .ffma _ _ _ _ _ _ _ => []
  | .fmin _ _ _ _ _ _ => []
  | .fmax _ _ _ _ _ _ => []
  | .frcp _ _ _ _ => []
  | .frsq _ _ _ _ => []
  | .fsqrt _ _ _ _ => []
  | .fexp2 _ _ _ _ => []
  | .flog2 _ _ _ _ => []
  | .fceq _ _ _ _ _ _ => []
  | .fclt _ _ _ _ _ _ => []
  | .fcle _ _ _ _ _ _ => []
  | .fclass _ _ _ _ => []
  | .frnd _ _ _ _ _ _ => []
  | .cvtfi _ _ _ _ _ _ _ => []
  | .cvtif _ _ _ _ _ => []
  | .cvtn _ _ _ _ _ _ => []
  | .cvtw _ _ _ _ _ _ => []
  | .cvth _ _ _ _ _ _ _ => []
  | .setfmt _ _ _ => [.fmt]
  | .getfmt _ _ => []
  | .rand _ _ _ _ _ _ _ => []
  | .shfl _ _ _ _ _ _ => []
  | .shup _ _ _ _ _ _ => []
  | .shdn _ _ _ _ _ _ => []
  | .bcast _ _ _ _ _ _ => []
  | .vany _ _ _ _ => []
  | .vbal _ _ _ _ => []
  | .rdadd _ _ _ _ _ => []
  | .rdmin _ _ _ _ _ => []
  | .ld _ _ _ _ _ _ _ => []
  | .ldsx _ _ _ _ _ _ _ => []
  | .st _ _ _ _ _ _ => []
  | .ldsc _ _ _ _ _ _ => []
  | .stsc _ _ _ _ _ _ => []
  | .amo _ _ _ _ _ _ _ => []
  | .amor _ _ _ _ _ _ _ => []
  | .cas _ _ _ _ _ _ => []
  | .fence _ _ _ => []
  | .ifence _ => []
  | .pf _ _ _ _ _ _ => []
  | .l1inv _ => []
  | .shtake _ _ _ _ => []
  | .shput _ _ _ _ => []
  | .shqry _ _ _ => []
  | .waite _ _ _ => []
  | .tld _ _ _ _ _ _ _ _ => []
  | .tst _ _ _ _ _ _ _ _ => []
  | .tmov _ _ _ _ _ _ _ _ => []
  | .zclr _ _ _ => []
  | .zrd _ _ _ _ _ _ _ => []
  | .zxf _ _ _ _ _ => []
  | .mma _ _ _ _ _ _ _ => []
  | .mmas _ _ _ _ _ _ _ _ => []
  | .matrixKStep _ _ => []
  | .sld _ _ _ _ _ _ _ => []
  | .sst _ _ _ _ _ _ _ => []
  | .scur _ _ _ _ _ _ => []
  | .snxt _ _ _ _ _ _ => []
  | .sisx _ _ _ _ _ _ => []
  | .singleKeyOperation _ => []
  | .engStk _ _ _ _ => []
  | .engCpy _ _ _ _ => []
  | .engDense _ _ _ _ => []
  | .engSpar _ _ _ _ => []
  | .engDsp _ _ _ => []
  | .engCmb _ _ _ _ => []
  | .engQapp _ _ _ _ => []
  | .engGcond _ _ _ _ => []
  | .engLvlw _ _ _ _ => []
  | .engCancel _ _ _ _ => []
  | .engHash _ _ _ => []
  | .engKgrow _ _ _ _ => []
  | .engineShoePublish _ => []
  | .ticketFill _ => []
  | .barArrive _ _ _ _ => []
  | .barWait _ _ _ => []
  | .barSync _ _ _ => []
  | .barSyncCompletion _ => []
  | .sysRdsr _ _ _ _ => []
  | .sysWrsr _ _ _ _ => []
  | .shoeConfigure _ _ _ => []
  | .sysHalt _ => []
  | .producerWrite _ _ => []
  | .mergeStep _ _ => []
  | .shoeTakeServe _ _ _ => []
  | .runIssue _ => []
  | .squadDemotion _ => []
  | .squadPromotion _ => []
  | .squadRetirement _ => []
  | .squadStop _ => []
  | .powerTokenPass _ _ => []
  | .subarrayPowerGate _ _ => []
  | .subarrayWake _ _ => []
  | .queueRecordTake _ _ => []
  | .kernelNodeFire _ _ => []
  | .recordNodeFire _ _ => []
  | .recordNodeTimeout _ _ => []
  | .conditionalNodeFire _ _ => []
  | .whileNodeFire _ _ => []
  | .launchStart _ => []
  | .teamStart _ => []
  | .launchCompletion _ => []
  | .jobCompletion _ => []
  | .graphRegistration _ _ _ _ => []
  | .preemptionRequest _ _ => []
  | .drainLimitExpiry _ => []
  | .teamContextSave _ => []
  | .teamResume _ _ => []
  | .pageWalk _ _ _ => []
  | .shootDown _ _ _ => []
  | .promotion _ _ _ => []
  | .migrationRequest _ _ _ => []
  | .migrationCompletion _ _ => []
  | .hostMemoryAccess _ _ => []
  | .peerAccess _ _ _ => []
  | .linkPortDown _ => []
  | .throttle _ _ _ => []
  | .reset => []
  | .firmwareReady => []
  | .attestationReport _ => []
  | .bootstRead => []
  | .notificationRingSetup _ _ => []
  | .mgmtRegisterWrite _ _ => []
  | .coreCounterClear _ => []
  | .objectLoad _ => []
  | .objectUnload _ => []
  | .debugStop _ => []
  | .causalExperiment _ => []
  | .waitForGraphSample => []
  | .registerParityFailure _ => []
  | .dieL2Acceptance _ _ => []
  | .homeAcceptance _ _ => []
  | .linkRetrainComplete _ => []

/-- Bit 31 of a word: C in words 0 and 1, RB in word 2 (R103). -/
def bit31 : Instr → Bool
  | .nop c => c
  | .seg w => w.c
  | .nxt c _ => c
  | .nxtc c _ _ _ _ => c
  | .nxti c _ _ => c
  | .deal => false
  | .fold c => c
  | .call c _ => c
  | .callp c _ _ => c
  | .ret c => c
  | .trap c _ => c
  | .eret c _ => c
  | .brk c _ => c
  | .emset c _ _ => c
  | .emget c _ _ => c
  | .yield c => c
  | .iadd c _ _ _ _ _ _ => c
  | .isub c _ _ _ _ _ _ => c
  | .imul c _ _ _ _ _ _ => c
  | .imulh c _ _ _ _ _ _ => c
  | .imad c _ _ _ _ _ _ => c
  | .imin c _ _ _ _ _ _ => c
  | .imax c _ _ _ _ _ _ => c
  | .iabs c _ _ _ _ => c
  | .and c _ _ _ _ _ => c
  | .or c _ _ _ _ _ => c
  | .xor c _ _ _ _ _ => c
  | .shl c _ _ _ _ _ _ => c
  | .shr c _ _ _ _ _ => c
  | .sar c _ _ _ _ _ => c
  | .iaddmin c _ _ _ _ _ => c
  | .cmov c _ _ _ _ _ => c
  | .iceq c _ _ _ _ _ => c
  | .icne c _ _ _ _ _ => c
  | .iclt c _ _ _ _ _ => c
  | .icle c _ _ _ _ _ => c
  | .icltu c _ _ _ _ _ => c
  | .icleu c _ _ _ _ _ => c
  | .popc c _ _ _ => c
  | .clz c _ _ _ => c
  | .brev c _ _ _ => c
  | .bfx c _ _ _ _ _ _ => c
  | .bfi c _ _ _ _ _ => c
  | .idiv c _ _ _ _ _ _ => c
  | .irem c _ _ _ _ _ _ => c
  | .aget c _ _ _ _ => c
  | .rget c _ _ _ _ _ => c
  | .rput c _ _ _ _ => c
  | .iaddi c _ _ _ => c
  | .andi c _ _ _ => c
  | .ori c _ _ _ => c
  | .xori c _ _ _ => c
  | .shli c _ _ _ => c
  | .shri c _ _ _ => c
  | .sari c _ _ _ => c
  | .iceqi c _ _ _ => c
  | .iclti c _ _ _ => c
  | .icltui c _ _ _ => c
  | .movk c _ _ => c
  | .movkh c _ _ => c
  | .prom c _ _ _ _ _ _ => c
  | .demu c _ _ _ _ => c
  | .uniq c _ _ _ _ _ => c
  | .sete c _ _ => c
  | .fadd c _ _ _ _ _ => c
  | .fsub c _ _ _ _ _ => c
  | .fmul c _ _ _ _ _ => c
  | .ffma c _ _ _ _ _ _ => c
  | .fmin c _ _ _ _ _ => c
  | .fmax c _ _ _ _ _ => c
  | .frcp c _ _ _ => c
  | .frsq c _ _ _ => c
  | .fsqrt c _ _ _ => c
  | .fexp2 c _ _ _ => c
  | .flog2 c _ _ _ => c
  | .fceq c _ _ _ _ _ => c
  | .fclt c _ _ _ _ _ => c
  | .fcle c _ _ _ _ _ => c
  | .fclass c _ _ _ => c
  | .frnd c _ _ _ _ _ => c
  | .cvtfi c _ _ _ _ _ _ => c
  | .cvtif c _ _ _ _ => c
  | .cvtn c _ _ _ _ _ => c
  | .cvtw c _ _ _ _ _ => c
  | .cvth c _ _ _ _ _ _ => c
  | .setfmt c _ _ => c
  | .getfmt c _ => c
  | .rand c _ _ _ _ _ _ => c
  | .shfl c _ _ _ _ _ => c
  | .shup c _ _ _ _ _ => c
  | .shdn c _ _ _ _ _ => c
  | .bcast c _ _ _ _ _ => c
  | .vany c _ _ _ => c
  | .vbal c _ _ _ => c
  | .rdadd c _ _ _ _ => c
  | .rdmin c _ _ _ _ => c
  | .ld c _ _ _ _ _ _ => c
  | .ldsx c _ _ _ _ _ _ => c
  | .st c _ _ _ _ _ => c
  | .ldsc c _ _ _ _ _ => c
  | .stsc c _ _ _ _ _ => c
  | .amo c _ _ _ _ _ _ => c
  | .amor c _ _ _ _ _ _ => c
  | .cas c _ _ _ _ _ => c
  | .fence c _ _ => c
  | .ifence c => c
  | .pf c _ _ _ _ _ => c
  | .l1inv c => c
  | .shtake c _ _ _ => c
  | .shput c _ _ _ => c
  | .shqry c _ _ => c
  | .waite c _ _ => c
  | .tld c _ _ _ _ _ _ _ => c
  | .tst c _ _ _ _ _ _ _ => c
  | .tmov c _ _ _ _ _ _ _ => c
  | .zclr c _ _ => c
  | .zrd c _ _ _ _ _ _ => c
  | .zxf c _ _ _ _ => c
  | .mma c _ _ _ _ _ _ => c
  | .mmas c _ _ _ _ _ _ _ => c
  | .matrixKStep _ _ => false
  | .sld c _ _ _ _ _ _ => c
  | .sst c _ _ _ _ _ _ => c
  | .scur c _ _ _ _ _ => c
  | .snxt c _ _ _ _ _ => c
  | .sisx c _ _ _ _ _ => c
  | .singleKeyOperation _ => false
  | .engStk c _ _ _ => c
  | .engCpy c _ _ _ => c
  | .engDense c _ _ _ => c
  | .engSpar c _ _ _ => c
  | .engDsp c _ _ => c
  | .engCmb c _ _ _ => c
  | .engQapp c _ _ _ => c
  | .engGcond c _ _ _ => c
  | .engLvlw c _ _ _ => c
  | .engCancel c _ _ _ => c
  | .engHash c _ _ => c
  | .engKgrow c _ _ _ => c
  | .engineShoePublish _ => false
  | .ticketFill _ => false
  | .barArrive c _ _ _ => c
  | .barWait c _ _ => c
  | .barSync c _ _ => c
  | .barSyncCompletion _ => false
  | .sysRdsr c _ _ _ => c
  | .sysWrsr c _ _ _ => c
  | .shoeConfigure _ _ _ => false
  | .sysHalt c => c
  | .producerWrite _ _ => false
  | .mergeStep _ _ => false
  | .shoeTakeServe _ _ _ => false
  | .runIssue _ => false
  | .squadDemotion _ => false
  | .squadPromotion _ => false
  | .squadRetirement _ => false
  | .squadStop _ => false
  | .powerTokenPass _ _ => false
  | .subarrayPowerGate _ _ => false
  | .subarrayWake _ _ => false
  | .queueRecordTake _ _ => false
  | .kernelNodeFire _ _ => false
  | .recordNodeFire _ _ => false
  | .recordNodeTimeout _ _ => false
  | .conditionalNodeFire _ _ => false
  | .whileNodeFire _ _ => false
  | .launchStart _ => false
  | .teamStart _ => false
  | .launchCompletion _ => false
  | .jobCompletion _ => false
  | .graphRegistration _ _ _ _ => false
  | .preemptionRequest _ _ => false
  | .drainLimitExpiry _ => false
  | .teamContextSave _ => false
  | .teamResume _ _ => false
  | .pageWalk _ _ _ => false
  | .shootDown _ _ _ => false
  | .promotion _ _ _ => false
  | .migrationRequest _ _ _ => false
  | .migrationCompletion _ _ => false
  | .hostMemoryAccess _ _ => false
  | .peerAccess _ _ _ => false
  | .linkPortDown _ => false
  | .throttle _ _ _ => false
  | .reset => false
  | .firmwareReady => false
  | .attestationReport _ => false
  | .bootstRead => false
  | .notificationRingSetup _ _ => false
  | .mgmtRegisterWrite _ _ => false
  | .coreCounterClear _ => false
  | .objectLoad _ => false
  | .objectUnload _ => false
  | .debugStop _ => false
  | .causalExperiment _ => false
  | .waitForGraphSample => false
  | .registerParityFailure _ => false
  | .dieL2Acceptance _ _ => false
  | .homeAcceptance _ _ => false
  | .linkRetrainComplete _ => false

/-- Whether an instruction is an encoded word, as opposed to an event. -/
def isWord : Instr → Bool
  | .nop _ => true
  | .seg _ => true
  | .nxt _ _ => true
  | .nxtc _ _ _ _ _ => true
  | .nxti _ _ _ => true
  | .deal => true
  | .fold _ => true
  | .call _ _ => true
  | .callp _ _ _ => true
  | .ret _ => true
  | .trap _ _ => true
  | .eret _ _ => true
  | .brk _ _ => true
  | .emset _ _ _ => true
  | .emget _ _ _ => true
  | .yield _ => true
  | .iadd _ _ _ _ _ _ _ => true
  | .isub _ _ _ _ _ _ _ => true
  | .imul _ _ _ _ _ _ _ => true
  | .imulh _ _ _ _ _ _ _ => true
  | .imad _ _ _ _ _ _ _ => true
  | .imin _ _ _ _ _ _ _ => true
  | .imax _ _ _ _ _ _ _ => true
  | .iabs _ _ _ _ _ => true
  | .and _ _ _ _ _ _ => true
  | .or _ _ _ _ _ _ => true
  | .xor _ _ _ _ _ _ => true
  | .shl _ _ _ _ _ _ _ => true
  | .shr _ _ _ _ _ _ => true
  | .sar _ _ _ _ _ _ => true
  | .iaddmin _ _ _ _ _ _ => true
  | .cmov _ _ _ _ _ _ => true
  | .iceq _ _ _ _ _ _ => true
  | .icne _ _ _ _ _ _ => true
  | .iclt _ _ _ _ _ _ => true
  | .icle _ _ _ _ _ _ => true
  | .icltu _ _ _ _ _ _ => true
  | .icleu _ _ _ _ _ _ => true
  | .popc _ _ _ _ => true
  | .clz _ _ _ _ => true
  | .brev _ _ _ _ => true
  | .bfx _ _ _ _ _ _ _ => true
  | .bfi _ _ _ _ _ _ => true
  | .idiv _ _ _ _ _ _ _ => true
  | .irem _ _ _ _ _ _ _ => true
  | .aget _ _ _ _ _ => true
  | .rget _ _ _ _ _ _ => true
  | .rput _ _ _ _ _ => true
  | .iaddi _ _ _ _ => true
  | .andi _ _ _ _ => true
  | .ori _ _ _ _ => true
  | .xori _ _ _ _ => true
  | .shli _ _ _ _ => true
  | .shri _ _ _ _ => true
  | .sari _ _ _ _ => true
  | .iceqi _ _ _ _ => true
  | .iclti _ _ _ _ => true
  | .icltui _ _ _ _ => true
  | .movk _ _ _ => true
  | .movkh _ _ _ => true
  | .prom _ _ _ _ _ _ _ => true
  | .demu _ _ _ _ _ => true
  | .uniq _ _ _ _ _ _ => true
  | .sete _ _ _ => true
  | .fadd _ _ _ _ _ _ => true
  | .fsub _ _ _ _ _ _ => true
  | .fmul _ _ _ _ _ _ => true
  | .ffma _ _ _ _ _ _ _ => true
  | .fmin _ _ _ _ _ _ => true
  | .fmax _ _ _ _ _ _ => true
  | .frcp _ _ _ _ => true
  | .frsq _ _ _ _ => true
  | .fsqrt _ _ _ _ => true
  | .fexp2 _ _ _ _ => true
  | .flog2 _ _ _ _ => true
  | .fceq _ _ _ _ _ _ => true
  | .fclt _ _ _ _ _ _ => true
  | .fcle _ _ _ _ _ _ => true
  | .fclass _ _ _ _ => true
  | .frnd _ _ _ _ _ _ => true
  | .cvtfi _ _ _ _ _ _ _ => true
  | .cvtif _ _ _ _ _ => true
  | .cvtn _ _ _ _ _ _ => true
  | .cvtw _ _ _ _ _ _ => true
  | .cvth _ _ _ _ _ _ _ => true
  | .setfmt _ _ _ => true
  | .getfmt _ _ => true
  | .rand _ _ _ _ _ _ _ => true
  | .shfl _ _ _ _ _ _ => true
  | .shup _ _ _ _ _ _ => true
  | .shdn _ _ _ _ _ _ => true
  | .bcast _ _ _ _ _ _ => true
  | .vany _ _ _ _ => true
  | .vbal _ _ _ _ => true
  | .rdadd _ _ _ _ _ => true
  | .rdmin _ _ _ _ _ => true
  | .ld _ _ _ _ _ _ _ => true
  | .ldsx _ _ _ _ _ _ _ => true
  | .st _ _ _ _ _ _ => true
  | .ldsc _ _ _ _ _ _ => true
  | .stsc _ _ _ _ _ _ => true
  | .amo _ _ _ _ _ _ _ => true
  | .amor _ _ _ _ _ _ _ => true
  | .cas _ _ _ _ _ _ => true
  | .fence _ _ _ => true
  | .ifence _ => true
  | .pf _ _ _ _ _ _ => true
  | .l1inv _ => true
  | .shtake _ _ _ _ => true
  | .shput _ _ _ _ => true
  | .shqry _ _ _ => true
  | .waite _ _ _ => true
  | .tld _ _ _ _ _ _ _ _ => true
  | .tst _ _ _ _ _ _ _ _ => true
  | .tmov _ _ _ _ _ _ _ _ => true
  | .zclr _ _ _ => true
  | .zrd _ _ _ _ _ _ _ => true
  | .zxf _ _ _ _ _ => true
  | .mma _ _ _ _ _ _ _ => true
  | .mmas _ _ _ _ _ _ _ _ => true
  | .matrixKStep _ _ => false
  | .sld _ _ _ _ _ _ _ => true
  | .sst _ _ _ _ _ _ _ => true
  | .scur _ _ _ _ _ _ => true
  | .snxt _ _ _ _ _ _ => true
  | .sisx _ _ _ _ _ _ => true
  | .singleKeyOperation _ => false
  | .engStk _ _ _ _ => true
  | .engCpy _ _ _ _ => true
  | .engDense _ _ _ _ => true
  | .engSpar _ _ _ _ => true
  | .engDsp _ _ _ => true
  | .engCmb _ _ _ _ => true
  | .engQapp _ _ _ _ => true
  | .engGcond _ _ _ _ => true
  | .engLvlw _ _ _ _ => true
  | .engCancel _ _ _ _ => true
  | .engHash _ _ _ => true
  | .engKgrow _ _ _ _ => true
  | .engineShoePublish _ => false
  | .ticketFill _ => false
  | .barArrive _ _ _ _ => true
  | .barWait _ _ _ => true
  | .barSync _ _ _ => true
  | .barSyncCompletion _ => false
  | .sysRdsr _ _ _ _ => true
  | .sysWrsr _ _ _ _ => true
  | .shoeConfigure _ _ _ => false
  | .sysHalt _ => true
  | .producerWrite _ _ => false
  | .mergeStep _ _ => false
  | .shoeTakeServe _ _ _ => false
  | .runIssue _ => false
  | .squadDemotion _ => false
  | .squadPromotion _ => false
  | .squadRetirement _ => false
  | .squadStop _ => false
  | .powerTokenPass _ _ => false
  | .subarrayPowerGate _ _ => false
  | .subarrayWake _ _ => false
  | .queueRecordTake _ _ => false
  | .kernelNodeFire _ _ => false
  | .recordNodeFire _ _ => false
  | .recordNodeTimeout _ _ => false
  | .conditionalNodeFire _ _ => false
  | .whileNodeFire _ _ => false
  | .launchStart _ => false
  | .teamStart _ => false
  | .launchCompletion _ => false
  | .jobCompletion _ => false
  | .graphRegistration _ _ _ _ => false
  | .preemptionRequest _ _ => false
  | .drainLimitExpiry _ => false
  | .teamContextSave _ => false
  | .teamResume _ _ => false
  | .pageWalk _ _ _ => false
  | .shootDown _ _ _ => false
  | .promotion _ _ _ => false
  | .migrationRequest _ _ _ => false
  | .migrationCompletion _ _ => false
  | .hostMemoryAccess _ _ => false
  | .peerAccess _ _ _ => false
  | .linkPortDown _ => false
  | .throttle _ _ _ => false
  | .reset => false
  | .firmwareReady => false
  | .attestationReport _ => false
  | .bootstRead => false
  | .notificationRingSetup _ _ => false
  | .mgmtRegisterWrite _ _ => false
  | .coreCounterClear _ => false
  | .objectLoad _ => false
  | .objectUnload _ => false
  | .debugStop _ => false
  | .causalExperiment _ => false
  | .waitForGraphSample => false
  | .registerParityFailure _ => false
  | .dieL2Acceptance _ _ => false
  | .homeAcceptance _ _ => false
  | .linkRetrainComplete _ => false

/-- The registers a word counts as writing for R106; RPUT counts as writing v(base) to v63 (R169). -/
def chainWrites (fmt : Word) (i : Instr) : List Opnd :=
  match i with
  | .rput _ _ (.v n) _ _ => (List.range (64 - n.val)).map (fun k => .v (Fin.ofNat 64 (n.val + k)))
  | _ => (usage fmt i).dst

/-- Whether two words of a chain conflict (R106). -/
def conflicts (fmt : Word) (i j : Instr) : Bool :=
  (pipe i).isSome && pipe i == pipe j
  || (chainWrites fmt i).any (fun r => (chainWrites fmt j).contains r)
  || (seqWrites i).any (fun r => (seqWrites j).contains r)

end Machine
end Sys2Proof
end

