-- ==== Sys2Proof/Config.lean ====
section
/-! DEFINITION. What one part fixes and the spec leaves open: free constants without a body. -/

namespace Sys2Proof.Config

/-- What a free choice is about: each choice of one step stands by itself. -/
inductive Choice where
  /-- whether a TLB entry of a core serves the page that holds an address (R357, R358) -/
  | tlbEntry (core asid page : Nat)
  /-- whether an L1 line serves a load with CO = 0 (R205) -/
  | l1Line (core line : Nat)
  /-- whether bytes fetched earlier are still held (R99, R237) -/
  | fetched (core pa : Nat)
  /-- whether the prefetcher had brought in a hand entry that no deal had (R99, R101) -/
  | deckCache
  /-- whether the prefetcher fetches the entry hand of a successor suit (R99) -/
  | prefetch (core deck : Nat)
  /-- whether a hand entry of the deck cache still stands for a changed image (R99) -/
  | deckHand (core deck mask : Nat)
  /-- whether an hour has passed at a sample of the waits (R402, R403; log 10) -/
  | hour
  /-- whether a register word still has a duplicate (R68) -/
  | duplicate
  /-- whether a load performed ahead of an older one keeps its value back, to be replayed (R244) -/
  | replay
  /-- whether a load that nothing holds back returns what an earlier read of its line found (R196) -/
  | ahead (core line : Nat)
  /-- the same of a line of scratch, and whether the line read ahead is one of scratch (R196, R206) -/
  | scratchAhead (core line : Nat)
  | aheadScratch
  /-- whether a peer part refuses a row of DSP (R260) -/
  | peerRow
deriving DecidableEq, Repr

/-- A free choice, for each value of the model's counter and each thing to choose. -/
opaque freeBit : Nat → Choice → Bool
/-- Which image of a node that a home slice still holds a plain load returns (R307): a number for each value
of the model's counter and each node. -/
opaque freeAge : Nat → Nat → Nat
/-- The line that a squad reads ahead of the values of its pending loads, for each value of the model's counter
(R196). -/
opaque freeLine : Nat → Nat
/-- The value that a relocation writes for a symbol without an address or a handle, for each value of the model's
counter and each relocation (R373). -/
opaque freeAddress : Nat → Nat → BitVec 64
/-- A free 64-bit value, one for each value of the model's counter: bytes of signatures (R397). -/
opaque freeValue : Nat → BitVec 64
/-- Whether a signature verifies (R374, R396, R398): a function of the signed and signing bytes. -/
opaque verifies : List (BitVec 8) → List (BitVec 8) → Bool
/-- The firmware image of the part, its signer's key and its signature (R396). -/
opaque firmwareImage : List (BitVec 8)
opaque firmwareKey : List (BitVec 8)
opaque firmwareSignature : List (BitVec 8)
/-- The firmware version (R388). -/
opaque firmwareVersion : BitVec 32
/-- The digest of the signer's key and the rollback counter, both fused (R396). -/
opaque keyFuse : BitVec 256
opaque rollbackFuse : BitVec 32
/-- The fused stepping of the part (R23, R24); `step` brings it into its range. -/
opaque stepFuse : BitVec 16
/-- The fused masks of present cores, channels and ports, and the wake latency (R23). -/
opaque coreFuse : Nat → BitVec 48
opaque channelFuse : Nat → BitVec 32
opaque portFuse : BitVec 16
opaque wakeFuse : Nat
/-- The SIU slice's place for a digest of 32 bytes (R374, R400): SHAKE256 is defined outside the manual. -/
opaque shake256 : List (BitVec 8) → BitVec 256

/-- The digest of the firmware image (R397). -/
def firmwareDigest : BitVec 256 := shake256 firmwareImage
/-- The signature verifies under the key whose digest is fused (R396). -/
def firmwareSigned : Bool := shake256 firmwareKey == keyFuse && verifies firmwareImage (firmwareKey ++ firmwareSignature)
/-- The two checks of the ROM (R396). -/
def firmwareGood : Bool := firmwareSigned && rollbackFuse.ule firmwareVersion

/-- STEP counts from 1 (R24). -/
def step : BitVec 16 := if stepFuse = 0#16 then 1#16 else stepFuse
/-- WAKELAT lies between 32 and 512 (R24). -/
def wakeLatency : BitVec 16 := BitVec.ofNat 16 (32 + wakeFuse % 481)

end Sys2Proof.Config
end

