-- ==== Sys2Proof/Machine/State.lean ====
section
/-! DEFINITION. The state of the machine: everything the spec gives it, as plain data. -/

namespace Sys2Proof.Machine

/-- Why the machine stops. No rule of the manual stops it: every trap of a program is a next state. -/
inductive Fault where
  /-- a host or peer access to a physical address that R404 leaves unbacked: raised by the two
  access events; safe -/
  | unbackedAddress (pa : Nat)
deriving DecidableEq, Repr

/-- Why an instruction has no meaning. -/
inductive Refusal where
  /-- not modelled yet: raised by an arm of `exec` that has no meaning; safe -/
  | notModelled (mnemonic : String)
deriving DecidableEq, Repr

/-! ## Memory -/

/-- Bytes by address, in one canonical form: addresses strictly rising, no entry equal to what an
unlisted address reads as. -/
structure Memory where
  cells : List Host.Cell
deriving DecidableEq, Repr, Inhabited

/-- What an unlisted address reads as. DESIGN CHOICE (log 1): the manual gives no contents at power-on
for HBM; team scratch and stock lines start as zero (R338). -/
def Memory.unlisted : Byte := 0#8

/-- The canonical form. -/
def Memory.wf (m : Memory) : Bool :=
  decide (m.cells.Pairwise (fun a b => a.1 < b.1)) && m.cells.all (fun c => c.2 != Memory.unlisted)

/-! ## A squad -/

/-- A hand entry as read from a deck image (Table 7-2). -/
structure Hand where
  mask : BitVec 64
  code : Nat
  nslot : Nat
  soff : List Nat
  doff : Nat
deriving DecidableEq, Repr, Inhabited

/-- A frame (Table 7-3). -/
structure Frame where
  suit : Nat
  hand : Nat
  button : Nat
  /-- KIND 1: pushed at trap entry (R93) -/
  trapKind : Bool
  rpkt : Nat
  rword : Nat
  em : Mask
  held : Mask
  callers : Mask
  fmt : Word
  brs : Lanes (BitVec 6)
  brns : Lanes (BitVec 6)
  live : Mask
deriving DecidableEq, Repr, Inhabited

/-- Scopes (Table 16-2). -/
inductive Scope where
  | squad | team | die | device | system
deriving DecidableEq, Repr, Inhabited

/-- A fence that has issued and not completed (R213), or the release an engine command waits for (R236). -/
structure FenceRec where
  k : SquadKey
  seq : Nat
  /-- later loads, stores and atomics wait for the earlier loads -/
  acq : Bool
  /-- later stores wait for the earlier accesses -/
  rel : Bool
  /-- later loads wait for the earlier stores -/
  full : Bool
  /-- the acquire of a BAR.sync, complete once its wait has ended (R225) -/
  barrier : Bool
  /-- the acquire of a producer take, complete once that take has been served (R234, R247) -/
  take : Bool
  scope : Scope
  /-- merge stamp of the core once the squad's earlier accesses have been performed and merged -/
  coreStamp : Option Nat
  /-- acceptance stamp of the die once those merged entries have been accepted -/
  dieStamp : Option Nat
deriving DecidableEq, Repr, Inhabited

/-- What an empty register waits for (R64), and the loads already performed while older ones are not. -/
inductive ProdKind where
  /-- a load: `acc` gives each lane's address; a uniform load has lane 0 only -/
  | load (scratch : Bool) (sz : BitVec 2) (signed co uni : Bool) (acc : List (Nat × Nat))
  /-- a load performed before an older one of its squad: the bytes it read (R244) -/
  | done (scratch : Bool) (bytes : List Nat)
  /-- AMOR or CAS -/
  | atomic (sz : BitVec 2) (uni : Bool)
  /-- a sparse read (0 SLD, 1 SCUR, 2 SNXT, 3 SISX): `todo` gives the keys of the lanes not yet answered,
  `probe` what SISX's first region answered to the lane at the head -/
  | sparse (op : Nat) (m : Bool) (h1 h2 : BitVec 32) (todo : List (Nat × Nat)) (probe : Option (Nat × Nat))
  | take (shoe : BitVec 4) (free : Bool)
  | ticket (cmd : Nat)
deriving DecidableEq, Repr, Inhabited

/-- A pending register producer. -/
structure Prod where
  seq : Nat
  kind : ProdKind
  regs : List Opnd
  /-- values already fixed, by lane: those of a load performed before an older one of its squad stand here until
  the older one has its value, and are dropped where a store of the core reaches them first (R244) -/
  got : List (Nat × List DWord)
  /-- the address depends on no load from this place of program order on (R235) -/
  dep : Nat
deriving DecidableEq, Repr, Inhabited

/-- One entry of a store queue: a store, or one lane of an atomic (R200). -/
inductive SKind where
  | store (cells : List (Nat × Byte))
  | scratch (cells : List (Nat × Byte))
  /-- `cas = some e` compares with `e` -/
  | atomic (lane va : Nat) (scope : Scope) (n : Nat) (opn : BitVec 4) (cas : Option DWord) (x : DWord) (ret : Bool)
deriving DecidableEq, Repr, Inhabited

structure SEntry where
  seq : Nat
  kind : SKind
deriving DecidableEq, Repr, Inhabited

/-- A matrix word issued and not finished (Table 26-3), with what its name resolves to. -/
structure MProg where
  seq : Nat
  /-- instruction steps completed -/
  done : Nat
  /-- the step at which the word was last started: 0, or the recorded one of a resumed word (R298) -/
  start : Nat
  /-- a step still to be run writes a new NaN, and NaN traps: the chain has not retired (R48) -/
  doomed : Bool
  word : Instr
  sd : DWord
  scd : DWord
  fmt : Word
  em : Mask
  /-- the accumulator tile and OVF as they stood before the word issued or resumed (R48, R297) -/
  before : Lanes (BitVec 2304)
  ovf : Bool
deriving DecidableEq, Repr, Inhabited

/-- An SST not yet accepted in full (R321). -/
structure SstRec where
  word : Instr
  handle : BitVec 32
  /-- lane, key and datum of the lanes not yet accepted -/
  todo : List (Nat × Nat × Nat)
deriving DecidableEq, Repr, Inhabited

/-- What is left of a word that issued behind a memory word of its own chain and is ordered after it: it
takes effect once the order allows, and the squad issues nothing before (R105, R230; log 11). -/
inductive Late where
  /-- an arrival with its count (R224); `d` receives the phase, none for BAR.sync -/
  | arrive (n : BitVec 4) (c : Nat) (d : Option Opnd)
  /-- slots of a shoe to return or publish (R219) -/
  | put (shoe k : Nat) (fill : Bool)
  | ifence
  /-- words of a tile or elements of a physical accumulator tile to read: row, column and address
  (R287, R293) -/
  | tile (t : Nat) (ws : List (Nat × Nat × Nat))
  | acc (p : Nat) (em : Mask) (es : List (Nat × Nat × Nat))
  /-- an SST behind a BAR.sync of its chain, with its lanes still to be accepted, and the chain at which a trap of it
  stands: packet, word, the SST's place in the chain and the chain's length -/
  | sst (r : SstRec) (pkt word chw clen : Nat)
deriving DecidableEq, Repr, Inhabited

/-- What a squad waits for (R402). -/
inductive Wait where
  /-- a register, or an unserved take's register -/
  | reg (o : Opnd) | take (o : Opnd)
  /-- a barrier whose phase still is `p` -/
  | barWait (n : BitVec 4) (p : BitVec 32)
  | barSync | turn | tile | locks | order | sst | stopped
deriving DecidableEq, Repr, Inhabited

/-- Where a squad is in its life. -/
inductive SqStatus where
  | absent
  | live
  /-- its called set at depth 0 is empty (R96) -/
  | retiring
  /-- stopped by a halt, a cancel or a terminal trap; its stores drain (R139 to R141) -/
  | stopped
  | retired
deriving DecidableEq, Repr, Inhabited

/-- One squad's context. -/
structure Squad where
  key : SquadKey
  status : SqStatus
  v : Vector (Lanes Word) 64
  s : Vector DWord 32
  abase : Vector DWord 16
  astride : Vector DWord 16
  p : Vector Mask 8
  t : Vector (Lanes (BitVec 512)) 8
  fev : BitVec 64
  fes : BitVec 32
  fea : BitVec 16
  fep : BitVec 8
  fet : BitVec 8
  uncorr : List WordRef
  poison : List WordRef
  br : Lanes (BitVec 6)
  brn : Lanes (BitVec 6)
  depth : Lanes (BitVec 8)
  em : Mask
  live : Mask
  held : Mask
  retd : Mask
  suit : Nat
  hand : Nat
  hent : Hand
  /-- SLOTS of the most recent SEG of this pass (R129) -/
  segSlots : BitVec 8
  pkt : Nat
  word : Nat
  button : Nat
  /-- innermost first, at most eight -/
  frames : List Frame
  nspill : Nat
  fmt : Word
  lclk : DWord
  sqdeal : DWord
  sqmisd : DWord
  sqheld : DWord
  sqcall : DWord
  sqspill : DWord
  th : DWord
  tpos : DWord
  tem : DWord
  tcause : DWord
  tinfo0 : DWord
  tinfo1 : DWord
  tlanes : DWord
  tscr0 : DWord
  tscr1 : DWord
  /-- the model's own: the chain whose trap the handler handles was a DEAL (R137; log 25) -/
  tdeal : Bool
  /-- next sequence number of program order (R230) -/
  seq : Nat
  /-- the model's own: the place after the last load on which a register's value depends in some lanes, for the
  registers that depend on one, and the same of the exits and masks in force (R235; log 16) -/
  deps : List (Opnd × Nat × Mask)
  control : Nat
  prods : List Prod
  /-- oldest first -/
  storeq : List SEntry
  fences : List FenceRec
  mprog : List MProg
  /-- the matrix progress that a trapped word keeps for its retry (R298) -/
  mkeep : Option MProg
  /-- BAR.sync: phase and barrier awaited -/
  syncw : Option (BitVec 32 × BitVec 4)
  sst : Option SstRec
  /-- in word order, with their places in program order -/
  late : List (Nat × Late)
  wait : Option Wait
  /-- the run in progress: packets issued from, newest first (R97) -/
  running : Bool
  runPkts : List Nat
  /-- squads that issue a run before this one does again, after a YIELD (R135) -/
  yieldTo : List SquadKey
  /-- in the fast file (R70) -/
  fast : Bool
  /-- its place in the fast file, 0 to 3 -/
  slot : Nat
  /-- runs that its core has issued while it stood ready (R342, R343) -/
  passed : Nat
  /-- the model's own: runs of its core that have passed it by while it stood ready in the slow file (R342; log 44) -/
  pended : Nat
  age : Nat
  /-- physical address of the squad context area (R350) -/
  ctx : Nat
deriving DecidableEq, Repr, Inhabited

/-! ## Team, core, die -/

structure Barrier where
  phase : BitVec 32
  need : Nat
  arr : Nat
deriving DecidableEq, Repr, Inhabited

structure Shoe where
  conf : DWord
  filled : Nat
  free : Nat
  ctaken : Nat
  ptaken : Nat
  head : Nat
  tail : Nat
  /-- unserved takes of the consumer and of the producer side, oldest first (R218) -/
  ctakes : List (SquadKey × Nat)
  ptakes : List (SquadKey × Nat)
deriving DecidableEq, Repr, Inhabited

/-- A line of an L1: its physical address and bytes. -/
structure Line where
  pa : Nat
  bytes : List Byte
deriving DecidableEq, Repr, Inhabited

/-- Entries of a core's L1, of its fetched code and of its deck cache. -/
structure Caches where
  l1 : List Line
  code : List (Nat × List Byte)
  deck : List (Nat × Nat × Nat × Hand)
deriving DecidableEq, Repr, Inhabited

inductive TeamStatus where
  | absent | running
  /-- a pre-emption was requested and its squads stop at run boundaries (R347) -/
  | preempting
  /-- its state is in its context area (R350) -/
  | saved
  | done
deriving DecidableEq, Repr, Inhabited

structure Team where
  key : TeamKey
  status : TeamStatus
  core : Nat
  nsq : Nat
  scratch : Memory
  /-- bytes of the scratch allocation -/
  scr : Nat
  bars : Vector Barrier 16
  shoes : Vector Shoe 16
  shoeMask : BitVec 16
  owner : List (BitVec 8)
  sbase : Nat
  slen : Nat
  ctx : Nat
  /-- squads stopped for a debugger (R399) -/
  debugStop : Bool
  /-- saved with its scratch and stock copied to its context area (R352) -/
  copied : Bool
  /-- what the core's caches held when the team resumed there from another core: its squads, which may have stored or
  invalidated since, are not served from these entries (R204, R205, R214, R349) -/
  shunned : Caches
  /-- barrier phases completed, and for how many of them running this team was last (R395) -/
  phases : Nat
  lasts : Nat
deriving DecidableEq, Repr, Inhabited

/-- The model's own: a line that a squad read ahead of the values of its loads from a place of program order on,
as its core saw it then (R196; log 16). -/
structure Ahead where
  k : SquadKey
  place : Nat
  /-- a line of the team's scratch (R206) -/
  scratch : Bool
  pa : Nat
  bytes : List Byte
deriving DecidableEq, Repr, Inhabited

/-- Bytes on their way to their home: merged in a core, or pending at a die L2. -/
structure Pending where
  stamp : Nat
  k : SquadKey
  seq : Nat
  cells : List (Nat × Byte)
deriving DecidableEq, Repr, Inhabited

/-- A translation held by a TLB (R357). -/
structure TlbEntry where
  asid : Nat
  size : Nat
  va : Nat
  leaf : DWord
  gen : BitVec 32
deriving DecidableEq, Repr, Inhabited

/-- A registered range of a command in flight (R263). -/
structure RangeLock where
  entry : Nat
  cmd : Nat
  dest : Bool
  /-- 0 memory, 1 scratch, 2 stock -/
  space : Nat
  t : TeamKey
  lo : Nat
  hi : Nat
deriving DecidableEq, Repr, Inhabited

structure Core where
  id : Nat
  stock : Memory
  z : Vector (Lanes (BitVec 2304)) 8
  ovf : BitVec 8
  /-- uncorrectable and poisoned accumulator elements: tile, row, column -/
  zbad : List (Nat × Nat × Nat)
  zpoison : List (Nat × Nat × Nat)
  /-- oldest first -/
  merged : List Pending
  mstamp : Nat
  l1 : List Line
  ahead : List Ahead
  /-- fetched packets held: address and bytes -/
  icache : List (Nat × List Byte)
  /-- the deck cache: deck address, mask, hand number and entry, 512 at most, newest first (R15, R99) -/
  deck : List (Nat × Nat × Nat × Hand)
  tlb : List TlbEntry
  locks : List RangeLock
  crdhit : DWord
  crdmiss : DWord
  crmisd : DWord
  served : Option SquadKey
  /-- the place in the fast file that had the last run (R342) -/
  turn : Nat
  gated : BitVec 4
deriving DecidableEq, Repr, Inhabited

structure Die where
  id : Nat
  pend : List Pending
  pstamp : Nat
  tlb : List TlbEntry
  /-- the walk-ahead TLBs of the die's engines, by engine number (R16, R267) -/
  walkAhead : List (Nat × TlbEntry)
  /-- ASID, page, count -/
  counts : List (Nat × Nat × Nat)
  /-- clusters that hold a power token -/
  tokens : List Nat
  /-- clock of each cluster in steps of 18 MHz above 1.62 GHz -/
  clocks : List Nat
deriving DecidableEq, Repr, Inhabited

/-! ## Engines -/

/-- A tensor record (Table 18-2). -/
structure TensorRec where
  base : Nat
  esz : Nat
  rank : Nat
  dkind : Nat
  scope : Nat
  etype : Nat
  mcast : BitVec 8
  box : List Nat
  str : List Int
  org : DWord
  aux : DWord
deriving DecidableEq, Repr, Inhabited

/-- An engine command in flight. -/
structure Cmd where
  id : Nat
  k : SquadKey
  core : Nat
  asid : Nat
  fn : Nat
  /-- the engine of the die that runs it: copy engines 0 to 7, SIU slices 8 to 15, the dispatch/combine
  engine 16, the graph walker 17 (R16, R255; log 27) -/
  engine : Nat
  /-- its two range-lock entries, none for a function that registers nothing (R263) -/
  entries : List Nat
  tr : TensorRec
  /-- the record's 64 bytes; CMB's list, which its issue checks read, follows them -/
  raw : List Byte
  sb : DWord
  ticket : Opnd
  seq : Nat
  /-- lclk of the ENG word (R345) -/
  lclk : DWord
  rel : FenceRec
  /-- positions of its walk already done -/
  units : Nat
  /-- the units completed, as COUNT reports them -/
  count : Nat
  /-- elements read and not yet written: position in box order and value (R314) -/
  buf : List (Nat × Nat)
  cancelled : Bool
  /-- the code of an error met -/
  stop : Option Nat
deriving DecidableEq, Repr, Inhabited

/-! ## Work -/

inductive LaunchStatus where
  | absent | waiting | running
  /-- cancelled, halted or ended by a terminal trap: its squads stop (R340) -/
  | stopping
  | done
deriving DecidableEq, Repr, Inhabited

/-- How a job or a launch ended (R330). -/
structure Ending where
  code : Nat
  cause : Nat
  info0 : DWord
  info1 : DWord
deriving DecidableEq, Repr, Inhabited

/-- A launch record (R334), with the argument words of its queue record. -/
structure LaunchRec where
  obj : Nat
  suit : Nat
  nsq : Nat
  det : Bool
  nparm : Nat
  dies : Nat
  scr : Nat
  gx : Nat
  gy : Nat
  gz : Nat
  shoes : BitVec 16
  owner : List (BitVec 8)
  sbase : Nat
  slen : Nat
  leases : List (Nat × Nat)
  rcount : Nat
  rseed : DWord
  rbase : Nat
  parms : List DWord
deriving DecidableEq, Repr, Inhabited

structure Launch where
  lid : Nat
  status : LaunchStatus
  asid : Nat
  lr : LaunchRec
  /-- the jobs that the launch belongs to: one, or those of a record node's records -/
  jobs : List Nat
  graph : Nat
  node : Nat
  /-- records that a record node copies to scratch (R332) -/
  records : List (List Byte)
  /-- tmid of the next team to start -/
  nextTeam : Nat
  /-- the launch counter: teams retired (R339) -/
  retired : Nat
  ending : Ending
  /-- a debugger armed breakpoint stops (R399) -/
  bkpt : Bool
  /-- a debugger has stopped it: none of its teams starts (R399) -/
  debugStop : Bool
  stream : Bool
  /-- the context areas of its teams and of its squads: bases and how many stand from each (R350) -/
  teamAreas : List (Nat × Nat)
  squadAreas : List (Nat × Nat)
  /-- the tile tasks it belongs to: queue header address and the record's ordinal (R399) -/
  tasks : List (Nat × Nat)
  /-- the core of the team that completed each barrier phase first (R395) -/
  firsts : List (Nat × Nat)
  /-- clock steps moved by the laggard shift: core and steps (R395) -/
  shift : List (Nat × Int)
deriving DecidableEq, Repr, Inhabited

/-- A firing of a kernel or record node, not yet a launch. -/
structure Submitted where
  pid : Nat
  graph : Nat
  node : Nat
  jobs : List Nat
  args : Option (List DWord)
  records : List (List Byte)
  tasks : List (Nat × Nat)
deriving DecidableEq, Repr, Inhabited

/-- A record taken from a node's queue and not yet used. -/
structure WaitingRec where
  node : Nat
  jobs : List Nat
  bytes : List Byte
  /-- its producer's place: launch number, logical squad index, lclk; none for a host (R345) -/
  order : List Nat
  /-- the queue header address and the record's ordinal (R399) -/
  task : Nat × Nat
deriving DecidableEq, Repr, Inhabited

structure Graph where
  idx : Nat
  asid : Nat
  base : Nat
  count : Nat
  form : GraphForm
  counter : Nat
  cancelled : Bool
  /-- completions that have arrived at a node, with the jobs they belong to -/
  arrived : List (Nat × List Nat)
  waiting : List WaitingRec
  /-- bodies of while nodes in progress: body node, while node, jobs -/
  loops : List (Nat × Nat × List Nat)
  /-- records appended by QAPP and not yet taken: node, record number, the producer's jobs and order (R345) -/
  appended : List (Nat × Nat × List Nat × List Nat)
  /-- nodes whose queue error has been posted -/
  badQueues : List Nat
deriving DecidableEq, Repr, Inhabited

structure Phase where
  idx : Nat
  counter : Nat
  cancelled : Bool
deriving DecidableEq, Repr, Inhabited

structure Job where
  id : Nat
  graph : Nat
  tag : DWord
  cq : Nat
  counter : Nat
  ending : Ending
  done : Bool
  /-- the queue header address and the ordinal of its record (R399) -/
  task : Nat × Nat
deriving DecidableEq, Repr, Inhabited

/-- One suit of a loaded object (Table 28-3), with its deck's virtual address. -/
structure Suit where
  deck : Nat
  nblk : Nat
  entry : Nat
  cpkt : Nat
  npkt : Nat
  /-- the suits that it may call, of which the prefetcher fetches hands (R99, R368) -/
  succ : List Nat
deriving DecidableEq, Repr, Inhabited

structure Obj where
  /-- load address, which launch records name -/
  addr : Nat
  asid : Nat
  arith : Nat
  suits : List Suit
  trapSuit : Option Nat
  /-- virtual base of CODE -/
  code : Nat
  /-- virtual ranges of the mapped sections -/
  maps : List (Nat × Nat)
  regions : List (Nat × BitVec 16)
  /-- where each launch record was written -/
  launches : List Nat
  /-- sections and launch records, reported by the load: address, then region handles -/
  report : List Nat
  handles : List (BitVec 32)
deriving DecidableEq, Repr, Inhabited

/-! ## The part -/

/-- The CAP registers (Tables 1-7 and 1-8), as the present units they report. -/
structure Caps where
  step : BitVec 16
  cores : Vector (BitVec 48) 4
  channels : Vector (BitVec 32) 12
  ports : BitVec 16
  wake : BitVec 16
deriving DecidableEq, Repr, Inhabited

/-- One ASID table entry (Table 26-5). -/
structure AsidEnt where
  n : Nat
  root : DWord
  gen : BitVec 32
  acthr : BitVec 16
  promo : Bool
  rtab : DWord
  rtabn : BitVec 32
deriving DecidableEq, Repr, Inhabited

/-- A page under migration (R361). -/
structure Migration where
  asid : Nat
  va : Nat
  old : Nat
  new : Nat
deriving DecidableEq, Repr, Inhabited

/-- A window of the physical address space onto host memory, or onto a range of a peer's memory (R392, R404). -/
structure Window where
  base : Nat
  len : Nat
  /-- the link port; none for host memory -/
  port : Option Nat
  /-- the peer's address of the first byte -/
  peer : Nat
deriving DecidableEq, Repr, Inhabited

/-- What a debug stop names: the tile task's queue and ordinal, and the engine or 0xFFFF for squads (R399). -/
structure StopRec where
  queue : Nat
  seq : Nat
  engine : Nat
deriving DecidableEq, Repr, Inhabited

/-- Management, trust, debug and walker state of the part. -/
structure Part where
  caps : Caps
  bootst : BitVec 4
  fwver : BitVec 32
  badWrite : Bool
  nqbase : DWord
  nqsize : DWord
  nqtail : DWord
  nqhead : DWord
  nqdrop : DWord
  held : List (List Byte)
  lcopol : BitVec 2
  lcokeys : Vector (Vector DWord 4) 8
  drain : DWord
  mxgate : DWord
  ntok : BitVec 16
  pcap : DWord
  asids : List AsidEnt
  windows : List Window
  /-- the ASID to which each receiving link port is bound (R260) -/
  portAsids : List (Nat × Nat)
  ctxPool : List (Nat × Nat)
  promoPool : List Nat
  promoPaused : Bool
  migrations : List Migration
  /-- link ports that retrain (R393) -/
  portsDown : BitVec 16
  /-- lifetime counters of R403, in its order, and their hourly histograms -/
  lifetime : Vector Nat 6
  histograms : Vector (Vector Nat 16) 6
  /-- events of the hour in progress -/
  hour : Vector Nat 6
  /-- signatures left in the identity key's tree, and in the attestation key; the last report (R397) -/
  identityLeft : Nat
  attestLeft : Nat
  attestation : List Byte
  objs : List Obj
  loadReport : List Nat
  graphs : List Graph
  phases : List Phase
  jobs : List Job
  submitted : List Submitted
  nextPid : Nat
  nextJob : Nat
  nextLaunch : Nat
  /-- the 64-entry stream table: launch, seed, base, count (R346) -/
  streams : List (Nat × DWord × Nat × Nat)
  nextCmd : Nat
  /-- experiments that run, by number, and the next number (R401) -/
  experiments : List (Nat × Experiment)
  nextExperiment : Nat
  /-- deals that entered the progress points: experiment, suit, block, count -/
  progress : List (Nat × Nat × Nat × Nat)
  /-- debug stops made -/
  stops : List StopRec
  dirty : List Nat
  /-- earlier images of nodes that home slices hold in their node caches: ASID and region, address and 256
  bytes (R307, R317) -/
  nodeAges : List ((Nat × Nat) × Nat × List Byte)
  /-- the answer of the last host or peer read -/
  outerRead : List Byte
  bootRead : DWord
deriving DecidableEq, Repr, Inhabited

/-- The whole machine. The squad whose chain the model issues next stands in `sq`, with its team, core,
launch and code object beside it; every other one stands in the lists. -/
structure State where
  sq : Squad
  team : Team
  core : Core
  launch : Launch
  obj : Obj
  squads : List Squad
  teams : List Team
  cores : List Core
  launches : List Launch
  dies : Vector Die 4
  cmds : List Cmd
  mem : Memory
  part : Part
  /-- the model's own: occurrences due now, in order (log 3) -/
  agenda : List Instr
  /-- the model's own: the index of the next free value (log 3) -/
  free : Nat
  /-- the model's own: lanes of an SST that a home slice accepts at its issue (log 3) -/
  sstChunk : Nat
deriving DecidableEq, Repr

/-! ## Reset -/

/-- No squad: a context that nothing occupies. Register values as the log names them (log 2). -/
def Squad.empty : Squad where
  key := ⟨0, 0, 0⟩
  status := .absent
  v := Vector.replicate 64 (Vector.replicate 32 0#32)
  s := Vector.replicate 32 0#64
  abase := Vector.replicate 16 0#64
  astride := Vector.replicate 16 0#64
  p := Vector.replicate 8 0#32
  t := Vector.replicate 8 (Vector.replicate 32 0#512)
  fev := BitVec.allOnes 64
  fes := BitVec.allOnes 32
  fea := BitVec.allOnes 16
  fep := BitVec.allOnes 8
  fet := BitVec.allOnes 8
  uncorr := []
  poison := []
  br := Vector.replicate 32 0#6
  brn := Vector.replicate 32 0#6
  depth := Vector.replicate 32 0#8
  em := 0#32
  live := 0#32
  held := 0#32
  retd := 0#32
  suit := 0
  hand := 0
  hent := ⟨0#64, 0, 0, [], 0⟩
  segSlots := 0#8
  pkt := 0
  word := 0
  button := 0
  frames := []
  nspill := 0
  fmt := 0#32
  lclk := 0#64
  sqdeal := 0#64
  sqmisd := 0#64
  sqheld := 0#64
  sqcall := 0#64
  sqspill := 0#64
  th := 0#64
  tpos := 0#64
  tem := 0#64
  tcause := 0#64
  tinfo0 := 0#64
  tinfo1 := 0#64
  tlanes := 0#64
  tscr0 := 0#64
  tscr1 := 0#64
  tdeal := false
  seq := 0
  deps := []
  control := 0
  prods := []
  storeq := []
  fences := []
  mprog := []
  mkeep := none
  syncw := none
  sst := none
  late := []
  wait := none
  running := false
  runPkts := []
  yieldTo := []
  fast := false
  slot := 0
  passed := 0
  pended := 0
  age := 0
  ctx := 0

def Barrier.zero : Barrier := ⟨0#32, 0, 0⟩
def Shoe.zero : Shoe := ⟨0#64, 0, 0, 0, 0, 0, 0, [], []⟩

def Team.empty : Team where
  key := ⟨0, 0⟩
  status := .absent
  core := 0
  nsq := 0
  scratch := ⟨[]⟩
  scr := 0
  bars := Vector.replicate 16 Barrier.zero
  shoes := Vector.replicate 16 Shoe.zero
  shoeMask := 0#16
  owner := List.replicate 8 0xFF#8
  sbase := 0
  slen := 0
  ctx := 0
  debugStop := false
  copied := false
  shunned := ⟨[], [], []⟩
  phases := 0
  lasts := 0

/-- A core that no team has used since reset. -/
def Core.fresh (i : Nat) : Core where
  id := i
  stock := ⟨[]⟩
  z := Vector.replicate 8 (Vector.replicate 32 0#2304)
  ovf := 0#8
  zbad := []
  zpoison := []
  merged := []
  mstamp := 0
  l1 := []
  ahead := []
  icache := []
  deck := []
  tlb := []
  locks := []
  crdhit := 0#64
  crdmiss := 0#64
  crmisd := 0#64
  served := none
  turn := 0
  gated := 0xF#4

def Die.fresh (i : Nat) : Die :=
  ⟨i, [], 0, [], [], [], [0, 2, 4], List.replicate 6 10⟩

def LaunchRec.empty : LaunchRec :=
  ⟨0, 0, 0, false, 0, 0, 0, 0, 0, 0, 0#16, [], 0, 0, [], 0, 0#64, 0, []⟩

def Launch.empty : Launch :=
  ⟨0, .absent, 0, LaunchRec.empty, [], 0, 0, [], 0, 0, ⟨0, 0, 0#64, 0#64⟩, false, false, false, [], [], [], [], []⟩

def Obj.empty : Obj := ⟨0, 0, 2, [], none, 0, [], [], [], [], []⟩

/-- The capability registers of the part in hand (R23): what its fuses hold. -/
def Caps.fused : Caps where
  step := Config.step
  cores := ⟨#[Config.coreFuse 0, Config.coreFuse 1, Config.coreFuse 2, Config.coreFuse 3], rfl⟩
  channels := ⟨#[Config.channelFuse 0, Config.channelFuse 1, Config.channelFuse 2, Config.channelFuse 3,
    Config.channelFuse 4, Config.channelFuse 5, Config.channelFuse 6, Config.channelFuse 7,
    Config.channelFuse 8, Config.channelFuse 9, Config.channelFuse 10, Config.channelFuse 11], rfl⟩
  ports := Config.portFuse
  wake := Config.wakeLatency

/-- The part at reset (R389, Table 29-1a). -/
def Part.reset : Part where
  caps := Caps.fused
  bootst := 0#4
  fwver := 0#32
  badWrite := false
  nqbase := 0#64
  nqsize := 0#64
  nqtail := 0#64
  nqhead := 0#64
  nqdrop := 0#64
  held := []
  lcopol := 0#2
  lcokeys := Vector.replicate 8 (Vector.replicate 4 0#64)
  drain := 65536#64
  mxgate := 2048#64
  ntok := 0x3333#16
  pcap := 2400#64
  asids := []
  windows := []
  portAsids := []
  ctxPool := []
  promoPool := []
  promoPaused := false
  migrations := []
  portsDown := 0#16
  lifetime := Vector.replicate 6 0
  histograms := Vector.replicate 6 (Vector.replicate 16 0)
  hour := Vector.replicate 6 0
  identityLeft := 2 ^ 20
  attestLeft := 1024
  attestation := []
  objs := []
  loadReport := []
  graphs := []
  phases := []
  jobs := []
  submitted := []
  nextPid := 0
  nextJob := 0
  nextLaunch := 0
  streams := []
  nextCmd := 0
  experiments := []
  nextExperiment := 0
  progress := []
  stops := []
  dirty := []
  nodeAges := []
  outerRead := []
  bootRead := 0#64

/-- The machine right after reset. -/
def State.reset : State where
  sq := Squad.empty
  team := Team.empty
  core := Core.fresh 0
  launch := Launch.empty
  obj := Obj.empty
  squads := []
  teams := []
  cores := []
  launches := []
  dies := ⟨#[Die.fresh 0, Die.fresh 1, Die.fresh 2, Die.fresh 3], rfl⟩
  cmds := []
  mem := ⟨[]⟩
  part := Part.reset
  agenda := []
  free := 0
  sstChunk := 32

end Sys2Proof.Machine
end

