-- ==== Sys2Proof/Machine/Bytes.lean ====
section
/-! DEFINITION. Bytes of memory: reading and writing in canonical form, little-endian values (R4). -/

namespace Sys2Proof.Machine

/-- The byte at an address. -/
def cellRead : List Host.Cell → Nat → Byte
  | [], _ => Memory.unlisted
  | (k, b) :: r, a => if k = a then b else cellRead r a

/-- The cells with one byte written, in canonical form. -/
def cellWrite : List Host.Cell → Nat → Byte → List Host.Cell
  | [], a, b => if b = Memory.unlisted then [] else [(a, b)]
  | (k, c) :: r, a, b =>
    if a < k then (if b = Memory.unlisted then (k, c) :: r else (a, b) :: (k, c) :: r)
    else if a = k then (if b = Memory.unlisted then r else (a, b) :: r)
    else (k, c) :: cellWrite r a b

def Memory.read (m : Memory) (a : Nat) : Byte := cellRead m.cells a
def Memory.write (m : Memory) (a : Nat) (b : Byte) : Memory := ⟨cellWrite m.cells a b⟩

/-- Several bytes written, in list order. -/
def Memory.writeCells (m : Memory) : List (Nat × Byte) → Memory
  | [] => m
  | (a, b) :: r => (m.write a b).writeCells r

/-- A list without its repeats; first occurrences stay. -/
def dedup {α : Type} [BEq α] : List α → List α := fun l => l.foldl (fun acc x => if acc.contains x then acc else acc ++ [x]) []

/-- Addresses `a` to `a + n - 1`. -/
def span (a : Nat) : Nat → List Nat
  | 0 => []
  | n + 1 => a :: span (a + 1) n

/-- The value of bytes, lowest address least significant (R4). -/
def ofBytes : List Byte → Nat
  | [] => 0
  | b :: r => b.toNat + 256 * ofBytes r

/-- The `n` low bytes of a value (R4). -/
def toBytes : Nat → Nat → List Byte
  | 0, _ => []
  | n + 1, x => BitVec.ofNat 8 x :: toBytes n (x / 256)

/-- Bytes paired with the addresses from `a` up. -/
def cellsAt (a : Nat) : List Byte → List (Nat × Byte)
  | [] => []
  | b :: r => (a, b) :: cellsAt (a + 1) r

def Memory.bytes (m : Memory) (a n : Nat) : List Byte := (span a n).map m.read
def Memory.value (m : Memory) (a n : Nat) : Nat := ofBytes (m.bytes a n)
def Memory.writeBytes (m : Memory) (a : Nat) (bs : List Byte) : Memory := m.writeCells (cellsAt a bs)
/-- A value of `n` bytes written little-endian. -/
def Memory.put (m : Memory) (a n x : Nat) : Memory := m.writeBytes a (toBytes n x)

/-- All bytes of a range read as unlisted. -/
def Memory.clear (m : Memory) (a n : Nat) : Memory :=
  ⟨m.cells.filter (fun c => !(a ≤ c.1 && c.1 < a + n))⟩

/-- Field [hi:lo] of a value. -/
def bits (x hi lo : Nat) : Nat := (x / 2 ^ lo) % 2 ^ (hi + 1 - lo)

/-- A field of `n` bytes at offset `off` of a record. -/
def field (bs : List Byte) (off n : Nat) : Nat := ofBytes ((bs.drop off).take n)

/-- The bytes of a record from `off` on, `n` of them, are all zero. -/
def zeroAt (bs : List Byte) (off n : Nat) : Bool := ((bs.drop off).take n).all (· == 0#8)

end Sys2Proof.Machine
end

