-- ==== Sys2Proof/Machine/Access.lean ====
section
/-! DEFINITION. Reaching squads, teams, cores, launches and objects in the state. -/

namespace Sys2Proof.Machine

/-- The squad `k` stands in `sq`. -/
def State.isCur (s : State) (k : SquadKey) : Bool := s.sq.status != .absent && s.sq.key == k

/-- Every squad of the part. -/
def State.allSquads (s : State) : List Squad := if s.sq.status = .absent then s.squads else s.sq :: s.squads

def State.findSq (s : State) (k : SquadKey) : Option Squad := s.allSquads.find? (·.key == k)
def State.getSq (s : State) (k : SquadKey) : Squad := (s.findSq k).getD Squad.empty

def State.updSq (s : State) (k : SquadKey) (f : Squad → Squad) : State :=
  if s.isCur k then { s with sq := f s.sq }
  else { s with squads := s.squads.map (fun q => if q.key = k then f q else q) }

def State.isCurTeam (s : State) (t : TeamKey) : Bool := s.team.status != .absent && s.team.key == t
def State.allTeams (s : State) : List Team := if s.team.status = .absent then s.teams else s.team :: s.teams
def State.findTeam (s : State) (t : TeamKey) : Option Team := s.allTeams.find? (·.key == t)
def State.getTeam (s : State) (t : TeamKey) : Team := (s.findTeam t).getD Team.empty

def State.updTeam (s : State) (t : TeamKey) (f : Team → Team) : State :=
  if s.isCurTeam t then { s with team := f s.team }
  else { s with teams := s.teams.map (fun q => if q.key = t then f q else q) }

def State.isCurLaunch (s : State) (l : Nat) : Bool := s.launch.status != .absent && s.launch.lid == l
def State.allLaunches (s : State) : List Launch :=
  if s.launch.status = .absent then s.launches else s.launch :: s.launches
def State.findLaunch (s : State) (l : Nat) : Option Launch := s.allLaunches.find? (·.lid == l)
def State.getLaunch (s : State) (l : Nat) : Launch := (s.findLaunch l).getD Launch.empty

def State.updLaunch (s : State) (l : Nat) (f : Launch → Launch) : State :=
  if s.isCurLaunch l then { s with launch := f s.launch }
  else { s with launches := s.launches.map (fun q => if q.lid = l then f q else q) }

/-- Core `i`; a core that nothing has touched is as fresh as at reset. -/
def State.getCore (s : State) (i : Nat) : Core :=
  if s.core.id = i then s.core else (s.cores.find? (·.id == i)).getD (Core.fresh i)

def State.updCore (s : State) (i : Nat) (f : Core → Core) : State :=
  if s.core.id = i then { s with core := f s.core }
  else if s.cores.any (·.id == i) then { s with cores := s.cores.map (fun q => if q.id = i then f q else q) }
  else { s with cores := f (Core.fresh i) :: s.cores }

def State.getDie (s : State) (d : Nat) : Die := (s.dies.toList.find? (·.id == d)).getD (Die.fresh d)
def State.updDie (s : State) (d : Nat) (f : Die → Die) : State :=
  { s with dies := s.dies.map (fun q => if q.id = d then f q else q) }

def State.updPart (s : State) (f : Part → Part) : State := { s with part := f s.part }

/-- Count an event in lifetime counter `i` (R403). -/
def State.countLife (s : State) (i : Nat) : State :=
  s.updPart (fun p => { p with
    lifetime := vset p.lifetime i (vget p.lifetime i + 1)
    hour := vset p.hour i (vget p.hour i + 1) })

def State.findObj (s : State) (a : Nat) : Option Obj := s.part.objs.find? (·.addr == a)

/-- The die of a core (R14). -/
def dieOf (core : Nat) : Nat := core / 48
/-- The cluster of a core within its die (R14). -/
def clusterOf (core : Nat) : Nat := core % 48 / 8

/-- Bring a core, a launch and its object beside the current squad. -/
def State.focusCore (i : Nat) (s : State) : State :=
  if s.core.id = i then s
  else { s with core := s.getCore i, cores := s.core :: s.cores.filter (fun q => q.id != i) }

def State.focusLaunch (l : Nat) (s : State) : State :=
  if s.isCurLaunch l then s
  else match s.launches.find? (·.lid == l) with
    | none => s
    | some x =>
      { s with
        launch := x
        launches := (if s.launch.status = LaunchStatus.absent then [] else [s.launch]) ++ s.launches.filter (fun q => q.lid != l)
        obj := (s.findObj x.lr.obj).getD Obj.empty }

def State.focusTeam (t : TeamKey) (s : State) : State :=
  if s.isCurTeam t then s
  else match s.teams.find? (·.key == t) with
    | none => s
    | some x =>
      ({ s with
        team := x
        teams := (if s.team.status = TeamStatus.absent then [] else [s.team]) ++ s.teams.filter (fun (q : Team) => q.key != t) }.focusCore
          x.core).focusLaunch t.lid

/-- Bring squad `k` into `sq`, with its team, core, launch and object. -/
def State.focus (k : SquadKey) (s : State) : State :=
  if s.isCur k then s
  else match s.squads.find? (·.key == k) with
    | none => s
    | some x =>
      { s with
        sq := x
        squads := (if s.sq.status = SqStatus.absent then [] else [s.sq]) ++ s.squads.filter (fun (q : Squad) => q.key != k) }.focusTeam
        k.team

/-- The squads of a team. -/
def State.teamSquads (s : State) (t : TeamKey) : List Squad := s.allSquads.filter (·.key.team == t)
/-- The squads resident on a core. -/
def State.coreSquads (s : State) (i : Nat) : List Squad :=
  s.allSquads.filter (fun q => (s.findTeam q.key.team).any (fun t => t.core == i && t.status != .saved && t.status != .done))

/-- The command `c` in flight. -/
def State.findCmd (s : State) (c : Nat) : Option Cmd := s.cmds.find? (·.id == c)
def State.updCmd (s : State) (c : Nat) (f : Cmd → Cmd) : State :=
  { s with cmds := s.cmds.map (fun q => if q.id = c then f q else q) }

/-- Serial-number order of launch numbers (R336). -/
def launchEarlier (a b : Nat) : Bool := 0 < (b + 2 ^ 32 - a) % 2 ^ 32 && (b + 2 ^ 32 - a) % 2 ^ 32 < 2 ^ 31

/-- Logical squad order: launch number, then tmid, then sqid (R231). -/
def keyBefore (a b : SquadKey) : Bool :=
  if a.lid = b.lid then
    (if a.tmid = b.tmid then decide (a.sqid < b.sqid) else decide (a.tmid < b.tmid))
  else launchEarlier a.lid b.lid

/-- Insertion into a list ordered by `before`, after equals. -/
def insertBy {α : Type} (before : α → α → Bool) (x : α) : List α → List α
  | [] => [x]
  | y :: r => if before x y then x :: y :: r else y :: insertBy before x r

def sortBy {α : Type} (before : α → α → Bool) (l : List α) : List α :=
  l.foldl (fun acc x => insertBy before x acc) []

end Sys2Proof.Machine
end

