-- ==== Sys2Proof/Machine/Translate.lean ====
section
/-! DEFINITION. Translation, residency checks, and what a party reads at each level of memory. -/

namespace Sys2Proof.Machine

/-! ## The part's units -/

/-- Number of set bits. -/
def popCount {n : Nat} (x : BitVec n) : Nat := (List.range n).foldl (fun k i => if x.getLsbD i then k + 1 else k) 0

/-- Present capacity of die `d` in bytes (R404). -/
def dieBytes (c : Caps) (d : Nat) : Nat :=
  ([3 * d, 3 * d + 1, 3 * d + 2].map (fun i => 2 * popCount (vget c.channels i))).sum * 2 ^ 30
/-- Present HBM capacity (R404). -/
def hbmBytes (c : Caps) : Nat := dieBytes c 0 + dieBytes c 1 + dieBytes c 2 + dieBytes c 3

/-- The window of system software that holds a physical address at or above 2^40 (R404). -/
def windowAt (s : State) (pa : Nat) : Option Window :=
  s.part.windows.find? (fun w => w.base ≤ pa && pa < w.base + w.len)

/-- Host memory or a peer window, as opposed to HBM (R404). -/
def outside (pa : Nat) : Bool := 2 ^ 40 ≤ pa

/-- Whether a range is backed: HBM, or what lies from 2^40 up to the end of the 52-bit address space (R17, R355,
R404). R404 leaves unbacked only what lies below 2^40. What it says of an address from 2^40 on that no window
holds is nothing: the model takes it for ordinary bytes homed at die 0 (log 12). -/
def backed (s : State) (pa size : Nat) : Bool :=
  (outside pa && pa + size ≤ 2 ^ 52) || pa + size ≤ hbmBytes s.part.caps

/-- Present HBM holds the whole access. -/
def inHbm (s : State) (pa n : Nat) : Bool := decide (pa + n ≤ hbmBytes s.part.caps)

/-- A byte of a peer's memory under one name, whichever window maps to it: the port above bit 52, and the
peer's own address (R392). Every other address is its own name. -/
def canon (s : State) (pa : Nat) : Nat :=
  match (if outside pa then windowAt s pa else none) with
  | some w => match w.port with
    | some p => 2 ^ 52 * (p + 1) + (w.peer + (pa - w.base)) % 2 ^ 52
    | none => pa
  | none => pa

/-- The peer port whose window holds an address, if any: of a physical address, or of a byte's name. -/
def peerPort (s : State) (pa : Nat) : Option Nat :=
  if 2 ^ 52 ≤ pa then some (pa / 2 ^ 52 - 1)
  else if outside pa then (windowAt s pa).bind (·.port)
  else none

/-- The home die of a physical address (R227, R387, R392, R404). -/
def homeOf (s : State) (pa : Nat) : Nat :=
  if outside pa then ((peerPort s pa).map (· / 4)).getD 0
  else
    let c := s.part.caps
    if pa < dieBytes c 0 then 0
    else if pa < dieBytes c 0 + dieBytes c 1 then 1
    else if pa < dieBytes c 0 + dieBytes c 1 + dieBytes c 2 then 2 else 3

/-- The firmware's checks have failed: nothing runs (R396). -/
def failed (s : State) : Bool := s.part.bootst == 0xF#4

/-- A link port is present and not retraining (R22, R393). -/
def portUp (s : State) (p : Nat) : Bool := s.part.caps.ports.getLsbD p && !s.part.portsDown.getLsbD p

/-- The ports of the peer windows that a physical range meets. -/
def portsOf (s : State) (pa size : Nat) : List Nat :=
  (s.part.windows.filter (fun w => decide (w.base < pa + size) && decide (pa < w.base + w.len))).filterMap (·.port)

/-- A range is backed, and no part of it is the window of an absent port, which is no valid target (R22). -/
def placed (s : State) (pa size : Nat) : Bool := backed s pa size && (portsOf s pa size).all s.part.caps.ports.getLsbD

/-- A range is backed, and every port on the way to it accepts accesses (R22, R393). -/
def served (s : State) (pa size : Nat) : Bool := backed s pa size && (portsOf s pa size).all (portUp s)

/-- No port on the way to a byte, given by its address or its name, is absent or down (R393). -/
def reachable (s : State) (pa : Nat) : Bool := (peerPort s pa).all (portUp s)

/-! ## Levels of memory -/

/-- The youngest byte at `pa` among entries in acceptance order. -/
def pendingByte (l : List Pending) (pa : Nat) : Option Byte :=
  l.foldl (fun acc e => e.cells.foldl (fun acc c => if c.1 = pa then some c.2 else acc) acc) none

/-- A byte as a party of die `d` reads it at the die L2 or beyond (R227). -/
def dieByte (s : State) (d pa : Nat) : Byte := (pendingByte (s.getDie d).pend pa).getD (s.mem.read pa)

/-- A byte as the squads of a core read it past the store merge unit (R232, R241). -/
def coreByte (s : State) (core pa : Nat) : Byte :=
  (pendingByte (s.getCore core).merged pa).getD (dieByte s (dieOf core) pa)

/-- The bytes of a physical range by their names, with what is written there (R392). -/
def namedCells (s : State) (pa : Nat) (bs : List Byte) : List (Nat × Byte) := (cellsAt pa bs).map (fun c => (canon s c.1, c.2))

/-- The bytes of a physical range at their homes. -/
def homeBytes (s : State) (pa n : Nat) : List Byte := (span pa n).map (fun a => s.mem.read (canon s a))

/-- A value of `n` bytes at a physical address, read at device scope through a die L2. -/
def dieValue (s : State) (d pa n : Nat) : Nat := ofBytes ((span pa n).map (fun a => dieByte s d (canon s a)))

/-! ## Page tables (R355) -/

def asidEnt (s : State) (n : Nat) : AsidEnt :=
  (s.part.asids.find? (·.n == n)).getD ⟨n, 0#64, 0#32, 1#16, false, 0#64, 0#32⟩

/-- ADDR of an entry. -/
def leafAddr (e : DWord) : Nat := (e.extractLsb' 13 39).toNat * 8192

def leafR (e : DWord) : Bool := e.getLsbD 1
def leafW (e : DWord) : Bool := e.getLsbD 2
def leafX (e : DWord) : Bool := e.getLsbD 3
def leafG (e : DWord) : Bool := e.getLsbD 4
def leafCO (e : DWord) : Bool := e.getLsbD 5
def leafAC (e : DWord) : Bool := e.getLsbD 6
def leafWBLK (e : DWord) : Bool := e.getLsbD 7

/-- What R355 makes of one entry at level `5 - k`, whose pages are 2^shift bytes. A table that no memory backs, or that
lies behind a port which accepts no access, gives no valid entry, so the entry that names it is taken as V = 0 too (R22,
R393, R404; log 12). -/
inductive EntryKind where
  | bad | table | leaf
deriving DecidableEq, Repr

def entryKind (s : State) (k : Nat) (e : DWord) : EntryKind :=
  let shift := 16 + 10 * (k - 1)
  if !e.getLsbD 0 || e.extractLsb' 52 12 != 0#12 || e.extractLsb' 9 4 != 0#4 then .bad
  else if e.getLsbD 8 then
    if k = 4 then .bad
    else if leafAddr e % 2 ^ shift = 0 && backed s (leafAddr e) (2 ^ shift) then .leaf else .bad
  else if k = 1 || e.extractLsb' 1 7 != 0#7 || !served s (leafAddr e) 8192 then .bad else .table

/-- An entry that keeps R355's rules but maps to, or points into, memory that the part does not have: an absent channel
(R22, R335). -/
def absentEntry (s : State) (k : Nat) (e : DWord) : Bool :=
  let shift := 16 + 10 * (k - 1)
  e.getLsbD 0 && e.extractLsb' 52 12 == 0#12 && e.extractLsb' 9 4 == 0#4
    && (if e.getLsbD 8 then k != 4 && leafAddr e % 2 ^ shift == 0 && !backed s (leafAddr e) (2 ^ shift)
        else k != 1 && e.extractLsb' 1 7 == 0#7 && !backed s (leafAddr e) 8192)

/-- The walk from the table at `tab`, with `k` levels left: the leaf and its page size. The reads are
coherent loads at device scope (R357). -/
def walkFrom (s : State) (d : Nat) : Nat → Nat → Nat → Option (DWord × Nat)
  | 0, _, _ => none
  | k + 1, tab, va =>
    let e := BitVec.ofNat 64 (dieValue s d (tab + 8 * (va / 2 ^ (16 + 10 * k) % 1024)) 8)
    match entryKind s (k + 1) e with
    | .bad => none
    | .leaf => some (e, 2 ^ (16 + 10 * k))
    | .table => walkFrom s d k (leafAddr e) va

/-- The level-1 table of an ASID, where it has one and memory serves it (R354, R355, R393). -/
def rootOf (s : State) (asid : Nat) : Option Nat :=
  let r := (asidEnt s asid).root
  let a := (r.extractLsb' 13 39).toNat * 8192
  if r.getLsbD 0 && served s a 8192 then some a else none

/-- The walk of R355 for an ASID. -/
def walk (s : State) (d asid va : Nat) : Option (DWord × Nat) :=
  match rootOf s asid with
  | some a => walkFrom s d 4 a va
  | none => none

/-- A TLB entry matches an address (R357). -/
def tlbMatches (asid va : Nat) (e : TlbEntry) : Bool :=
  (e.asid == asid || leafG e.leaf) && e.va / e.size == va / e.size

/-- The leaf in force for an access of a core: what a walk finds, or an older entry that a TLB still
holds (R357); which of the two, where they differ, is a free choice (log 8). -/
def translate (s : State) (core asid va : Nat) : Option (DWord × Nat) :=
  let w := walk s (dieOf core) asid va
  match ((s.getCore core).tlb ++ (s.getDie (dieOf core)).tlb).find? (tlbMatches asid va) with
  | none => w
  | some e => if w = some (e.leaf, e.size) then w
              else if Config.freeBit s.free (.tlbEntry core asid (va / e.size)) then some (e.leaf, e.size) else w

/-- The physical address that a leaf gives. -/
def physOf (l : DWord × Nat) (va : Nat) : Nat := leafAddr l.1 / l.2 * l.2 + va % l.2

/-- Virtual to physical; `none` where no valid leaf maps the address. A peer's byte goes by its own name. -/
def phys (s : State) (core asid va : Nat) : Option Nat :=
  (translate s core asid va).map (fun l => canon s (physOf l va))

/-! ## Checks of R199 -/

inductive AccKind where
  | read | write | atomic
deriving DecidableEq, Repr

/-- KIND of causes 0x09 and 0x0A (R199). -/
def AccKind.kind : AccKind → DWord
  | .read => 0#64
  | _ => 1#64

/-- Every byte of the range lies in the lease (R341). -/
def inLease (leases : List (Nat × Nat)) (va n : Nat) : Bool :=
  (span va n).all (fun a => leases.any (fun r => r.1 ≤ a && a < r.1 + r.2))

/-- Every byte of a long range lies in the lease; used for hulls. -/
def hullInLease (leases : List (Nat × Nat)) : Nat → Nat → Nat → Bool
  | 0, lo, hi => hi ≤ lo
  | k + 1, lo, hi =>
    hi ≤ lo || match leases.find? (fun r => r.1 ≤ lo && lo < r.1 + r.2) with
      | none => false
      | some r => hullInLease leases k (r.1 + r.2) hi

/-- A page lacks what an access needs, or its port is down (R356, R393): the KIND to report. -/
def permFault (s : State) (core asid : Nat) (k : AccKind) (va : Nat) : Option DWord :=
  match translate s core asid va with
  | none => some (if k = .atomic then 0#64 else k.kind)
  | some l =>
    let down := !reachable s (physOf l va)
    match k with
    | .read => if leafR l.1 && !down then none else some 0#64
    | .write => if leafW l.1 && !down then none else some 1#64
    | .atomic => if !leafR l.1 then some 0#64 else if leafW l.1 && !down then none else some 1#64

/-- The lock that a range meets (R208): space 0 memory of an ASID, 1 scratch of a team. -/
def lockHit (s : State) (core : Nat) (t : TeamKey) (asid space : Nat) (k : AccKind) (lo n : Nat) : Option RangeLock :=
  (s.getCore core).locks.find? (fun r =>
    r.space == space && decide (lo < r.hi) && decide (r.lo < lo + n)
      && (r.dest || k != .read)
      && (if space = 0 then (s.findCmd r.cmd).any (·.asid == asid) else r.t == t))

/-- What a precise trap reports (Table 10-6). -/
structure Report where
  cause : BitVec 8
  info0 : DWord
  info1 : DWord
  lanes : Mask
deriving DecidableEq, Repr, Inhabited

/-- The mask of a list of lanes. -/
def maskOfList (l : List Nat) : Mask := l.foldl (fun m i => m ||| (1#32 <<< i)) 0#32

/-- The report of one check over the accesses of a word, given as lane, address and size; `f` gives the
two details of the lowest lane that fails it. For a uniform access the lanes are EM (R140). -/
def checkLanes (uni : Bool) (em : Mask) (acc : List (Nat × Nat)) (bad : Nat → Bool) (cause : BitVec 8)
    (f : Nat → Nat → DWord × DWord) : Option Report :=
  match acc.filter (fun a => bad a.2) with
  | [] => none
  | (l, va) :: r =>
    let d := f l va
    some ⟨cause, d.1, d.2, if uni then em else maskOfList (((l, va) :: r).map (·.1))⟩

/-- First of several checks, in order. -/
def firstOf : List (Option Report) → Option Report
  | [] => none
  | some r :: _ => some r
  | none :: t => firstOf t

/-- Steps 2 and 4 to 7 of R199 for accesses of `n` bytes to memory by the current squad. `align` is the
multiple the address must be. -/
def memChecks (s : State) (k : AccKind) (uni : Bool) (em : Mask) (align n : Nat) (acc : List (Nat × Nat)) :
    Option Report :=
  let c := s.core.id
  let asid := s.launch.asid
  firstOf [
    checkLanes uni em acc (fun va => va % align != 0) 0x0B#8 (fun _ va => (BitVec.ofNat 64 va, BitVec.ofNat 64 align)),
    checkLanes uni em acc (fun va => 2 ^ 56 ≤ va) 0x0A#8 (fun _ va => (BitVec.ofNat 64 va, k.kind)),
    checkLanes uni em acc (fun va => !inLease s.launch.lr.leases va n) 0x09#8 (fun _ va => (BitVec.ofNat 64 va, k.kind)),
    checkLanes uni em acc (fun va => (permFault s c asid k va).isSome) 0x0A#8
      (fun _ va => (BitVec.ofNat 64 va, (permFault s c asid k va).getD k.kind)),
    checkLanes uni em acc (fun va => (lockHit s c s.team.key asid 0 k va n).isSome) 0x08#8
      (fun _ va => (BitVec.ofNat 64 va,
        ((lockHit s c s.team.key asid 0 k va n).map (fun r => BitVec.ofNat 64 r.entry)).getD 0#64))]

/-- Steps 2, 3 and 7 of R199 for scratch offsets. -/
def scratchChecks (s : State) (k : AccKind) (uni : Bool) (em : Mask) (n : Nat) (acc : List (Nat × Nat)) :
    Option Report :=
  firstOf [
    checkLanes uni em acc (fun va => va % n != 0) 0x0B#8 (fun _ va => (BitVec.ofNat 64 va, BitVec.ofNat 64 n)),
    checkLanes uni em acc (fun va => s.team.scr < va + n) 0x12#8 (fun l va => (BitVec.ofNat 64 l, BitVec.ofNat 64 va)),
    checkLanes uni em acc (fun va => (lockHit s s.core.id s.team.key s.launch.asid 1 k va n).isSome) 0x08#8
      (fun _ va => (BitVec.ofNat 64 va,
        ((lockHit s s.core.id s.team.key s.launch.asid 1 k va n).map (fun r => BitVec.ofNat 64 r.entry)).getD 0#64))]

/-! ## What a squad reads -/

/-- The bytes of a store that is still in its queue, as physical cells. An address below 2^52 keeps its offset in
a 64 KiB page; the name of a peer's byte need not. -/
def queueByte (s : State) (core asid : Nat) (q : List SEntry) (seq pa : Nat) : Option Byte :=
  q.foldl (fun acc e =>
    if e.seq < seq then
      match e.kind with
      | .store cells => cells.foldl (fun acc c =>
          if (decide (2 ^ 52 ≤ pa) || c.1 % 65536 == pa % 65536) && phys s core asid c.1 == some pa then some c.2 else acc) acc
      | _ => acc
    else acc) none

/-- A coherent read of one byte by a squad (R205, R241). -/
def squadByte (s : State) (k : SquadKey) (core asid seq pa : Nat) : Byte :=
  (queueByte s core asid (s.getSq k).storeq seq pa).getD (coreByte s core pa)

/-- The youngest byte of a squad's own queue at a scratch address, before a place of its program order. -/
def queuedScratchByte (q : List SEntry) (seq a : Nat) : Option Byte :=
  q.foldl (fun acc e =>
    if e.seq < seq then
      match e.kind with
      | .scratch cells => cells.foldl (fun acc c => if c.1 = a then some c.2 else acc) acc
      | _ => acc
    else acc) none

/-- A read of one scratch byte by a squad (R206). -/
def scratchByte (s : State) (k : SquadKey) (seq a : Nat) : Byte :=
  (queuedScratchByte (s.getSq k).storeq seq a).getD ((s.getTeam k.team).scratch.read a)

/-- The region that a handle names, with its ASID. -/
def regionOf (asid : Nat) (h : BitVec 32) : Nat × Nat := (asid, (h.extractLsb' 0 16).toNat)

/-- The regions that an engine command works on (Table 18-3). -/
def cmdRegion (c : Cmd) : Option (Nat × Nat) :=
  if c.fn = 2 then some (regionOf c.asid (c.tr.aux.setWidth 32))
  else if c.fn = 3 || c.fn = 11 then some (regionOf c.asid (c.sb.setWidth 32))
  else none

/-- An operation on a region is in flight; only SISX has a second region (R317, R319). -/
def regionBusy (s : State) (r : Nat × Nat) : Bool :=
  s.allSquads.any (fun q =>
    let asid := (s.getLaunch q.key.lid).asid
    q.sst.any (fun x => regionOf asid x.handle == r) || q.prods.any (fun p => match p.kind with
      | .sparse op _ h1 h2 _ _ => regionOf asid h1 == r || (op == 3 && regionOf asid h2 == r)
      | _ => false))
  || s.cmds.any (fun c => cmdRegion c == some r)

/-- A byte as a plain load sees it: while an operation on a region is in flight, a byte of a node may be that
of any image the home slice has since replaced (R307, R317; log 8). -/
def agedByte (s : State) (pa : Nat) (b : Byte) : Byte :=
  match s.part.nodeAges.filter (fun e => e.2.1 == pa / 256 * 256 && regionBusy s e.1) with
  | [] => b
  | l =>
    match Config.freeAge s.free (pa / 256) % (l.length + 1) with
    | 0 => b
    | n + 1 => ((l[n]?).bind (fun e => e.2.2[pa % 256]?)).getD b

/-- The state as an engine of a core's die translates in it: its walk-ahead TLB stands for the core's (R267). -/
def engineView (core engine : Nat) (s : State) : State :=
  s.updCore core (fun c => { c with
    tlb := ((s.getDie (dieOf core)).walkAhead.filter (·.1 == engine)).map (·.2) })

/-- The 128-byte line of an address (R201). -/
def lineOf (pa : Nat) : Nat := pa / 128 * 128

/-- A read of one byte with CO = 0 (R205): an L1 line may serve it; where the line's byte differs from
the coherent one the choice is free (log 8). -/
def l1Byte (s : State) (k : SquadKey) (core asid seq pa : Nat) : Byte :=
  (queueByte s core asid (s.getSq k).storeq seq pa).getD <|
    let fresh := coreByte s core pa
    match (s.getCore core).l1.find? (fun ln => ln.pa == lineOf pa && !(s.getTeam k.team).shunned.l1.contains ln) with
    | none => fresh
    | some ln =>
      let old := ln.bytes.getD (pa % 128) fresh
      if old = fresh then fresh else if Config.freeBit s.free (.l1Line core (lineOf pa)) then old else fresh

/-- Fill the L1 line of an address through the store merge unit (R205). The L1 holds 256 KiB (R15), 2,048
lines; the line filled first gives way (log 8). -/
def fillL1 (core pa : Nat) (s : State) : State :=
  if (s.getCore core).l1.any (·.pa == lineOf pa) then s
  else
    let ln : Line := ⟨lineOf pa, (span (lineOf pa) 128).map (coreByte s core)⟩
    s.updCore core (fun c => { c with l1 := ln :: c.l1.take 2047 })

/-- Drop the L1 lines of some addresses, and what was read ahead of them. -/
def Core.dropLines (pas : List Nat) (c : Core) : Core :=
  let meets := fun (pa : Nat) => pas.any (fun x => lineOf x == pa)
  { c with l1 := c.l1.filter (fun ln => !meets ln.pa), ahead := c.ahead.filter (fun a => a.scratch || !meets a.pa) }

/-- A load whose values stand ready, but not written, while an older load of its squad is pending drops them where a
write of its core reaches its lines (R244). -/
def Prod.replayed (s : State) (core asid : Nat) (pas : List Nat) (p : Prod) : Prod :=
  match p.kind with
  | .load false _ _ _ _ acc =>
    if !p.got.isEmpty && acc.any (fun a => (phys s core asid a.2).any (fun x => pas.any (fun y => lineOf y == lineOf x)))
    then { p with got := [] } else p
  | _ => p

/-- A core's write of some bytes drops the L1 lines that they overlap (R205), and the core replays the loads that it
performed there ahead of older ones (R244). -/
def dropL1 (core : Nat) (cells : List (Nat × Byte)) (s : State) : State :=
  let pas := cells.map (·.1)
  let s := s.updCore core (Core.dropLines pas)
  (s.coreSquads core).foldl (fun t q =>
    if q.prods.any (fun p => !p.got.isEmpty) then
      t.updSq q.key (fun q => { q with prods := q.prods.map (Prod.replayed s core (s.getLaunch q.key.lid).asid pas) })
    else t) s

/-- What a squad read ahead goes: an acquire, a ticket that fills, or the end of its stay on the core (R234, R236). -/
def dropAhead (core : Nat) (k : SquadKey) (s : State) : State :=
  s.updCore core (fun c => { c with ahead := c.ahead.filter (fun a => a.k != k) })

/-- A byte that an access which depends on no load from place `dep` on may take from what its squad read ahead. -/
def Core.aheadAt (c : Core) (k : SquadKey) (dep : Nat) (scratch : Bool) (pa : Nat) : Option Byte :=
  (c.ahead.find? (fun a => a.k == k && a.scratch == scratch && a.pa == lineOf pa && decide (dep ≤ a.place))).bind
    (fun a => a.bytes[pa % 128]?)

/-- A byte that a coherent load may have read before the loads of its squad that it does not depend on: what the squad
read ahead, or what it reads now; which of the two is a free choice (R196, R235; log 16). -/
def aheadByte (s : State) (k : SquadKey) (core dep pa : Nat) : Byte :=
  match (s.getCore core).aheadAt k dep false pa with
  | some x => if Config.freeBit s.free (.ahead core (lineOf pa)) then x else coreByte s core pa
  | none => coreByte s core pa

/-- The same of a byte of scratch, for LDSC (R196, R206, R229). -/
def scratchAheadByte (s : State) (k : SquadKey) (dep a : Nat) : Byte :=
  let core := (s.getTeam k.team).core
  let now := (s.getTeam k.team).scratch.read a
  match (s.getCore core).aheadAt k dep true a with
  | some x => if Config.freeBit s.free (.scratchAhead core (lineOf a)) then x else now
  | none => now

/-- Bytes that the sequencer of the current squad's core fetches (R237): those of memory, or those the core still holds from an
earlier fetch; where they differ the choice is free (log 8). -/
def fetchBytes (s : State) (core asid va n : Nat) : Option (List Byte) :=
  match phys s core asid va with
  | none => none
  | some pa =>
    let fresh := (span va n).map (fun a => ((phys s core asid a).map (coreByte s core)).getD 0#8)
    match (s.getCore core).icache.find? (fun e => e.1 == pa && e.2.length == n && !s.team.shunned.code.contains e) with
    | none => some fresh
    | some e => if e.2 = fresh then some fresh else some (if Config.freeBit s.free (.fetched core pa) then e.2 else fresh)

/-- Remember what was fetched. -/
def noteFetch (core asid va n : Nat) (s : State) : State :=
  match phys s core asid va, fetchBytes s core asid va n with
  | some pa, some bs =>
    if (s.getCore core).icache.contains (pa, bs) then s
    else s.updCore core (fun c => { c with icache := (pa, bs) :: c.icache.filter (·.1 != pa) })
  | _, _ => s

end Sys2Proof.Machine
end

