-- ==== Sys2Proof/Machine/Operands.lean ====
section
/-! DEFINITION. Operand values under R58 and register writes under R146. -/

namespace Sys2Proof.Machine

/-! ## Reading -/

/-- The word of register v`n` in lane `l`. -/
def Squad.vreg (q : Squad) (n l : Nat) : Word := vget (vget q.v n) l

/-- Lane `l`'s value of an affine register: Trunc(base + l × stride, 64) (R52). -/
def Squad.areg (q : Squad) (n l : Nat) : DWord := vget q.abase n + BitVec.ofNat 64 l * vget q.astride n

/-- The 64-bit value that an operand gives lane `l` (R53, R55, R58). A v register gives its word,
zero-extended. -/
def val (s : State) (o : Opnd) (l : Nat) : DWord :=
  match o with
  | .v n => (s.sq.vreg n.val l).setWidth 64
  | .s n => vget s.sq.s n.val
  | .a n => s.sq.areg n.val l
  | .p n => (BitVec.ofBool ((vget s.sq.p n.val).getLsbD l)).setWidth 64
  | .zero => 0#64
  | .lid => BitVec.ofNat 64 l
  | .sqid => BitVec.ofNat 64 s.sq.key.sqid
  | .tmid => BitVec.ofNat 64 s.sq.key.tmid
  | .em => s.sq.em.setWidth 64
  | .br => (vget s.sq.br l).setWidth 64
  | .fmt => s.sq.fmt.setWidth 64
  | .lclk => s.sq.lclk

/-- Bits [31:0] of an operand's value in lane `l` (R58). -/
def val32 (s : State) (o : Opnd) (l : Nat) : Word := (val s o l).setWidth 32

/-- The one value of a uniform operand. -/
def uval (s : State) (o : Opnd) : DWord := val s o 0

/-- The 64-bit value of a pair for a v register, and the operand's value otherwise (R9). -/
def val64 (s : State) (o : Opnd) (l : Nat) : DWord :=
  match o with
  | .v n => s.sq.vreg (n.val + 1) l ++ s.sq.vreg n.val l
  | _ => val s o l

/-- Base and stride of an operand used as an affine source; a uniform source has stride 0 (R59). -/
def affine (s : State) (o : Opnd) : DWord × DWord :=
  match o with
  | .a n => (vget s.sq.abase n.val, vget s.sq.astride n.val)
  | .lid => (0#64, 1#64)
  | _ => (uval s o, 0#64)

/-! ## Writing -/

/-- The poison and parity marks that a write to words clears (R69). -/
def Squad.heal (q : Squad) (bad : WordRef → Bool) : Squad :=
  { q with uncorr := q.uncorr.filter (fun w => !bad w), poison := q.poison.filter (fun w => !bad w) }

/-- Set the F/E bit of a register (R64). -/
def Squad.setFE (q : Squad) (o : Opnd) (full : Bool) : Squad :=
  match o with
  | .v n => { q with fev := if full then q.fev ||| (1#64 <<< n.val) else q.fev &&& ~~~(1#64 <<< n.val) }
  | .s n => { q with fes := if full then q.fes ||| (1#32 <<< n.val) else q.fes &&& ~~~(1#32 <<< n.val) }
  | .a n => { q with fea := if full then q.fea ||| (1#16 <<< n.val) else q.fea &&& ~~~(1#16 <<< n.val) }
  | .p n => { q with fep := if full then q.fep ||| (1#8 <<< n.val) else q.fep &&& ~~~(1#8 <<< n.val) }
  | _ => q

/-- Write lanes of a v register and mark it full. -/
def Squad.putV (q : Squad) (n : Nat) (m : Mask) (f : Nat → Word) : Squad :=
  ({ q with v := vset q.v n (lanes fun l => if m.getLsbD l then f l else q.vreg n l) }.setFE (.v (Fin.ofNat 64 n))
    true).heal (fun w => match w with | .v k l => k == n && m.getLsbD l | _ => false)

/-- Write an s register and mark it full. -/
def Squad.putS (q : Squad) (n : Nat) (x : DWord) : Squad :=
  ({ q with s := vset q.s n x }.setFE (.s (Fin.ofNat 32 n)) true).heal
    (fun w => match w with | .s k _ => k == n | _ => false)

/-- Write an a register and mark it full. -/
def Squad.putA (q : Squad) (n : Nat) (b st : DWord) : Squad :=
  ({ q with abase := vset q.abase n b, astride := vset q.astride n st }.setFE (.a (Fin.ofNat 16 n)) true).heal
    (fun w => match w with | .a k _ => k == n | _ => false)

/-- Write lanes of a p register and mark it full. -/
def Squad.putP (q : Squad) (n : Nat) (m : Mask) (f : Nat → Bool) : Squad :=
  ({ q with p := vset q.p n ((vget q.p n &&& ~~~m) ||| (maskOf f &&& m)) }.setFE (.p (Fin.ofNat 8 n)) true).heal
    (fun w => match w with | .p k => k == n | _ => false)

/-- Write a result of class V to D in the lanes of `m`, a p destination taking bit 0 (R53, R146). Under
an empty mask nothing is written (R127). -/
def Squad.putLanes (q : Squad) (d : Opnd) (m : Mask) (f : Nat → Word) : Squad :=
  if m = 0#32 then q
  else match d with
    | .v n => q.putV n.val m f
    | .p n => q.putP n.val m (fun l => (f l).getLsbD 0)
    | _ => q

/-- Write a 64-bit result to the pair of D in the lanes of `m` (R9). -/
def Squad.putPair (q : Squad) (d : Opnd) (m : Mask) (f : Nat → DWord) : Squad :=
  (q.putLanes d m (fun l => (f l).setWidth 32)).putLanes (d.up 1) m (fun l => (f l).extractLsb' 32 32)

/-- Write the one result of a uniform destination. -/
def Squad.putU (q : Squad) (d : Opnd) (x : DWord) : Squad :=
  match d with
  | .s n => q.putS n.val x
  | _ => q

/-- Write an affine destination. -/
def Squad.putAff (q : Squad) (d : Opnd) (b st : DWord) : Squad :=
  match d with
  | .a n => q.putA n.val b st
  | _ => q

/-! ## Tiles -/

/-- Word `w` of row `i` of tile t`n`. -/
def Squad.tword (q : Squad) (n i w : Nat) : Word := (vget (vget q.t n) i).extractLsb' (32 * w) 32

/-- Byte `b` of row `i` of tile t`n`. -/
def Squad.tbyte (q : Squad) (n i b : Nat) : Byte := (vget (vget q.t n) i).extractLsb' (8 * b) 8

/-- A bit string with `w` bits from `lo` replaced. -/
def patch {n : Nat} (x : BitVec n) (lo : Nat) {w : Nat} (y : BitVec w) : BitVec n :=
  (x &&& ~~~((BitVec.allOnes w).setWidth n <<< lo)) ||| (y.setWidth n <<< lo)

/-- Write words of tile t`n`: row, word, value (R285). -/
def Squad.putTile (q : Squad) (n : Nat) (ws : List (Nat × Nat × Word)) : Squad :=
  let rows := ws.foldl (fun (r : Lanes (BitVec 512)) x => vset r x.1 (patch (vget r x.1) (32 * x.2.1) x.2.2)) (vget q.t n)
  { q with t := vset q.t n rows }.heal
    (fun w => match w with | .t k i => k == n && ws.any (fun x => 16 * x.1 + x.2.1 == i) | _ => false)

/-! ## Accumulators -/

/-- The physical tiles a squad owns, ascending (R268). -/
def ownedTiles (owner : List (BitVec 8)) (sqid : Nat) : List Nat :=
  (List.range 8).filter (fun p => (owner.getD p 0xFF#8).toNat == sqid)

/-- The physical tile behind z`n` of the current squad (R268). -/
def zPhys (s : State) (n : Nat) : Option Nat := (ownedTiles s.team.owner s.sq.key.sqid)[n]?

/-- Element (i, c) of a tile. -/
def zElem (t : Lanes (BitVec 2304)) (i c : Nat) : BitVec 36 := (vget t i).extractLsb' (36 * c) 36

/-- A tile with element (i, c) replaced. -/
def zPut (t : Lanes (BitVec 2304)) (i c : Nat) (x : BitVec 36) : Lanes (BitVec 2304) :=
  vset t i (patch (vget t i) (36 * c) x)

/-- Update of the current squad. -/
def State.onSq (s : State) (f : Squad → Squad) : State := { s with sq := f s.sq }

end Sys2Proof.Machine
end

