-- ==== Sys2Proof/Machine/Flags.lean ====
section
/-! DEFINITION. Full/empty bits, poison and the true values of checked forms: everything that decides
whether a word waits or traps before its own effect (R60, R62 to R69, R150). -/

namespace Sys2Proof.Machine

/-- The F/E bit of an operand; special operands are always full (R64). -/
def Squad.isFull (q : Squad) : Opnd → Bool
  | .v n => q.fev.getLsbD n.val
  | .s n => q.fes.getLsbD n.val
  | .a n => q.fea.getLsbD n.val
  | .p n => q.fep.getLsbD n.val
  | _ => true

/-- A producer that is still to write a register (R66). -/
def Squad.pendingOn (q : Squad) (o : Opnd) : Option Prod := q.prods.find? (fun p => p.regs.contains o)

/-- A scratch load that issued and has not read yet writes the register: its readers and writers interlock on
it, and its F/E bit stays full (R202). -/
def Squad.interlocked (q : Squad) (o : Opnd) : Bool :=
  q.prods.any (fun p => (match p.kind with | .load true _ _ _ _ _ => true | _ => false) && p.regs.contains o)

/-- A register that a word may read or write at once: full, and not interlocked. -/
def Squad.settled (q : Squad) (o : Opnd) : Bool := q.isFull o && !q.interlocked o

/-- What a squad waits for when it waits on a register: an unserved take counts as such (R345). -/
def Squad.waitOn (q : Squad) (o : Opnd) : Wait :=
  match q.pendingOn o with
  | some p => match p.kind with
    | .take _ _ => .take o
    | _ => .reg o
  | none => .reg o

/-- The words of a register that are read on behalf of the lanes of `m` (R69). A word that takes one part of an a
register, as AGET does, reads all four of its words (DESIGN CHOICE, log 46). -/
def wordsOf (o : Opnd) (m : Mask) : List WordRef :=
  if m = 0#32 then []
  else match o with
    | .v n => (Mask.list m).map (fun l => .v n.val l)
    | .s n => [.s n.val 0, .s n.val 1]
    | .a n => [.a n.val 0, .a n.val 1, .a n.val 2, .a n.val 3]
    | .p n => [.p n.val]
    | _ => []

/-- TINFO0 of register poison for a word (Table 10-6). -/
def poisonInfo : WordRef → DWord
  | .v n l => BitVec.ofNat 64 (n + l * 65536)
  | .s n w => BitVec.ofNat 64 (64 + n + w * 65536)
  | .a n w => BitVec.ofNat 64 (96 + n + w * 65536)
  | .p n => BitVec.ofNat 64 (112 + n)
  | .t n i => BitVec.ofNat 64 (n + 256 + i * 65536)

/-- A word that fails parity without a duplicate, or is poisoned (R68, R69). -/
def Squad.isBad (q : Squad) (w : WordRef) : Bool := q.uncorr.contains w || q.poison.contains w

/-- The report of the first bad word among those read on behalf of active lanes (R69). -/
def poisonReport (s : State) (ws : List WordRef) : Option Report :=
  (ws.find? s.sq.isBad).map (fun w => ⟨0x05#8, poisonInfo w, 0#64, s.sq.em⟩)

/-- Why a word does not go on. -/
inductive Block where
  | wait (w : Wait)
  | trap (r : Report)
deriving DecidableEq, Repr

/-- Full/empty handling of sources in order (R65). -/
def sourceBlock (s : State) : List (Opnd × Bool) → Option Block
  | [] => none
  | (o, e) :: r =>
    if s.sq.interlocked o then some (.wait .order)
    else if s.sq.isFull o then sourceBlock s r
    else if e then some (.trap ⟨0x04#8, o.code.setWidth 64, 0#64, s.sq.em⟩)
    else some (.wait (s.sq.waitOn o))

/-- A write to an empty register whose producer is pending waits (R66). A varying write under an empty
EM writes nothing and waits for nothing. -/
def destBlock (s : State) : List Opnd → Option Block
  | [] => none
  | o :: r =>
    if s.sq.interlocked o then some (.wait .order)
    else if !s.sq.isFull o && (s.sq.pendingOn o).isSome && (o.cls != .v || s.sq.em != 0#32) then
      some (.wait (s.sq.waitOn o))
    else destBlock s r

/-- The partial-mask class write fault (R62). -/
def partBlock (s : State) (part : Option Nat) : Option Block :=
  match part with
  | none => none
  | some code =>
    if s.sq.em = s.sq.live then none
    else some (.trap ⟨0x02#8, s.sq.live.setWidth 64, BitVec.ofNat 64 code, s.sq.em⟩)

/-- Poison of the sources on behalf of active lanes (R63 step 4): every lane of EM, also where the word's own rule
uses some of them only, as a plain DEMU's or UNIQ's does (DESIGN CHOICE, log 46). -/
def poisonBlock (s : State) (srcs : List (Opnd × Bool)) : Option Block :=
  if s.sq.uncorr.isEmpty && s.sq.poison.isEmpty then none
  else (poisonReport s (srcs.flatMap (fun o => wordsOf o.1 s.sq.em))).map .trap

/-- The lane that each active lane reads A from, where that is not its own (R190 to R193). -/
def laneRead (i : Instr) (s : State) (l : Nat) : Nat :=
  match i with
  | .shfl _ _ _ b _ _ => (val32 s b l).toNat % 32
  | .shup _ _ _ b _ _ => if (uval s b).toNat ≤ l then l - (uval s b).toNat else 32
  | .shdn _ _ _ b _ _ => if l + (uval s b).toNat ≤ 31 then l + (uval s b).toNat else 32
  | .bcast _ _ _ b _ _ => (uval s b).toNat % 32
  | _ => l

/-- The lanes of register A that a word reads on behalf of the lanes of EM. -/
def lanesRead (i : Instr) (s : State) : Mask :=
  maskOf (fun j => (Mask.list s.sq.em).any (fun l => laneRead i s l == j))

/-- The words that move values between lanes read A in other lanes than EM's (R190). -/
def crossLane : Instr → Bool
  | .shfl _ _ _ _ _ _ | .shup _ _ _ _ _ _ | .shdn _ _ _ _ _ _ | .bcast _ _ _ _ _ _ => true
  | _ => false

/-- Poison of the sources of a word (R63 step 4, R190). Of several bad words of A the lowest source lane's is
reported (log 11). -/
def poisonCheck (i : Instr) (s : State) (srcs : List (Opnd × Bool)) : Option Block :=
  if crossLane i then
    match srcs with
    | [] => none
    | a :: r =>
      if s.sq.uncorr.isEmpty && s.sq.poison.isEmpty then none
      else (poisonReport s (wordsOf a.1 (lanesRead i s) ++ r.flatMap (fun o => wordsOf o.1 s.sq.em))).map .trap
  else poisonBlock s srcs

/-- Words whose poison is not checked with the others: WAITE reads no word (R222), and the tile and matrix
words check their tile names first (R286). -/
def poisonElsewhere : Instr → Bool
  | .waite _ _ _ | .tld _ _ _ _ _ _ _ _ | .tst _ _ _ _ _ _ _ _ | .tmov _ _ _ _ _ _ _ _ | .zclr _ _ _
  | .zrd _ _ _ _ _ _ _ | .zxf _ _ _ _ _ | .mma _ _ _ _ _ _ _ | .mmas _ _ _ _ _ _ _ _ => true
  | _ => false

/-- SETE waits for nothing (R166), and RGET waits for its destination after its own checks (R167). -/
def destElsewhere : Instr → Bool
  | .sete _ _ _ | .rget _ _ _ _ _ _ => true
  | _ => false

/-- The lanes for which a word under the mask `em` reads source words without using them: a word of a v source
belongs to its own lane, so those of the lanes outside `em`, which the word reads with the whole register. The
reductions, VANY and VBAL read only lanes of EM (R190), WAITE reads no word (R222), and TMOV.wr uses the words of
its slice whatever `em` holds, 16 of them in a row slice (R289). -/
def lanesOfWord (em : Mask) : Instr → Mask
  | .tmov _ _ l _ _ _ _ _ => if l then BitVec.allOnes 32 else 0xFFFF#32
  | .waite _ _ _ | .vany _ _ _ _ | .vbal _ _ _ _ | .rdadd _ _ _ _ _ | .rdmin _ _ _ _ _ => 0#32
  | _ => ~~~em

/-- The registers whose words a word reads: CALLP reads its predicate under its own order of checks (R132). -/
def wordSources (fmt : Word) (i : Instr) : List Opnd :=
  match i with
  | .callp _ p _ => [p]
  | _ => (usage fmt i).srcs.map (·.1)

/-- Steps 2 to 4 of R63 for a word. The wait of R66 for a destination, which R63 does not place, stands after
the sources' full/empty handling and before poison and the word's own faults (log 53). -/
def prelude (i : Instr) (s : State) : Option Block :=
  let u := usage s.sq.fmt i
  match partBlock s u.part with
  | some b => some b
  | none =>
    match sourceBlock s u.srcs with
    | some b => some b
    | none =>
      match (if destElsewhere i then none else destBlock s u.dst) with
      | some b => some b
      | none => if poisonElsewhere i then none else poisonCheck i s u.srcs

/-- An uncorrectable word read only for inactive lanes becomes poisoned, and no fault is raised (R69). -/
def markPoison (i : Instr) (s : State) : State :=
  if s.sq.uncorr.isEmpty then s
  else
    let ws := ((wordSources s.sq.fmt i).flatMap (fun o => wordsOf o (lanesOfWord s.sq.em i))).filter s.sq.uncorr.contains
    if ws.isEmpty then s
    else (s.onSq (fun q => { q with uncorr := q.uncorr.filter (fun w => !ws.contains w), poison := ws ++ q.poison })).countLife 1

/-! ## Dependencies (R196, R235) -/

/-- A register that holds a value for each lane. -/
def laneWise : Opnd → Bool
  | .v _ | .p _ => true
  | _ => false

/-- The dependencies of a register in the lanes of EM, each with its lanes. -/
def Squad.depsOf (q : Squad) (o : Opnd) : List (Nat × Mask) :=
  let m := if laneWise o then q.em else BitVec.allOnes 32
  (q.deps.filter (fun x => x.1 == o && x.2.2 &&& m != 0#32)).map (fun x => (x.2.1, x.2.2 &&& m))

/-- The last place among dependencies. -/
def lastPlace (l : List (Nat × Mask)) : Nat := l.foldl (fun n x => max n x.1) 0

/-- The place after the last load on which a BASE depends, which for a v register is a pair, or what decides that the
word issues. -/
def Squad.baseDep (q : Squad) (o : Opnd) : Nat :=
  max q.control (lastPlace (q.depsOf o ++ if o.isV then q.depsOf (o.up 1) else []))

/-- A value that passes between lanes, and one that comes from a tile, carries no dependency (R196, R235, R285). -/
def carriesNone : Instr → Bool
  | .shfl _ _ _ _ _ _ | .shup _ _ _ _ _ _ | .shdn _ _ _ _ _ _ | .bcast _ _ _ _ _ _ | .vany _ _ _ _ | .vbal _ _ _ _
  | .rdadd _ _ _ _ _ | .rdmin _ _ _ _ _ | .demu _ _ _ _ _ | .uniq _ _ _ _ _ _ => true
  | .tmov _ _ _ _ _ _ _ _ | .zrd _ _ _ _ _ _ _ => true
  | _ => false

/-- A coherent load, whose value is the X of R235: LD, LDSX, LDSC, AMOR, CAS and the sparse reads (R229, R309). -/
def readsMemory : Instr → Bool
  | .ld _ _ _ _ _ _ _ | .ldsx _ _ _ _ _ _ _ | .ldsc _ _ _ _ _ _ | .amor _ _ _ _ _ _ _ | .cas _ _ _ _ _ _
  | .sld _ _ _ _ _ _ _ | .scur _ _ _ _ _ _ | .snxt _ _ _ _ _ _ | .sisx _ _ _ _ _ _ => true
  | _ => false

/-- The dependencies of a word's result, with the lanes: a load's own, else those of its sources, RGET's among all v
registers from its base on. -/
def resultDeps (q : Squad) (i : Instr) : List (Nat × Mask) :=
  if carriesNone i then []
  else if readsMemory i then [(q.seq + 3, q.em)]
  else
    (usage q.fmt i).srcs.flatMap (fun o => q.depsOf o.1) ++ (match i with
      | .rget _ _ (.v n) _ _ _ => (List.range (64 - n.val)).flatMap (fun k => q.depsOf (.v (Fin.ofNat 64 (n.val + k))))
      | _ => [])

/-- The exits and masks that words bring into force depend on their sources (R235). -/
def controlDep (q : Squad) (i : Instr) : Nat :=
  match i with
  | .nxtc _ _ _ _ _ | .nxti _ _ _ | .emset _ _ _ | .callp _ _ _ =>
    max q.control (lastPlace ((wordSources q.fmt i).flatMap q.depsOf))
  | _ => q.control

/-- Dependencies of one register, each with the lanes in which no later one stands. -/
def latest (l : List (Nat × Mask)) : List (Nat × Mask) :=
  dedup ((l.map (fun x => (x.1, l.foldl (fun m y => if x.1 < y.1 then m &&& ~~~y.2 else m) x.2))).filter (·.2 != 0#32))

/-- A register that words write takes their dependencies; one that holds a value for each lane keeps its own in the
lanes that `written` leaves out, and any other carries them for every lane that reads it (R235). -/
def setDep (written : Mask) (ds : List (Nat × Mask)) (q : Squad) (o : Opnd) : Squad :=
  let w := if laneWise o then written else BitVec.allOnes 32
  let new := ds.map (fun x => (x.1, if laneWise o then x.2 else BitVec.allOnes 32))
  let kept := (q.deps.filter (·.1 == o)).map (fun x => (x.2.1, x.2.2 &&& ~~~w))
  { q with deps := (latest (new ++ kept)).map (fun x => (o, x.1, x.2)) ++ q.deps.filter (·.1 != o) }

/-- The lanes of each destination that a word surely writes: RPUT names its register by an index. -/
def lanesWritten (q : Squad) (i : Instr) : Mask := match i with | .rput _ _ _ _ _ => 0#32 | _ => q.em

/-- The dependencies after the words of a chain have issued in `q`. -/
def noteDeps (is : List Instr) (q : Squad) (t : Squad) : Squad :=
  let t := { t with control := is.foldl (fun n i => max n (controlDep q i)) q.control }
  is.foldl (fun t i => (chainWrites q.fmt i).foldl (setDep (lanesWritten q i) (resultDeps q i)) t) t

/-- The lanes of EM whose true value leaves the signed range of `w` bits (R60, R150). -/
def overflowLanes (em : Mask) (w : Nat) (f : Nat → Int) : List Nat :=
  (Mask.list em).filter (fun l => !(decide (-(2 ^ (w - 1)) ≤ f l) && decide (f l < 2 ^ (w - 1))))

/-- The lowest lane of a mask. -/
def lowest (m : Mask) : Nat := (Mask.list m).headD 0

/-- A report that names lanes by their lowest (Table 10-6). -/
def lanesReport (cause : BitVec 8) (ls : List Nat) : Option Report :=
  match ls with
  | [] => none
  | l :: r => some ⟨cause, BitVec.ofNat 64 l, 0#64, maskOfList (l :: r)⟩

/-- Checked overflow (cause 0x03): per lane, or for the one true value of a uniform destination. -/
def checkOverflow (s : State) (uni : Bool) (w : Nat) (f : Nat → Int) : Option Report :=
  if uni then
    if -(2 ^ (w - 1)) ≤ f 0 ∧ f 0 < 2 ^ (w - 1) then none
    else some ⟨0x03#8, BitVec.ofNat 64 (lowest s.sq.em), 0#64, s.sq.em⟩
  else lanesReport 0x03#8 (overflowLanes s.sq.em w f)

end Sys2Proof.Machine
end

