-- ==== Sys2Proof/WellFormed.lean ====
section
/-! DEFINITION. Well-formed instructions: the words that raise no undefined encoding (R123). -/

namespace Sys2Proof

/-- A well-formed instruction. -/
def Instr.wf (i : Instr) : Bool := Machine.wfInstr i

end Sys2Proof
end

