-- ==== Sys2Proof/Machine/Ops.lean ====
section
/-! DEFINITION. The shared operations: decks and hands, frames, taking an exception and returning from
one, ending a launch, and the issue, waiting and retirement of a word. -/

namespace Sys2Proof.Machine

/-! ## Deck images (R78 to R83) -/

/-- The suit that a squad runs, of its object's suit table. -/
def suitAt (s : State) (i : Nat) : Suit := (s.obj.suits[i]?).getD ⟨0, 0, 0, 0, 0, []⟩

/-- Bytes of a deck image at an offset. -/
def deckRead (s : State) (su : Suit) (off n : Nat) : Option (List Byte) :=
  fetchBytes s s.core.id s.launch.asid (su.deck + off) n

def deckValue (s : State) (su : Suit) (off n : Nat) : Nat := ofBytes ((deckRead s su off n).getD [])

/-- What a look at the deck gives: hand number and entry; no such hand, with the byte offset of the hash
entry that ended the lookup; the byte offset of an entry that fails its run-time checks (R83); or the virtual address
of the first byte that a read of the deck could not reach through its port (R393). -/
inductive DeckRes where
  | hit (h : Nat) (e : Hand)
  | miss (off : Nat)
  | bad (off : Nat)
  | down (va : Nat)
deriving DecidableEq, Repr

/-- The first end of a read of the deck image that a port would have to serve which accepts no access (R393). -/
def deckDown (s : State) (su : Suit) (off n : Nat) : Option Nat :=
  [su.deck + off, su.deck + off + (n - 1)].find? (fun va =>
    (phys s s.core.id s.launch.asid va).any (fun pa => !reachable s pa))

/-- Go on with bytes of the deck image. An entry that has no translation fails its checks. -/
def withDeck (s : State) (su : Suit) (off n : Nat) (k : List Byte → DeckRes) : DeckRes :=
  match deckDown s su off n with
  | some va => .down va
  | none =>
    match deckRead s su off n with
    | none => .bad off
    | some bs => k bs

/-- The lowest block of a mask (R80). -/
def lowestBlock (m : BitVec 64) : Nat := ((List.range 64).find? (fun b => m.getLsbD b)).getD 63

/-- A hand entry in the layout of Table 7-2. -/
def Hand.ofBytes (bs : List Byte) : Hand where
  mask := BitVec.ofNat 64 (field bs 0 8)
  code := field bs 0x08 4
  nslot := field bs 0x0C 1
  soff := (List.range 7).map (fun j => field bs (0x10 + 2 * j) 2)
  doff := field bs 0x1E 2

/-- The run-time checks of a hand entry's fields against R79. -/
def Hand.legal (su : Suit) (e : Hand) : Bool :=
  let inSuit := fun p => su.cpkt ≤ p && p < su.cpkt + su.npkt
  (List.range 64).all (fun b => !e.mask.getLsbD b || decide (b < su.nblk))
    && 1 ≤ popCount e.mask && popCount e.mask ≤ 8 && e.nslot == popCount e.mask && inSuit e.code && inSuit (e.code + e.doff)
    && (List.range 7).all (fun j => if j + 1 < e.nslot then inSuit (e.code + e.soff.getD j 0) else e.soff.getD j 0 == 0)

/-- Read hand entry `h` and check it against R79. -/
def readHand (s : State) (su : Suit) (h : Nat) : DeckRes :=
  let off := deckValue s su 0x08 4 + 32 * h
  withDeck s su off 32 (fun bs =>
    if h < deckValue s su 0 2 && zeroAt bs 0x0D 3 && (Hand.ofBytes bs).legal su then .hit h (Hand.ofBytes bs) else .bad off)

/-- The entry of a hand that is resumed, as the deck image holds it. It was checked when the hand was dealt and
is not checked again: the words that resume a hand read no deck entry of their own (R95, R127, R137; log 52). -/
def handEntry (s : State) (su : Suit) (h : Nat) : Hand :=
  Hand.ofBytes ((deckRead s su (deckValue s su 0x08 4 + 32 * h) 32).getD [])

/-- The hash probe of R82, `fuel` entries at most; `seen` are the hands whose entries it has passed, of which no
one may appear again (R81, R83). -/
def probe (s : State) (su : Suit) (m : BitVec 64) (hbits : Nat) : Nat → Nat → List Nat → DeckRes
  | 0, i, _ => .miss (deckValue s su 0x10 4 + 2 * i)
  | fuel + 1, i, seen =>
    let off := deckValue s su 0x10 4 + 2 * i
    withDeck s su off 2 (fun bs =>
      let e := ofBytes bs
      if e = 0xFFFF then .miss off
      else if deckValue s su 0 2 ≤ e || seen.contains e then .bad off
      else match readHand s su e with
        | .hit h x => if x.mask = m then .hit h x else probe s su m hbits fuel ((i + 1) % 2 ^ hbits) (e :: seen)
        | r => r)

/-- The lookup of a block mask in the deck image (R82). -/
def imageLookup (s : State) (su : Suit) (m : BitVec 64) : DeckRes :=
  let hbits := deckValue s su 0x03 1
  let x := m.setWidth 32 ^^^ m.extractLsb' 32 32
  withDeck s su 0 32 (fun _ => probe s su m hbits (2 ^ hbits) ((x * 0x6C8E9CF5#32).toNat / 2 ^ (32 - hbits)) [])

/-- Where a deck image lies: the key of its entries in a deck cache (R99). -/
def deckPlace (s : State) (su : Suit) : Option Nat := phys s s.core.id s.launch.asid su.deck

/-- The hand entry that the core's deck cache holds for a mask (R99). -/
def cachedHand (s : State) (su : Suit) (m : BitVec 64) : Option (Nat × Hand) :=
  (deckPlace s su).bind (fun a => (s.core.deck.find? (fun x =>
    x.1 == a && x.2.1 == m.toNat && !s.team.shunned.deck.contains x)).map (·.2.2))

/-- The deck cache still holds an entry that it took in earlier: a free choice (R99; log 8). -/
def stillHeld (s : State) (su : Suit) (m : BitVec 64) : Bool :=
  Config.freeBit s.free (.deckHand s.core.id ((deckPlace s su).getD 0) m.toNat)

/-- The lookup of a block mask: the entry that the deck cache still holds, or what the image gives (R82, R99). -/
def lookup (s : State) (su : Suit) (m : BitVec 64) : DeckRes :=
  match cachedHand s su m with
  | none => imageLookup s su m
  | some x => if stillHeld s su m then .hit x.1 x.2 else imageLookup s su m

/-- A deal found its hand entry in the deck cache: one that it has taken in and still holds, or one that the
prefetcher had brought in, which is a free choice (R99, R101; log 8). -/
def deckHit (s : State) (su : Suit) (h : Nat) (e : Hand) : Bool :=
  match cachedHand s su e.mask with
  | none => Config.freeBit s.free .deckCache
  | some x => x == (h, e) && stillHeld s su e.mask

/-- A hand dealt from the deck joins the deck cache; of more than 512 entries the oldest gives way (R15, R99). -/
def noteHand (su : Suit) (h : Nat) (e : Hand) (s : State) : State :=
  match deckPlace s su with
  | none => s
  | some a => { s with core := { s.core with deck :=
      (a, e.mask.toNat, h, e) :: (s.core.deck.filter (fun x => !(x.1 == a && x.2.1 == e.mask.toNat))).take 511 } }

/-- The mask of one block. -/
def blockMask (b : Nat) : BitVec 64 := 1#64 <<< b

/-- The prefetcher fetches the entry hands of a suit's successors into the deck cache; which of them, is a free
choice, and so is whether it fetches at all (R99; log 8). -/
def prefetchHands (su : Suit) (s : State) : State :=
  su.succ.foldl (fun t i =>
    let x := suitAt t i
    if Config.freeBit t.free (.prefetch t.core.id x.deck) then
      match imageLookup t x (blockMask x.entry) with
      | .hit h e => noteHand x h e t
      | _ => t
    else t) s

/-- A row entry may follow another in its row: larger hands first, then the lower index (R80). -/
def rowFollows (prev : Option (Nat × Nat)) (size h : Nat) : Bool :=
  match prev with
  | none => true
  | some p => decide (size < p.1) || (size == p.1 && decide (p.2 < h))

/-- The first hand of row `b` whose mask is a subset of `m` (R80, R85); `prev` is the size and index of the
entry before. The singleton of `b` is the last that a row uses, and the only one that may stand in its eighth
place. -/
def rowHand (s : State) (su : Suit) (m : BitVec 64) (b : Nat) (prev : Option (Nat × Nat)) : Nat → Nat → DeckRes
  | 0, j => .bad (deckValue s su 0x0C 4 + 16 * b + 2 * (j - 1))
  | fuel + 1, j =>
    let off := deckValue s su 0x0C 4 + 16 * b + 2 * j
    withDeck s su off 2 (fun bs =>
      let e := ofBytes bs
      if deckValue s su 0 2 ≤ e then .bad off
      else match readHand s su e with
        | .hit h x =>
          if lowestBlock x.mask != b || !rowFollows prev (popCount x.mask) h || (j == 7 && x.mask != blockMask b) then .bad off
          else if x.mask &&& ~~~m = 0#64 then .hit h x else rowHand s su m b (some (popCount x.mask, h)) fuel (j + 1)
        | r => r)

/-! ## Running a hand -/

/-- The packet of slot `k`'s SEG. -/
def Hand.segPkt (h : Hand) (k : Nat) : Nat := if k = 0 then h.code else h.code + h.soff.getD (k - 1) 0

/-- The packet of the next SEG or DEAL of a hand after a packet (R77). -/
def Hand.nextBoundary (h : Hand) (pkt : Nat) : Nat :=
  ((((List.range h.nslot).map h.segPkt).filter (fun p => pkt < p)) ++ [h.code + h.doff]).foldl Nat.min
    (h.code + h.doff)

/-- SLOTS of the SEG in whose segment a packet lies (R76, R129). -/
def Hand.slotsAt (h : Hand) (pkt : Nat) : BitVec 8 :=
  (List.range h.nslot).foldl (fun x k => if h.segPkt k ≤ pkt then 1#8 <<< k else x) 0#8

/-- Block of slot `k`: the (k + 1)-th lowest block of the mask (R75). -/
def Hand.slotBlock (h : Hand) (k : Nat) : Option Nat := ((List.range 64).filter (fun b => h.mask.getLsbD b))[k]?

/-- End the run of the current squad (R97). -/
def endRun (s : State) : State := s.onSq (fun q => { q with running := false, runPkts := [] })

/-- Continue at word 0 of a packet; leaving the run's eighth packet ends the run (R97). -/
def jumpTo (pkt : Nat) (s : State) : State :=
  s.onSq (fun q =>
    { q with
      pkt := pkt, word := 0
      running := q.running && decide (q.runPkts.length < 8)
      runPkts := if q.runPkts.length < 8 then q.runPkts else [] })

/-- Run a hand from its first packet. -/
def runHand (h : Nat) (e : Hand) (s : State) : State :=
  s.onSq (fun q => { q with hand := h, hent := e, segSlots := 0#8, pkt := e.code, word := 0 })

/-- BR of a lane. -/
def Squad.brOf (q : Squad) (l : Nat) : BitVec 6 := vget q.br l
def Squad.brnOf (q : Squad) (l : Nat) : BitVec 6 := vget q.brn l

/-- The segment set of a SEG with these slots (R77). -/
def segLanes (q : Squad) (slots : BitVec 8) : Mask :=
  maskOf (fun l => q.live.getLsbD l && !q.held.getLsbD l &&
    (List.range q.hent.nslot).any (fun k => slots.getLsbD k && q.hent.slotBlock k == some (q.brOf l).toNat))

/-! ## Frames (R89, R90, R95) -/

/-- Six-bit lane fields at bits [6l + 5:6l] (R90). -/
def packLanes (v : Lanes (BitVec 6)) : Nat := laneList.foldl (fun x l => x + (vget v l).toNat * 2 ^ (6 * l)) 0
def unpackLanes (x : Nat) : Lanes (BitVec 6) := lanes fun l => BitVec.ofNat 6 (x / 2 ^ (6 * l))

/-- A frame in the layout of Table 7-3. -/
def Frame.toBytes (f : Frame) : List Byte :=
  Machine.toBytes 2 f.suit ++ Machine.toBytes 2 f.hand ++ Machine.toBytes 1 f.button
    ++ Machine.toBytes 1 (if f.trapKind then 1 else 0) ++ Machine.toBytes 2 0 ++ Machine.toBytes 4 f.rpkt
    ++ Machine.toBytes 1 f.rword ++ Machine.toBytes 3 0 ++ Machine.toBytes 4 f.em.toNat
    ++ Machine.toBytes 4 f.held.toNat ++ Machine.toBytes 4 f.callers.toNat ++ Machine.toBytes 4 f.fmt.toNat
    ++ Machine.toBytes 24 (packLanes f.brs) ++ Machine.toBytes 24 (packLanes f.brns)
    ++ Machine.toBytes 4 f.live.toNat ++ Machine.toBytes 12 0

def Frame.ofBytes (b : List Byte) : Frame where
  suit := field b 0 2
  hand := field b 2 2 % 4096
  button := field b 4 1
  trapKind := field b 5 1 == 1
  rpkt := field b 8 4
  rword := field b 0xC 1
  em := BitVec.ofNat 32 (field b 0x10 4)
  held := BitVec.ofNat 32 (field b 0x14 4)
  callers := BitVec.ofNat 32 (field b 0x18 4)
  fmt := BitVec.ofNat 32 (field b 0x1C 4)
  brs := unpackLanes (field b 0x20 24)
  brns := unpackLanes (field b 0x38 24)
  live := BitVec.ofNat 32 (field b 0x50 4)

/-- Where spilled frame `j` lies (R350). -/
def spillAddr (q : Squad) (j : Nat) : Nat := q.ctx + 0x8000 + 96 * j

/-- Push a frame; the ninth writes the oldest on-chip frame to the spill area (R90). -/
def pushFrame (f : Frame) (s : State) : State :=
  if s.sq.frames.length < 8 then s.onSq (fun q => { q with frames := f :: q.frames })
  else
    match s.sq.frames.getLast? with
    | none => s
    | some old =>
      { s with mem := s.mem.writeBytes (spillAddr s.sq s.sq.nspill) old.toBytes }.onSq (fun q =>
        { q with frames := f :: q.frames.dropLast, nspill := q.nspill + 1, sqspill := q.sqspill + 1#64 })

/-- Refill the oldest on-chip frame from the spill area after a pop (R90). -/
def refill (s : State) : State :=
  if s.sq.nspill = 0 then s
  else
    let f := Frame.ofBytes (s.mem.bytes (spillAddr s.sq (s.sq.nspill - 1)) 96)
    s.onSq (fun q => { q with frames := q.frames ++ [f], nspill := q.nspill - 1 })

/-- A frame of KIND 1 is current or lies below the current frame (R93). -/
def inHandler (s : State) : Bool :=
  s.sq.frames.any (·.trapKind)
    || (List.range s.sq.nspill).any (fun j => s.mem.read (spillAddr s.sq j + 5) == 1#8)

/-- The current frame is of KIND 1. -/
def trapFrameOnTop (s : State) : Bool := (s.sq.frames.head?).any (·.trapKind)

/-- The frame that saves the current state, to be resumed at a position. -/
def saveFrame (q : Squad) (kind : Bool) (rpkt rword : Nat) (callers : Mask) : Frame where
  suit := q.suit
  hand := q.hand
  button := q.button
  trapKind := kind
  rpkt := rpkt
  rword := rword
  em := q.em
  held := q.held
  callers := callers
  fmt := q.fmt
  brs := q.br
  brns := q.brn
  live := q.live

/-- Enter a frame: depth rises for its lanes, HELD is empty, BUTTON is 0, and every lane stands at ENTRY
of the suit (R89, R140). -/
def enterSuit (suit entry : Nat) (ls : Mask) (s : State) : State :=
  s.onSq (fun q =>
    { q with
      suit := suit
      live := ls, held := 0#32, button := 0
      depth := lanes fun l => if ls.getLsbD l then vget q.depth l + 1#8 else vget q.depth l
      br := lanes fun l => if ls.getLsbD l then BitVec.ofNat 6 entry else q.brOf l
      brn := lanes fun l => if ls.getLsbD l then BitVec.ofNat 6 entry else q.brnOf l })

/-- A frame without some lanes: they resume in it no more (R95). They leave the EM and HELD that it restores too, those
of a frame of KIND 1 included (DESIGN CHOICE, logs 25 and 52). -/
def Frame.without (f : Frame) (ls : Mask) : Frame :=
  { f with live := f.live &&& ~~~ls, em := f.em &&& ~~~ls, held := f.held &&& ~~~ls }

/-- Lanes that have finished leave the live set of every frame, on chip and spilled (R95). -/
def foldLanes (ls : Mask) (s : State) : State :=
  if ls = 0#32 then s
  else
    let t := s.onSq (fun q => { q with frames := q.frames.map (·.without ls) })
    (List.range s.sq.nspill).foldl (fun u j =>
      { u with mem := u.mem.writeBytes (spillAddr u.sq j) ((Frame.ofBytes (u.mem.bytes (spillAddr u.sq j) 96)).without ls).toBytes }) t

/-- Restore a frame's state (R95, R137): the depth of the lanes `leave` falls, and the returned marks of
`back` clear. The slots of the latest SEG are those of the resume packet's place under R76, also where a SEG in the body of
a block (R406) had selected others (DESIGN CHOICE, log 52). -/
def restoreFrame (f : Frame) (leave back : Mask) (pkt word : Nat) (s : State) : State :=
  let e := handEntry s (suitAt s f.suit) f.hand
  refill (s.onSq (fun q =>
    { q with
      frames := q.frames.drop 1
      suit := f.suit, hand := f.hand, hent := e, segSlots := e.slotsAt pkt, button := f.button, held := f.held, fmt := f.fmt
      live := f.live, em := f.em
      br := f.brs, brn := f.brns
      depth := lanes fun l => if leave.getLsbD l then vget q.depth l - 1#8 else vget q.depth l
      retd := q.retd &&& ~~~back
      pkt := pkt, word := word
      running := false, runPkts := [] }))

/-- Under an empty EM a resumed hand goes on at its next SEG or its DEAL (R95). -/
def skipEmpty (s : State) : State :=
  if s.sq.em = 0#32 then
    s.onSq (fun q => { q with pkt := if q.word = 0 && q.pkt == q.hent.nextBoundary (q.pkt - 1) then q.pkt
                                     else q.hent.nextBoundary q.pkt, word := 0 })
  else s

/-- The end of a frame (R95): the lanes that return resume at its place, and the calling lanes that did not
return leave every frame. -/
def endFrame (f : Frame) (s : State) : State :=
  let back := f.callers &&& s.sq.retd
  let folded := f.callers &&& ~~~s.sq.retd
  skipEmpty (restoreFrame (f.without folded) back back f.rpkt f.rword (foldLanes folded s))

/-! ## Ending a launch -/

/-- A launch ends early: it stops, its commands are cancelled, and the first ending stands (R139 to R141,
R340). -/
def endLaunch (lid : Nat) (e : Ending) (s : State) : State :=
  let s := s.updLaunch lid (fun l => if l.status = .running then { l with status := .stopping, ending := e } else l)
  { s with cmds := s.cmds.map (fun c => if c.k.lid = lid then { c with cancelled := true } else c) }

/-- A squad stops issuing. -/
def Squad.halted (q : Squad) : Squad :=
  { q with status := .stopped, running := false, runPkts := [], wait := none, sst := none, syncw := none, late := [] }

/-- The current squad stops at once (R139, R141). -/
def stopSquad (s : State) : State :=
  s.onSq Squad.halted

/-- A terminal trap (R141). -/
def terminalTrap (cause : BitVec 8) (i0 i1 : DWord) (s : State) : State :=
  stopSquad (endLaunch s.sq.key.lid ⟨3, cause.toNat, i0, i1⟩ s)

/-- The report of a trap in the trap registers (R140, R141). -/
def setReport (r : Report) (s : State) : State :=
  s.onSq (fun q =>
    { q with tcause := r.cause.setWidth 64, tinfo0 := r.info0, tinfo1 := r.info1, tlanes := r.lanes.setWidth 64 })

/-- A terminal trap with its report: TCAUSE, TINFO0, TINFO1 and TLANES hold it, and TH, TO and TEM stay
(R91, R141). -/
def terminalReport (r : Report) (s : State) : State := terminalTrap r.cause r.info0 r.info1 (setReport r s)

/-- A trap in trap (R141): TH, TO and TEM keep the first trap's values. -/
def trapInTrap (r : Report) (s : State) : State :=
  terminalReport ⟨0x17#8, r.cause.setWidth 64, r.info0, r.lanes⟩ s

/-! ## Fetching a packet (R102, R103) -/

/-- The virtual address of a packet of the current object (R102). -/
def packetVa (s : State) (pkt : Nat) : Nat := s.obj.code + 12 * pkt

/-- The three words of a packet, as fetched. -/
def packetAt (pkt : Nat) (s : State) : List Word :=
  let bs := (fetchBytes s s.core.id s.launch.asid (packetVa s pkt) 12).getD []
  [BitVec.ofNat 32 (field bs 0 4), BitVec.ofNat 32 (field bs 4 4), BitVec.ofNat 32 (field bs 8 4)]

/-- The words of the packet at the position. -/
def packetWords (s : State) : List Word := packetAt s.sq.pkt s

/-- The word at a place of a packet is a DEAL. -/
def dealAt (pkt word : Nat) (s : State) : Bool :=
  match decode ((packetAt pkt s).getD word 0#32) with
  | .ok .deal => true
  | _ => false

/-- The chain that starts at word `w` of a packet (R103). -/
def chainFrom (ws : List Word) (w : Nat) : List Word :=
  let x0 := ws.getD w 0#32
  if 2 ≤ w || !x0.getLsbD 31 then [x0]
  else
    let x1 := ws.getD (w + 1) 0#32
    if 2 ≤ w + 1 || !x1.getLsbD 31 then [x0, x1] else [x0, x1, ws.getD (w + 2) 0#32]

/-! ## Taking an exception and returning from it (R137, R140) -/

/-- TO (Table 10-5). -/
def toValue (pkt word chw clen : Nat) : DWord :=
  BitVec.ofNat 64 (pkt % 2 ^ 32 + word * 2 ^ 32 + chw * 2 ^ 34 + clen * 2 ^ 36)

/-- TH (Table 10-5). -/
def thValue (q : Squad) : DWord := BitVec.ofNat 64 (q.hand % 4096 + q.suit * 65536)

/-- Whether a trap is terminal at entry (R141). -/
def terminalAtEntry (r : Report) (s : State) : Bool :=
  r.cause == 0x09#8 || s.obj.trapSuit.isNone || (Mask.list s.sq.live).any (fun l => vget s.sq.depth l == 255#8)

/-- The trap registers of an entry (R140), and whether the chain was a DEAL, for ERET.skip (R137). -/
def setTrapRegs (r : Report) (pkt word chw clen : Nat) (s : State) : State :=
  (setReport r s).onSq (fun q =>
    { q with th := thValue q, tpos := toValue pkt word chw clen, tem := q.em.setWidth 64, tdeal := dealAt pkt word s })

/-- Take a trap raised by word `chw` of the chain of `clen` words at a position (R140). Where the lookup of the trap
suit's {ENTRY} hand fails, no lanes are named for that second trap, and TLANES keeps the first one's (DESIGN CHOICE,
log 25). -/
def takeTrap (r : Report) (pkt word chw clen : Nat) (s : State) : State :=
  if inHandler s then trapInTrap r s
  else if terminalAtEntry r s then terminalReport r s
  else
    let t := s.obj.trapSuit.getD 0
    let su := suitAt s t
    let s1 := endRun (pushFrame (saveFrame s.sq true pkt word s.sq.live) (setTrapRegs r pkt word chw clen s))
    let s2 := enterSuit t su.entry s.sq.live (s1.onSq (fun q => { q with wait := none }))
    match lookup s2 su (blockMask su.entry) with
    | .hit h e => prefetchHands su (noteHand su h e (runHand h e s2))
    | .down va => trapInTrap ⟨0x0A#8, BitVec.ofNat 64 va, 0#64, r.lanes⟩ s2
    | _ => trapInTrap ⟨0x07#8, 2#64, 0#64, r.lanes⟩ s2

/-- Return from an exception (R137): pop the KIND 1 frame, with no lane folded or returned, and resume at
the chain (`skip = false`) or after it, whatever EM is. A skipped CALL resumes after it because TO names one word. -/
def returnFromTrap (f : Frame) (skip : Bool) (s : State) : State :=
  let w := f.rword + (if skip then (s.sq.tpos.extractLsb' 36 2).toNat else 0)
  restoreFrame f f.callers 0#32 (if 3 ≤ w then f.rpkt + 1 else f.rpkt) (if 3 ≤ w then 0 else w) s

/-- Take a trap raised by a word of the chain at which the current squad stands (R140). -/
def trapAtWord (r : Report) (i : Instr) (s : State) : State :=
  let ws := chainFrom (packetWords s) s.sq.word
  takeTrap r s.sq.pkt s.sq.word (ws.findIdx (fun w => (encode i).headD 0#32 == w)) ws.length s

/-! ## Issue -/

/-- What a word does once its own description has been consulted: go on with an update, wait, or trap. -/
inductive WordOut where
  | done (u : State → State)
  | wait (w : Wait)
  | trap (r : Report)
  /-- the word has begun and holds its chain: the update happens, and the chain does not retire; `fails`
  says that it is certain to trap -/
  | hold (fails : Bool) (w : Wait) (u : State → State)
  /-- the partial effect that R107 allows, then a trap -/
  | fail (u : State → State) (r : Report)

def Block.out : Block → WordOut
  | .wait w => .wait w
  | .trap r => .trap r

/-- A trap if the report is there, else the update. -/
def faultOr (r : Option Report) (u : State → State) : WordOut :=
  match r with
  | some r => .trap r
  | none => .done u

/-- The outcome of a word: the checks of R63, then its own. -/
def wordOut (i : Instr) (own : State → WordOut) (s : State) : WordOut :=
  match prelude i s with
  | some b => b.out
  | none => own s

/-- Undefined encoding of a word that stands alone in its chain (Table 10-6). -/
def undefinedReport (w : Word) (s : State) : Report := ⟨0x01#8, w.setWidth 64, 0#64, s.sq.em⟩

/-- Retire the chain of `n` words at the current position: lclk rises by `n` (R56), the position moves
past it, and the run ends where R97 cases 1 and 2 say. -/
def retire (n : Nat) (rb : Bool) (s : State) : State :=
  s.onSq (fun q =>
    let pkts := if q.runPkts.head? = some q.pkt then q.runPkts else q.pkt :: q.runPkts
    let past := decide (3 ≤ q.word + n)
    let fin := past && (rb || decide (8 ≤ pkts.length))
    { q with
      lclk := q.lclk + BitVec.ofNat 64 n
      wait := none
      pkt := if past then q.pkt + 1 else q.pkt
      word := if past then 0 else q.word + n
      running := q.running && !fin
      runPkts := if fin then [] else pkts })

/-- The squad waits before its next chain, and its run ends (R97 case 5). Every wait of a word ends the run this
way, those among them that R97 does not list: a DET turn, or the order of IFENCE, SHPUT, an arrival or a read at
issue (log 11). -/
def waitHere (w : Wait) (s : State) : State := endRun (s.onSq (fun q => { q with wait := some w }))

/-- Issue one word as a chain of one. -/
def issueWord (i : Instr) (own : State → WordOut) (s : State) : Host.Outcome State Fault Refusal :=
  if i.wf then
    match wordOut i own s with
    | .done u => .next (u (retire 1 (bit31 i) (markPoison i s)))
    | .wait w => .next (waitHere w s)
    | .trap r => .next (takeTrap r s.sq.pkt s.sq.word 0 1 s)
    | .hold _ w u => .next (waitHere w (u s))
    | .fail u r => .next (takeTrap r s.sq.pkt s.sq.word 0 1 (u s))
  else .next (takeTrap (undefinedReport ((encode i).headD 0#32) s) s.sq.pkt s.sq.word 0 1 s)

end Sys2Proof.Machine
end

