-- ==== Sys2Proof/Machine/Integer.lean ====
section
/-! DEFINITION. Integer, class and register-array words (rows 0x10 to 0x3F). Each `own…` is what a word
does after the checks of R63; sources are read from the state before its chain issued. -/

namespace Sys2Proof.Machine

/-! ## Shared shapes -/

/-- A two-source operation at the width of the join: 64 bits once for a uniform destination, 32 bits for
each active lane otherwise (R146). -/
def alu2 (op : (w : Nat) → BitVec w → BitVec w → BitVec w) (d a b : Opnd) (s : State) : State → State :=
  if d.isS then fun t => t.onSq (·.putU d (op 64 (uval s a) (uval s b)))
  else fun t => t.onSq (·.putLanes d s.sq.em (fun l => op 32 (val32 s a l) (val32 s b l)))

/-- As `alu2` with an immediate, sign-extended to the width (R160). -/
def aluImm (op : (w : Nat) → BitVec w → BitVec w → BitVec w) (d a : Opnd) (i : BitVec 10) (s : State) : State → State :=
  if d.isS then fun t => t.onSq (·.putU d (op 64 (uval s a) (i.signExtend 64)))
  else fun t => t.onSq (·.putLanes d s.sq.em (fun l => op 32 (val32 s a l) (i.signExtend 32)))

/-- One-source operation. -/
def alu1 (op : (w : Nat) → BitVec w → BitVec w) (d a : Opnd) (s : State) : State → State :=
  if d.isS then fun t => t.onSq (·.putU d (op 64 (uval s a)))
  else fun t => t.onSq (·.putLanes d s.sq.em (fun l => op 32 (val32 s a l)))

/-- Three-source operation that also reads its destination (R148). -/
def alu3 (op : (w : Nat) → BitVec w → BitVec w → BitVec w → BitVec w) (d a b : Opnd) (s : State) : State → State :=
  if d.isS then fun t => t.onSq (·.putU d (op 64 (uval s d) (uval s a) (uval s b)))
  else fun t => t.onSq (·.putLanes d s.sq.em (fun l => op 32 (val32 s d l) (val32 s a l) (val32 s b l)))

/-- Checked overflow of a two-source operation with true value `tv` (R60, R150). -/
def checked2 (m : Bool) (tv : Int → Int → Int) (d a b : Opnd) (s : State) : Option Report :=
  if !m then none
  else if d.isS then checkOverflow s true 64 (fun _ => tv (uval s a).toInt (uval s b).toInt)
  else if d.isA then checkOverflow s false 64 (fun l => tv (val s a l).toInt (val s b l).toInt)
  else checkOverflow s false 32 (fun l => tv (val32 s a l).toInt (val32 s b l).toInt)

/-- A truth value at width `w` (R153). -/
def bit (w : Nat) (p : Bool) : BitVec w := if p then 1#w else 0#w

/-- The result of an affine or other join (R59). -/
def affOr (d : Opnd) (r : DWord × DWord) (u : State → State) : State → State :=
  if d.isA then fun t => t.onSq (·.putAff d r.1 r.2) else u

/-! ## Two-source arithmetic and logic (R152) -/

def ownIadd (d a b : Opnd) (m : Bool) (s : State) : WordOut :=
  let x := affine s a; let y := affine s b
  faultOr (checked2 m (· + ·) d a b s) (affOr d (x.1 + y.1, x.2 + y.2) (alu2 (fun _ x y => x + y) d a b s))

def ownIsub (d a b : Opnd) (m : Bool) (s : State) : WordOut :=
  let x := affine s a; let y := affine s b
  faultOr (checked2 m (· - ·) d a b s) (affOr d (x.1 - y.1, x.2 - y.2) (alu2 (fun _ x y => x - y) d a b s))

def ownImul (d a b : Opnd) (m : Bool) (s : State) : WordOut :=
  let x := affine s a; let y := affine s b
  -- one of the two is uniform, so one stride is 0 (Table 5-4)
  faultOr (checked2 m (· * ·) d a b s)
    (affOr d (x.1 * y.1, if b.cls = .u then x.2 * y.1 else y.2 * x.1) (alu2 (fun _ x y => x * y) d a b s))

/-- High half of the product (R152). -/
def mulHigh (u : Bool) (w : Nat) (x y : BitVec w) : BitVec w :=
  if u then BitVec.ofNat w (x.toNat * y.toNat / 2 ^ w) else BitVec.ofInt w (x.toInt * y.toInt / 2 ^ w)

def ownImulh (d a b : Opnd) (m : Bool) (s : State) : WordOut := .done (alu2 (mulHigh m) d a b s)

def ownImin (d a b : Opnd) (m : Bool) (s : State) : WordOut :=
  .done (alu2 (fun _ x y => if (if m then x.ule y else x.sle y) then x else y) d a b s)

def ownImax (d a b : Opnd) (m : Bool) (s : State) : WordOut :=
  .done (alu2 (fun _ x y => if (if m then y.ule x else y.sle x) then x else y) d a b s)

def ownAnd (d a b : Opnd) (s : State) : WordOut := .done (alu2 (fun _ x y => x &&& y) d a b s)
def ownOr (d a b : Opnd) (s : State) : WordOut := .done (alu2 (fun _ x y => x ||| y) d a b s)
def ownXor (d a b : Opnd) (s : State) : WordOut := .done (alu2 (fun _ x y => x ^^^ y) d a b s)

/-- Shift amount: the low bits of y, 6 for 64 bits and 5 for 32 (R152). -/
def shiftAmount (w : Nat) (y : BitVec w) : Nat := y.toNat % w

def ownShl (d a b : Opnd) (m : Bool) (s : State) : WordOut :=
  let x := affine s a
  let n := shiftAmount 64 (uval s b)
  let r := if !m then none
    else if d.isS then checkOverflow s true 64 (fun _ => (uval s a).toInt * 2 ^ n)
    else if d.isA then checkOverflow s false 64 (fun l => (val s a l).toInt * 2 ^ n)
    else checkOverflow s false 32 (fun l => (val32 s a l).toInt * 2 ^ shiftAmount 32 (val32 s b l))
  faultOr r (affOr d (x.1 <<< n, x.2 <<< n) (alu2 (fun w x y => x <<< shiftAmount w y) d a b s))

def ownShr (d a b : Opnd) (s : State) : WordOut := .done (alu2 (fun w x y => x >>> shiftAmount w y) d a b s)
def ownSar (d a b : Opnd) (s : State) : WordOut := .done (alu2 (fun w x y => x.sshiftRight (shiftAmount w y)) d a b s)

/-! ## Compares (R153) -/

def ownIceq (d a b : Opnd) (s : State) : WordOut := .done (alu2 (fun w x y => bit w (x == y)) d a b s)
def ownIcne (d a b : Opnd) (s : State) : WordOut := .done (alu2 (fun w x y => bit w (x != y)) d a b s)
def ownIclt (d a b : Opnd) (s : State) : WordOut := .done (alu2 (fun w x y => bit w (x.slt y)) d a b s)
def ownIcle (d a b : Opnd) (s : State) : WordOut := .done (alu2 (fun w x y => bit w (x.sle y)) d a b s)
def ownIcltu (d a b : Opnd) (s : State) : WordOut := .done (alu2 (fun w x y => bit w (x.ult y)) d a b s)
def ownIcleu (d a b : Opnd) (s : State) : WordOut := .done (alu2 (fun w x y => bit w (x.ule y)) d a b s)

/-! ## Unary bit operations (R154) -/

def ownIabs (d a : Opnd) (m : Bool) (s : State) : WordOut :=
  faultOr (checked2 m (fun x _ => x.natAbs) d a .zero s) (alu1 (fun w x => if x.msb then 0#w - x else x) d a s)

/-- Leading zero bits; w for zero (R154). -/
def leadingZeros (w : Nat) (x : BitVec w) : Nat := if x.toNat = 0 then w else w - 1 - Nat.log2 x.toNat

def ownPopc (d a : Opnd) (s : State) : WordOut := .done (alu1 (fun w x => BitVec.ofNat w (popCount x)) d a s)
def ownClz (d a : Opnd) (s : State) : WordOut := .done (alu1 (fun w x => BitVec.ofNat w (leadingZeros w x)) d a s)
def ownBrev (d a : Opnd) (s : State) : WordOut := .done (alu1 (fun _ x => x.reverse) d a s)

/-! ## Accumulating forms (R155 to R157) -/

def ownImad (d a b : Opnd) (m : Bool) (s : State) : WordOut :=
  let ext := fun (x : Word) => if m then x.setWidth 64 else x.signExtend 64
  .done (if d.isS then fun t => t.onSq (·.putU d (uval s d + uval s a * uval s b))
    else fun t => t.onSq (·.putPair d s.sq.em
      (fun l => val64 s d l + ext (val32 s a l) * ext (val32 s b l))))

def ownIaddmin (d a b : Opnd) (s : State) : WordOut :=
  .done (alu3 (fun _ d x y => if (x + y).slt d then x + y else d) d a b s)

def ownCmov (d a b : Opnd) (s : State) : WordOut :=
  .done (alu3 (fun w d x y => if x == 0#w then d else y) d a b s)

/-! ## Bit fields (R158) -/

/-- POS and LEN of a field descriptor. -/
def fieldPos {w : Nat} (y : BitVec w) : Nat := (y.extractLsb' 0 6).toNat
def fieldLen {w : Nat} (y : BitVec w) : Nat := (y.extractLsb' 8 6).toNat

/-- Bounds of a field descriptor, cause 0x12 (R158). -/
def fieldBounds (d b : Opnd) (s : State) : Option Report :=
  if d.isS then
    if 64 < fieldPos (uval s b) + fieldLen (uval s b) then
      some ⟨0x12#8, BitVec.ofNat 64 (lowest s.sq.em), uval s b, s.sq.em⟩
    else none
  else
    match (Mask.list s.sq.em).filter (fun l => decide (32 < fieldPos (val32 s b l) + fieldLen (val32 s b l))) with
    | [] => none
    | l :: r => some ⟨0x12#8, BitVec.ofNat 64 l, (val32 s b l).setWidth 64, maskOfList (l :: r)⟩

/-- The field of `len` bits at `pos`, zero- or sign-extended. -/
def extractField (sx : Bool) (w : Nat) (x : BitVec w) (pos len : Nat) : BitVec w :=
  let f := x.toNat / 2 ^ pos % 2 ^ len
  if sx && decide (0 < len) && decide (2 ^ (len - 1) ≤ f) then BitVec.ofInt w ((f : Int) - 2 ^ len) else BitVec.ofNat w f

def ownBfx (d a b : Opnd) (m : Bool) (s : State) : WordOut :=
  faultOr (fieldBounds d b s) (alu2 (fun w x y => extractField m w x (fieldPos y) (fieldLen y)) d a b s)

def ownBfi (d a b : Opnd) (s : State) : WordOut :=
  faultOr (fieldBounds d b s) (alu3 (fun w d x y =>
    let m := BitVec.ofNat w ((2 ^ fieldLen y - 1) * 2 ^ fieldPos y)
    (d &&& ~~~m) ||| ((x <<< fieldPos y) &&& m)) d a b s)

/-! ## Division (R159) -/

/-- Divide by zero, cause 0x13. -/
def divideCheck (d b : Opnd) (s : State) : Option Report :=
  if d.isS then
    if uval s b = 0#64 then some ⟨0x13#8, BitVec.ofNat 64 (lowest s.sq.em), 0#64, s.sq.em⟩ else none
  else lanesReport 0x13#8 ((Mask.list s.sq.em).filter (fun l => val32 s b l == 0#32))

def ownIdiv (d a b : Opnd) (m : Bool) (s : State) : WordOut :=
  faultOr (divideCheck d b s) (alu2 (fun _ x y => if m then x.udiv y else x.sdiv y) d a b s)

def ownIrem (d a b : Opnd) (m : Bool) (s : State) : WordOut :=
  faultOr (divideCheck d b s) (alu2 (fun _ x y => if m then x.umod y else x.srem y) d a b s)

/-! ## Immediate forms (R160) -/

def ownIaddi (d a : Opnd) (i : BitVec 10) (s : State) : WordOut :=
  let x := affine s a
  .done (affOr d (x.1 + i.signExtend 64, x.2) (aluImm (fun _ x y => x + y) d a i s))

def ownAndi (d a : Opnd) (i : BitVec 10) (s : State) : WordOut := .done (aluImm (fun _ x y => x &&& y) d a i s)
def ownOri (d a : Opnd) (i : BitVec 10) (s : State) : WordOut := .done (aluImm (fun _ x y => x ||| y) d a i s)
def ownXori (d a : Opnd) (i : BitVec 10) (s : State) : WordOut := .done (aluImm (fun _ x y => x ^^^ y) d a i s)
def ownShli (d a : Opnd) (i : BitVec 10) (s : State) : WordOut := .done (alu1 (fun _ x => x <<< i.toNat) d a s)
def ownShri (d a : Opnd) (i : BitVec 10) (s : State) : WordOut := .done (alu1 (fun _ x => x >>> i.toNat) d a s)
def ownSari (d a : Opnd) (i : BitVec 10) (s : State) : WordOut := .done (alu1 (fun _ x => x.sshiftRight i.toNat) d a s)
def ownIceqi (d a : Opnd) (i : BitVec 10) (s : State) : WordOut := .done (aluImm (fun w x y => bit w (x == y)) d a i s)
def ownIclti (d a : Opnd) (i : BitVec 10) (s : State) : WordOut := .done (aluImm (fun w x y => bit w (x.slt y)) d a i s)
def ownIcltui (d a : Opnd) (i : BitVec 10) (s : State) : WordOut := .done (aluImm (fun w x y => bit w (x.ult y)) d a i s)

/-! ## Constants (R161) -/

def ownMovk (d : Opnd) (i : BitVec 17) (_s : State) : WordOut := .done (fun t => t.onSq (·.putU d (i.signExtend 64)))

def ownMovkh (d : Opnd) (i : BitVec 16) (s : State) : WordOut :=
  .done (alu1 (fun w x => (x <<< 16) ||| i.setWidth w) d d s)

/-! ## Moving between classes (R162 to R165) -/

def ownProm (d a b : Opnd) (m : Bool) (s : State) : WordOut :=
  .done (if d.isA then fun t => t.onSq (·.putAff d (uval s a) (uval s b))
    else if m then fun t => t.onSq (·.putPair d s.sq.em (fun l => val s a l))
    else fun t => t.onSq (·.putLanes d s.sq.em (fun l => val32 s a l)))

/-- Base and stride that DEMU gives (R163). -/
def demuValue (d a : Opnd) (s : State) : DWord × DWord :=
  let x := fun l => (val32 s a l).toInt
  match Mask.list s.sq.em with
  | [] => (0#64, 0#64)
  | [l0] => (BitVec.ofInt 64 (x l0), 0#64)
  | l0 :: l1 :: _ =>
    if d.isS then (BitVec.ofInt 64 (x l0), 0#64)
    else
      let st := Int.tdiv (x l1 - x l0) (l1 - l0)
      (BitVec.ofInt 64 (x l0 - l0 * st), BitVec.ofInt 64 st)

def ownDemu (d a : Opnd) (m : Bool) (s : State) : WordOut :=
  let r := demuValue d a s
  let bad := (Mask.list s.sq.em).filter (fun l => (val32 s a l).signExtend 64 != r.1 + BitVec.ofNat 64 l * r.2)
  faultOr (if m then lanesReport 0x03#8 bad else none)
    (if d.isA then fun t => t.onSq (·.putAff d r.1 r.2) else fun t => t.onSq (·.putU d r.1))

def ownUniq (d a b : Opnd) (s : State) : WordOut :=
  let c := s.sq.em &&& ~~~((uval s b).setWidth 32)
  let r : DWord := match Mask.list c with
    | [] => 0#64
    | l0 :: _ =>
      maskOf (fun l => c.getLsbD l && val32 s a l == val32 s a l0) ++ val32 s a l0
  .done (fun t => t.onSq (·.putU d r))

def ownAget (d a : Opnd) (m : Bool) (s : State) : WordOut :=
  let x := affine s a
  .done (fun t => t.onSq (·.putU d (if m then x.2 else x.1)))

/-! ## Full/empty control (R166) -/

def ownSete (d : Opnd) (m : Bool) (_s : State) : WordOut := .done (fun t => t.onSq (·.setFE d m))

/-! ## Register arrays (R71, R167 to R169) -/

/-- Number of a v register. -/
def Opnd.vnum : Opnd → Nat
  | .v n => n.val
  | _ => 0

/-- The register an index word selects, or none outside its bounds (R71). -/
def indexed (base : Nat) (iw : Word) : Option Nat :=
  let ix := (iw.extractLsb' 0 8).toNat
  if iw.extractLsb' 16 16 != 0#16 || (iw.extractLsb' 8 8).toNat ≤ ix || 63 < base + ix then none else some (base + ix)

/-- Bounds of every lane's index word (R167). -/
def indexBounds (base : Nat) (b : Opnd) (s : State) : Option Report :=
  match (Mask.list s.sq.em).filter (fun l => (indexed base (val32 s b l)).isNone) with
  | [] => none
  | l :: r => some ⟨0x12#8, BitVec.ofNat 64 l, (val32 s b l).setWidth 64, maskOfList (l :: r)⟩

/-- Lanes with the register each of them indexes. -/
def indexedLanes (base : Nat) (b : Opnd) (s : State) : List (Nat × Nat) :=
  (Mask.list s.sq.em).map (fun l => (l, (indexed base (val32 s b l)).getD 0))

/-- Full/empty handling and poison of the indexed registers, lane by lane (R167). -/
def indexedBlock (e : Bool) (s : State) : List (Nat × Nat) → Option Block
  | [] => none
  | (l, n) :: r =>
    match sourceBlock s [(.v (Fin.ofNat 64 n), e)] with
    | some b => some b
    | none =>
      match poisonReport s [.v n l] with
      | some p => some (.trap p)
      | none => indexedBlock e s r

def ownRget (d a b : Opnd) (e : Bool) (s : State) : WordOut :=
  match indexBounds (Opnd.vnum a) b s with
  | some r => .trap r
  | none =>
    let ix := indexedLanes (Opnd.vnum a) b s
    match indexedBlock e s ix with
    | some x => x.out
    | none =>
      match destBlock s [d] with
      | some x => x.out
      | none => .done (fun t => t.onSq (·.putLanes d s.sq.em
        (fun l => s.sq.vreg ((indexed (Opnd.vnum a) (val32 s b l)).getD 0) l)))

def ownRput (d a b : Opnd) (s : State) : WordOut :=
  match indexBounds (Opnd.vnum a) b s with
  | some r => .trap r
  | none =>
    let ix := indexedLanes (Opnd.vnum a) b s
    match destBlock s (ix.map (fun x => .v (Fin.ofNat 64 x.2))) with
    | some x => x.out
    | none => .done (fun t => t.onSq (fun q =>
        ix.foldl (fun q x => q.putV x.2 (1#32 <<< x.1) (fun _ => val32 s d x.1)) q))

end Sys2Proof.Machine
end

