-- ==== Sys2Proof/Machine/Numbers.lean ====
section
/-! DEFINITION. Number formats and exact arithmetic (R26 to R51): values, rounding, conversion. -/

namespace Sys2Proof.Machine

/-- A real number of the form ± m × 2^e, an infinity or NaN. A zero keeps its sign. -/
inductive Num where
  | nan
  | inf (neg : Bool)
  | fin (neg : Bool) (m : Nat) (e : Int)
deriving DecidableEq, Repr, Inhabited

/-! ## Formats -/

/-- A binary format by its magnitude codes: codes rise with magnitude, code `n < 2^(P-1)` stands for
`n × 2^qmin`, and each further run of `2^(P-1)` codes doubles the spacing (R27, R28, R30, R31). -/
structure NumFmt where
  /-- significand bits, the leading one included -/
  prec : Nat
  /-- exponent of the least positive value's unit -/
  qmin : Int
  /-- largest finite magnitude code -/
  nmax : Nat
  /-- magnitude code of infinity, where the format has one -/
  inf : Option Nat
  /-- the NaN code written -/
  nan : Nat
  /-- width in bits -/
  width : Nat
  signed : Bool
  /-- the format has a negative zero -/
  negZero : Bool
deriving DecidableEq, Repr, Inhabited

/-- FP32 (R30). -/
def fp32 : NumFmt := ⟨24, -149, 0x7F7FFFFF, some 0x7F800000, 0x7FC00000, 32, true, true⟩
/-- FP16 (R30). -/
def fp16 : NumFmt := ⟨11, -24, 0x7BFF, some 0x7C00, 0x7E00, 16, true, true⟩
/-- BF16 (R30). -/
def bf16 : NumFmt := ⟨8, -133, 0x7F7F, some 0x7F80, 0x7FC0, 16, true, true⟩
/-- fp36 (R31). -/
def fp36 : NumFmt := ⟨27, -280, 511 * 2 ^ 26 - 1, some (511 * 2 ^ 26), 0x7FE000000, 36, true, true⟩
/-- Signed binary8pP (R27). -/
def sbinary8 (p : Nat) (ext : Bool) : NumFmt :=
  ⟨p, 1 - 2 ^ (7 - p) - (p - 1 : Int), if ext then 0x7E else 0x7F, if ext then some 0x7F else none, 0x80, 8, true, false⟩
/-- Unsigned binary8pP (R28). -/
def ubinary8 (p : Nat) (ext : Bool) : NumFmt :=
  ⟨p, 1 - 2 ^ (8 - p) - (p - 1 : Int), if ext then 0xFD else 0xFE, if ext then some 0xFE else none, 0xFF, 8, false, false⟩

/-- Whether a format code names a binary8 format (Table 3-5). -/
def isBinary8 (c : Nat) : Bool := c % 8 != 0 && c < 32

/-- The floating format of a code of Table 3-5; 0x00 is FP32. -/
def fmtOfCode (c : Nat) : NumFmt :=
  if c = 0x00 then fp32
  else if c = 0x08 then fp16
  else if c = 0x10 then bf16
  else if c < 0x08 then sbinary8 c true
  else if c < 0x10 then sbinary8 (c - 8) false
  else if c < 0x18 then ubinary8 (c - 16) true
  else ubinary8 (c - 24) false

/-! ## Reading -/

/-- The value of a magnitude code. -/
def magValue (f : NumFmt) (n : Nat) : Nat × Int :=
  let h := 2 ^ (f.prec - 1)
  if n < h then (n, f.qmin) else (h + n % h, f.qmin + (n / h : Nat) - 1)

/-- The number that a code stands for; every code above the largest magnitude is an infinity or NaN. -/
def decodeNum (f : NumFmt) (x : Nat) : Num :=
  let neg := f.signed && decide (2 ^ (f.width - 1) ≤ x)
  let n := if f.signed then x % 2 ^ (f.width - 1) else x
  if f.signed && !f.negZero && neg && n == 0 then .nan
  else if f.inf = some n then .inf neg
  else if f.nmax < n then .nan
  else let v := magValue f n; .fin neg v.1 v.2

/-! ## Rounding (R37) -/

/-- Rounding modes of R180; matrix readout uses the first two (R34). -/
inductive RMode where
  | nearest | zero | down | up
deriving DecidableEq, Repr, Inhabited

/-- Floor of `m × 2^sh`, and how the rest compares with one half: 0 none, 1 below, 2 equal, 3 above.
`sticky` says that the true value lies a little above `m`. -/
def floorShift (m : Nat) (sh : Int) (sticky : Bool) : Nat × Nat :=
  if 0 ≤ sh then (m * 2 ^ sh.toNat, if sticky then 1 else 0)
  else
    let d := 2 ^ (-sh).toNat
    let r := m % d
    (m / d,
      if r = 0 then (if sticky then 1 else 0)
      else if 2 * r < d then 1
      else if 2 * r = d then (if sticky then 3 else 2)
      else 3)

/-- Whether to step up from the floor of a magnitude. -/
def stepUp (mode : RMode) (neg odd : Bool) (rest : Nat) : Bool :=
  match mode with
  | .nearest => rest == 3 || (rest == 2 && odd)
  | .zero => false
  | .down => neg && rest != 0
  | .up => !neg && rest != 0

/-- The magnitude code, unbounded above, that `m × 2^e` rounds to; a tie takes the code with bit 0
clear (R37). -/
def roundMag (f : NumFmt) (mode : RMode) (neg : Bool) (m : Nat) (e : Int) (sticky : Bool) : Nat :=
  if m = 0 && !sticky then 0
  else
    let top : Int := (Nat.log2 m : Nat) + (e - f.qmin)
    let k : Nat := (top - (f.prec - 1 : Nat)).toNat
    let q := floorShift m (e - f.qmin - k) sticky
    let n := k * 2 ^ (f.prec - 1) + q.1
    if stepUp mode neg (n % 2 == 1) q.2 then n + 1 else n

/-- A code from its sign and magnitude code. -/
def packCode (f : NumFmt) (neg : Bool) (n : Nat) : Nat :=
  if f.signed then (if neg && (n != 0 || f.negZero) then n + 2 ^ (f.width - 1) else n) else n

/-- Conversion into a floating format (R37 to R39, Table 3-6). -/
def convertSticky (f : NumFmt) (mode : RMode) (sat : Bool) (x : Num) (sticky : Bool) : Nat :=
  match x with
  | .nan => f.nan
  | .inf neg =>
    if neg && !f.signed then (if sat then 0 else f.nan)
    else match f.inf with
      | some n => packCode f neg n
      | none => if sat then packCode f neg f.nmax else f.nan
  | .fin neg m e =>
    let n := roundMag f mode neg m e sticky
    if neg && !f.signed then (if n = 0 then 0 else if sat then 0 else f.nan)
    else if f.nmax < n then
      (if sat then packCode f neg f.nmax
       else match f.inf with
        | some i => packCode f neg i
        | none => f.nan)
    else packCode f neg n

/-- Conversion of an exact value. -/
def convert (f : NumFmt) (mode : RMode) (sat : Bool) (x : Num) : Nat := convertSticky f mode sat x false

/-- RoundFp32: nearest, ties to even, overflow to infinity (R47). -/
def roundFp32 (x : Num) : Word := BitVec.ofNat 32 (convert fp32 .nearest false x)
/-- RoundFp36 (R37, R38). -/
def roundFp36 (x : Num) : BitVec 36 := BitVec.ofNat 36 (convert fp36 .nearest false x)

def num32 (x : Word) : Num := decodeNum fp32 x.toNat

/-! ## Exact sums and products -/

/-- A finite number as a signed multiple of 2^e. -/
def scaled (neg : Bool) (m : Nat) (e base : Int) : Int :=
  let v : Int := (m * 2 ^ (e - base).toNat : Nat)
  if neg then -v else v

/-- Exact sum; an exact zero sum of different signs is +0, of equal signs keeps the sign (R175). -/
def Num.add : Num → Num → Num
  | .nan, _ | _, .nan => .nan
  | .inf a, .inf b => if a = b then .inf a else .nan
  | .inf a, _ => .inf a
  | _, .inf b => .inf b
  | .fin a m e, .fin b n g =>
    let base := min e g
    let v := scaled a m e base + scaled b n g base
    if v = 0 then .fin (a && b) 0 0 else .fin (v < 0) v.natAbs base

def Num.neg : Num → Num
  | .nan => .nan
  | .inf a => .inf (!a)
  | .fin a m e => .fin (!a) m e

/-- Exact product (R41, R175). -/
def Num.mul : Num → Num → Num
  | .nan, _ | _, .nan => .nan
  | .inf a, .inf b => .inf (a != b)
  | .inf a, .fin b n _ => if n = 0 then .nan else .inf (a != b)
  | .fin a m _, .inf b => if m = 0 then .nan else .inf (a != b)
  | .fin a m e, .fin b n g => .fin (a != b) (m * n) (e + g)

def Num.isNaN : Num → Bool
  | .nan => true
  | _ => false

/-- The exact sum of terms under R41: NaN if any is, or if both infinities occur; an exact zero is +0. -/
def exactSum (l : List Num) : Num :=
  if l.any Num.isNaN || (l.contains (.inf true) && l.contains (.inf false)) then .nan
  else if l.contains (.inf true) then .inf true
  else if l.contains (.inf false) then .inf false
  else
    let base := l.foldl (fun b x => match x with | .fin _ _ e => min b e | _ => b) 0
    let v := l.foldl (fun a x => match x with | .fin g m e => a + scaled g m e base | _ => a) (0 : Int)
    .fin (v < 0) v.natAbs base

/-- Comparison of real numbers: `none` with a NaN (R178). -/
def Num.lt (x y : Num) : Option Bool :=
  match x, y with
  | .nan, _ | _, .nan => none
  | .inf a, .inf b => some (a && !b)
  | .inf a, _ => some a
  | _, .inf b => some (!b)
  | .fin a m e, .fin b n g => let base := min e g; some (scaled a m e base < scaled b n g base)

/-! ## Scales and int36 -/

/-- A block scale (R33). -/
def scaleValue (x : Byte) : Num := if x = 0xFF#8 then .nan else .fin false 1 ((x.toNat : Int) - 127)

/-- Saturation to a signed range of `w` bits, and whether it changed the value (R32). -/
def satInt (w : Nat) (x : Int) : Int × Bool :=
  if x < -(2 ^ (w - 1)) then (-(2 ^ (w - 1)), true)
  else if 2 ^ (w - 1) ≤ x then (2 ^ (w - 1) - 1, true)
  else (x, false)

/-- A number rounded to an integer; infinities and NaN give `none`. -/
def toIntegral (mode : RMode) : Num → Option Int
  | .fin neg m e =>
    let q := floorShift m e false
    let n : Int := if stepUp mode neg (q.1 % 2 == 1) q.2 then q.1 + 1 else q.1
    some (if neg then -n else n)
  | _ => none

/-- Whether an element is zero for the detector of its type (R51): 0 integer, 1 FP16, 2 BF16, 3 FP32,
4 binary8. -/
def isZeroElem (etype : Nat) (x : Nat) : Bool :=
  match etype with
  | 1 | 2 => x % 0x8000 == 0
  | 3 => x % 0x80000000 == 0
  | _ => x == 0

/-! ## Functions of one number, correctly rounded (R177) -/

/-- Integer square root, by bits from the top. -/
def isqrtBits (n : Nat) : Nat → Nat → Nat
  | 0, r => r
  | k + 1, r => if (r + 2 ^ k) * (r + 2 ^ k) ≤ n then isqrtBits n k (r + 2 ^ k) else isqrtBits n k r

def isqrt (n : Nat) : Nat := isqrtBits n (Nat.log2 n / 2 + 1) 0

/-- √(m × 2^e) as a number with 64 fraction bits at least, and whether it lies above it. -/
def sqrtNum (m : Nat) (e : Int) : (Nat × Int) × Bool :=
  let e' : Int := if e % 2 = 0 then e - 128 else e - 129
  let n := m * 2 ^ (e - e').toNat
  let r := isqrt n
  ((r, e' / 2), r * r != n)

/-- 1 / (m × 2^e). -/
def recipNum (m : Nat) (e : Int) : (Nat × Int) × Bool :=
  let k := Nat.log2 m + 64
  ((2 ^ k / m, -e - k), 2 ^ k % m != 0)

/-- FRCP of a number that is not NaN, to FP32. -/
def frcp (x : Num) : Nat :=
  match x with
  | .nan => fp32.nan
  | .inf neg => packCode fp32 neg 0
  | .fin neg m e =>
    if m = 0 then packCode fp32 neg 0x7F800000
    else let r := recipNum m e; convertSticky fp32 .nearest false (.fin neg r.1.1 r.1.2) r.2

/-- FSQRT. -/
def fsqrt (x : Num) : Nat :=
  match x with
  | .nan => fp32.nan
  | .inf neg => if neg then fp32.nan else 0x7F800000
  | .fin neg m e =>
    if m = 0 then packCode fp32 neg 0
    else if neg then fp32.nan
    else let r := sqrtNum m e; convertSticky fp32 .nearest false (.fin false r.1.1 r.1.2) r.2

/-- FRSQ: 1/√(m × 2^e) = √(2^-2j / m') with j chosen so that the quotient is long; exact only where both
the quotient and its root are. -/
def frsq (x : Num) : Nat :=
  match x with
  | .nan => fp32.nan
  | .inf neg => if neg then fp32.nan else 0
  | .fin neg m e =>
    if m = 0 then packCode fp32 neg 0x7F800000
    else if neg then fp32.nan
    else
      let m' := if e % 2 = 0 then m else 2 * m
      let e' := if e % 2 = 0 then e else e - 1
      let k := 2 * (Nat.log2 m' + 80)
      let q := 2 ^ k / m'
      let r := isqrt q
      convertSticky fp32 .nearest false (.fin false r (-(k / 2 : Nat) - e' / 2)) (r * r != q || 2 ^ k % m' != 0)

/-- 2^(2^-i) for i = 1, 2, … as 160-bit fractions rounded down: repeated square roots of 2. -/
def exp2Roots : Nat → Nat → List Nat
  | 0, _ => []
  | k + 1, x => let r := isqrt (x * 2 ^ 160); r :: exp2Roots k r

/-- Product of the roots that the fraction `f` (of `k` bits, most significant first) selects. -/
def exp2Product : List Nat → Nat → Nat → Nat → Nat
  | [], _, _, acc => acc
  | r :: rs, f, k, acc => exp2Product rs f (k - 1) (if f / 2 ^ (k - 1) % 2 = 1 then acc * r / 2 ^ 160 else acc)

/-- FEXP2 (R177). An argument of at most 2^-26 in magnitude gives 1 by rounding. The fraction of any
other FP32 argument has at most 49 bits, and 2^x is then irrational unless x is an integer, so a value
known to 110 bits decides the rounding (log 7). -/
def fexp2 (x : Num) : Nat :=
  match x with
  | .nan => fp32.nan
  | .inf neg => if neg then 0 else 0x7F800000
  | .fin neg m e =>
    if m = 0 then 0x3F800000
    else if (Nat.log2 m : Int) + e < -26 then 0x3F800000
    else if 9 ≤ (Nat.log2 m : Int) + e then (if neg then 0 else 0x7F800000)
    else
      let d := (-e).toNat
      let v : Int := if neg then -((m : Nat) * 2 ^ e.toNat : Nat) else ((m * 2 ^ e.toNat : Nat) : Int)
      let ip := if e < 0 then v / 2 ^ d else v
      let fr := if e < 0 then (v % 2 ^ d).toNat else 0
      if fr = 0 then convert fp32 .nearest false (.fin false 1 ip)
      else
        let p := exp2Product (exp2Roots d (2 ^ 161)) fr d (2 ^ 160)
        convertSticky fp32 .nearest false (.fin false p (ip - 160)) true

/-- Fraction bits of log2 of a number in [1, 2) held with 256 fraction bits, by repeated squaring. -/
def log2Bits : Nat → Nat → Nat → Nat
  | 0, _, acc => acc
  | k + 1, y, acc =>
    let z := y * y / 2 ^ 256
    if 2 ^ 257 ≤ z then log2Bits k (z / 2) (2 * acc + 1) else log2Bits k z (2 * acc)

/-- FLOG2 (R177): exact for powers of two, irrational otherwise, so 120 fraction bits decide the
rounding (log 7). -/
def flog2 (x : Num) : Nat :=
  match x with
  | .nan => fp32.nan
  | .inf neg => if neg then fp32.nan else 0x7F800000
  | .fin neg m e =>
    if m = 0 then 0xFF800000
    else if neg then fp32.nan
    else
      let t := Nat.log2 m
      let ip : Int := t + e
      if m = 2 ^ t then convert fp32 .nearest false (.fin (ip < 0) ip.natAbs 0)
      else
        let fr := log2Bits 120 (m * 2 ^ (256 - t)) 0
        let v : Int := ip * 2 ^ 120 + fr
        if 0 ≤ v then convertSticky fp32 .nearest false (.fin false v.natAbs (-120)) true
        else convertSticky fp32 .nearest false (.fin true (v.natAbs - 1) (-120)) true

end Sys2Proof.Machine
end

