-- ==== Sys2Proof/Machine/Float.lean ====
section
/-! DEFINITION. Floating-point, conversion and cross-lane words (rows 0x40 to 0x5F, R170 to R196). -/

namespace Sys2Proof.Machine

/-! ## FMT (R34 to R36) -/

def fmtAF (f : Word) : Nat := (f.extractLsb' 0 5).toNat
def fmtBF (f : Word) : Nat := (f.extractLsb' 5 5).toNat
def fmtOF (f : Word) : Nat := (f.extractLsb' 10 5).toNat
def fmtRM (f : Word) : RMode := if f.getLsbD 15 then .zero else .nearest
def fmtSAT (f : Word) : Bool := f.getLsbD 16
def fmtNT (f : Word) : Bool := f.getLsbD 17
def fmtSC (f : Word) : Bool := f.getLsbD 18
def fmtIA (f : Word) : Bool := f.getLsbD 19

/-- A legal FMT value (R36). -/
def fmtLegal (f : Word) : Bool :=
  let a := fmtAF f
  let b := fmtBF f
  f.extractLsb' 20 12 == 0#12
    && ((a == 0 && b == 0) || (isBinary8 a && isBinary8 b) || (a == 0x18 && b == 0x18)
        || ((a == 0x08 || a == 0x10) && a == b))
    && (fmtIA f == (a == 0x18 && b == 0x18))
    && (if fmtIA f then fmtOF f == 0 || fmtOF f == 0x18 else fmtOF f != 0x18)
    && (!fmtSC f || (isBinary8 a && isBinary8 b))

/-- Format unsupported, cause 0x14, with the value to report. -/
def formatReport (x : Word) (s : State) : Report := ⟨0x14#8, x.setWidth 64, 0#64, s.sq.em⟩

/-! ## Shared shapes -/

/-- Write the 32-bit result of a word: once, zero-extended, for a uniform destination, else for each
active lane (R170). -/
def putF (d : Opnd) (f : Nat → Word) (s : State) : State → State :=
  if d.isS then fun t => t.onSq (·.putU d ((f 0).setWidth 64))
  else fun t => t.onSq (·.putLanes d s.sq.em f)

/-- Vector NaN (R49, R172): `bad` says that a lane's result is NaN while none of its sources is. -/
def nanReport (d : Opnd) (bad : Nat → Bool) (s : State) : Option Report :=
  if !fmtNT s.sq.fmt then none
  else if d.isS then
    if bad 0 then some ⟨0x0C#8, BitVec.ofNat 64 (lowest s.sq.em), 0#64, s.sq.em⟩ else none
  else lanesReport 0x0C#8 ((Mask.list s.sq.em).filter bad)

def isNaN32 (x : Word) : Bool := (num32 x).isNaN

/-- A word whose lane result is `f` of its sources, with the trap of R49. -/
def floatWord (d : Opnd) (srcs : List Opnd) (f : Nat → Word) (s : State) : WordOut :=
  faultOr (nanReport d (fun l => isNaN32 (f l) && !srcs.any (fun o => isNaN32 (val32 s o l))) s) (putF d f s)

/-! ## Arithmetic (R175 to R180) -/

def ownFadd (d a b : Opnd) (s : State) : WordOut :=
  floatWord d [a, b] (fun l => roundFp32 ((num32 (val32 s a l)).add (num32 (val32 s b l)))) s

def ownFsub (d a b : Opnd) (s : State) : WordOut :=
  floatWord d [a, b] (fun l => roundFp32 ((num32 (val32 s a l)).add (num32 (val32 s b l)).neg)) s

def ownFmul (d a b : Opnd) (s : State) : WordOut :=
  floatWord d [a, b] (fun l => roundFp32 ((num32 (val32 s a l)).mul (num32 (val32 s b l)))) s

/-- d + x × y with one rounding into a format. -/
def fusedIn (f : NumFmt) (d x y : Nat) : Nat :=
  convert f .nearest false ((decodeNum f d).add ((decodeNum f x).mul (decodeNum f y)))

/-- Half `h` of a word. -/
def half (x : Word) (h : Nat) : Nat := (x.extractLsb' (16 * h) 16).toNat
def isNaN16 (x : Nat) : Bool := (decodeNum fp16 x).isNaN

/-- FFMA.h2 of one word (R175). -/
def fused2 (d x y : Word) : Word :=
  BitVec.ofNat 16 (fusedIn fp16 (half d 1) (half x 1) (half y 1))
    ++ BitVec.ofNat 16 (fusedIn fp16 (half d 0) (half x 0) (half y 0))

/-- Half `h` of an FFMA.h2 becomes NaN while none of its sources is. -/
def newNaN2 (d x y : Word) (h : Nat) : Bool :=
  isNaN16 (fusedIn fp16 (half d h) (half x h) (half y h))
    && !(isNaN16 (half d h) || isNaN16 (half x h) || isNaN16 (half y h))

def ownFfma (d a b : Opnd) (m : Bool) (s : State) : WordOut :=
  if m then
    faultOr (nanReport d (fun l => newNaN2 (val32 s d l) (val32 s a l) (val32 s b l) 0
        || newNaN2 (val32 s d l) (val32 s a l) (val32 s b l) 1) s)
      (putF d (fun l => fused2 (val32 s d l) (val32 s a l) (val32 s b l)) s)
  else
    floatWord d [a, b, d] (fun l => BitVec.ofNat 32
      (fusedIn fp32 (val32 s d l).toNat (val32 s a l).toNat (val32 s b l).toNat)) s

/-- x orders strictly below y, with −0 below +0 (R176). -/
def belowSigned (x y : Word) : Bool :=
  if (num32 x).lt (num32 y) = some true then true
  else if x.extractLsb' 0 31 = 0#31 && y.extractLsb' 0 31 = 0#31 then x.msb && !y.msb
  else false

def fmin (x y : Word) : Word := if isNaN32 x || isNaN32 y then 0x7FC00000#32 else if belowSigned y x then y else x
def fmax (x y : Word) : Word := if isNaN32 x || isNaN32 y then 0x7FC00000#32 else if belowSigned x y then y else x

def ownFmin (d a b : Opnd) (s : State) : WordOut := .done (putF d (fun l => fmin (val32 s a l) (val32 s b l)) s)
def ownFmax (d a b : Opnd) (s : State) : WordOut := .done (putF d (fun l => fmax (val32 s a l) (val32 s b l)) s)

/-- A one-source function (R177). -/
def floatFun (g : Num → Nat) (d a : Opnd) (s : State) : WordOut :=
  floatWord d [a] (fun l => BitVec.ofNat 32 (g (num32 (val32 s a l)))) s

def ownFrcp (d a : Opnd) (s : State) : WordOut := floatFun frcp d a s
def ownFrsq (d a : Opnd) (s : State) : WordOut := floatFun frsq d a s
def ownFsqrt (d a : Opnd) (s : State) : WordOut := floatFun fsqrt d a s
def ownFexp2 (d a : Opnd) (s : State) : WordOut := floatFun fexp2 d a s
def ownFlog2 (d a : Opnd) (s : State) : WordOut := floatFun flog2 d a s

/-- A compare writes its condition (R178). -/
def compareF (p : Word → Word → Bool) (d a b : Opnd) (s : State) : WordOut :=
  .done (putF d (fun l => if p (val32 s a l) (val32 s b l) then 1#32 else 0#32) s)

def ownFceq (d a b : Opnd) (s : State) : WordOut :=
  compareF (fun x y => (num32 x).lt (num32 y) == some false && (num32 y).lt (num32 x) == some false) d a b s
def ownFclt (d a b : Opnd) (s : State) : WordOut := compareF (fun x y => (num32 x).lt (num32 y) == some true) d a b s
def ownFcle (d a b : Opnd) (s : State) : WordOut := compareF (fun x y => (num32 y).lt (num32 x) == some false) d a b s

/-- The class bit of an FP32 value (R179). -/
def classBit (x : Word) : Nat :=
  let e := (x.extractLsb' 23 8).toNat
  let t := (x.extractLsb' 0 23).toNat
  let neg := x.msb
  if e = 255 then (if t ≠ 0 then (if x.getLsbD 22 then 9 else 8) else if neg then 0 else 7)
  else if e = 0 then
    (if t = 0 then (if neg then 3 else 4) else if neg then 2 else 5)
  else if neg then 1 else 6

def ownFclass (d a : Opnd) (s : State) : WordOut := .done (putF d (fun l => BitVec.ofNat 32 (2 ^ classBit (val32 s a l))) s)

/-- The rounding mode of B [1:0] (R180). -/
def modeOf (b : DWord) : RMode :=
  match b.toNat % 4 with
  | 0 => .nearest
  | 1 => .zero
  | 2 => .down
  | _ => .up

/-- FRND of one value (R180). -/
def roundIntegral (mode : RMode) (x : Word) : Word :=
  match num32 x with
  | .nan => 0x7FC00000#32
  | .inf _ => x
  | .fin neg m e => roundFp32 (.fin neg (((toIntegral mode (.fin neg m e)).getD 0).natAbs) 0)

def ownFrnd (d a b : Opnd) (s : State) : WordOut :=
  .done (putF d (fun l => roundIntegral (modeOf (uval s b)) (val32 s a l)) s)

/-! ## Conversions (R181 to R185) -/

/-- A number to an integer of a range, saturating; NaN gives 0. -/
def toRange (mode : RMode) (lo hi : Int) (x : Num) : Int :=
  match x with
  | .nan => 0
  | .inf neg => if neg then lo else hi
  | x => max lo (min hi ((toIntegral mode x).getD 0))

def ownCvtfi (d a b : Opnd) (m : Bool) (s : State) : WordOut :=
  .done (putF d (fun l => BitVec.ofInt 32 (toRange (modeOf (uval s b)) (if m then 0 else -(2 ^ 31))
    (if m then 2 ^ 32 - 1 else 2 ^ 31 - 1) (num32 (val32 s a l)))) s)

def ownCvtif (d a : Opnd) (m : Bool) (s : State) : WordOut :=
  .done (putF d (fun l =>
    let x := val32 s a l
    let v : Int := if m then (x.toNat : Int) else x.toInt
    roundFp32 (.fin (v < 0) v.natAbs 0)) s)

/-- Convert an FP32 value into one byte of FMT.OF (R183). -/
def narrow (fmt x : Word) : Byte :=
  if fmtOF fmt = 0x18 then BitVec.ofInt 8 (toRange (fmtRM fmt) (-128) 127 (num32 x))
  else BitVec.ofNat 8 (convert (fmtOfCode (fmtOF fmt)) (fmtRM fmt) (fmtSAT fmt) (num32 x))

def ownCvtn (d a b : Opnd) (s : State) : WordOut :=
  let fmt := s.sq.fmt
  if !isBinary8 (fmtOF fmt) && fmtOF fmt != 0x18 then .trap (formatReport fmt s)
  else .done (putF d (fun l => patch (val32 s d l) (8 * ((uval s b).toNat % 4)) (narrow fmt (val32 s a l))) s)

/-- Widen one element of a word to FP32 (R184). -/
def widen (fmt x : Word) (b : Nat) : Word :=
  let af := fmtAF fmt
  if af = 0x18 then
    let v := (x.extractLsb' (8 * (b % 4)) 8).toInt
    roundFp32 (.fin (v < 0) v.natAbs 0)
  else if isBinary8 af then roundFp32 (decodeNum (fmtOfCode af) (x.extractLsb' (8 * (b % 4)) 8).toNat)
  else roundFp32 (decodeNum (fmtOfCode af) (half x (b % 2)))

def ownCvtw (d a b : Opnd) (s : State) : WordOut :=
  let fmt := s.sq.fmt
  if fmtAF fmt = 0 then .trap (formatReport fmt s)
  else .done (putF d (fun l => widen fmt (val32 s a l) (uval s b).toNat) s)

def ownCvth (d a b : Opnd) (m : Bool) (s : State) : WordOut :=
  let f := if m then bf16 else fp16
  .done (putF d (fun l => BitVec.ofNat 16 (convert f .nearest false (num32 (val32 s b l)))
    ++ BitVec.ofNat 16 (convert f .nearest false (num32 (val32 s a l)))) s)

/-! ## FMT access (R186, R187) -/

def ownSetfmt (a : Opnd) (s : State) : WordOut :=
  let x := (uval s a).setWidth 32
  if fmtLegal x then .done (fun t => t.onSq (fun q => { q with fmt := x })) else .trap (formatReport x s)

def ownGetfmt (d : Opnd) (s : State) : WordOut := .done (putF d (fun _ => s.sq.fmt) s)

/-! ## RAND (R188, R189) -/

/-- One round of the function of R188. -/
def randRound (k : Word) (i : Nat) (x : Word) : Word :=
  let x := x + k + BitVec.ofNat 32 (i + 1) * 0x6A5D39E1#32
  let x := x ^^^ (x >>> 16)
  let x := x * 0x3C6EF35B#32
  let x := x ^^^ (x >>> 13)
  x.rotateLeft 5

/-- The function of R188. -/
def randValue (seed : DWord) (counter : Word) : Word :=
  let k0 := seed.setWidth 32
  let k1 := seed.extractLsb' 32 32
  ([0, 1, 2, 3, 4, 5, 6, 7].foldl (fun x i => randRound (if i % 2 = 0 then k0 else k1) i x) counter) ^^^ k0

/-- Bounds of a stream offset, cause 0x12 (R189). -/
def streamBounds (d b : Opnd) (s : State) : Option Report :=
  if d.isS then
    if s.launch.lr.rcount ≤ (val32 s b 0).toNat then
      some ⟨0x12#8, BitVec.ofNat 64 (lowest s.sq.em), (val32 s b 0).setWidth 64, s.sq.em⟩
    else none
  else
    match (Mask.list s.sq.em).filter (fun l => decide (s.launch.lr.rcount ≤ (val32 s b l).toNat)) with
    | [] => none
    | l :: r => some ⟨0x12#8, BitVec.ofNat 64 l, (val32 s b l).setWidth 64, maskOfList (l :: r)⟩

def ownRand (d a b : Opnd) (m : Bool) (s : State) : WordOut :=
  if m then
    faultOr (streamBounds d b s)
      (putF d (fun l => randValue s.launch.lr.rseed (BitVec.ofNat 32 s.launch.lr.rbase + val32 s b l)) s)
  else .done (putF d (fun l => randValue (uval s a) (val32 s b l)) s)

/-! ## Reading other lanes (R190 to R195) -/

def ownShfl (d a b : Opnd) (s : State) : WordOut :=
  .done (putF d (fun l => val32 s a ((val32 s b l).toNat % 32)) s)

def ownShup (d a b : Opnd) (s : State) : WordOut :=
  let n := (uval s b).toNat
  .done (putF d (fun l => if n ≤ l then val32 s a (l - n) else val32 s d l) s)

def ownShdn (d a b : Opnd) (s : State) : WordOut :=
  let n := (uval s b).toNat
  .done (putF d (fun l => if l + n ≤ 31 then val32 s a (l + n) else val32 s d l) s)

def ownBcast (d a b : Opnd) (s : State) : WordOut :=
  .done (putF d (fun _ => val32 s a ((uval s b).toNat % 32)) s)

/-- The votes of the lanes of EM (R194). -/
def votes (a : Opnd) (s : State) : Mask := maskOf (fun l => s.sq.em.getLsbD l && val32 s a l != 0#32)

def ownVany (d a : Opnd) (s : State) : WordOut :=
  .done (putF d (fun _ => if votes a s = 0#32 then 0#32 else 1#32) s)

def ownVbal (d a : Opnd) (s : State) : WordOut := .done (putF d (fun _ => votes a s) s)

/-- The sum of RDADD (R195). -/
def reduceAdd (m : Bool) (a : Opnd) (s : State) : Word :=
  let ls := Mask.list s.sq.em
  if m then roundFp32 (exactSum (ls.map (fun l => num32 (val32 s a l))))
  else ls.foldl (fun x l => x + val32 s a l) 0#32

def ownRdadd (d a : Opnd) (m : Bool) (s : State) : WordOut :=
  let r := reduceAdd m a s
  let trap := m && fmtNT s.sq.fmt && isNaN32 r && !(Mask.list s.sq.em).any (fun l => isNaN32 (val32 s a l))
  if trap then .trap ⟨0x0C#8, BitVec.ofNat 64 (lowest s.sq.em), 0#64, s.sq.em⟩
  else .done (putF d (fun _ => r) s)

/-- The least value of RDMIN (R195). -/
def reduceMin (m : Bool) (a : Opnd) (s : State) : Word :=
  match Mask.list s.sq.em with
  | [] => 0#32
  | l :: r => r.foldl (fun x l => if m then fmin x (val32 s a l)
      else if (val32 s a l).slt x then val32 s a l else x) (if m then fmin (val32 s a l) (val32 s a l) else val32 s a l)

def ownRdmin (d a : Opnd) (m : Bool) (s : State) : WordOut := .done (putF d (fun _ => reduceMin m a s) s)

end Sys2Proof.Machine
end

