-- ==== Sys2Proof/Machine/Notify.lean ====
section
/-! DEFINITION. Home writes, dirty marks, notification records and access counters. -/

namespace Sys2Proof.Machine

/-- Pages written since their last HASH (R400), by physical page. -/
def markDirty (cells : List (Nat × Byte)) (s : State) : State :=
  s.updPart (fun p => { p with dirty := dedup (p.dirty ++ cells.map (fun c => c.1 / 65536)) })

/-- Bytes accepted at their home (R227). -/
def homeWrite (cells : List (Nat × Byte)) (s : State) : State :=
  markDirty cells { s with mem := s.mem.writeCells cells }

/-- Post one notification record (R389, R390). One whose place in the ring lies behind a port that is down is dropped
and counted, as with a full ring (R393; log 43). -/
def post (bs : List Byte) (s : State) : State :=
  let p := s.part
  if p.nqsize = 0#64 then
    if p.held.length < 64 then s.updPart (fun p => { p with held := p.held ++ [bs] })
    else s.updPart (fun p => { p with nqdrop := p.nqdrop + 1#64 })
  else if p.nqtail - p.nqhead = p.nqsize || !(portsOf s (p.nqbase.toNat + 32 * (p.nqtail.toNat % p.nqsize.toNat)) 32).all (portUp s) then
    s.updPart (fun p => { p with nqdrop := p.nqdrop + 1#64 })
  else
    (homeWrite (namedCells s (p.nqbase.toNat + 32 * (p.nqtail.toNat % p.nqsize.toNat)) bs) s).updPart
      (fun p => { p with nqtail := p.nqtail + 1#64 })

/-- A record of the layout of R360. -/
def pageNote (type die asid count va pa : Nat) : List Byte :=
  toBytes 1 type ++ toBytes 1 die ++ toBytes 2 asid ++ toBytes 4 count ++ toBytes 8 va ++ toBytes 8 pa ++ toBytes 8 0

/-- A record of the other types: ASID at 0x02, two 32-bit words or one 64-bit word at 0x08 (R390). -/
def eventNote (type die asid x08 : Nat) : List Byte :=
  toBytes 1 type ++ toBytes 1 die ++ toBytes 2 asid ++ toBytes 4 0 ++ toBytes 8 x08 ++ toBytes 16 0

/-- Count one access to a page at a die; the table holds 4,096 pages, and the oldest gives way (R360). -/
def countPage (d asid page : Nat) (leaf : DWord × Nat) (s : State) : State :=
  let die := s.getDie d
  let old := ((die.counts.find? (fun e => e.1 == asid && e.2.1 == page)).map (·.2.2)).getD 0
  let rest := die.counts.filter (fun e => !(e.1 == asid && e.2.1 == page))
  let lim := (asidEnt s asid).acthr.toNat
  if lim ≤ old + 1 then
    post (pageNote 1 d asid lim (page * 65536) (physOf leaf (page * 65536) / 65536 * 65536))
      (s.updDie d (fun q => { q with counts := rest }))
  else
    s.updDie d (fun q => { q with
      counts := (if rest.length < 4096 then rest else rest.drop 1) ++ [(asid, page, old + 1)] })

/-- Count a segment that lies on a 64 KiB page with CO = 1 and AC = 1 (R360). -/
def countSegment (d asid va : Nat) (leaf : Option (DWord × Nat)) (s : State) : State :=
  match leaf with
  | some l => if leafCO l.1 && leafAC l.1 && l.2 == 65536 then countPage d asid (va / 65536) l s else s
  | none => s

/-- Count the 128-byte segments that an instruction or engine element reaches (R360). -/
def countAccesses (core asid : Nat) (vas : List Nat) (s : State) : State :=
  (dedup (vas.map (· / 128))).foldl (fun t g =>
    countSegment (dieOf core) asid (g * 128) (translate t core asid (g * 128)) t) s

end Sys2Proof.Machine
end

