-- ==== Sys2Proof/Machine/Memory.lean ====
section
/-! DEFINITION. Loads, stores, atomics, fences and cache words, and the events by which accesses are
performed and travel to their homes (R197 to R216, R226 to R254). -/

namespace Sys2Proof.Machine

/-! ## Producers (R64) -/

/-- Add a pending producer to the current squad and mark its registers empty (R64); its address depends on no load
from place `dep` on. -/
def addLoad (dep : Nat) (kind : ProdKind) (regs : List Opnd) (s : State) : State :=
  s.onSq (fun q =>
    { regs.foldl (fun q o => q.setFE o false) q with
      prods := q.prods ++ [⟨q.seq, kind, regs, [], dep⟩], seq := q.seq + 1 })

/-- A producer that no address of a load gives. -/
def addProd (kind : ProdKind) (regs : List Opnd) (s : State) : State := addLoad 0 kind regs s

/-- The value a pending producer brings is written, and the producer is gone (R64). -/
def fillU (k : SquadKey) (seq : Nat) (x : DWord) (s : State) : State :=
  s.updSq k (fun q =>
    let regs := ((q.prods.find? (·.seq == seq)).map (·.regs)).getD []
    { regs.foldl (fun q o => q.putU o x) q with prods := q.prods.filter (·.seq != seq) })

/-! ## Fences (R213, R233) -/

/-- A producer that orders as a load: its value is not there yet. -/
def ProdKind.pendingLoad : ProdKind → Bool
  | .load _ _ _ _ _ _ | .atomic _ _ | .sparse _ _ _ _ _ _ => true
  | _ => false

/-- A consumer take orders as a load (R218). -/
def ProdKind.orders (p : ProdKind) : Bool :=
  p.pendingLoad || (match p with | .take _ free => !free | _ => false)

/-- A BAR.sync of the squad has not completed: it waits, or its arrival is still to be counted (R225). -/
def inSync (q : Squad) : Bool :=
  q.syncw.isSome || q.late.any (fun l => match l.2 with | .arrive _ _ none => true | _ => false)

/-- No word that issued in a chain before place `n` of program order still has its effect to come. -/
def nothingLate (q : Squad) (n : Nat) : Bool := q.late.all (fun l => decide (n ≤ l.1))

/-- The squad's loads before place `n` of its program order have their values, its consumer takes among them, its
stores before it have merged, and no word before it has an effect to come or waits at a barrier: what a release at
team scope waits for (R213, R218, R225, R230, R233). -/
def releasedBefore (q : Squad) (n : Nat) : Bool :=
  q.storeq.all (fun e => decide (n ≤ e.seq)) && q.prods.all (fun p => decide (n ≤ p.seq) || !p.kind.orders)
    && nothingLate q n && !q.fences.any (fun f => f.barrier && decide (f.seq < n))

/-- What a fence's acquire waits for: its own take for that of a producer take (R234), the phase for that of a
BAR.sync, and the earlier loads and consumer takes. -/
def acquireWaits (q : Squad) (f : FenceRec) : Bool :=
  if f.take then q.prods.any (fun p => p.seq + 1 == f.seq)
  else q.prods.any (fun p => decide (p.seq < f.seq) && p.kind.orders) || (f.barrier && inSync q)

/-- A release at place `n` of program order follows the words before it: none of them has its effect to come, and no
acquire of a barrier or of a producer take before it waits (R225, R230, R234). -/
def acquiredBefore (q : Squad) (n : Nat) : Bool :=
  nothingLate q n && !q.fences.any (fun g => decide (g.seq < n) && (g.barrier || g.take) && acquireWaits q g)

/-- A fence with the merge stamps it has come to wait for, and whether it is complete (R213, Table 16-3). -/
def fenceState (s : State) (f : FenceRec) : FenceRec × Bool :=
  let q := s.getSq f.k
  let c := s.getCore (s.getTeam f.k.team).core
  let d := s.getDie (dieOf c.id)
  if acquireWaits q f || (f.rel && !acquiredBefore q f.seq) then (f, false)
  else if !f.rel || f.scope = .squad then (f, true)
  else if q.storeq.any (fun e => decide (e.seq < f.seq)) then (f, false)
  else if f.scope = .team then (f, true)
  else
    let f := { f with coreStamp := some (f.coreStamp.getD c.mstamp) }
    if c.merged.any (fun e => decide (e.stamp < f.coreStamp.getD 0)) then (f, false)
    else if f.scope = .die then (f, true)
    else
      let f := { f with dieStamp := some (f.dieStamp.getD d.pstamp) }
      (f, !d.pend.any (fun e => decide (e.stamp < f.dieStamp.getD 0)))

/-- Drop a squad's complete fences and keep the stamps of the others; a load performed early needs no
more guard once every older load has its value (R244). -/
def settleSq (s : State) (q : Squad) : Squad :=
  { q with
    fences := (q.fences.map (fenceState s)).filterMap (fun r => if r.2 then none else some r.1)
    prods := q.prods.filter (fun p => match p.kind with
      | .done _ _ => q.prods.any (fun r => decide (r.seq < p.seq) && r.kind.pendingLoad)
      | _ => true) }

/-- Settle every fence of the part, the releases of engine commands among them. -/
def settle (s : State) : State :=
  { s with
    sq := settleSq s s.sq
    squads := s.squads.map (settleSq s)
    cmds := s.cmds.map (fun c => { c with rel := (fenceState s c.rel).1 }) }

/-! ## Bytes on their way home (R227, R233) -/

/-- Cells by 128-byte line. -/
def byLine (cells : List (Nat × Byte)) : List (List (Nat × Byte)) :=
  (dedup (cells.map (fun c => lineOf c.1))).map (fun ln => cells.filter (fun c => lineOf c.1 == ln))

/-- Cells lie in one line. -/
def onLine (cells : List (Nat × Byte)) (ln : Nat) : Bool := cells.any (fun c => lineOf c.1 == ln)

/-- Physical cells enter the store merge unit, one entry per line, and drop L1 lines (R205, R231). -/
def pushMerged (core : Nat) (k : SquadKey) (seq : Nat) (cells : List (Nat × Byte)) (s : State) : State :=
  markDirty cells (dropL1 core cells ((byLine cells).foldl (fun t g =>
    t.updCore core (fun c => { c with
      merged := c.merged ++ [⟨c.mstamp, k, seq, g⟩], mstamp := c.mstamp + 1 })) s))

/-- An entry that no older entry of its line precedes. -/
def oldestOfLine (l : List Pending) (stamp : Nat) : Option Pending :=
  match l.find? (·.stamp == stamp) with
  | none => none
  | some e =>
    if (l.takeWhile (fun x => x.stamp != stamp)).any (fun x => x.cells.any (fun c => onLine e.cells (lineOf c.1))) then none
    else some e

/-- A home accepts an entry pending at a die L2. -/
def acceptFromDie (d stamp : Nat) (s : State) : State :=
  match oldestOfLine (s.getDie d).pend stamp with
  | none => s
  | some e => homeWrite e.cells (s.updDie d (fun q => { q with pend := q.pend.filter (·.stamp != stamp) }))

/-- The die L2 holds 64 MiB (R16), 524,288 lines: with no line free, the oldest pending store goes to its home. -/
def roomInL2 (d : Nat) (s : State) : State :=
  match (s.getDie d).pend with
  | [] => s
  | e :: r => if 524287 ≤ r.length then acceptFromDie d e.stamp s else s

/-- Cells reach the die L2 as one write: accepted at once where it is their home, else pending (R227). -/
def dieAccept (d : Nat) (k : SquadKey) (seq : Nat) (cells : List (Nat × Byte)) (s : State) : State :=
  if cells.all (fun c => homeOf s c.1 == d) then homeWrite cells s
  else (roomInL2 d s).updDie d (fun q => { q with pend := q.pend ++ [⟨q.pstamp, k, seq, cells⟩], pstamp := q.pstamp + 1 })

/-- The die L2 accepts an entry of the store merge unit. -/
def acceptFromCore (core stamp : Nat) (s : State) : State :=
  match oldestOfLine (s.getCore core).merged stamp with
  | none => s
  | some e =>
    dieAccept (dieOf core) e.k e.seq e.cells
      (s.updCore core (fun c => { c with merged := c.merged.filter (·.stamp != stamp) }))

/-- Every entry of a line that a core has merged is accepted, in order. -/
def drainCoreLine (core ln : Nat) (s : State) : State :=
  ((s.getCore core).merged.filter (fun e => onLine e.cells ln)).foldl (fun t e => acceptFromCore core e.stamp t) s

/-- Every entry of a line pending at a die L2 is accepted at its home, in order. -/
def drainDieLine (d ln : Nat) (s : State) : State :=
  ((s.getDie d).pend.filter (fun e => onLine e.cells ln)).foldl (fun t e => acceptFromDie d e.stamp t) s

def execDieL2Acceptance (core stamp : Nat) (s : State) : Host.Outcome State Fault Refusal :=
  .next (settle (acceptFromCore core stamp s))

def execHomeAcceptance (die stamp : Nat) (s : State) : Host.Outcome State Fault Refusal :=
  .next (settle (acceptFromDie die stamp s))

/-! ## Atomic operations (Table 9-7, R209) -/

/-- Op(old, x) at width `w` (R209). -/
def atomicOp (opn : BitVec 4) (w : Nat) (old x : BitVec w) : BitVec w :=
  match opn.toNat with
  | 0 => old + x
  | 1 => old &&& x
  | 2 => old ||| x
  | 3 => old ^^^ x
  | 4 => if x.slt old then x else old
  | 5 => if old.slt x then x else old
  | 6 => if x.ult old then x else old
  | 7 => if old.ult x then x else old
  | 8 => x
  | 9 => (roundFp32 ((num32 (old.setWidth 32)).add (num32 (x.setWidth 32)))).setWidth w
  | 10 => (fmin (old.setWidth 32) (x.setWidth 32)).setWidth w
  | _ => (fmax (old.setWidth 32) (x.setWidth 32)).setWidth w

/-- The operation writes: a CAS does where it finds the value it expects (R211). -/
def atomicHits (n : Nat) (cas : Option DWord) (old : DWord) : Bool :=
  match cas with
  | some e => old.toNat % 2 ^ (8 * n) == e.toNat % 2 ^ (8 * n)
  | none => true

/-- The new value of an atomic or CAS of `n` bytes. -/
def atomicNew (opn : BitVec 4) (n : Nat) (cas : Option DWord) (old x : DWord) : DWord :=
  match cas with
  | some e => if old.toNat % 2 ^ (8 * n) = e.toNat % 2 ^ (8 * n) then x else old
  | none =>
    if n = 4 then (atomicOp opn 32 (old.setWidth 32) (x.setWidth 32)).setWidth 64 else atomicOp opn 64 old x

/-- The scope at which an atomic is performed: system outside HBM (R210). -/
def effScope (scope : Scope) (pa : Nat) : Scope := if outside pa then .system else scope

/-- The state in which an atomic of a scope reads its bytes: older stores of the core to the line have
gone ahead of it on their one path (R243). -/
def atomicReady (core : Nat) (scope : Scope) (pa : Nat) (s : State) : State :=
  match effScope scope pa with
  | .squad | .team => s
  | .die => drainCoreLine core (lineOf pa) s
  | .device | .system => drainDieLine (dieOf core) (lineOf pa) (drainCoreLine core (lineOf pa) s)

/-- The old value that an atomic reads at the point of its scope. -/
def atomicOld (core : Nat) (scope : Scope) (pa n : Nat) (s : State) : DWord :=
  BitVec.ofNat 64 (ofBytes ((span pa n).map (match effScope scope pa with
    | .squad | .team => coreByte s core
    | .die => dieByte s (dieOf core)
    | .device | .system => s.mem.read)))

/-- Write the new value at the point of its scope. -/
def atomicWrite (core : Nat) (k : SquadKey) (seq : Nat) (scope : Scope) (pa n : Nat) (x : DWord) (s : State) : State :=
  let cells := cellsAt pa (toBytes n x.toNat)
  match effScope scope pa with
  | .squad | .team => pushMerged core k seq cells s
  | .die => dieAccept (dieOf core) k seq cells (markDirty cells (dropL1 core cells s))
  | .device | .system => homeWrite cells (dropL1 core cells s)

/-! ## Merging (R231, R242) -/

/-- Physical cells of virtual ones; a page is translated once. -/
def physCells (s : State) (core asid : Nat) (cells : List (Nat × Byte)) : List (Nat × Byte) :=
  let tr := (dedup (cells.map (fun c => c.1 / 65536))).map (fun p =>
    (p, (translate s core asid (p * 65536)).map (physOf · (p * 65536))))
  cells.filterMap (fun c =>
    match tr.find? (fun r => r.1 == c.1 / 65536) with
    | some (_, some b) => some (canon s (b + c.1 % 65536), c.2)
    | _ => none)

/-- The pages of a write are mapped, and none is under migration (R207, R361). -/
def writable (s : State) (core asid : Nat) (vas : List Nat) : Bool :=
  (dedup (vas.map (· / 65536))).all (fun p =>
    match translate s core asid (p * 65536) with
    | some l => !leafWBLK l.1
    | none => false)

/-- Another squad of the core has performed a load of these bytes ahead of an older one (R244). -/
def guarded (s : State) (core : Nat) (k : SquadKey) (scratch : Bool) (addrs : List Nat) : Bool :=
  (s.coreSquads core).any (fun q => q.key != k && (!scratch || q.key.team == k.team) &&
    q.prods.any (fun p => match p.kind with
      | .done sc bs => sc == scratch && bs.any addrs.contains
      | _ => false))

/-- The oldest entry of a queue may leave it: every earlier load has its value, and no earlier fence
holds it (R213, R242). -/
def mergeOk (s : State) (core asid : Nat) (q : Squad) (e : SEntry) : Bool :=
  !q.prods.any (fun p => decide (p.seq < e.seq) && p.kind.pendingLoad) && nothingLate q e.seq
    && !q.fences.any (fun f => decide (f.seq < e.seq))
    && (match e.kind with
      | .scratch cells => !guarded s core q.key true (cells.map (·.1))
      | .store cells =>
        writable s core asid (cells.map (·.1)) && !guarded s core q.key false ((physCells s core asid cells).map (·.1))
      | .atomic _ va _ n _ _ _ _ =>
        writable s core asid [va] && !guarded s core q.key false (span ((phys s core asid va).getD 0) n))

/-- An old value of one lane joins what a producer has so far: one value per register it writes. -/
def noteGot (k : SquadKey) (seq lane : Nat) (vals : List DWord) (s : State) : State :=
  s.updSq k (fun q => { q with
    prods := q.prods.map (fun p => if p.seq = seq then { p with got := p.got ++ [(lane, vals)] } else p) })

/-- The registers' values of a 64-bit datum: a pair of words for a varying 64-bit destination. -/
def splitVal (uni : Bool) (sz : BitVec 2) (x : DWord) : List DWord :=
  if uni || sz != 3#2 then [x] else [(x.extractLsb' 0 32).setWidth 64, (x.extractLsb' 32 32).setWidth 64]

/-- A scratch store that merges drops what squads of its team had read ahead of those lines (R206, R244). -/
def dropScratch (core : Nat) (t : TeamKey) (as : List Nat) (s : State) : State :=
  s.updCore core (fun c => { c with ahead := c.ahead.filter (fun a => !(a.k.team == t && a.scratch && as.any (fun x => lineOf x == a.pa))) })

/-- Perform the entry (R230). -/
def performEntry (core asid : Nat) (k : SquadKey) (e : SEntry) (s : State) : State :=
  match e.kind with
  | .scratch cells => dropScratch core k.team (cells.map (·.1)) (s.updTeam k.team (fun t => { t with scratch := t.scratch.writeCells cells }))
  | .store cells => pushMerged core k e.seq (physCells s core asid cells) s
  | .atomic lane va scope n opn cas x ret =>
    let pa := (phys s core asid va).getD 0
    let t := atomicReady core scope pa s
    let old := atomicOld core scope pa n t
    let t := if atomicHits n cas old then atomicWrite core k e.seq scope pa n (atomicNew opn n cas old x) t
      else dropL1 core (cellsAt pa (List.replicate n 0#8)) t
    if ret then
      let uni := (t.getSq k).prods.any (fun p => p.seq == e.seq && (match p.kind with | .atomic _ u => u | _ => false))
      noteGot k e.seq lane (splitVal uni (if n = 8 then 3#2 else 2#2) old) t
    else t

/-- One squad's oldest entry leaves its queue, if it may. -/
def mergeOne (core : Nat) (k : SquadKey) (s : State) : State :=
  let q := s.getSq k
  let asid := (s.getLaunch k.lid).asid
  match q.storeq with
  | [] => s
  | e :: r =>
    if (s.getTeam k.team).core = core && mergeOk s core asid q e then
      performEntry core asid k e (s.updSq k (fun q => { q with storeq := r }))
    else s

/-- One merge step (R231): at most one entry of each squad, in logical squad order. -/
def execMergeStep (core : Nat) (sqs : List SquadKey) (s : State) : Host.Outcome State Fault Refusal :=
  .next (settle ((sortBy keyBefore (dedup sqs)).foldl (fun t k => mergeOne core k t) s))

/-! ## Addresses and data -/

def memBytes (sz : BitVec 2) : Nat := 2 ^ sz.toNat

/-- The WM address of a lane (R115). -/
def memAddr (s : State) (b : Opnd) (off : BitVec 6) (sz : BitVec 2) (l : Nat) : Nat :=
  (val64 s b l + off.signExtend 64 * BitVec.ofNat 64 (memBytes sz)).toNat

/-- The accesses of a word: one for a U join, one for each lane of EM for a V join, none under an empty
EM (R198). -/
def accesses (uni : Bool) (addr : Nat → Nat) (s : State) : List (Nat × Nat) :=
  if s.sq.em = 0#32 then []
  else if uni then [(lowest s.sq.em, addr (lowest s.sq.em))]
  else (Mask.list s.sq.em).map (fun l => (l, addr l))

/-- The datum of a store or atomic in a lane (R204). -/
def datum (s : State) (d : Opnd) (sz : BitVec 2) (l : Nat) : DWord := if sz = 3#2 then val64 s d l else val s d l

/-- The join of a word that takes a BASE and a datum is U (R198). -/
def uJoin (d b : Opnd) : Bool := b.isS && d.cls == .u

/-! ## Loads (R203, R205, R206) -/

/-- Two virtual addresses reach one 128-byte segment. -/
def sameSegment (s : State) (core asid va vb : Nat) : Bool :=
  va % 65536 / 128 == vb % 65536 / 128 && (phys s core asid va).map lineOf == (phys s core asid vb).map lineOf

/-- A load reads past the L1: CO is set, its page carries it, or the page lies in host memory or a peer window,
where the access is performed (R205, R207). -/
def coherent (s : State) (core asid : Nat) (co : Bool) (va : Nat) : Bool :=
  co || (translate s core asid va).any (fun l => leafCO l.1 || outside (physOf l va))

/-- A load may be performed: no fence holds it, its page is mapped, no earlier atomic of its squad to its
segment is still queued, and no earlier coherent load to its segment is pending (R213, R240, R241). -/
def loadReady (s : State) (core asid : Nat) (q : Squad) (p : Prod) (acc : List (Nat × Nat)) : Bool :=
  !q.fences.any (fun f => decide (f.seq < p.seq) && (f.acq || f.full)) && nothingLate q p.seq
    && acc.all (fun a => (phys s core asid a.2).isSome)
    && !q.storeq.any (fun e => decide (e.seq < p.seq) && (match e.kind with
      | .atomic _ va _ _ _ _ _ _ => acc.any (fun a => sameSegment s core asid a.2 va)
      | _ => false))
    && !q.prods.any (fun r => decide (r.seq < p.seq) && (match r.kind with
      | .load false _ _ _ _ acc2 => acc.any (fun a => acc2.any (fun b => sameSegment s core asid a.2 b.2))
      | _ => false))

/-- Zero- or sign-extension of a datum of `n` bytes to 64 bits; a varying destination keeps 32 (R203). -/
def extend (signed : Bool) (n x : Nat) : DWord :=
  if signed && decide (2 ^ (8 * n - 1) ≤ x) then BitVec.ofInt 64 ((x : Int) - 2 ^ (8 * n)) else BitVec.ofNat 64 x

/-- The value of one access of a load to memory at this moment. -/
def loadValue (s : State) (k : SquadKey) (core asid seq : Nat) (co : Bool) (va n : Nat) : Nat :=
  let pa := (phys s core asid va).getD 0
  ofBytes ((span pa n).map (fun a =>
    agedByte s a ((if coherent s core asid co va then squadByte s k core asid seq else l1Byte s k core asid seq) a)))

/-- The value of one access of a load word, whose address depends on no load from place `dep` on (R235). -/
def wordValue (s : State) (k : SquadKey) (core asid seq dep : Nat) (co : Bool) (va n : Nat) : Nat :=
  if coherent s core asid co va then
    ofBytes ((span ((phys s core asid va).getD 0) n).map (fun a =>
      agedByte s a ((queueByte s core asid (s.getSq k).storeq seq a).getD (aheadByte s k core dep a))))
  else loadValue s k core asid seq co va n

/-- Write what a producer has to its registers, which become full, and end it (R64). -/
def writeGot (q : Squad) (p : Prod) : Squad :=
  let m := maskOfList (p.got.map (·.1))
  let at_ := fun (i l : Nat) => ((p.got.find? (·.1 == l)).bind (fun g => g.2[i]?)).getD 0#64
  let q := p.regs.zipIdx.foldl (fun (q : Squad) r =>
    if r.1.isS then q.putU r.1 (((p.got.head?).bind (fun g => g.2[r.2]?)).getD 0#64)
    else q.putLanes r.1 m (fun l => (at_ r.2 l).setWidth 32)) q
  { q with prods := q.prods.filter (·.seq != p.seq) }

/-- A load of the squad before a place of its program order has no value yet. -/
def olderPending (q : Squad) (seq : Nat) : Bool := q.prods.any (fun r => decide (r.seq < seq) && r.kind.pendingLoad)

/-- An atomic of the squad before a place of its program order has not been performed, or not written yet. -/
def olderAtomic (q : Squad) (seq : Nat) : Bool :=
  q.prods.any (fun r => decide (r.seq < seq) && (match r.kind with | .atomic _ _ => true | _ => false))
    || q.storeq.any (fun e => decide (e.seq < seq) && (match e.kind with | .atomic _ _ _ _ _ _ _ _ => true | _ => false))

/-- The guard of a load performed while an older one is pending (R244). -/
def guardFor (q : Squad) (seq : Nat) (scratch : Bool) (bytes : List Nat) : List Prod :=
  if olderPending q seq then [⟨seq, .done scratch bytes, [], [], 0⟩] else []

/-- A squad that has read some bytes reads nothing older of their lines (R240). -/
def forgetAhead (core : Nat) (k : SquadKey) (scratch : Bool) (pas : List Nat) (s : State) : State :=
  s.updCore core (fun c => { c with
    ahead := c.ahead.filter (fun a => !(a.k == k && a.scratch == scratch && pas.any (fun x => lineOf x == a.pa))) })

/-- Perform a load: fix its values and write its registers (R64, R230). Where an older load of the squad is pending,
the values may stand ready and be replayed (R244); they may also be written at once, with a guard that holds the
core's stores to the bytes back, unless the squad has an older atomic, which other squads' guards could hold back
(log 15). -/
def performLoad (core asid : Nat) (k : SquadKey) (p : Prod) (sz : BitVec 2) (signed co uni : Bool)
    (acc : List (Nat × Nat)) (s : State) : State :=
  let n := memBytes sz
  let got := acc.map (fun a => (a.1, splitVal uni sz (extend signed n (wordValue s k core asid p.seq p.dep co a.2 n))))
  let co := fun va => coherent s core asid co va
  let seen := (acc.filter (fun a => co a.2)).flatMap (fun a => span ((phys s core asid a.2).getD 0) n)
  let keep := !seen.isEmpty && olderPending (s.getSq k) p.seq
    && (olderAtomic (s.getSq k) p.seq || Config.freeBit s.free .replay)
  let s := acc.foldl (fun t a => if co a.2 then t else fillL1 core ((phys s core asid a.2).getD 0) t) s
  (forgetAhead core k false seen s).updSq k (fun q =>
    if keep then { q with prods := q.prods.map (fun x => if x.seq = p.seq then { x with got := got } else x) }
    else
      let q := writeGot q { p with got := got }
      if seen.isEmpty then q else { q with prods := q.prods ++ guardFor q p.seq false seen })

/-- A load whose values stand ready writes them once every older load of its squad has its value (R244). -/
def finishLoad (k : SquadKey) (p : Prod) (s : State) : State :=
  s.updSq k (fun q => if olderPending q p.seq then q else writeGot q p)

/-- A read that is performed at its place `n` of program order waits: for a fence, for an older atomic of the
squad that could hold back an older load, or for a word of its chain (R213, R230, R244). -/
def readHeld (q : Squad) (n : Nat) : Bool :=
  q.fences.any (fun f => decide (f.seq < n) && (f.acq || f.full)) || !nothingLate q n
    || q.prods.any (fun p => decide (p.seq < n) && (match p.kind with | .atomic _ _ => true | _ => false))
    || (q.prods.any (fun p => decide (p.seq < n) && p.kind.pendingLoad)
      && q.storeq.any (fun e => decide (e.seq < n) && (match e.kind with | .atomic _ _ _ _ _ _ _ _ => true | _ => false)))

/-- The value of `n` bytes of scratch that an LDSC reads at a place of its program order, where its address depends on
no load from place `dep` on (R202, R206, R235). -/
def scratchValue (s : State) (k : SquadKey) (seq dep a n : Nat) : Nat :=
  ofBytes ((span a n).map (fun x => (queuedScratchByte (s.getSq k).storeq seq x).getD (scratchAheadByte s k dep x)))

/-- Perform a scratch load that its order had held back (R202, R206). -/
def performScratch (k : SquadKey) (p : Prod) (sz : BitVec 2) (uni : Bool) (acc : List (Nat × Nat)) (s : State) : State :=
  let n := memBytes sz
  let got := acc.map (fun a => (a.1, splitVal uni sz (BitVec.ofNat 64 (scratchValue s k p.seq p.dep a.2 n))))
  let seen := acc.flatMap (fun a => span a.2 n)
  (forgetAhead (s.getTeam k.team).core k true seen s).updSq k (fun q =>
    let q := writeGot q { p with got := got }
    { q with prods := q.prods ++ guardFor q p.seq true seen })

/-- A producer writes its registers (R64): a load is performed, a returning atomic has every lane's old
value, or a sparse read has every key's answer. Takes and tickets are written by their own events. -/
def execProducerWrite (k : SquadKey) (seq : Nat) (s : State) : Host.Outcome State Fault Refusal :=
  let q := s.getSq k
  let core := (s.getTeam k.team).core
  let asid := (s.getLaunch k.lid).asid
  match q.prods.find? (·.seq == seq) with
  | none => .next s
  | some p =>
    match p.kind with
    | .load false sz signed co uni acc =>
      if !p.got.isEmpty then .next (settle (finishLoad k p s))
      else if loadReady s core asid q p acc then .next (settle (performLoad core asid k p sz signed co uni acc s)) else .next s
    | .load true sz _ _ uni acc => if readHeld q seq then .next s else .next (settle (performScratch k p sz uni acc s))
    | .atomic _ _ =>
      if q.storeq.any (fun e => e.seq == seq) then .next s
      else .next (settle (s.updSq k (fun q => writeGot q p)))
    | .sparse _ _ _ _ [] _ => .next (settle (s.updSq k (fun q => writeGot q p)))
    | _ => .next s

/-- LD and LDSX: the destination becomes empty, and the load is performed later (R202). -/
def loadWord (signed : Bool) (d b : Opnd) (sz : BitVec 2) (co : Bool) (off : BitVec 6) (s : State) : WordOut :=
  let uni := b.isS
  let acc := accesses uni (memAddr s b off sz) s
  faultOr (memChecks s .read uni s.sq.em (memBytes sz) (memBytes sz) acc)
    (if acc.isEmpty then id
     else fun t => countAccesses t.core.id t.launch.asid (acc.map (·.2))
       (addLoad (s.sq.baseDep b) (.load false sz signed co uni acc) (wide sz d) t))

def ownLd (d b : Opnd) (sz : BitVec 2) (o : Bool) (n : BitVec 6) (s : State) : WordOut := loadWord false d b sz o n s
def ownLdsx (d b : Opnd) (sz : BitVec 2) (o : Bool) (n : BitVec 6) (s : State) : WordOut := loadWord true d b sz o n s

/-- A read performed at place `n` of program order has a guard where an older load is pending (R244). -/
def guardRead (n : Nat) (scratch : Bool) (bytes : List Nat) (s : State) : State :=
  (forgetAhead s.core.id s.sq.key scratch bytes s).onSq (fun q => { q with prods := q.prods ++ guardFor q n scratch bytes })

/-- A word takes the next place of program order. -/
def takePlace (s : State) : State := s.onSq (fun q => { q with seq := q.seq + 1 })

/-- A read performed at issue joins program order. -/
def noteRead (scratch : Bool) (bytes : List Nat) (s : State) : State :=
  takePlace (guardRead s.sq.seq scratch bytes s)

/-- A scratch load whose order holds it back is a producer that leaves its registers full (R202). -/
def addScratchLoad (dep : Nat) (sz : BitVec 2) (uni : Bool) (acc : List (Nat × Nat)) (regs : List Opnd) (s : State) : State :=
  s.onSq (fun q => { q with prods := q.prods ++ [⟨q.seq, .load true sz false true uni acc, regs, [], dep⟩], seq := q.seq + 1 })

/-- A scratch load performed as it issues, for the lanes of `em`. -/
def scratchLoadNow (dep : Nat) (d : Opnd) (sz : BitVec 2) (uni : Bool) (em : Mask) (addr : Nat → Nat) (acc : List (Nat × Nat)) (s : State) :
    State :=
  let v := fun (a : Nat) => scratchValue s s.sq.key s.sq.seq dep a (memBytes sz)
  noteRead true (acc.flatMap (fun a => span a.2 (memBytes sz))) (s.onSq (fun q =>
    if uni then q.putU d (BitVec.ofNat 64 (v (addr 0)))
    else if sz = 3#2 then q.putPair d em (fun l => BitVec.ofNat 64 (v (addr l)))
    else q.putLanes d em (fun l => BitVec.ofNat 32 (v (addr l)))))

/-- LDSC writes its destination without marking it empty, and its issue waits for no load (R202, R206). -/
def ownLdsc (d b : Opnd) (sz : BitVec 2) (n : BitVec 6) (s : State) : WordOut :=
  let uni := b.isS
  let acc := accesses uni (memAddr s b n sz) s
  faultOr (scratchChecks s .read uni s.sq.em (memBytes sz) acc)
    (if acc.isEmpty then id
     else fun t => if readHeld t.sq t.sq.seq then addScratchLoad (s.sq.baseDep b) sz uni acc (wide sz d) t
                   else scratchLoadNow (s.sq.baseDep b) d sz uni s.sq.em (memAddr s b n sz) acc t)

/-! ## Stores (R200, R204, R206) -/

/-- Entries join the store queue under one sequence number. -/
def enqueue (ks : List SKind) (s : State) : State :=
  s.onSq (fun q => { q with storeq := q.storeq ++ ks.map (fun k => ⟨q.seq, k⟩), seq := q.seq + 1 })

/-- The bytes of a store, lanes ascending, so that a later cell stands for the higher lane (R200). -/
def storeCells (s : State) (d : Opnd) (sz : BitVec 2) (acc : List (Nat × Nat)) : List (Nat × Byte) :=
  acc.flatMap (fun a => cellsAt a.2 (toBytes (memBytes sz) (datum s d sz a.1).toNat))

def ownSt (d b : Opnd) (sz : BitVec 2) (n : BitVec 6) (s : State) : WordOut :=
  let uni := uJoin d b
  let acc := accesses uni (memAddr s b n sz) s
  faultOr (memChecks s .write uni s.sq.em (memBytes sz) (memBytes sz) acc)
    (if acc.isEmpty then id
     else fun t => countAccesses t.core.id t.launch.asid (acc.map (·.2)) (enqueue [.store (storeCells s d sz acc)] t))

def ownStsc (d b : Opnd) (sz : BitVec 2) (n : BitVec 6) (s : State) : WordOut :=
  let uni := uJoin d b
  let acc := accesses uni (memAddr s b n sz) s
  faultOr (scratchChecks s .write uni s.sq.em (memBytes sz) acc)
    (if acc.isEmpty then id else enqueue [.scratch (storeCells s d sz acc)])

/-! ## The squad's turn (R345) -/

/-- The wait of BAR.wait: its barrier's phase still is that of the register (R225). -/
def phaseWait (s : State) : Instr → Option Wait
  | .barWait _ b n =>
    let p := (uval s (sReg b)).setWidth 32
    if (vget s.team.bars n.toNat).phase = p then some (.barWait n p) else none
  | _ => none

/-- What the chain at the current squad's position waits for, of registers and barriers. -/
def nextWait (s : State) : Option Wait :=
  (chainFrom (packetWords s) s.sq.word).findSome? (fun w => match decode w with
    | .error _ => none
    | .ok i => match prelude i s with
      | some (.wait x) => some x
      | some (.trap _) => none
      | none => phaseWait s i)

/-- A squad that waits where R345 does not count it: in BAR.sync, or before a chain that a BAR.wait or an
unserved take holds. -/
def uncounted (s : State) (q : Squad) : Bool :=
  match q.syncw with
  | some (p, n) => (vget (s.getTeam q.key.team).bars n.toNat).phase == p
  | none => match nextWait (s.focus q.key) with
    | some (.barWait _ _) | some (.take _) => true
    | _ => false

/-- The turn of the current squad among its launch, or among its team (R345). -/
def myTurn (team : Bool) (s : State) : Bool :=
  let k := s.sq.key
  (s.allSquads.filter (fun q => q.key.lid == k.lid && q.key != k && (!team || q.key.team == k.team)
      && (q.status == .live || q.status == .retiring) && !uncounted s q)).all (fun q =>
    decide (s.sq.lclk.toNat < q.lclk.toNat)
      || (s.sq.lclk == q.lclk && (decide (k.tmid < q.key.tmid) || (k.tmid == q.key.tmid && decide (k.sqid < q.key.sqid)))))

/-- An ordered operation of another squad has issued and not been performed: a queued atomic, or a SPAR
command in flight. The next one waits behind it, so that they take effect in turn order (R316, R345). -/
def turnOpen (s : State) : Bool :=
  s.cmds.any (fun c => c.fn == 3 && c.k.lid == s.sq.key.lid)
    || s.squads.any (fun q => q.key.lid == s.sq.key.lid && q.storeq.any (fun e => match e.kind with
      | .atomic _ _ _ _ _ _ _ _ => true
      | _ => false))

/-- In a DET launch a synchronising word waits for its turn (R212, R345). -/
def turnHeld (team : Bool) (s : State) : Bool := s.launch.lr.det && (!myTurn team s || turnOpen s)

/-! ## Atomics (R209 to R212) -/

def scopeOf (g : BitVec 2) : Scope :=
  match g.toNat with
  | 0 => .team
  | 1 => .die
  | 2 => .device
  | _ => .system

/-- Determinism violation (cause 0x11) of a returning atomic (R212). -/
def detViolation (i : Instr) (g : BitVec 2) (s : State) : Option Report :=
  if s.launch.lr.det && g != 0#2 then some ⟨0x11#8, ((encode i).headD 0#32).setWidth 64, 0#64, s.sq.em⟩ else none

/-- The common part of AMO, AMOR and CAS: the checks of R199, then one queue entry for each lane. `regs`
are the registers that receive the old value. Under an empty EM the word makes no access and retires (R198). -/
def atomicWord (det : Option Report) (uni : Bool) (b : Opnd) (sz : BitVec 2) (g : BitVec 2) (opn : BitVec 4)
    (cas : Nat → Option DWord) (x : Nat → DWord) (regs : List Opnd) (s : State) : WordOut :=
  let n := memBytes sz
  let acc := accesses uni (memAddr s b 0#6 sz) s
  if acc.isEmpty then .done id
  else match det with
    | some r => .trap r
    | none =>
      if turnHeld (g == 0#2) s then .wait .turn
      else
        let ks := acc.map (fun a => SKind.atomic a.1 a.2 (scopeOf g) n opn (cas a.1) (x a.1) (!regs.isEmpty))
        faultOr (memChecks s .atomic uni s.sq.em n n acc)
          (fun t => countAccesses t.core.id t.launch.asid (acc.map (·.2))
            (if regs.isEmpty then enqueue ks t
             else
               let seq := t.sq.seq
               (addProd (.atomic sz uni) regs t).onSq (fun q =>
                 { q with storeq := q.storeq ++ ks.map (fun k => ⟨seq, k⟩) })))

def ownAmo (d b : Opnd) (sz : BitVec 2) (p : BitVec 4) (g : BitVec 2) (s : State) : WordOut :=
  atomicWord none (uJoin d b) b sz g p (fun _ => none) (datum s d sz) [] s

def ownAmor (c : Bool) (d b : Opnd) (sz : BitVec 2) (e : Bool) (p : BitVec 4) (g : BitVec 2) (s : State) : WordOut :=
  atomicWord (detViolation (.amor c d b sz e p g) g s) (uJoin d b) b sz g p (fun _ => none) (datum s d sz) (wide sz d) s

/-- Expected and new value of CAS (R211). -/
def casExpected (d : Opnd) (sz : BitVec 2) (s : State) (l : Nat) : DWord := datum s d sz l
def casNew (d : Opnd) (sz : BitVec 2) (s : State) (l : Nat) : DWord :=
  datum s (d.up (if d.isV && sz == 3#2 then 2 else 1)) sz l

def ownCas (c : Bool) (d b : Opnd) (sz : BitVec 2) (e : Bool) (g : BitVec 2) (s : State) : WordOut :=
  atomicWord (detViolation (.cas c d b sz e g) g s) d.isS b sz g 8#4 (fun l => some (casExpected d sz s l))
    (casNew d sz s) (wide sz d) s

/-! ## FENCE, IFENCE, PF, L1INV, WAITE (R213 to R216, R222) -/

def fscopeOf (g : BitVec 3) : Scope :=
  match g.toNat with
  | 0 => .squad
  | 1 => .team
  | 2 => .die
  | 3 => .device
  | _ => .system

/-- A fence of the current squad joins program order; nothing read ahead passes an acquire. -/
def pushFence (f : FenceRec) (s : State) : State :=
  settle ((if f.acq || f.full then dropAhead s.core.id s.sq.key s else s).onSq (fun q =>
    { q with fences := q.fences ++ [f], seq := q.seq + 1 }))

/-- A fence of the current squad; `barrier` marks the acquire of a BAR.sync (R225). -/
def joinFence (acq rel full barrier : Bool) (scope : Scope) (s : State) : State :=
  pushFence ⟨s.sq.key, s.sq.seq, acq, rel, full, barrier, false, scope, none, none⟩ s

/-- The acquire of a producer take that has just issued (R234, Table 16-4). -/
def takeFence (s : State) : State := pushFence ⟨s.sq.key, s.sq.seq, true, false, false, false, true, .team, none, none⟩ s

def addFence (acq rel full : Bool) (scope : Scope) (s : State) : State := joinFence acq rel full false scope s

def ownFence (k : BitVec 2) (g : BitVec 3) (_s : State) : WordOut :=
  .done (addFence (k != 1#2) (k != 0#2) (k == 2#2) (fscopeOf g))

/-- Every store of the squad before place `n` of its program order is visible at device scope. -/
def storesHome (n : Nat) (s : State) : Bool :=
  let own := fun (l : List Pending) => l.any (fun e => e.k == s.sq.key && decide (e.seq < n))
  s.sq.storeq.all (fun e => decide (n ≤ e.seq)) && !own s.core.merged && !s.cores.any (fun c => own c.merged)
    && !s.dies.toList.any (fun d => own d.pend)

/-- Discard the core's fetched code and deck-cache entries (R214). -/
def discardFetched (s : State) : State := { s with core := { s.core with icache := [], deck := [] } }

/-- What is left of a word waits for its order (R105, R230; log 11). -/
def addLate (w : Late) (s : State) : State := s.onSq (fun q => { q with late := q.late ++ [(q.seq, w)], seq := q.seq + 1 })

/-- IFENCE (R214). A store of its own chain is an earlier store too (R230). -/
def ownIfence (s : State) : WordOut :=
  if storesHome s.sq.seq s then
    .done (fun t => if storesHome t.sq.seq t then discardFetched t else addLate .ifence t)
  else .wait .order

/-- A prefetch of an access that would meet a fault is dropped (R215). -/
def prefetchable (s : State) (va : Nat) : Bool :=
  decide (va < 2 ^ 56) && inLease s.launch.lr.leases va 1 && (permFault s s.core.id s.launch.asid .read va).isNone
    && (lockHit s s.core.id s.team.key s.launch.asid 0 .write va 1).isNone

def ownPf (b : Opnd) (sz : BitVec 2) (o : Bool) (n : BitVec 6) (s : State) : WordOut :=
  let acc := (accesses b.isS (memAddr s b n sz) s).filter (fun a => prefetchable s a.2)
  .done (fun t => countAccesses t.core.id t.launch.asid (acc.map (·.2))
    (if o then t else acc.foldl (fun t a => fillL1 t.core.id ((phys t t.core.id t.launch.asid a.2).getD 0) t) t))

def ownL1inv (_s : State) : WordOut := .done (fun t => { t with core := { t.core with l1 := [] } })

def ownWaite (_s : State) : WordOut := .done id

end Sys2Proof.Machine
end

