-- ==== Sys2Proof/Machine/Shoes.lean ====
section
/-! DEFINITION. Shoes: their configuration, takes, puts and queries (R217 to R221). -/

namespace Sys2Proof.Machine

/-- Fields of SHOEn (R217). -/
def Shoe.base (h : Shoe) : Nat := (h.conf.extractLsb' 0 20).toNat
def Shoe.slot (h : Shoe) : Nat := (h.conf.extractLsb' 24 8).toNat
def Shoe.nslot (h : Shoe) : Nat := (h.conf.extractLsb' 32 8).toNat

/-- Whether a command in flight names shoe `n` of team `t` as its destination: CPY into the issuing
team's shoe, or DSP, whose list entries name a core's shoe (R217, R221, R259, R260). -/
def cmdNamesShoe (s : State) (t : TeamKey) (n : Nat) (c : Cmd) : Bool :=
  if c.fn = 1 then c.tr.dkind == 3 && c.k.team == t && (c.sb.extractLsb' 0 4).toNat == n
  else if c.fn = 4 then
    (List.range (c.tr.box.getD 1 1)).any (fun j =>
      let e := ofBytes ((span (c.tr.aux.toNat + 8 * j) 8).map (fun a =>
        ((phys s c.core c.asid a).map (coreByte s c.core)).getD 0#8))
      bits e 35 32 == n && bits e 47 40 == (s.getTeam t).core && bits e 55 48 == 0xFF)
  else false

/-- A shoe that a command in flight names (R217, R221). -/
def shoeBusy (s : State) (t : TeamKey) (n : Nat) : Bool := s.cmds.any (cmdNamesShoe s t n)

/-- A value that a write of SHOEn refuses (R217). -/
def shoeRefused (s : State) (t : TeamKey) (n : Nat) (x : DWord) : Bool :=
  let new : Shoe := { Shoe.zero with conf := x }
  let old := vget (s.getTeam t).shoes n
  x.extractLsb' 40 24 != 0#24 || x.extractLsb' 20 4 != 0#4
    || (new.nslot != 0 && new.slot == 0)
    || decide ((s.getTeam t).scr < new.base + 64 * new.slot * new.nslot)
    || !old.ctakes.isEmpty || !old.ptakes.isEmpty || old.ctaken != 0 || old.ptaken != 0
    || shoeBusy s t n

/-- The shoe after a legal write (R217). -/
def configured (x : DWord) : Shoe :=
  let new : Shoe := { Shoe.zero with conf := x }
  { new with free := new.nslot }

/-- A shoe written anew keeps a take that issued with the write, in one chain (R105). -/
def reconfigured (x : DWord) (old : Shoe) : Shoe := { configured x with ctakes := old.ctakes, ptakes := old.ptakes }

/-- Write SHOEn of a team (R217). -/
def setShoe (t : TeamKey) (n : Nat) (x : DWord) (s : State) : State :=
  s.updTeam t (fun tm => { tm with shoes := vset tm.shoes n (reconfigured x (vget tm.shoes n)) })

/-- The event of R217: a write of SHOEn of the squad's team; a refused or foreign write changes nothing
(the trap belongs to the word that made it, see `ownSysWrsr`). -/
def execShoeConfigure (k : SquadKey) (n : BitVec 4) (x : DWord) (s : State) : Host.Outcome State Fault Refusal :=
  if (s.getTeam k.team).shoeMask.getLsbD n.toNat && !shoeRefused s k.team n.toNat x then
    .next (setShoe k.team n.toNat x s)
  else .next s

/-- Shoe misuse of the three shoe words (R221). -/
def shoeMisuse (a : DWord) (s : State) : Bool :=
  a.extractLsb' 4 60 != 0#60 || !s.team.shoeMask.getLsbD (a.extractLsb' 0 4).toNat
    || (vget s.team.shoes (a.extractLsb' 0 4).toNat).nslot == 0

def shoeReport (a : DWord) (s : State) : Report := ⟨0x18#8, (a.extractLsb' 0 4).setWidth 64, 0#64, s.sq.em⟩

/-- The team to which a core's shoe is allocated, of an address space that the sender may reach: one that runs there, else
one that is saved, whose rows wait for its return (R260, R335, R349; log 28). -/
def teamOfShoe (s : State) (core shoe : Nat) (ofAsid : Nat → Bool) : Option Team :=
  let owns := fun (t : Team) => t.core == core && t.shoeMask.getLsbD shoe && ofAsid (s.getLaunch t.key.lid).asid
  (s.allTeams.find? (fun t => owns t && (t.status == .running || t.status == .preempting))).or
    (s.allTeams.find? (fun t => owns t && t.status == .saved))

/-- Change one shoe of the current team. -/
def setShoeState (n : Nat) (f : Shoe → Shoe) (s : State) : State :=
  { s with team := { s.team with shoes := vset s.team.shoes n (f (vget s.team.shoes n)) } }

/-- A take joins its side's order (R218). -/
def queueTake (free : Bool) (k : SquadKey) (seq : Nat) (h : Shoe) : Shoe :=
  if free then { h with ptakes := h.ptakes ++ [(k, seq)] } else { h with ctakes := h.ctakes ++ [(k, seq)] }

/-- Slots returned or published (R219). -/
def putSlots (fill : Bool) (k : Nat) (h : Shoe) : Shoe :=
  if fill then { h with ptaken := h.ptaken - k, filled := h.filled + k }
  else { h with ctaken := h.ctaken - k, free := h.free + k }

/-- SHTAKE (R218): an unserved take in its side's order. A consumer take acts as a load followed by FENCE.acq.team; a
producer take is an acquire at team scope once it has been served (R234, R247; log 22). -/
def ownShtake (d a : Opnd) (m : Bool) (s : State) : WordOut :=
  let x := uval s a
  let n := (x.extractLsb' 0 4).toNat
  if shoeMisuse x s || (m && shoeBusy s s.team.key n) then .trap (shoeReport x s)
  else .done (fun t =>
    let seq := t.sq.seq
    let t := setShoeState n (queueTake m t.sq.key seq) (addProd (.take (BitVec.ofNat 4 n) m) [d] t)
    if m then takeFence t else addFence true false false .team t)

/-- Slots of a shoe side that SHPUT words of the team have issued for and not yet put. -/
def putsDue (n : Nat) (fill : Bool) (s : State) : Nat :=
  ((s.teamSquads s.team.key).map (fun q => (q.late.map (fun l => match l.2 with
    | .put sh k f => if sh = n && f == fill then k else 0
    | _ => 0)).sum)).sum

/-- SHPUT (R219): a release at team scope, then the counters. A store of its own chain is an earlier one. -/
def ownShput (a b : Opnd) (m : Bool) (s : State) : WordOut :=
  let x := uval s a
  let n := (x.extractLsb' 0 4).toNat
  let h := vget s.team.shoes n
  let k := (uval s b).toNat
  if shoeMisuse x s || k = 0 || (if m then h.ptaken else h.ctaken) < k + putsDue n m s || (m && shoeBusy s s.team.key n) then
    .trap (shoeReport x s)
  else if !releasedBefore s.sq s.sq.seq then .wait .order
  else .done (fun t => if releasedBefore t.sq t.sq.seq then setShoeState n (putSlots m k) t else addLate (.put n k m) t)

/-- The reading of R220. -/
def shoeReading (h : Shoe) : DWord :=
  BitVec.ofNat 64 (h.filled + h.free * 2 ^ 8 + h.ctaken * 2 ^ 16 + h.ptaken * 2 ^ 24 + h.head * 2 ^ 32 + h.tail * 2 ^ 40)

def ownShqry (d a : Opnd) (s : State) : WordOut :=
  let x := uval s a
  if shoeMisuse x s then .trap (shoeReport x s)
  else .done (fun t => t.onSq (·.putU d (shoeReading (vget s.team.shoes (x.extractLsb' 0 4).toNat))))

/-- A take is served at its place of program order: not before a word of its chain that it follows has had its effect,
nor before the BAR.sync that it follows has completed (R225, R230). -/
def takeReady (q : Squad) (seq : Nat) : Bool := nothingLate q seq && !q.fences.any (fun f => f.barrier && decide (f.seq < seq))

/-- Serve the oldest take of a shoe side (R218). -/
def execShoeTakeServe (t : TeamKey) (n : BitVec 4) (free : Bool) (s : State) : Host.Outcome State Fault Refusal :=
  let h := vget (s.getTeam t).shoes n.toNat
  match (if free then h.ptakes else h.ctakes) with
  | [] => .next s
  | (k, seq) :: r =>
    if (if free then h.free else h.filled) = 0 || !takeReady (s.getSq k) seq then .next s
    else
      let pos := if free then h.tail else h.head
      let x := BitVec.ofNat 64 (h.base + 64 * h.slot * pos)
      let pos' := (pos + 1) % h.nslot
      let h' := if free then { h with free := h.free - 1, ptaken := h.ptaken + 1, tail := pos', ptakes := r }
                else { h with filled := h.filled - 1, ctaken := h.ctaken + 1, head := pos', ctakes := r }
      .next (settle (fillU k seq x (s.updTeam t (fun tm => { tm with shoes := vset tm.shoes n.toNat h' }))))

end Sys2Proof.Machine
end

