-- ==== Sys2Proof/Machine/Barriers.lean ====
section
/-! DEFINITION. Barriers (R223 to R225). -/

namespace Sys2Proof.Machine

/-- The barrier `n` of the current team. -/
def barrierOf (n : BitVec 4) (s : State) : Barrier := vget s.team.bars n.toNat

/-- The counts of the arrivals at a barrier that the team's squads have issued and that wait for their release. -/
def arrivalsDue (n : BitVec 4) (s : State) : List Nat :=
  (s.teamSquads s.team.key).flatMap (fun q => q.late.filterMap (fun l => match l.2 with
    | .arrive m c _ => if m = n then some c else none
    | _ => none))

/-- The fault of an arrival with count `c`, cause 0x12 (R224). -/
def arrivalFault (n : BitVec 4) (c : DWord) (s : State) : Option Report :=
  let b := barrierOf n s
  if c.toNat < 1 || s.team.nsq < c.toNat || (b.need != 0 && b.need != c.toNat)
      || (arrivalsDue n s).any (fun x => x != c.toNat) then
    some ⟨0x12#8, BitVec.ofNat 64 (lowest s.sq.em), c, s.sq.em⟩
  else none

/-- A barrier after one arrival (R224). -/
def Barrier.arrived (b : Barrier) (c : Nat) : Barrier :=
  if b.arr + 1 = c then ⟨b.phase + 1#32, 0, 0⟩ else ⟨b.phase, c, b.arr + 1⟩

/-- Move the clock of a core's cluster by steps of 18 MHz, within 1.62 to 1.98 GHz (R394, R395). -/
def moveClock (core : Nat) (d : Int) (s : State) : State :=
  s.updDie (dieOf core) (fun x => { x with
    clocks := x.clocks.modify (clusterOf core) (fun c => (min 20 (max 0 ((c : Int) + d))).toNat) })

/-- Steps of the clock of a core's cluster above 1.62 GHz. -/
def clockOf (s : State) (core : Nat) : Nat := (s.getDie (dieOf core)).clocks.getD (clusterOf core) 0

/-- One step up for the laggard's cluster and one down for a cluster of a team that was first in one of its
four phases, where both can be made: the totals are equal (R395; log 49). -/
def shiftClocks (p : Nat) (s : State) : State :=
  let firsts := (s.launch.firsts.filter (fun f => decide (p < f.1 + 4) && decide (f.1 ≤ p))).reverse.map (·.2)
  match firsts.find? (fun c => decide (0 < clockOf s c)) with
  | none => s
  | some c =>
    if clockOf s s.team.core < 20 then
      moveClock c (-1) (moveClock s.team.core 1 { s with
        launch := { s.launch with shift := s.launch.shift ++ [(s.team.core, 1), (c, -1)] } })
    else s

/-- The other teams of the launch that have completed a phase or may still do: all but those that retired before it. -/
def phaseMates (p : Nat) (s : State) : List Team :=
  s.teams.filter (fun t => t.key.lid == s.team.key.lid && t.status != .absent && (t.status != .done || decide (p ≤ t.phases)))

/-- The laggard shift (R395), noted at each completion of a barrier phase of the current team. A team that has not
started completes its phases later. -/
def laggard (s : State) : State :=
  let p := s.team.phases + 1
  let others := phaseMates p s
  let more := decide (s.launch.nextTeam < s.launch.lr.gx * s.launch.lr.gy * s.launch.lr.gz)
  let s := { s with team := { s.team with phases := p } }
  let s := if others.all (fun t => decide (t.phases < p)) then
      { s with launch := { s.launch with firsts := s.launch.firsts ++ [(p, s.team.core)] } } else s
  if more || others.isEmpty || others.any (fun t => decide (t.phases < p)) then s
  else
    let n := s.team.lasts + 1
    let s := { s with
      teams := s.teams.map (fun t => if t.key.lid = s.team.key.lid then { t with lasts := 0 } else t)
      team := { s.team with lasts := if n = 4 then 0 else n } }
    if n = 4 then shiftClocks p s else s

/-- Count one arrival (R224). -/
def arrive (n : BitVec 4) (c : Nat) (s : State) : State :=
  let b := (barrierOf n s).arrived c
  let t := { s with team := { s.team with bars := vset s.team.bars n.toNat b } }
  if b.phase = (barrierOf n s).phase then t else laggard t

/-- An arrival is a release at team scope, so it waits for the squad's earlier accesses (R224). -/
def arrivalWait (s : State) : Bool := !releasedBefore s.sq s.sq.seq

/-- Make an arrival: ARRIVE's destination receives the phase, and SYNC has none; where the phase still is that
of its arrival the run ends after the chain and the squad waits (R224, R225). -/
def makeArrival (n : BitVec 4) (c : Nat) (d : Option Opnd) (t : State) : State :=
  let p := (barrierOf n t).phase
  let u := arrive n c t
  match d with
  | some d => u.onSq (·.putU d (p.setWidth 64))
  | none =>
    if (barrierOf n u).phase = p then
      endRun (u.onSq (fun q => { q with syncw := some (p, n), wait := some .barSync }))
    else u

/-- An arrival that issues now: at once, or behind a store of its own chain (R105, R230). -/
def issueArrival (n : BitVec 4) (c : Nat) (d : Option Opnd) (t : State) : State :=
  if arrivalWait t then addLate (.arrive n c d) t else makeArrival n c d t

def ownBarArrive (d : Opnd) (a : BitVec 5) (n : BitVec 4) (s : State) : WordOut :=
  let c := uval s (sReg a)
  match arrivalFault n c s with
  | some r => .trap r
  | none => if arrivalWait s then .wait .order else .done (issueArrival n c.toNat (some d))

/-- BAR.wait (R225): its completion is an acquire. -/
def ownBarWait (b : BitVec 5) (n : BitVec 4) (s : State) : WordOut :=
  let p := (uval s (sReg b)).setWidth 32
  if (barrierOf n s).phase = p then .wait (.barWait n p) else .done (addFence true false false .team)

/-- BAR.sync (R225): arrive once, with an acquire that completes when the wait does. -/
def ownBarSync (a : BitVec 5) (n : BitVec 4) (s : State) : WordOut :=
  let c := uval s (sReg a)
  match arrivalFault n c s with
  | some r => .trap r
  | none =>
    if arrivalWait s then .wait .order
    else .done (fun t => joinFence true false false true .team (issueArrival n c.toNat none t))

/-- A squad's BAR.sync completes once the phase has changed (R225). -/
def execBarSyncCompletion (k : SquadKey) (s : State) : Host.Outcome State Fault Refusal :=
  match (s.getSq k).syncw with
  | none => .next s
  | some (p, n) =>
    if (vget (s.getTeam k.team).bars n.toNat).phase = p then .next s
    else .next (settle (s.updSq k (fun q => { q with syncw := none, wait := none })))

end Sys2Proof.Machine
end

