-- ==== Sys2Proof/Machine/Tiles.lean ====
section
/-! DEFINITION. Tile and accumulator words: TLD, TST, TMOV, ZCLR, ZRD, ZXF (R282 to R293). -/

namespace Sys2Proof.Machine

/-! ## What a matrix word names -/

/-- The fields of MMA and MMAS that name tiles. -/
structure MShape where
  z : Nat
  ta : Nat
  tm : Nat
  steps : Nat
  sparse : Bool
deriving DecidableEq, Repr, Inhabited

def mshape : Instr → MShape
  | .mma _ z a _ _ f _ => ⟨z.toNat, a.toNat, 0, f.toNat + 1, false⟩
  | .mmas _ z a _ _ t f _ => ⟨z.toNat, a.toNat, t.toNat, f.toNat + 1, true⟩
  | _ => ⟨0, 0, 0, 0, false⟩

/-- ATILE of a scale descriptor (R273). -/
def scaleTile (scd : DWord) : Nat := (scd.extractLsb' 17 3).toNat

/-- A matrix word in progress names accumulator tile z`n` (R269). -/
def zBusy (q : Squad) (n : Nat) : Bool := q.mprog.any (fun r => (mshape r.word).z == n)

/-- A matrix word in progress has yet to read tile t`n` (R285). -/
def tBusy (q : Squad) (n : Nat) : Bool :=
  q.mprog.any (fun r =>
    let sh := mshape r.word
    (List.range sh.steps).any (fun k => decide (r.done ≤ k) && sh.ta + k / 4 == n)
      || (sh.sparse && sh.tm == n) || (fmtSC r.fmt && scaleTile r.scd == n))

/-! ## Poison and bounds (R283, R286) -/

/-- Poison of an accumulator element of tile z`n` (R286). -/
def zPoison (s : State) (n p : Nat) (es : List (Nat × Nat)) : Option Report :=
  if s.core.zbad.isEmpty && s.core.zpoison.isEmpty then none
  else (es.find? (fun e => s.core.zbad.contains (p, e.1, e.2) || s.core.zpoison.contains (p, e.1, e.2))).map
    (fun e => ⟨0x05#8, BitVec.ofNat 64 (n + 2 * 256 + (64 * e.1 + e.2) * 65536), 0#64, s.sq.em⟩)

/-- Poison of words of tile t`n`, given as row and word. -/
def tPoison (s : State) (n : Nat) (ws : List (Nat × Nat)) : Option Report :=
  if s.sq.uncorr.isEmpty && s.sq.poison.isEmpty then none
  else poisonReport s (ws.map (fun w => .t n (16 * w.1 + w.2)))

/-- Poison of register sources, read on behalf of the lanes of a mask. -/
def lanesPoison (s : State) (m : Mask) (srcs : List (Opnd × Bool)) : Option Report :=
  if s.sq.uncorr.isEmpty && s.sq.poison.isEmpty then none
  else poisonReport s (srcs.flatMap (fun o => wordsOf o.1 m))

/-- Poison of register sources. -/
def regPoison (s : State) (srcs : List (Opnd × Bool)) : Option Report := lanesPoison s s.sq.em srcs

/-- Bounds with the offending value (Table 10-6). -/
def boundsReport (s : State) (x : DWord) : Report := ⟨0x12#8, BitVec.ofNat 64 (lowest s.sq.em), x, s.sq.em⟩

/-- The slice index U(s[IDX]) + IMM5 (R283). -/
def sliceIndex (s : State) (x i : BitVec 5) : Nat := (uval s (sReg x)).toNat + i.toNat

/-- A slice range beyond its limit (R283). -/
def sliceFault (s : State) (n f limit : Nat) : Option Report :=
  if n + f ≤ limit then none else some (boundsReport s (BitVec.ofNat 64 n))

/-- The limit of a slice index: 31 rows or 15 word columns. -/
def sliceLimit (col : Bool) : Nat := if col then 15 else 31

/-- The lanes of EM. -/
def rowsOf (s : State) : List Nat := Mask.list s.sq.em

/-! ## TLD and TST (R287, R288) -/

/-- The 4-byte accesses of a tile transfer, with the tile row and word of each. -/
def tileAccesses (s : State) (col : Bool) (n f : Nat) (v : Opnd) : List ((Nat × Nat) × (Nat × Nat)) :=
  if col then
    (rowsOf s).flatMap (fun i => (List.range (f + 1)).map (fun m =>
      ((i, (val64 s v i + BitVec.ofNat 64 (4 * m)).toNat), (i, n + m))))
  else
    (List.range (f + 1)).flatMap (fun m => (List.range 16).map (fun w =>
      ((lowest s.sq.em, (uval s v + BitVec.ofNat 64 (64 * m + 4 * w)).toNat), (n + m, w))))

/-- A coherent read at place `n` of program order waits for a fence, for an earlier atomic or load of its squad
to one of its segments, and where an early read could hold back an older one (R213, R240, R241, R244). -/
def readBlocked (s : State) (n : Nat) (vas : List Nat) : Bool :=
  let hit := fun (va : Nat) => vas.any (fun a => sameSegment s s.core.id s.launch.asid a va)
  readHeld s.sq n
    || s.sq.storeq.any (fun e => decide (e.seq < n) && (match e.kind with | .atomic _ va _ _ _ _ _ _ => hit va | _ => false))
    || s.sq.prods.any (fun r => decide (r.seq < n) && (match r.kind with
      | .load false _ _ _ _ acc => acc.any (fun a => hit a.2)
      | _ => false))

/-- The value of `size` bytes that the current squad reads coherently at place `n` of its program order. -/
def readNow (s : State) (n va size : Nat) : Nat := loadValue s s.sq.key s.core.id s.launch.asid n true va size

/-- The physical bytes of accesses of `n` bytes. -/
def physBytes (s : State) (vas : List Nat) (n : Nat) : List Nat :=
  vas.flatMap (fun va => span ((phys s s.core.id s.launch.asid va).getD 0) n)

/-- Read words into a tile at place `n` of program order: row, word and address (R287). -/
def loadTile (n t : Nat) (ws : List (Nat × Nat × Nat)) (u : State) : State :=
  guardRead n false (physBytes u (ws.map (·.2.2)) 4)
    (u.onSq (·.putTile t (ws.map (fun w => (w.1, w.2.1, BitVec.ofNat 32 (readNow u n w.2.2 4))))))

/-- Read elements into physical accumulator tile `p`: row, column and address (R293). -/
def loadAcc (n p : Nat) (em : Mask) (es : List (Nat × Nat × Nat)) (u : State) : State :=
  let t := es.foldl (fun t e => zPut t e.1 e.2.1 (BitVec.ofNat 36 (readNow u n e.2.2 8))) (vget u.core.z p)
  guardRead n false (physBytes u (es.map (·.2.2)) 8) { u with core :=
    { u.core with
      z := vset u.core.z p t
      zbad := u.core.zbad.filter (fun w => !(w.1 == p && em.getLsbD w.2.1))
      zpoison := u.core.zpoison.filter (fun w => !(w.1 == p && em.getLsbD w.2.1)) } }

/-- A read performed at issue, or behind a word of its own chain where that holds it back (R105, R230). -/
def readOrLate (vas : List Nat) (act : Nat → State → State) (w : Late) (u : State) : State :=
  countAccesses u.core.id u.launch.asid vas
    (if readBlocked u u.sq.seq vas then addLate w u else takePlace (act u.sq.seq u))

def ownTld (t : BitVec 3) (l : Bool) (x i : BitVec 5) (v : Opnd) (e : Bool) (f : BitVec 2) (s : State) : WordOut :=
  if s.sq.em = 0#32 then .done id
  else
    let n := sliceIndex s x i
    match firstOf [regPoison s ((sReg x, false) :: v.baseUse e), sliceFault s n f.toNat (sliceLimit l)] with
    | some r => .trap r
    | none =>
      let acc := tileAccesses s l n f.toNat v
      match memChecks s .read (!l) s.sq.em 4 4 (acc.map (·.1)) with
      | some r => .trap r
      | none =>
        let vas := acc.map (·.1.2)
        if tBusy s.sq t.toNat then .wait .tile
        else if readBlocked s s.sq.seq vas then .wait .order
        else
          let ws := acc.map (fun a => (a.2.1, a.2.2, a.1.2))
          .done (readOrLate vas (fun n => loadTile n t.toNat ws) (.tile t.toNat ws))

def ownTst (t : BitVec 3) (l : Bool) (x i : BitVec 5) (v : Opnd) (e : Bool) (f : BitVec 2) (s : State) : WordOut :=
  if s.sq.em = 0#32 then .done id
  else
    let n := sliceIndex s x i
    let acc := tileAccesses s l n f.toNat v
    match firstOf [regPoison s ((sReg x, false) :: v.baseUse e),
        (if n + f.toNat ≤ sliceLimit l then tPoison s t.toNat (acc.map (·.2)) else none),
        sliceFault s n f.toNat (sliceLimit l),
        memChecks s .write (!l) s.sq.em 4 4 (acc.map (·.1))] with
    | some r => .trap r
    | none =>
      let cells := acc.flatMap (fun a => cellsAt a.1.2 (toBytes 4 (s.sq.tword t.toNat a.2.1 a.2.2).toNat))
      .done (fun u => countAccesses u.core.id u.launch.asid (acc.map (·.1.2)) (enqueue [.store cells] u))

/-! ## TMOV (R289) -/

def ownTmov (t : BitVec 3) (l : Bool) (x i : BitVec 5) (v : Opnd) (e f : Bool) (s : State) : WordOut :=
  if s.sq.em = 0#32 then .done id
  else
    let n := sliceIndex s x i
    let rows := rowsOf s
    let cell := fun (lane : Nat) => if l then (lane, n) else (n, lane)
    let used := if l then rows else rows.filter (· ≤ 15)
    match firstOf [regPoison s [(sReg x, false)],
        (if f then lanesPoison s (maskOfList used) [(v, e)] else none),
        (if !f && decide (n ≤ sliceLimit l) then tPoison s t.toNat (used.map cell) else none),
        sliceFault s n 0 (sliceLimit l)] with
    | some r => .trap r
    | none =>
      if f then
        if tBusy s.sq t.toNat then .wait .tile
        else .done (fun u => u.onSq (·.putTile t.toNat
          (used.map (fun lane => ((cell lane).1, (cell lane).2, val32 s v lane)))))
      else
        .done (fun u => u.onSq (·.putLanes v s.sq.em (fun lane =>
          if l || decide (lane ≤ 15) then s.sq.tword t.toNat (cell lane).1 (cell lane).2 else 0#32)))

/-! ## ZCLR (R290) -/

/-- Clear physical tiles. -/
def clearTiles (ps : List Nat) (s : State) : State :=
  { s with core :=
    { s.core with
      z := ps.foldl (fun z p => vset z p (Vector.replicate 32 0#2304)) s.core.z
      ovf := ps.foldl (fun o p => o &&& ~~~(1#8 <<< p)) s.core.ovf
      zbad := s.core.zbad.filter (fun e => !ps.contains e.1)
      zpoison := s.core.zpoison.filter (fun e => !ps.contains e.1) } }

def ownZclr (z f : BitVec 3) (s : State) : WordOut :=
  if s.sq.em = 0#32 then .done id
  else
    let ns := (List.range (f.toNat + 1)).map (· + z.toNat)
    if (zPhys s (z.toNat + f.toNat)).isNone then .trap (boundsReport s (BitVec.ofNat 64 (z.toNat + f.toNat)))
    else if ns.any (zBusy s.sq) then .wait .tile
    else .done (clearTiles (ns.filterMap (zPhys s)))

/-! ## ZRD (R291, R292) -/

/-- Bytes of a readout element (R291). -/
def outBytes (fmt : Word) : Nat :=
  if fmtOF fmt = 0 then 4 else if fmtOF fmt = 0x08 || fmtOF fmt = 0x10 then 2 else 1

/-- Out(e) (R292). -/
def readout (fmt : Word) (e : BitVec 36) : Nat :=
  if fmtIA fmt then
    if fmtOF fmt = 0 then (BitVec.ofInt 32 (satInt 32 e.toInt).1).toNat else (BitVec.ofInt 8 (satInt 8 e.toInt).1).toNat
  else convert (fmtOfCode (fmtOF fmt)) (fmtRM fmt) (fmtSAT fmt) (decodeNum fp36 e.toNat)

/-- A row of `g` elements from column `g * n`, packed into 64 bytes (R291). -/
def packedRow (fmt : Word) (tile : Lanes (BitVec 2304)) (i n : Nat) : BitVec 512 :=
  let b := outBytes fmt
  let g := 64 / b
  (List.range g).foldl (fun x c => x ||| (BitVec.ofNat 512 (readout fmt (zElem tile i (g * n + c))) <<< (8 * b * c))) 0#512

/-- Bounds of a tile name, cause 0x12. -/
def zNameReport (s : State) (n : Nat) : Report := boundsReport s (BitVec.ofNat 64 n)

/-- ZRD in one of its three modes (R291). -/
def readTile (n : Nat) (p : Nat) (x i : BitVec 5) (v : Opnd) (f : BitVec 2) (s : State) : WordOut :=
  let fmt := s.sq.fmt
  let tile := vget s.core.z p
  let rows := rowsOf s
  if f = 2#2 then
    .done (fun u => u.onSq (·.putU v (if s.core.ovf.getLsbD p then 1#64 else 0#64)))
  else
    let k := sliceIndex s x i
    let limit := if f = 0#2 then 63 else outBytes fmt - 1
    let g := 64 / outBytes fmt
    let cols := if f = 0#2 then [k] else (List.range g).map (· + g * k)
    match firstOf [regPoison s [(sReg x, false)],
        (if k ≤ limit then zPoison s n p (rows.flatMap (fun r => cols.map (fun c => (r, c)))) else none),
        sliceFault s k 0 limit] with
    | some r => .trap r
    | none =>
      if f = 0#2 then .done (fun u => u.onSq (·.putLanes v s.sq.em (fun r => BitVec.ofNat 32 (readout fmt (zElem tile r k)))))
      else if tBusy s.sq (Opnd.vnum v) then .wait .tile
      else
        .done (fun u => u.onSq (·.putTile (Opnd.vnum v) (rows.flatMap (fun r =>
          let row := packedRow fmt tile r k
          (List.range 16).map (fun w => (r, w, row.extractLsb' (32 * w) 32))))))

def ownZrd (t : BitVec 3) (x i : BitVec 5) (v : Opnd) (f : BitVec 2) (s : State) : WordOut :=
  if s.sq.em = 0#32 then .done id
  else
    match zPhys s t.toNat with
    | none => .trap (zNameReport s t.toNat)
    | some p => if zBusy s.sq t.toNat then .wait .tile else readTile t.toNat p x i v f s

/-! ## ZXF (R293) -/

/-- The accesses of ZXF: lane and address, row and column. -/
def zAccesses (s : State) (a : DWord) : List ((Nat × Nat) × (Nat × Nat)) :=
  (rowsOf s).flatMap (fun i => (List.range 64).map (fun c => ((i, (a + BitVec.ofNat 64 (512 * i + 8 * c)).toNat), (i, c))))

def ownZxf (z : BitVec 3) (b : BitVec 5) (e m : Bool) (s : State) : WordOut :=
  if s.sq.em = 0#32 then .done id
  else
    match zPhys s z.toNat with
    | none => .trap (zNameReport s z.toNat)
    | some p =>
      if zBusy s.sq z.toNat then .wait .tile
      else
        let acc := zAccesses s (uval s (sReg b))
        let vas := acc.map (·.1.2)
        match firstOf [regPoison s [(sReg b, e)],
            (if m then none else zPoison s z.toNat p (acc.map (·.2))),
            memChecks s (if m then .read else .write) false s.sq.em 8 8 (acc.map (·.1))] with
        | some r => .trap r
        | none =>
          if m then
            if readBlocked s s.sq.seq vas then .wait .order
            else
              let es := acc.map (fun a => (a.2.1, a.2.2, a.1.2))
              .done (readOrLate vas (fun n => loadAcc n p s.sq.em es) (.acc p s.sq.em es))
          else
            let tile := vget s.core.z p
            let cells := acc.flatMap (fun a => cellsAt a.1.2 (toBytes 8 (zElem tile a.2.1 a.2.2).toNat))
            .done (fun u => countAccesses u.core.id u.launch.asid vas (enqueue [.store cells] u))

end Sys2Proof.Machine
end

