-- ==== Sys2Proof/Machine/Matrix.lean ====
section
/-! DEFINITION. MMA, MMAS and their k-steps (R40 to R50, R271 to R279, R294 to R298), power tokens and
sub-array gating (R280, R281). -/

namespace Sys2Proof.Machine

/-! ## Descriptors (R271, R273) -/

def sdLine (sd : DWord) : Nat := (sd.extractLsb' 0 17).toNat
def sdNcol (sd : DWord) : Nat := (sd.extractLsb' 17 7).toNat
def sdKstep (sd : DWord) : Nat := (sd.extractLsb' 24 8).toNat
def scLine (scd : DWord) : Nat := (scd.extractLsb' 0 17).toNat

/-- Formats of 16-bit elements. -/
def is16 (fmt : Word) : Bool := fmtAF fmt == 0x08 || fmtAF fmt == 0x10

/-- The stock steps that instruction step `k` reads (R272). -/
def stockSteps (sparse : Bool) (sd : DWord) (k : Nat) : List Nat :=
  if sparse then [sdKstep sd + 2 * k, sdKstep sd + 2 * k + 1] else [sdKstep sd + k]

/-! ## Elements (R272, R294 to R296) -/

/-- The value of an element of a format code (R27, R28, R30). -/
def elemNum (code x : Nat) : Num :=
  if code = 0x18 then let v := (BitVec.ofNat 8 x).toInt; .fin (v < 0) v.natAbs 0
  else decodeNum (fmtOfCode code) x

/-- Element `e` of stock step `j`, column `c` (R272). -/
def stockElem (c : Core) (fmt : Word) (sd : DWord) (j col e : Nat) : Num :=
  let a := sdLine sd * 64 + j * 1024 + col * 16
  if is16 fmt then elemNum (fmtBF fmt) (c.stock.value (a + 2 * e) 2) else elemNum (fmtBF fmt) (c.stock.value (a + e) 1)

/-- Element `e` of row `i`'s A bytes for step `k` (R294). -/
def tileElem (q : Squad) (fmt : Word) (ta k i e : Nat) : Num :=
  let t := ta + k / 4
  let b := 16 * (k % 4)
  if is16 fmt then elemNum (fmtAF fmt) ((q.tbyte t i (b + 2 * e + 1)).toNat * 256 + (q.tbyte t i (b + 2 * e)).toNat)
  else elemNum (fmtAF fmt) (q.tbyte t i (b + e)).toNat

/-- Nibble `g` of row `i`'s metadata word for step `k` (R50, R294). -/
def nibble (q : Squad) (tm k i g : Nat) : Nat := (q.tword tm i k).toNat / 16 ^ g % 16

/-- The logical k of kept element `e` (R296). -/
def keptK (q : Squad) (tm k i e : Nat) : Nat :=
  let x := nibble q tm k i (e / 2)
  4 * (e / 2) + (if e % 2 = 0 then x % 4 else x / 4)

/-- The product of one unmasked element with its scales (R40, R273). -/
def product (c : Core) (q : Squad) (r : MProg) (k i col e : Nat) : Num :=
  let sh := mshape r.word
  let lk := if sh.sparse then keptK q sh.tm k i e else e
  let j := if sh.sparse then sdKstep r.sd + 2 * k + lk / 16 else sdKstep r.sd + k
  let p := (tileElem q r.fmt sh.ta k i e).mul (stockElem c r.fmt r.sd j col (lk % 16))
  if fmtSC r.fmt then
    let blk := if sh.sparse then 2 * k + lk / 16 else k
    (p.mul (scaleValue (q.tbyte (scaleTile r.scd) i blk))).mul
      (scaleValue (c.stock.read (scLine r.scd * 64 + j * 64 + col)))
  else p

/-- A finite integer value. -/
def Num.toInt : Num → Int
  | .fin neg m e => let v : Int := (m * 2 ^ e.toNat : Nat); if neg then -v else v
  | _ => 0

/-- One rounding of one element: the new element, and whether saturation changed its value (R40, R44). -/
def accStep (fmt : Word) (z : BitVec 36) (ps : List Num) : BitVec 36 × Bool :=
  if fmtIA fmt then
    let v := satInt 36 (ps.foldl (fun a p => a + p.toInt) z.toInt)
    (BitVec.ofInt 36 v.1, v.2)
  else (roundFp36 (exactSum (decodeNum fp36 z.toNat :: ps)), false)

/-- The step of one element: one k-step, or two of eight elements under arithmetic revision 1 (R46). -/
def elemStep (c : Core) (q : Squad) (arith : Nat) (r : MProg) (z : BitVec 36) (k i col : Nat) : BitVec 36 × Bool :=
  let es := List.range (if is16 r.fmt then 8 else 16)
  let ps := es.map (product c q r k i col)
  if arith = 1 && !is16 r.fmt then
    let a := accStep r.fmt z (ps.take 8)
    let b := accStep r.fmt a.1 (ps.drop 8)
    (b.1, a.2 || b.2)
  else accStep r.fmt z ps

/-- The result of instruction step `k` on a tile: the tile, whether an element was clipped, and the
elements that newly hold NaN (R40, R48). -/
structure StepRes where
  tile : Lanes (BitVec 2304)
  clip : Bool
  nans : List (Nat × Nat)

def isNaN36 (z : BitVec 36) : Bool := (decodeNum fp36 z.toNat).isNaN

def stepTile (c : Core) (q : Squad) (arith : Nat) (r : MProg) (tile : Lanes (BitVec 2304)) (k : Nat) : StepRes :=
  (Mask.list r.em).foldl (fun (a : StepRes) i =>
    (List.range (sdNcol r.sd + 1)).foldl (fun (a : StepRes) col =>
      let old := zElem tile i col
      let x := elemStep c q arith r old k i col
      { tile := zPut a.tile i col x.1
        clip := a.clip || x.2
        nans := if !fmtIA r.fmt && isNaN36 x.1 && !isNaN36 old then a.nans ++ [(i, col)] else a.nans }) a)
    ⟨tile, false, []⟩

/-- Some step from `k` on writes a new NaN. -/
def makesNaN (c : Core) (q : Squad) (arith : Nat) (r : MProg) : Nat → Nat → Lanes (BitVec 2304) → Bool
  | 0, _, _ => false
  | n + 1, k, tile =>
    let x := stepTile c q arith r tile k
    !x.nans.isEmpty || makesNaN c q arith r n (k + 1) x.tile

/-- The word will end in a matrix NaN (R48). -/
def doomedWord (c : Core) (q : Squad) (arith : Nat) (r : MProg) (tile : Lanes (BitVec 2304)) : Bool :=
  fmtNT r.fmt && makesNaN c q arith r ((mshape r.word).steps - r.done) r.done tile

/-! ## Issue checks (R297) -/

/-- The words of the A, metadata and scale tiles that a word will read on behalf of active rows (R286). -/
def matrixTilePoison (s : State) (r : MProg) : Option Report :=
  let sh := mshape r.word
  let ks := (List.range sh.steps).filter (fun k => decide (r.done ≤ k))
  let rows := Mask.list r.em
  firstOf (ks.map (fun k => tPoison s (sh.ta + k / 4) (rows.flatMap (fun i => (List.range 4).map (fun w => (i, 4 * (k % 4) + w)))))
    ++ [if sh.sparse then tPoison s sh.tm (rows.flatMap (fun i => ks.map (fun k => (i, k)))) else none]
    ++ [if fmtSC r.fmt then tPoison s (scaleTile r.scd) (rows.flatMap (fun i => ks.flatMap (fun k =>
          if sh.sparse then [(i, 2 * k / 4)] else [(i, k / 4)]))) else none])

/-- Format unsupported (R272, R297). -/
def matrixFormat (s : State) (r : MProg) : Option Report :=
  if fmtAF r.fmt = 0 || ((mshape r.word).sparse && !(isBinary8 (fmtAF r.fmt) && isBinary8 (fmtBF r.fmt))) then
    some (formatReport r.fmt s)
  else none

/-- Descriptor bounds: a reserved bit, or more columns than the array has (R271, R273). -/
def matrixDescriptor (s : State) (r : MProg) : Option Report :=
  if r.sd.extractLsb' 32 32 != 0#32 || decide (63 < sdNcol r.sd) then some (boundsReport s r.sd)
  else if fmtSC r.fmt && r.scd.extractLsb' 20 44 != 0#44 then some (boundsReport s r.scd)
  else none

/-- The first and last lines that a pass names, with the line its image starts at: data, then scales. -/
def matrixSpans (r : MProg) : List (Nat × Nat × Nat) :=
  let sh := mshape r.word
  let lo := sdKstep r.sd
  let hi := lo + (if sh.sparse then 2 * sh.steps else sh.steps) - 1
  (sdLine r.sd, sdLine r.sd + 16 * lo, sdLine r.sd + 16 * hi + 15)
    :: (if fmtSC r.fmt then [(scLine r.scd, scLine r.scd + lo, scLine r.scd + hi)] else [])

/-- Stock bounds, cause 0x1B, with the first line outside the allocation (R272, R297). Where data and scale lines both leave
it, the spec does not order them, and the model reports the data's; a LINE below the base is reported as it stands, also
where KSTEP moves the first line read inside (the model's choices, log 24). -/
def matrixStock (s : State) (r : MProg) : Option Report :=
  let base := s.team.sbase
  let fin := s.team.sbase + s.team.slen
  firstOf ((matrixSpans r).map (fun x =>
    if x.1 < base then some ⟨0x1B#8, BitVec.ofNat 64 x.1, 0#64, s.sq.em⟩
    else if fin ≤ x.2.2 then some ⟨0x1B#8, BitVec.ofNat 64 (max x.2.1 fin), 0#64, s.sq.em⟩
    else none))

/-- The stock lines that the steps of a word from `done` on read (R272, R273). -/
def linesRead (r : MProg) : List Nat :=
  let sh := mshape r.word
  let js := ((List.range sh.steps).filter (fun k => decide (r.done ≤ k))).flatMap (stockSteps sh.sparse r.sd)
  js.flatMap (fun j => (List.range (sdNcol r.sd / 4 + 1)).map (fun c => sdLine r.sd + 16 * j + c))
    ++ (if fmtSC r.fmt then js.map (fun j => scLine r.scd + j) else [])

/-- The cores that receive an STK's lines (R258). -/
def stockCores (core : Nat) (mcast : BitVec 8) : List Nat :=
  core :: (((List.range 8).filter (fun c => mcast.getLsbD c)).map (fun c => core / 8 * 8 + c)).filter (fun c => c != core)

/-- The stock ranges that STK commands in flight write on a core: those of its own table, and those of a core
whose STK names it in MCAST (R258, R278). -/
def stockRanges (s : State) (core : Nat) : List RangeLock :=
  (s.getCore core).locks.filter (fun k => k.space == 2 && k.dest)
    ++ (s.cmds.filter (fun c => c.fn == 0 && c.core != core && (stockCores c.core c.tr.mcast).contains core)).flatMap (fun c =>
      (s.getCore c.core).locks.filter (fun k => k.cmd == c.id && k.space == 2 && k.dest))

/-- A matrix word already issued on a core has yet to read a line of a range (R278). -/
def stockInUse (s : State) (core lo hi : Nat) : Bool :=
  (s.coreSquads core).any (fun q => q.mprog.any (fun r => (linesRead r).any (fun ln => decide (lo ≤ ln) && decide (ln < hi))))

/-- Range-lock conflict with an STK in flight (R278): the lowest line read that a range covers. Of two ranges that cover
it, TINFO1 names the ENTRY of the first in the list, the core's own first (DESIGN CHOICE, log 24). -/
def matrixLock (s : State) (r : MProg) : Option Report :=
  let ranges := stockRanges s s.core.id
  let hits := (linesRead r).flatMap (fun ln =>
    (ranges.filter (fun k => decide (k.lo ≤ ln) && decide (ln < k.hi))).map (fun k => (ln, k.entry)))
  match hits with
  | [] => none
  | h :: t =>
    let m := t.foldl (fun a b => if b.1 < a.1 then b else a) h
    some ⟨0x08#8, BitVec.ofNat 64 m.1, BitVec.ofNat 64 m.2, s.sq.em⟩

/-- An illegal metadata nibble (R50). -/
def badNibble (x : Nat) : Bool := decide (x / 4 ≤ x % 4)

/-- Sparsity metadata, cause 0x0E (R50, R297). -/
def matrixMeta (s : State) (r : MProg) : Option Report :=
  let sh := mshape r.word
  if !sh.sparse then none
  else
    let ks := (List.range sh.steps).filter (fun k => decide (r.done ≤ k))
    let rows := Mask.list r.em
    let bad := ks.flatMap (fun k => rows.flatMap (fun i =>
      ((List.range 8).filter (fun g => badNibble (nibble s.sq sh.tm k i g))).map (fun g => (k, i, g))))
    match bad with
    | [] => none
    | (k, i, g) :: _ =>
      some ⟨0x0E#8, BitVec.ofNat 64 (i + k * 256 + g * 65536), BitVec.ofNat 64 (nibble s.sq sh.tm k i g),
        maskOfList (bad.map (fun b => b.2.1))⟩

/-- The progress record of a word that issues now: a new one, or the one that a trap kept (R298). -/
def matrixRecord (i : Instr) (b sm : BitVec 5) (s : State) : MProg :=
  match s.sq.mkeep with
  | some r => if r.word == i && !inHandler s then r else
      ⟨s.sq.seq, 0, 0, false, i, uval s (sReg b), if fmtSC s.sq.fmt then uval s (sReg sm) else 0#64, s.sq.fmt, s.sq.em,
        Vector.replicate 32 0#2304, false⟩
  | none =>
      ⟨s.sq.seq, 0, 0, false, i, uval s (sReg b), if fmtSC s.sq.fmt then uval s (sReg sm) else 0#64, s.sq.fmt, s.sq.em,
        Vector.replicate 32 0#2304, false⟩

/-- A matrix word joins the pipe. A word of a handler leaves the record of the trapped word as it is (R298). -/
def startMatrix (r : MProg) (s : State) : State :=
  let keep := if inHandler s then s.sq.mkeep else none
  s.onSq (fun q => { q with mprog := q.mprog ++ [r], mkeep := keep, seq := q.seq + 1 })

/-- MMA and MMAS (R294 to R297). The word goes on step by step under MATRIX_K_STEP. -/
def matrixWord (i : Instr) (b sm : BitVec 5) (e : Bool) (s : State) : WordOut :=
  let sh := mshape i
  if s.sq.em = 0#32 then .done id
  else
    match zPhys s sh.z with
    | none => .trap (zNameReport s sh.z)
    | some p =>
      let r := matrixRecord i b sm s
      let tile := vget s.core.z p
      if 7 < sh.ta + (sh.steps - 1) / 4 then .trap (boundsReport s (BitVec.ofNat 64 (sh.ta + (sh.steps - 1) / 4)))
      else if zBusy s.sq sh.z || decide (2 ≤ s.sq.mprog.length) then .wait .tile
      else
        match firstOf [
            regPoison s ((sReg b, e) :: (if fmtSC s.sq.fmt then [(sReg sm, false)] else [])),
            matrixTilePoison s r,
            zPoison s sh.z p ((rowsOf s).flatMap (fun i => (List.range (sdNcol r.sd + 1)).map (fun c => (i, c)))),
            matrixFormat s r, matrixDescriptor s r, matrixStock s r, matrixLock s r, matrixMeta s r] with
        | some x => .trap x
        | none =>
          let r := { r with before := tile, ovf := s.core.ovf.getLsbD p }
          if doomedWord s.core s.sq s.obj.arith r tile then .hold true .tile (startMatrix { r with doomed := true })
          else .done (startMatrix r)

def ownMma (c : Bool) (z a : BitVec 3) (b sz : BitVec 5) (f : BitVec 3) (e : Bool) (s : State) : WordOut :=
  matrixWord (.mma c z a b sz f e) b sz e s

def ownMmas (c : Bool) (z a : BitVec 3) (b sz : BitVec 5) (t f : BitVec 3) (e : Bool) (s : State) : WordOut :=
  matrixWord (.mmas c z a b sz t f e) b sz e s

/-! ## MATRIX_K_STEP -/

/-- The sub-arrays of 16 columns that a word needs (R281). -/
def subArrays (r : MProg) : List Nat := List.range (sdNcol r.sd / 16 + 1)

/-- A trick may start: its sub-arrays are powered and its cluster holds a token (R280, R281). -/
def trickMayStart (s : State) (core : Core) (r : MProg) : Bool :=
  r.start < r.done ||
    ((subArrays r).all (fun j => !core.gated.getLsbD j) && (s.getDie (dieOf core.id)).tokens.contains (clusterOf core.id))

/-- The report of a matrix NaN (R48, R297). -/
def nanReport36 (core : Nat) (r : MProg) (nans : List (Nat × Nat)) : Report :=
  let e := nans.headD (0, 0)
  ⟨0x0D#8, BitVec.ofNat 64 (core + (mshape r.word).z * 256 + e.1 * 65536 + e.2 * 2 ^ 24), BitVec.ofNat 64 r.done,
    maskOfList (nans.map (·.1))⟩

/-- Set a tile and its OVF. -/
def setTile (core p : Nat) (tile : Lanes (BitVec 2304)) (ovf : Bool) (s : State) : State :=
  s.updCore core (fun c => { c with
    z := vset c.z p tile
    ovf := if ovf then c.ovf ||| (1#8 <<< p) else c.ovf &&& ~~~(1#8 <<< p) })

/-- A squad that stands at its run boundary under a pre-emption has completed the k-step it was in, and its
matrix word stops (R279). -/
def stepsStopped (tm : Team) (q : Squad) : Bool := tm.status == .saved || (tm.status == .preempting && !q.running)

/-- One k-step of a squad's running matrix word (R40, R48). Poison is looked at when the word issues; a z element or a tile
word that fails its parity later raises no trap here, and keeps its mark (DESIGN CHOICE, log 46). -/
def kStep (core : Nat) (k : SquadKey) (s : State) : State :=
  let q := s.getSq k
  let tm := s.getTeam k.team
  let c := s.getCore core
  match q.mprog with
  | [] => s
  | r :: rest =>
    match (ownedTiles tm.owner k.sqid)[(mshape r.word).z]? with
    | none => s
    | some p =>
      if tm.core != core || stepsStopped tm q || !trickMayStart s c r then s
      else
        let arith := ((s.findObj (s.getLaunch k.lid).lr.obj).map (·.arith)).getD s.obj.arith
        let x := stepTile c q arith r (vget c.z p) r.done
        if fmtNT r.fmt && !x.nans.isEmpty then
          let keep := if r.start = 0 then none else some { r with done := r.start, doomed := false }
          let s := setTile core p r.before r.ovf (s.updSq k (fun q => { q with mprog := rest, mkeep := keep }))
          trapAtWord (nanReport36 core r x.nans) r.word (s.focus k)
        else
          setTile core p x.tile (c.ovf.getLsbD p || x.clip) (s.updSq k (fun q =>
            { q with mprog := if (mshape r.word).steps ≤ r.done + 1 then rest else { r with done := r.done + 1 } :: rest }))

/-- One k-step of a trick: the quarters of the squads named step together, which changes no bit (R43). -/
def execMatrixKStep (core : Nat) (sqs : List SquadKey) (s : State) : Host.Outcome State Fault Refusal :=
  .next ((sortBy keyBefore (dedup sqs)).foldl (fun t k => kStep core k t) s)

/-! ## Power (R280, R281) -/

/-- A cluster waits for a token: a core of it has a trick that has not started. -/
def clusterWaits (s : State) (die cl : Nat) : Bool :=
  s.allSquads.any (fun q =>
    let c := (s.getTeam q.key.team).core
    dieOf c == die && clusterOf c == cl && (match q.mprog with | r :: _ => r.done == r.start | [] => false))

/-- A cluster passes its token to the next one that waits (R280). -/
def execPowerTokenPass (die cluster : Nat) (s : State) : Host.Outcome State Fault Refusal :=
  let d := s.getDie die
  match (if d.tokens.contains cluster then
      ([1, 2, 3, 4, 5].map (fun i => (cluster + i) % 6)).find? (fun x => !d.tokens.contains x && clusterWaits s die x)
      else none) with
  | none => .next s
  | some x => .next (s.updDie die (fun d => { d with tokens := x :: d.tokens.erase cluster }))

/-- A sub-array that no trick has used for MXGATE clk is gated; MXGATE = 0 disables gating (R281). -/
def execSubarrayPowerGate (core sub : Nat) (s : State) : Host.Outcome State Fault Refusal :=
  if failed s || s.part.mxgate == 0#64 then .next s
  else .next (s.updCore core (fun c => { c with gated := c.gated ||| (1#4 <<< sub) }))

/-- WAKELAT clk after a trick needed it, a gated sub-array is powered (R281). -/
def execSubarrayWake (core sub : Nat) (s : State) : Host.Outcome State Fault Refusal :=
  if failed s then .next s
  else .next (s.updCore core (fun c => { c with gated := c.gated &&& ~~~(1#4 <<< sub) }))

end Sys2Proof.Machine
end

