-- ==== Sys2Proof/Machine/Regions.lean ====
section
/-! DEFINITION. Sparse regions: descriptors, keys, nodes, and the single-key operations of a home slice
(R302 to R312). -/

namespace Sys2Proof.Machine

/-! ## Descriptors (Table 22-1) -/

/-- A region descriptor. -/
structure Desc where
  rank : Nat
  esz : Nat
  etype : Nat
  kord : Nat
  home : Nat
  flags : Nat
  gen : Nat
  ext : List Nat
  kwin : Nat
  root : Nat
  free : Nat
  nfree : Nat
  nused : Nat
  count : Nat
  height : Nat
  tail : Nat
deriving DecidableEq, Repr, Inhabited

def Desc.ofBytes (b : List Byte) : Desc where
  rank := field b 0 1
  esz := field b 1 1
  etype := field b 2 1
  kord := field b 3 1
  home := field b 4 1
  flags := field b 5 1
  gen := field b 6 2
  ext := [field b 8 4, field b 12 4, field b 16 4, field b 20 4]
  kwin := field b 0x18 8
  root := field b 0x20 4
  free := field b 0x24 4
  nfree := field b 0x28 4
  nused := field b 0x2C 4
  count := field b 0x30 8
  height := field b 0x38 1
  tail := field b 0x39 7

/-- The bytes that belong to the home slice, from 0x20 to 0x38. -/
def Desc.dynBytes (d : Desc) : List Byte :=
  toBytes 4 d.root ++ toBytes 4 d.free ++ toBytes 4 d.nfree ++ toBytes 4 d.nused ++ toBytes 8 d.count ++ toBytes 1 d.height

/-- The null node index. -/
def nullNode : Nat := 0xFFFFFFFF

/-- Where descriptor `i` of an ASID lies (R302). -/
def descAddr (s : State) (asid i : Nat) : Nat := (asidEnt s asid).rtab.toNat + 64 * i

/-- A descriptor of the table lies in memory that serves it, at a 52-bit physical address (R17, R22, R393, R404; log 12). -/
def descBacked (s : State) (asid i : Nat) : Bool :=
  decide (i < (asidEnt s asid).rtabn.toNat) && served s (descAddr s asid i) 64

def readDesc (s : State) (asid i : Nat) : Desc := Desc.ofBytes (homeBytes s (descAddr s asid i) 64)

/-- The region index of a handle. -/
def handleRegion (h : BitVec 32) : Nat := (h.extractLsb' 0 16).toNat

/-- A live handle (R302). -/
def handleLive (s : State) (asid : Nat) (h : BitVec 32) : Bool :=
  let d := readDesc s asid (handleRegion h)
  descBacked s asid (handleRegion h) && d.flags % 2 == 1 && d.gen == (h.extractLsb' 16 16).toNat

/-- ESZ agrees with ETYPE (R257). -/
def typeAgrees (esz etype : Nat) : Bool :=
  match etype with
  | 0 => decide (esz ≤ 3)
  | 1 | 2 => esz == 1
  | 3 => esz == 2
  | 4 => esz == 0
  | _ => false

/-- Width of a dimension's key field (R305). -/
def fieldWidth (ext : Nat) : Nat := if ext ≤ 1 then 0 else Nat.log2 (ext - 1) + 1

/-- The dimension that fills key field `j`. -/
def Desc.dim (d : Desc) (j : Nat) : Nat := d.kord / 4 ^ j % 4
def Desc.extent (d : Desc) (i : Nat) : Nat := d.ext.getD i 1
/-- The dimensions in key order. -/
def Desc.order (d : Desc) : List Nat := (List.range d.rank).map d.dim
/-- Bits of a key. -/
def Desc.keyBits (d : Desc) : Nat := (d.order.map (fun i => fieldWidth (d.extent i))).sum

/-- A die has a core (R25). -/
def diePresent (s : State) (d : Nat) : Bool := decide (d < 4) && vget s.part.caps.cores d != 0#48

/-- A well-formed descriptor (R304). -/
def Desc.wf (s : State) (d : Desc) : Bool :=
  decide (1 ≤ d.rank) && decide (d.rank ≤ 4) && typeAgrees d.esz d.etype
    && (List.range d.rank).all (fun i => d.order.contains i) && d.kord / 4 ^ d.rank == 0
    && d.ext.all (fun e => decide (1 ≤ e)) && decide (d.keyBits ≤ 64)
    && decide (d.home < 32) && diePresent s (d.home / 8) && d.flags / 2 == 0 && decide (d.kwin < 2 ^ 56) && d.tail == 0

/-- The subcode of cause 0x10 for a handle (Table 23-2). -/
def handleSubcode (s : State) (asid : Nat) (h : BitVec 32) : Option Nat :=
  if !handleLive s asid h then some 1
  else if !(readDesc s asid (handleRegion h)).wf s then some 2 else none

/-! ## Keys (R305) -/

/-- The key of coordinates. -/
def Desc.key (d : Desc) (x : List Nat) : Nat :=
  d.order.foldl (fun k i => k * 2 ^ fieldWidth (d.extent i) + x.getD i 0) 0

/-- The fields of a key from the least significant, with their dimensions. -/
def keyFields (d : Desc) : List Nat → Nat → List (Nat × Nat)
  | [], _ => []
  | i :: r, k => (i, k % 2 ^ fieldWidth (d.extent i)) :: keyFields d r (k / 2 ^ fieldWidth (d.extent i))

/-- Coordinates of a key. -/
def Desc.coords (d : Desc) (k : Nat) : List Nat :=
  let fs := keyFields d d.order.reverse k
  (List.range d.rank).map (fun i => ((fs.find? (·.1 == i)).map (·.2)).getD 0)

/-- A key every field of which is below its extent, with nothing above the fields. -/
def Desc.validKey (d : Desc) (k : Nat) : Bool :=
  decide (k < 2 ^ d.keyBits) && (keyFields d d.order.reverse k).all (fun f => decide (f.2 < d.extent f.1))

/-! ## Nodes (R306, R307) -/

/-- A node of the kitty. -/
structure Node where
  kind : Nat
  hinf : Bool
  right : Nat
  high : Nat
  keys : List Nat
  /-- values of a leaf, children of an internal node -/
  vals : List Nat
deriving DecidableEq, Repr, Inhabited

def Node.ofBytes (b : List Byte) : Node :=
  let kind := field b 0 1
  let n := field b 1 1
  { kind := kind
    hinf := field b 2 1 == 1
    right := field b 4 4
    high := field b 8 8
    keys := (List.range n).map (fun i => field b (0x10 + 8 * i) 8)
    vals := if kind = 2 then (List.range (n + 1)).map (fun i => field b (0x88 + 4 * i) 4)
            else (List.range n).map (fun i => field b (0x88 + 8 * i) 8) }

/-- Pad bytes with zeros to a length. -/
def padTo (n : Nat) (b : List Byte) : List Byte := b ++ List.replicate (n - b.length) 0#8

def Node.toBytes (x : Node) : List Byte :=
  Machine.toBytes 1 x.kind ++ Machine.toBytes 1 x.keys.length ++ Machine.toBytes 1 (if x.hinf then 1 else 0)
    ++ Machine.toBytes 1 0 ++ Machine.toBytes 4 x.right ++ Machine.toBytes 8 x.high
    ++ padTo 120 (x.keys.flatMap (Machine.toBytes 8))
    ++ padTo 120 (x.vals.flatMap (Machine.toBytes (if x.kind = 2 then 4 else 8)))

/-- A free node. -/
def freeNode (next : Nat) : Node := ⟨0, false, next, 0, [], []⟩

/-- Whom an operation acts for: the lease, the ASID and the die of the home slice. -/
structure Kitty where
  asid : Nat
  die : Nat
  leases : List (Nat × Nat)
  kwin : Nat

/-- The virtual address of a node. -/
def Kitty.va (k : Kitty) (i : Nat) : Nat := k.kwin + 256 * i

/-- A leaf admits an access of the slice: R or W is set, and no port on the way is down (R355, R393). -/
def leafServes (s : State) (write : Bool) (l : DWord × Nat) (va : Nat) : Bool :=
  (if write then leafW l.1 else leafR l.1) && reachable s (physOf l va)

/-- The physical address of a node, or the address that the 56-bit space, the lease or its page does not admit (R17,
R304). -/
def nodeAddr (s : State) (k : Kitty) (write : Bool) (i : Nat) : Except Nat Nat :=
  if inLease k.leases (k.va i) 256 && decide (k.va i + 256 ≤ 2 ^ 56) then
    match walk s k.die k.asid (k.va i) with
    | some l => if leafServes s write l (k.va i) then .ok (canon s (physOf l (k.va i))) else .error (k.va i)
    | none => .error (k.va i)
  else .error (k.va i)

def readNode (s : State) (k : Kitty) (i : Nat) : Except Nat Node := do
  let a ← nodeAddr s k false i
  return Node.ofBytes (s.mem.bytes a 256)

/-- Count the segments of the nodes that an operation reaches, at the home slice's die (R360). -/
def countNodes (k : Kitty) (is : List Nat) (s : State) : State :=
  ((dedup is).flatMap (fun i => [k.va i, k.va i + 128])).foldl (fun t a => countSegment k.die k.asid a (walk t k.die k.asid a) t) s

/-- Changes that one operation makes: nodes, later entries standing, and the descriptor. -/
structure Plan where
  desc : Desc
  nodes : List (Nat × Node)
deriving Repr, Inhabited

/-- A node as a plan leaves it. -/
def planned (rd : Nat → Except Nat Node) (p : Plan) (i : Nat) : Except Nat Node :=
  match p.nodes.reverse.find? (·.1 == i) with
  | some x => .ok x.2
  | none => rd i

/-! ## Search (R307, R312) -/

/-- The leaf that covers a key, with its ancestors, nearest first, and the child taken in each. -/
def descend (rd : Nat → Except Nat Node) (key : Nat) :
    Nat → Nat → List (Nat × Node × Nat) → Except Nat (List (Nat × Node × Nat) × Nat × Node)
  | 0, i, acc => do let x ← rd i; return (acc, i, x)
  | f + 1, i, acc => do
    let x ← rd i
    if x.kind = 2 then
      let j := (x.keys.filter (· ≤ key)).length
      descend rd key f (x.vals.getD j nullNode) ((i, x, j) :: acc)
    else return (acc, i, x)

/-- The value of a key, if it has an entry (R308). -/
def findKey (rd : Nat → Except Nat Node) (d : Desc) (key : Nat) : Except Nat (Option Nat) := do
  if d.root = nullNode then return none
  let r ← descend rd key d.height d.root []
  return ((r.2.2.keys.zip r.2.2.vals).find? (·.1 == key)).map (·.2)

/-- The least entry at or above a key, from a leaf rightwards. -/
def scanRight (rd : Nat → Except Nat Node) (key : Nat) : Nat → Node → Except Nat (Option (Nat × Nat))
  | 0, _ => return none
  | f + 1, x =>
    match (x.keys.zip x.vals).find? (fun e => decide (key ≤ e.1)) with
    | some e => return some e
    | none => do
      if x.right = nullNode then return none
      let y ← rd x.right
      scanRight rd key f y

/-- The end code (R324). -/
def endCode : Nat := 2 ^ 64 - 1

/-- The nodes on the way to a key, those above its leaf first. -/
def pathNodes (rd : Nat → Except Nat Node) (d : Desc) (key : Nat) : List Nat :=
  if d.root = nullNode then []
  else match descend rd key d.height d.root [] with
    | .ok r => (r.1.map (·.1)).reverse ++ [r.2.1]
    | .error _ => []

/-- The right siblings that a search from a leaf goes on to. -/
def scanNodes (rd : Nat → Except Nat Node) (key : Nat) : Nat → Node → List Nat
  | 0, _ => []
  | f + 1, x =>
    if x.keys.any (fun e => decide (key ≤ e)) || x.right = nullNode then []
    else match rd x.right with
      | .ok y => x.right :: scanNodes rd key f y
      | .error _ => []

/-- The nodes that a search for the least entry reaches. -/
def searchNodes (rd : Nat → Except Nat Node) (d : Desc) (pos : Nat) : List Nat :=
  if d.root = nullNode || pos = endCode then []
  else pathNodes rd d pos ++ (match descend rd pos d.height d.root [] with
    | .ok r => scanNodes rd pos (d.nused + 1) r.2.2
    | .error _ => [])

/-- The least present key at or above a position, with its value; never END (R312, R324). -/
def leastFrom (rd : Nat → Except Nat Node) (d : Desc) (pos : Nat) : Except Nat (Option (Nat × Nat)) := do
  if d.root = nullNode || pos = endCode then return none
  let r ← descend rd pos d.height d.root []
  let e ← scanRight rd pos (d.nused + 1) r.2.2
  return e.filter (fun e => e.1 != endCode)

/-! ## Inserts and splits (R310) -/

/-- Insertion at a position of a list. -/
def insertAt {α : Type} (l : List α) (i : Nat) (x : α) : List α := l.take i ++ x :: l.drop i

/-- A leaf with an entry put in key order. -/
def Node.put (x : Node) (k v : Nat) : Node :=
  let j := (x.keys.filter (· < k)).length
  { x with keys := insertAt x.keys j k, vals := insertAt x.vals j v }

/-- An internal node that gains a key and the child to its right. -/
def Node.gain (x : Node) (j k c : Nat) : Node := { x with keys := insertAt x.keys j k, vals := insertAt x.vals (j + 1) c }

/-- The nodes that an insert into a full leaf needs (R310). -/
def nodesNeeded (anc : List (Nat × Node × Nat)) : Nat :=
  let run := (anc.takeWhile (fun a => a.2.1.keys.length == 15)).length
  1 + run + (if run = anc.length then 1 else 0)

/-- Pop `n` nodes of the free list: the nodes in pop order, and the new head. -/
def popFree (rd : Nat → Except Nat Node) : Nat → Nat → Except Nat (List Nat × Nat)
  | 0, h => return ([], h)
  | n + 1, h => do
    let x ← rd h
    let r ← popFree rd n x.right
    return (h :: r.1, r.2)

/-- Install a separating key and the new child in the ancestors, bottom up (R310). -/
def installUp (d : Desc) (key child : Nat) : List (Nat × Node × Nat) → List Nat → List (Nat × Node) → Plan
  | [], pops, acc =>
    -- a split root gives a new internal root
    let r := pops.headD nullNode
    ⟨{ d with root := r, height := d.height + 1 }, acc ++ [(r, ⟨2, true, nullNode, 0, [key], [d.root, child]⟩)]⟩
  | (i, x, j) :: up, pops, acc =>
    let y := x.gain j key child
    if x.keys.length < 15 then ⟨d, acc ++ [(i, y)]⟩
    else
      let p := pops.headD nullNode
      let mid := y.keys.getD 8 0
      let left : Node := ⟨2, false, p, mid, y.keys.take 8, y.vals.take 9⟩
      let right : Node := ⟨2, x.hinf, x.right, x.high, y.keys.drop 9, y.vals.drop 9⟩
      installUp d mid p up (pops.drop 1) (acc ++ [(i, left), (p, right)])

/-- What an insert does; `none` says that the kitty is exhausted. -/
def insertPlan (rd : Nat → Except Nat Node) (d : Desc) (k v : Nat) : Except Nat (Option Plan) := do
  if d.root = nullNode then
    if d.nfree = 0 then return none
    let p ← popFree rd 1 d.free
    let r := p.1.headD nullNode
    return some ⟨{ d with root := r, free := p.2, nfree := d.nfree - 1, nused := d.nused + 1, count := d.count + 1, height := 1 },
      [(r, ⟨1, true, nullNode, 0, [k], [v]⟩)]⟩
  let r ← descend rd k d.height d.root []
  let (anc, i, x) := r
  if x.keys.contains k then
    return some ⟨d, [(i, { x with vals := (x.keys.zip x.vals).map (fun e => if e.1 = k then v else e.2) })]⟩
  let y := x.put k v
  if x.keys.length < 15 then return some ⟨{ d with count := d.count + 1 }, [(i, y)]⟩
  let need := nodesNeeded anc
  if d.nfree < need then return none
  let p ← popFree rd need d.free
  let n0 := p.1.headD nullNode
  let right : Node := ⟨1, x.hinf, x.right, x.high, y.keys.drop 8, y.vals.drop 8⟩
  let left : Node := ⟨1, false, n0, right.keys.headD 0, y.keys.take 8, y.vals.take 8⟩
  let d' := { d with free := p.2, nfree := d.nfree - need, nused := d.nused + need, count := d.count + 1 }
  return some (installUp d' (right.keys.headD 0) n0 anc (p.1.drop 1) [(n0, right), (i, left)])

/-! ## Deletes (R311) -/

/-- Push nodes onto the free list, first listed first. -/
def pushFree (is : List Nat) (p : Plan) : Plan :=
  is.foldl (fun p i =>
    ⟨{ p.desc with free := i, nfree := p.desc.nfree + 1, nused := p.desc.nused - 1 }, p.nodes ++ [(i, freeNode p.desc.free)]⟩) p

/-- The rightmost node `n` levels below a node. -/
def rightmost (rd : Nat → Except Nat Node) : Nat → Nat → Except Nat Nat
  | 0, i => return i
  | n + 1, i => do
    let x ← rd i
    rightmost rd n (x.vals.getLastD nullNode)

/-- The left sibling, at the same level, of the child taken in the nearest ancestor. -/
def leftSibling (rd : Nat → Except Nat Node) : List (Nat × Node × Nat) → Nat → Except Nat (Option Nat)
  | [], _ => return none
  | (_, x, j) :: up, lvl => do
    if 0 < j then
      let r ← rightmost rd lvl (x.vals.getD (j - 1) nullNode)
      return some r
    else leftSibling rd up (lvl + 1)

/-- A node and, where it is its parent's last child, its ancestors leave the tree: the left siblings take
their bounds, and the first ancestor with another child loses the child and its key. -/
def unlink (rd : Nat → Except Nat Node) (x : Node) :
    List (Nat × Node × Nat) → Plan → List Nat → Except Nat (Plan × List Nat)
  | [], p, gone => return (p, gone)
  | (i, y, j) :: up, p, gone => do
    let sib ← leftSibling rd ((i, y, j) :: up) 0
    let p ← match sib with
      | none => pure p
      | some l => do
        let z ← planned rd p l
        pure { p with nodes := p.nodes ++ [(l, { z with right := x.right, high := x.high, hinf := x.hinf })] }
    if y.keys.length = 0 then unlink rd y up p (gone ++ [i])
    else
      let y' := { y with keys := y.keys.eraseIdx (j - 1), vals := y.vals.eraseIdx j }
      return ({ p with nodes := p.nodes ++ [(i, y')] }, gone)

/-- What a delete does (R308, R311). -/
def deletePlan (rd : Nat → Except Nat Node) (d : Desc) (k : Nat) : Except Nat Plan := do
  if d.root = nullNode then return ⟨d, []⟩
  let r ← descend rd k d.height d.root []
  let (anc, i, x) := r
  if !x.keys.contains k then return ⟨d, []⟩
  let es := (x.keys.zip x.vals).filter (fun e => e.1 != k)
  let y := { x with keys := es.map (·.1), vals := es.map (·.2) }
  let d := { d with count := d.count - 1 }
  if !es.isEmpty then return ⟨d, [(i, y)]⟩
  if d.count = 0 then
    let p := pushFree (i :: anc.map (·.1)) ⟨d, []⟩
    return { p with desc := { p.desc with root := nullNode, height := 0 } }
  let q ← unlink rd x anc ⟨d, []⟩ [i]
  return pushFree q.2 q.1

/-! ## Applying a plan -/

/-- The cells that a plan writes: nodes in order, then the descriptor. -/
def planCells (s : State) (k : Kitty) (addr : Nat) (p : Plan) : Except Nat (List (Nat × Byte)) := do
  let ns ← p.nodes.mapM (fun x => do
    let a ← nodeAddr s k true x.1
    return cellsAt a x.2.toBytes)
  return ns.flatten ++ namedCells s (addr + 0x20) p.desc.dynBytes

/-- The kitty of a region for a launch. -/
def kittyOf (asid : Nat) (leases : List (Nat × Nat)) (d : Desc) : Kitty := ⟨asid, d.home / 8, leases, d.kwin⟩

/-- What one single-key operation ends with. -/
inductive KeyRes (α : Type) where
  | ok (x : α)
  | exhausted
  /-- an access outside the lease, at this address -/
  | outside (va : Nat)
  /-- the handle is no longer live, or its descriptor no longer well formed -/
  | dead (sub : Nat)
  /-- a page that it would write is under migration (R361) -/
  | blocked

/-- A node that a plan writes lies in a page under migration (R361). -/
def planBlocked (s : State) (k : Kitty) (p : Plan) : Bool :=
  p.nodes.any (fun x => (walk s k.die k.asid (k.va x.1)).any (fun l => leafWBLK l.1))

/-- The images that a plan replaces join those that a plain load may still see (R307). -/
def noteAges (r : Nat × Nat) (k : Kitty) (p : Plan) (s : State) : State :=
  let old := p.nodes.filterMap (fun x => match nodeAddr s k false x.1 with
    | .ok a => some (r, a, s.mem.bytes a 256)
    | .error _ => none)
  s.updPart (fun q => { q with nodeAges := dedup (old ++ q.nodeAges) })

/-- An operation on a region begins: where none was in flight, every node of it had been written back (R317). -/
def freshAges (r : Nat × Nat) (s : State) : State :=
  if regionBusy s r then s else s.updPart (fun q => { q with nodeAges := q.nodeAges.filter (fun e => e.1 != r) })

/-- Store a value at a key: delete it where the detector calls the value zero, else insert or replace
(R308). The whole store is one moment (R309). -/
def storeKey (asid : Nat) (leases : List (Nat × Nat)) (h : BitVec 32) (k v : Nat) (s : State) : KeyRes State :=
  match handleSubcode s asid h with
  | some c => .dead c
  | none =>
    let i := handleRegion h
    let d := readDesc s asid i
    let ki := kittyOf asid leases d
    let rd := readNode s ki
    let v := v % 2 ^ (8 * 2 ^ d.esz)
    let plan : Except Nat (Option Plan) :=
      if isZeroElem d.etype v then (deletePlan rd d k).map some else insertPlan rd d k v
    match plan with
    | .error va => .outside va
    | .ok none => .exhausted
    | .ok (some p) =>
      if planBlocked s ki p then .blocked
      else match planCells s ki (descAddr s asid i) p with
      | .error va => .outside va
      | .ok cells => .ok (countNodes ki (pathNodes rd d k ++ p.nodes.map (·.1)) (homeWrite cells (noteAges (regionOf asid h) ki p s)))

/-- Read with a search of the region. -/
def searchKey {α : Type} (asid : Nat) (leases : List (Nat × Nat)) (h : BitVec 32)
    (f : (Nat → Except Nat Node) → Desc → Except Nat α) (s : State) : KeyRes α :=
  match handleSubcode s asid h with
  | some c => .dead c
  | none =>
    let d := readDesc s asid (handleRegion h)
    match f (readNode s (kittyOf asid leases d)) d with
    | .error va => .outside va
    | .ok x => .ok x

/-- Every node of the tree, level by level (for KGROW's overlap check, R306). -/
def treeNodes (rd : Nat → Except Nat Node) : Nat → List Nat → Except Nat (List Nat)
  | 0, _ => return []
  | n + 1, is => do
    let xs ← is.mapM rd
    let below := xs.flatMap (fun x => if x.kind = 2 then x.vals else [])
    let r ← treeNodes rd n below
    return is ++ r

/-- Every node of the free list. -/
def freeNodes (rd : Nat → Except Nat Node) : Nat → Nat → Except Nat (List Nat)
  | 0, _ => return []
  | n + 1, h => do
    if h = nullNode then return []
    let x ← rd h
    let r ← freeNodes rd n x.right
    return h :: r

end Sys2Proof.Machine
end

