-- ==== Sys2Proof/Machine/Sparse.lean ====
section
/-! DEFINITION. The sparse-region words SLD, SST, SCUR, SNXT and SISX (R318 to R328). -/

namespace Sys2Proof.Machine

/-! ## Checks (R320) -/

/-- Sparse region error, cause 0x10. -/
def regionReport (h : BitVec 32) (sub : Nat) (ls : Mask) : Report := ⟨0x10#8, h.setWidth 64, BitVec.ofNat 64 sub, ls⟩

/-- A handle's error, reported for every lane of EM. -/
def handleError (s : State) (h : BitVec 32) (sisx : Bool) : Option Report :=
  match handleSubcode s s.launch.asid h with
  | some c => some (regionReport h c s.sq.em)
  | none => if sisx && (readDesc s s.launch.asid (handleRegion h)).esz == 3 then some (regionReport h 4 s.sq.em) else none

/-- The lanes of EM whose key is not a key of the region (subcode 3). -/
def keyError (s : State) (h : BitVec 32) (keys : List (Nat × Nat)) : Option Report :=
  match keys.filter (fun k => !(readDesc s s.launch.asid (handleRegion h)).validKey k.2) with
  | [] => none
  | b :: r => some (regionReport h 3 (maskOfList ((b :: r).map (·.1))))

/-- The kitty access that a search meets outside the lease. -/
def searchOutside {α : Type} (s : State) (h : BitVec 32) (f : (Nat → Except Nat Node) → Desc → Except Nat α) : Option Nat :=
  match searchKey s.launch.asid s.launch.lr.leases h f s with
  | .outside va => some va
  | _ => none

/-- The same for SISX, which searches its two regions in turn (R327). -/
def commonOutside (s : State) (h1 h2 : BitVec 32) : Nat → Nat → Option Nat
  | 0, _ => none
  | f + 1, pos =>
    let search := fun (h : BitVec 32) (p : Nat) =>
      searchKey s.launch.asid s.launch.lr.leases h (fun rd d => leastFrom rd d p) s
    match search h1 pos with
    | .outside va => some va
    | .ok (some (k1, _)) =>
      match search h2 k1 with
      | .outside va => some va
      | .ok (some (k2, _)) => if k2 = k1 then none else commonOutside s h1 h2 f k2
      | _ => none
    | _ => none

/-- Lease violation (cause 0x09) of the lanes whose accesses leave the lease, given with the first address. -/
def outsideReport (kind : Nat) : List (Nat × Nat) → Option Report
  | [] => none
  | b :: r => some ⟨0x09#8, BitVec.ofNat 64 b.2, BitVec.ofNat 64 kind, maskOfList ((b :: r).map (·.1))⟩

/-- Lease violation of the lanes of EM on a read (R320); `f` is what one lane's search meets. -/
def kittyError (keys : List (Nat × Nat)) (f : Nat → Option Nat) : Option Report :=
  outsideReport 0 (keys.filterMap (fun k => (f k.2).map (fun va => (k.1, va))))

/-- The key or position of each lane of EM. -/
def laneKeys (s : State) (a : Opnd) : List (Nat × Nat) := (Mask.list s.sq.em).map (fun l => (l, (val64 s a l).toNat))

/-- B [31:0] and B [63:32] (R319). -/
def handle1 (s : State) (b : Opnd) : BitVec 32 := (uval s b).setWidth 32
def handle2 (s : State) (b : Opnd) : BitVec 32 := (uval s b).extractLsb' 32 32

/-! ## Sparse reads (R321, R322, R325 to R327) -/

/-- A sparse read issues: its registers become empty, and the home slice answers lane by lane. -/
def sparseRead (op : Nat) (m : Bool) (a b : Opnd) (regs : List Opnd) (chk : List (Option Report)) (s : State) : WordOut :=
  if s.sq.em = 0#32 then .done id
  else
    let r1 := regionOf s.launch.asid (handle1 s b)
    let r2 := regionOf s.launch.asid (handle2 s b)
    faultOr (firstOf chk) (fun t =>
      addProd (.sparse op m (handle1 s b) (handle2 s b) (laneKeys s a) none) regs
        (freshAges r1 (if op = 3 then freshAges r2 t else t)))

def ownSld (d a b : Opnd) (m : Bool) (s : State) : WordOut :=
  let h := handle1 s b
  sparseRead 0 m a b (if m then d.pair else [d])
    [handleError s h false, keyError s h (laneKeys s a),
     kittyError (laneKeys s a) (fun k => searchOutside s h (fun rd d => findKey rd d k))] s

def ownScur (d a b : Opnd) (s : State) : WordOut :=
  let h := handle1 s b
  sparseRead 1 false a b d.pair
    [handleError s h false, kittyError (laneKeys s a) (fun p => searchOutside s h (fun rd d => leastFrom rd d p))] s

def ownSnxt (d a b : Opnd) (s : State) : WordOut :=
  let h := handle1 s b
  sparseRead 2 false a b (d.group4 ++ a.pair)
    [handleError s h false, kittyError (laneKeys s a) (fun p => searchOutside s h (fun rd d => leastFrom rd d p))] s

def ownSisx (d a b : Opnd) (s : State) : WordOut :=
  sparseRead 3 false a b (d.group4 ++ a.pair)
    [handleError s (handle1 s b) true, handleError s (handle2 s b) true,
     kittyError (laneKeys s a) (fun p => commonOutside s (handle1 s b) (handle2 s b)
       ((readDesc s s.launch.asid (handleRegion (handle1 s b))).count + 1) p)] s

/-- The low and high words of a 64-bit value. -/
def words2 (x : Nat) : List DWord := [BitVec.ofNat 64 (x % 2 ^ 32), BitVec.ofNat 64 (x / 2 ^ 32 % 2 ^ 32)]

/-- What one probe makes of the lane at the head of a sparse read. -/
inductive ProbeRes where
  /-- the lane's values, one for each register written -/
  | answer (vals : List DWord)
  /-- SISX's first region has answered -/
  | half (k1 x1 : Nat)
  /-- SISX goes on from a later position -/
  | again (pos : Nat)

/-- The cursor position after a key (R326, R327). -/
def nextPos (k : Nat) : Nat := if k = endCode then endCode else k + 1

/-- One single-key operation of a sparse read (R322, R325 to R327). -/
def probeLane (asid : Nat) (leases : List (Nat × Nat)) (op : Nat) (m : Bool) (h1 h2 : BitVec 32) (pos : Nat)
    (probe : Option (Nat × Nat)) (s : State) : KeyRes ProbeRes :=
  let ending : ProbeRes := .answer (words2 endCode ++ (if op = 2 then words2 0 else [0#64, 0#64]) ++ words2 endCode)
  if op != 0 && pos == endCode && probe.isNone then
    -- a step from END makes no request (R324)
    .ok (if op = 1 then .answer (words2 endCode) else ending)
  else match op with
  | 0 =>
    match searchKey asid leases h1 (fun rd d => findKey rd d pos) s with
    | .ok x => .ok (.answer (if m then words2 (x.getD 0) else (words2 (x.getD 0)).take 1))
    | .exhausted => .exhausted
    | .outside va => .outside va
    | .dead c => .dead c
    | .blocked => .blocked
  | 1 =>
    match searchKey asid leases h1 (fun rd d => leastFrom rd d pos) s with
    | .ok x => .ok (.answer (words2 ((x.map (·.1)).getD endCode)))
    | .exhausted => .exhausted
    | .outside va => .outside va
    | .dead c => .dead c
    | .blocked => .blocked
  | 2 =>
    match searchKey asid leases h1 (fun rd d => leastFrom rd d pos) s with
    | .ok none => .ok ending
    | .ok (some (k, x)) => .ok (.answer (words2 k ++ words2 x ++ words2 (nextPos k)))
    | .exhausted => .exhausted
    | .outside va => .outside va
    | .dead c => .dead c
    | .blocked => .blocked
  | _ =>
    match probe with
    | none =>
      match searchKey asid leases h1 (fun rd d => leastFrom rd d pos) s with
      | .ok none => .ok ending
      | .ok (some (k1, x1)) => .ok (.half k1 x1)
      | .exhausted => .exhausted
      | .outside va => .outside va
      | .dead c => .dead c
      | .blocked => .blocked
    | some (k1, x1) =>
      match searchKey asid leases h2 (fun rd d => leastFrom rd d k1) s with
      | .ok none => .ok ending
      | .ok (some (k2, x2)) =>
        if k2 = k1 then
          .ok (.answer (words2 k1 ++ (words2 x1).take 1 ++ (words2 x2).take 1 ++ words2 (nextPos k1)))
        else .ok (.again k2)
      | .exhausted => .exhausted
      | .outside va => .outside va
      | .dead c => .dead c
      | .blocked => .blocked

/-- Count the nodes that one operation of a sparse read reaches (R360). -/
def countProbe (asid : Nat) (leases : List (Nat × Nat)) (op : Nat) (h1 h2 : BitVec 32) (pos : Nat) (probe : Option (Nat × Nat))
    (s : State) : State :=
  let second := op == 3 && probe.isSome
  let d := readDesc s asid (handleRegion (if second then h2 else h1))
  let ki := kittyOf asid leases d
  let key := if second then (probe.getD (0, 0)).1 else pos
  countNodes ki (if op = 0 then pathNodes (readNode s ki) d key else searchNodes (readNode s ki) d key) s

/-- The regions of a sparse read. -/
def readRegions (op : Nat) (h1 h2 : BitVec 32) : List Nat :=
  if op = 3 then [handleRegion h1, handleRegion h2] else [handleRegion h1]

/-- A sparse read may be answered: it is a coherent load (R309), so fences hold it, and it takes its turn
behind the older loads of its squad and its older reads of the same region. -/
def sparseReady (q : Squad) (seq op : Nat) (h1 h2 : BitVec 32) : Bool :=
  !q.fences.any (fun f => decide (f.seq < seq) && (f.acq || f.full))
    && !q.prods.any (fun r => decide (r.seq < seq) && (match r.kind with
      | .load _ _ _ _ _ _ | .atomic _ _ => true
      | .sparse op2 _ g1 g2 (_ :: _) _ => (readRegions op2 g1 g2).any (readRegions op h1 h2).contains
      | _ => false))

/-- A kitty access outside the lease ends the launch (R304, R141). -/
def leaseEnd (k : SquadKey) (va kind : Nat) (s : State) : State :=
  let t := s.focus k
  let r : Report := ⟨0x09#8, BitVec.ofNat 64 va, BitVec.ofNat 64 kind, t.sq.em⟩
  if inHandler t then trapInTrap r t else terminalReport r t

/-- A handle dies, or its descriptor, while lanes of a sparse read that has retired are still to be answered:
the squad traps with cause 0x10 at the chain it stands at, and no lane takes effect: the registers are full
again, unchanged (R302, R304, R320; log 21). -/
def deadRead (k : SquadKey) (seq : Nat) (h : BitVec 32) (sub : Nat) (ls : Mask) (s : State) : State :=
  let t := s.updSq k (fun q =>
    let regs := ((q.prods.find? (·.seq == seq)).map (·.regs)).getD []
    { regs.foldl (fun q o => q.setFE o true) q with prods := q.prods.filter (·.seq != seq) })
  if (s.getSq k).status = .live then
    let t := t.focus k
    takeTrap (regionReport h sub ls) t.sq.pkt t.sq.word 0 (chainFrom (packetWords t) t.sq.word).length t
  else t

/-- The home slice accepts the next operation of a pending sparse read. -/
def acceptRead (k : SquadKey) (seq : Nat) (s : State) : State :=
  let q := s.getSq k
  let l := s.getLaunch k.lid
  match q.prods.find? (·.seq == seq) with
  | some ⟨_, .sparse op m h1 h2 ((lane, pos) :: rest) probe, _, done, _⟩ =>
    if !sparseReady q seq op h1 h2 then s
    else
      let set := fun (todo : List (Nat × Nat)) (pr : Option (Nat × Nat)) (got : List (Nat × List DWord)) =>
        (countProbe l.asid l.lr.leases op h1 h2 pos probe s).updSq k (fun q => { q with prods := q.prods.map (fun p =>
          if p.seq = seq then { p with kind := .sparse op m h1 h2 todo pr, got := p.got ++ got } else p) })
      match probeLane l.asid l.lr.leases op m h1 h2 pos probe s with
      | .ok (.answer v) => set rest none [(lane, v)]
      | .ok (.half k1 x1) => set ((lane, pos) :: rest) (some (k1, x1)) []
      | .ok (.again p) => set ((lane, p) :: rest) none []
      | .outside va =>
        leaseEnd k va 0 (s.updSq k (fun q => { q with prods := q.prods.filter (·.seq != seq) }))
      | .dead c =>
        if q.mprog.any (·.doomed) then s
        else deadRead k seq (if op == 3 && probe.isSome then h2 else h1) c
          (maskOfList (done.map (·.1) ++ lane :: rest.map (·.1))) s
      | _ => s
  | _ => s

/-! ## SST (R321, R323) -/

/-- How a run of accepted lanes ends. -/
inductive SstEnd where
  | fine
  | exhausted
  | outside (va : Nat)
  | dead (sub : Nat)

/-- Accept up to `n` lanes in order: the state, the lanes left, and how it ended. -/
def acceptLanes (asid : Nat) (leases : List (Nat × Nat)) (h : BitVec 32) :
    Nat → List (Nat × Nat × Nat) → State → State × List (Nat × Nat × Nat) × SstEnd
  | 0, todo, s => (s, todo, .fine)
  | _ + 1, [], s => (s, [], .fine)
  | n + 1, (l, k, v) :: r, s =>
    match storeKey asid leases h k v s with
    | .ok t => acceptLanes asid leases h n r t
    | .outside va => (s, (l, k, v) :: r, .outside va)
    | .blocked => (s, (l, k, v) :: r, .fine)
    | .dead c => (s, (l, k, v) :: r, .dead c)
    | .exhausted => (s, (l, k, v) :: r, .exhausted)

/-- The lanes of an SST whose accesses would leave the lease, each with its address, if every lane were
accepted now. The check comes before any lane takes effect, so a lane that would find the kitty dry does not
hide those behind it (R320, R323). -/
def lanesOutside (asid : Nat) (leases : List (Nat × Nat)) (h : BitVec 32) :
    List (Nat × Nat × Nat) → State → List (Nat × Nat)
  | [], _ => []
  | (l, k, v) :: r, s =>
    match storeKey asid leases h k v s with
    | .ok t => lanesOutside asid leases h r t
    | .outside va => (l, va) :: lanesOutside asid leases h r s
    | .blocked | .exhausted => lanesOutside asid leases h r s
    | .dead _ => []

/-- Kitty exhausted, cause 0x0F (R323). -/
def exhaustedReport (h : BitVec 32) (todo : List (Nat × Nat × Nat)) : Report :=
  ⟨0x0F#8, BitVec.ofNat 64 ((todo.headD (0, 0, 0)).1), h.setWidth 64, maskOfList (todo.map (·.1))⟩

/-- An SST waits for fences and for the earlier loads of its squad (R213, R242), and not for its atomics (R321). -/
def storeHeld (q : Squad) : Bool :=
  !q.fences.isEmpty || q.prods.any (fun p => p.kind.pendingLoad && (match p.kind with | .atomic _ _ => false | _ => true))

/-- The datum of an SST lane: the lane's word, or the pair or register under .d (R323). -/
def sstDatum (s : State) (m : Bool) (d : Opnd) (l : Nat) : Nat :=
  if m then (val64 s d l).toNat else ((val s d l).setWidth 32).toNat

/-- SST: the slice accepts up to `sstChunk` lanes at issue (log 3); with lanes left the chain is held, and
SINGLE_KEY_OPERATION accepts the others one at a time. Nothing read ahead of it passes it (R321). -/
def ownSst (c : Bool) (d a b : Opnd) (e f m : Bool) (s : State) : WordOut :=
  if s.sq.em = 0#32 then .done id
  else
    match s.sq.sst with
    | some _ => .done (fun t =>
        let t := t.onSq (fun q => { q with sst := none })
        if t.team.status = .preempting then endRun t else t)
    | none =>
      let h := handle1 s b
      let keys := laneKeys s a
      if turnHeld false s then .wait .turn
      else
        let todo := keys.map (fun k => (k.1, k.2, sstDatum s m d k.1))
        match firstOf [handleError s h false, keyError s h keys,
            outsideReport 1 (lanesOutside s.launch.asid s.launch.lr.leases h todo s)] with
        | some r => .trap r
        | none =>
          if storeHeld s.sq then .wait .order
          else
            let run := fun (u : State) =>
              acceptLanes s.launch.asid s.launch.lr.leases h s.sstChunk todo (freshAges (regionOf s.launch.asid h) u)
            let accepted := fun (t : State) => dropAhead t.core.id t.sq.key (run t).1
            match (run s).2.2 with
            | .exhausted => .fail accepted (exhaustedReport h (run s).2.1)
            | .outside va => .trap ⟨0x09#8, BitVec.ofNat 64 va, 1#64, maskOfList (((run s).2.1.take 1).map (·.1))⟩
            | .dead c => .fail accepted (regionReport h c s.sq.em)
            | .fine =>
              if (run s).2.1.isEmpty then .done accepted
              else .hold false .sst (fun t =>
                (accepted t).onSq (fun q => { q with sst := some ⟨.sst c d a b e f m, h, (run s).2.1⟩ }))

/-- The record of an SST that issues now: its lanes, all still to be accepted. -/
def sstRecord (i : Instr) (s : State) : Option SstRec :=
  match i with
  | .sst _ d a b _ _ m => some ⟨i, handle1 s b, (laneKeys s a).map (fun k => (k.1, k.2, sstDatum s m d k.1))⟩
  | _ => none

/-- The home slice accepts the next lane of a held SST. -/
def acceptStore (k : SquadKey) (s : State) : State :=
  let q := s.getSq k
  let l := s.getLaunch k.lid
  match q.sst with
  | some ⟨w, h, todo⟩ =>
    match todo with
    | [] => s
    | _ :: _ =>
      let o := acceptLanes l.asid l.lr.leases h 1 todo s
      let r := (dropAhead (s.getTeam k.team).core k o.1, o.2)
      match r.2.2 with
      | .fine => r.1.updSq k (fun q => { q with sst := some ⟨w, h, r.2.1⟩, wait := if r.2.1.isEmpty then none else q.wait })
      | .exhausted => trapAtWord (exhaustedReport h todo) w ((r.1.focus k).onSq (fun q => { q with sst := none }))
      | .outside va => leaseEnd k va 1 r.1
      | .dead c =>
        let t := (r.1.focus k).onSq (fun q => { q with sst := none })
        trapAtWord (regionReport h c t.sq.em) w t
  | none => s

/-! ## What is left of a word behind a word of its chain (R105, R230) -/

/-- An SST at place `n` of program order, behind a BAR.sync of its chain, waits for the fences and the earlier loads of
its squad (R213, R225, R242). -/
def lateStoreHeld (q : Squad) (n : Nat) : Bool :=
  q.fences.any (fun f => decide (f.seq < n)) || q.prods.any (fun p => decide (p.seq < n) && p.kind.orders)

/-- The order of a word at place `n` allows what is left of it. -/
def lateReady (n : Nat) (w : Late) (s : State) : Bool :=
  match w with
  | .arrive _ _ _ | .put _ _ _ => releasedBefore s.sq n
  | .ifence => storesHome n s
  | .tile _ ws => !readBlocked s n (ws.map (·.2.2))
  | .acc _ _ es => !readBlocked s n (es.map (·.2.2))
  | .sst _ _ _ _ _ => nothingLate s.sq n && !lateStoreHeld s.sq n

/-- The slice accepts the next lane of an SST behind a BAR.sync of its chain, which stays at the head of `rest` while
lanes are left. A trap of it stands at its chain and takes what is left behind it away (R107, R321, R323; log 11). -/
def lateSst (n : Nat) (r : SstRec) (pkt word chw clen : Nat) (rest : List (Nat × Late)) (s : State) : State :=
  let traps := fun (x : Report) (t : State) => takeTrap x pkt word chw clen (t.onSq (fun q => { q with late := [] }))
  let o := acceptLanes s.launch.asid s.launch.lr.leases r.handle 1 r.todo s
  let t := dropAhead s.core.id s.sq.key o.1
  match o.2.2 with
  | .fine => t.onSq (fun q => { q with
      late := if o.2.1.isEmpty then rest else (n, .sst { r with todo := o.2.1 } pkt word chw clen) :: rest })
  | .exhausted => traps (exhaustedReport r.handle r.todo) t
  | .outside va => leaseEnd s.sq.key va 1 t
  | .dead c => traps (regionReport r.handle c s.sq.em) t

/-- What is left of the word at the head of the list takes effect, or the next part of it. -/
def lateEffect (n : Nat) (w : Late) (rest : List (Nat × Late)) (s : State) : State :=
  let t := s.onSq (fun q => { q with late := rest })
  match w with
  | .arrive b c d => makeArrival b c d t
  | .put shoe k fill => setShoeState shoe (putSlots fill k) t
  | .ifence => discardFetched t
  | .tile p ws => loadTile n p ws t
  | .acc p em es => loadAcc n p em es t
  | .sst r pkt word chw clen => lateSst n r pkt word chw clen rest s

/-- The first word left of the current squad's last chain takes effect, where its order allows. The run of a
squad that is to be pre-empted ends with the last of them (R347). -/
def doLate (s : State) : Option State :=
  match s.sq.late with
  | [] => none
  | (n, w) :: r =>
    if lateReady n w s then
      let t := settle (lateEffect n w r s)
      some (if t.team.status = .preempting && r.isEmpty && t.sq.late.isEmpty then endRun t else t)
    else none

end Sys2Proof.Machine
end

