-- ==== Sys2Proof/Machine/Levels.lean ====
section
/-! DEFINITION. What the graph walker reads, node and level handles, and cancel (R329 to R333, R339, R340). -/

namespace Sys2Proof.Machine

/-! ## The walker's accesses (die 0) -/

/-- The physical address that an ASID gives the walker: none where no leaf maps the page, or a port on the way accepts no
access (R393). DESIGN CHOICE (log 36): an address in the walker's structures with nonzero bits [63:56] is taken by its low
56 bits, since the spec says nothing of them there. -/
def walkerAddr (s : State) (asid va : Nat) : Option Nat :=
  ((walk s 0 asid va).filter (fun l => reachable s (physOf l va))).map (fun l => canon s (physOf l va))

/-- A write of the walker or of firmware waits: a page of it is under migration, or behind a port that is down (R361,
R393). -/
def walkerHeld (s : State) (asid : Nat) (vas : List Nat) : Bool :=
  vas.any (fun va => (walk s 0 asid va).any (fun l => leafWBLK l.1 || !reachable s (physOf l va)))

/-- Bytes the walker reads as coherent loads. -/
def walkerRead (s : State) (asid va n : Nat) : Option (List Byte) :=
  (span va n).mapM (fun a => (walkerAddr s asid a).map (dieByte s 0))

def walkerValue (s : State) (asid va n : Nat) : Option Nat := (walkerRead s asid va n).map ofBytes

/-- Bytes the walker writes at their home. -/
def walkerWrite (asid va : Nat) (bs : List Byte) (s : State) : State :=
  homeWrite ((cellsAt va bs).filterMap (fun c => (walkerAddr s asid c.1).map (·, c.2))) s

/-! ## Graphs and nodes (R331, R333) -/

def State.findGraph (s : State) (g : Nat) : Option Graph := s.part.graphs.find? (·.idx == g)
def State.updGraph (s : State) (g : Nat) (f : Graph → Graph) : State :=
  s.updPart (fun p => { p with graphs := p.graphs.map (fun x => if x.idx = g then f x else x) })

/-- The 64 bytes of a node. -/
def nodeBytes (s : State) (g : Graph) (n : Nat) : List Byte := (walkerRead s g.asid (g.base + 64 * n) 64).getD []

/-- A graph node (R331). -/
structure GNode where
  kind : Nat
  npred : Nat
  nsucc : Nat
  thresh : Nat
  lrec : Nat
  succ : Nat
  queue : Nat
  cond : Nat
  tmo : Nat
  /-- reserved bytes are zero -/
  clean : Bool
deriving DecidableEq, Repr, Inhabited

def GNode.ofBytes (b : List Byte) : GNode where
  kind := field b 0 1
  npred := field b 2 2
  nsucc := field b 4 2
  thresh := field b 6 2
  lrec := field b 8 8
  succ := field b 0x10 8
  queue := field b 0x18 8
  cond := field b 0x20 8
  tmo := field b 0x28 4
  clean := b.length == 64 && zeroAt b 1 1 && zeroAt b 0x2C 20

def gnode (s : State) (g : Graph) (n : Nat) : GNode := GNode.ofBytes (nodeBytes s g n)

/-- A well-formed node (R331). -/
def GNode.wf (x : GNode) : Bool :=
  x.clean && decide (x.kind ≤ 3) && decide (x.nsucc ≤ 64)
    && (if x.kind = 1 then decide (1 ≤ x.thresh) && decide (x.thresh ≤ 64) else x.thresh == 0)

/-- The node a handle names, for a squad's ASID; `none` where the handle is unknown (R333). -/
def handleNode (s : State) (asid : Nat) (h : DWord) : Option (Graph × Nat × GNode) :=
  if h.extractLsb' 28 36 != 0#36 then none
  else match s.findGraph (h.extractLsb' 16 12).toNat with
    | none => none
    | some g =>
      let n := (h.extractLsb' 0 16).toNat
      if g.asid = asid && decide (n < g.count) then some (g, n, gnode s g n) else none

/-- A queue handle (R333): the node's kind, one of the four of R331, uses a queue, and the field is not 0. -/
def queueHandle (s : State) (asid : Nat) (h : DWord) : Option (Graph × Nat × GNode) :=
  (handleNode s asid h).filter (fun r => decide (r.2.2.kind ≤ 3) && r.2.2.queue != 0)

/-- A condition handle: a conditional or a while node whose COND is not 0. -/
def condHandle (s : State) (asid : Nat) (h : DWord) : Option (Graph × Nat × GNode) :=
  (handleNode s asid h).filter (fun r => (r.2.2.kind == 2 || r.2.2.kind == 3) && r.2.2.cond != 0)

/-- The header of an input queue (R329). -/
structure QHead where
  tail : Nat
  head : Nat
  slots : Nat
  nslot : Nat
  /-- its reserved bytes are zero (R7) -/
  clean : Bool
deriving DecidableEq, Repr, Inhabited

def queueHead (s : State) (asid va : Nat) : Option QHead :=
  (walkerRead s asid va 64).map (fun b => ⟨field b 0 8, field b 8 8, field b 0x10 8, field b 0x18 4, zeroAt b 0x1C 36⟩)

/-! ## What can still happen in a graph (R339) -/

/-- Completions needed to fire a node. -/
def needs (x : GNode) : Nat := max 1 x.npred

/-- The completions that fire a node once NPRED of them have arrived (R332): those that share a job where there are as many,
else the oldest (log 54); the jobs of the firing, with what is left of the graph's completions. -/
def arrivals (g : Graph) (node n : Nat) : Option (List Nat × List (Nat × List Nat)) :=
  let mine := g.arrived.filter (·.1 == node)
  let of := fun (j : Nat) => mine.filter (·.2.contains j)
  let taken := match (dedup (mine.flatMap (·.2))).find? (fun j => decide (n ≤ (of j).length)) with
    | some j => (of j).take n
    | none => mine.take n
  if mine.length < n then none else some (dedup (taken.flatMap (·.2)), taken.foldl List.erase g.arrived)

/-- A launch is in progress. -/
def Launch.active (l : Launch) : Bool := l.status == .running || l.status == .stopping

/-- No node of a graph can fire: nothing of it runs, waits or is on its way (R339). -/
def graphIdle (s : State) (g : Graph) : Bool :=
  !s.part.submitted.any (·.graph == g.idx) && !s.allLaunches.any (fun l => l.graph == g.idx && l.active)
    && g.waiting.isEmpty && g.appended.isEmpty && g.loops.isEmpty
    && g.arrived.all (fun a => (arrivals g a.1 (needs (gnode s g a.1))).isNone)
    && s.part.jobs.all (fun j => j.graph != g.idx || j.done)

/-! ## Levels (R339) -/

inductive Level where
  | launch (i : Nat)
  | graph (i : Nat)
  | phase (i : Nat)
  | job (i : Nat)
deriving DecidableEq, Repr

/-- The level a handle names. -/
def levelOf (h : DWord) : Level :=
  let i := (h.extractLsb' 0 30).toNat
  match (h.extractLsb' 30 2).toNat with
  | 0 => .launch i
  | 1 => .graph i
  | 2 => .phase i
  | _ => .job i

def State.findJob (s : State) (j : Nat) : Option Job := s.part.jobs.find? (·.id == j)
def State.updJob (s : State) (j : Nat) (f : Job → Job) : State :=
  s.updPart (fun p => { p with jobs := p.jobs.map (fun x => if x.id = j then f x else x) })

/-- Of the levels that one index fits, the live one, or the last where none is live (R339). -/
def pickLive {α : Type} (live : α → Bool) (l : List α) : Option α := (l.find? live).or l.getLast?

/-- The launch whose number has these low 30 bits. -/
def launchByIndex (s : State) (i : Nat) : Option Launch :=
  pickLive Launch.active (s.allLaunches.filter (fun l => l.lid % 2 ^ 30 == i))

/-- The job whose number has these low 30 bits. -/
def jobByIndex (s : State) (i : Nat) : Option Job := pickLive (fun j => !j.done) (s.part.jobs.filter (fun j => j.id % 2 ^ 30 == i))

/-- Counter and cancelled mark of a level; `none` where the handle names no level. -/
def levelState (s : State) : Level → Option (Nat × Bool)
  | .launch i => (launchByIndex s i).map (fun l => (l.retired, l.ending.code != 0))
  | .graph i => (s.findGraph i).map (fun g => (g.counter, g.cancelled))
  | .phase i => (s.part.phases.find? (·.idx == i)).map (fun p => (p.counter, p.cancelled))
  | .job i => (jobByIndex s i).map (fun j => (j.counter, j.ending.code != 0))

/-- A level is complete (R339). -/
def levelComplete (s : State) : Level → Bool
  | .launch i => (launchByIndex s i).all (·.status == .done)
  | .graph i => (s.findGraph i).all (graphIdle s)
  | .phase i => (s.part.graphs.filter (fun g => g.form.phase == some i)).all (graphIdle s)
  | .job i => (jobByIndex s i).all (·.done)

/-- A level handle names a level: its upper half is zero and the level exists. -/
def levelLive (s : State) (h : DWord) : Bool := h.extractLsb' 32 32 == 0#32 && (levelState s (levelOf h)).isSome

/-- The end of a cancelled launch or job. -/
def cancelEnding : Ending := ⟨1, 0, 0#64, 0#64⟩

/-- A job's number leaves a list; what no job is left for is dropped. -/
def keepJobs {α : Type} (j : Nat) (get : α → List Nat) (put : α → List Nat → α) (l : List α) : List α :=
  l.filterMap (fun x => if get x = [j] then none else some (put x ((get x).filter (· != j))))

/-- What a graph still holds for a job goes. -/
def Graph.forget (j : Nat) (g : Graph) : Graph :=
  { g with
    arrived := keepJobs j (·.2) (fun x js => (x.1, js)) g.arrived
    waiting := keepJobs j (·.jobs) (fun x js => { x with jobs := js }) g.waiting
    loops := keepJobs j (·.2.2) (fun x js => (x.1, x.2.1, js)) g.loops
    appended := g.appended.map (fun x => (x.1, x.2.1, x.2.2.1.filter (· != j), x.2.2.2)) }

/-- A job ends early: no new launches, its launches stop, their commands end with code 0x01 (R340). -/
def stopJob (j : Nat) (e : Ending) (s : State) : State :=
  match s.findJob j with
  | none => s
  | some x =>
    if x.done || x.ending.code != 0 then s
    else
      let s := s.updJob j (fun x => { x with ending := e })
      let s := s.updPart (fun p => { p with
        submitted := keepJobs j (·.jobs) (fun x js => { x with jobs := js }) p.submitted
        graphs := p.graphs.map (Graph.forget j) })
      let ends := fun (l : Launch) => l.status == .running && l.jobs.contains j
        && l.jobs.all (fun i => (s.findJob i).all (fun x => x.ending.code != 0))
      (s.allLaunches.filter ends).foldl (fun t l => endLaunch l.lid cancelEnding t) s

/-- What a graph still holds for a job goes, for whichever jobs else it stands there. A record that stays in a queue is
dropped when the walker takes it. -/
def Graph.without (j : Nat) (g : Graph) : Graph :=
  { g with
    arrived := g.arrived.filter (fun x => !x.2.contains j)
    waiting := g.waiting.filter (fun x => !x.jobs.contains j)
    loops := g.loops.filter (fun x => !x.2.2.contains j)
    appended := g.appended.map (fun x => (x.1, x.2.1, if x.2.2.1.contains j then [] else x.2.2.1, x.2.2.2)) }

/-- Jobs that have neither ended nor been stopped end as cancelled. -/
def endJobs (p : Job → Bool) (s : State) : State :=
  s.updPart (fun x => { x with jobs := x.jobs.map (fun y => if p y && !y.done && y.ending.code == 0 then { y with ending := cancelEnding } else y) })

/-- Running launches stop as cancelled (R340). -/
def endLaunches (p : Launch → Bool) (s : State) : State :=
  (s.allLaunches.filter (fun l => l.status == .running && p l)).foldl (fun t l => endLaunch l.lid cancelEnding t) s

/-- Cancel a job: no launch of it starts any more, and every running one stops, whichever other jobs they belong to. Those
jobs go on with what else is theirs (R340; log 54). -/
def cancelJob (j : Nat) (s : State) : State :=
  match s.findJob j with
  | none => s
  | some x =>
    if x.done || x.ending.code != 0 then s
    else endLaunches (·.jobs.contains j) ((endJobs (·.id == j) s).updPart (fun p => { p with
      submitted := p.submitted.filter (fun x => !x.jobs.contains j)
      graphs := p.graphs.map (Graph.without j) }))

/-- What a cancelled graph still holds goes: no launch of it starts. -/
def Graph.empty (g : Graph) : Graph :=
  { g with cancelled := true, arrived := [], waiting := [], loops := [], appended := [] }

/-- Cancel a graph: its jobs, and the launches in it, whichever jobs they belong to. What runs in other graphs goes on
(R340; log 54). -/
def cancelGraph (g : Nat) (s : State) : State :=
  match s.findGraph g with
  | none => s
  | some x =>
    if x.cancelled || graphIdle s x then s
    else endLaunches (·.graph == g) ((endJobs (·.graph == g) (s.updGraph g Graph.empty)).updPart (fun p => { p with
      submitted := p.submitted.filter (·.graph != g) }))

/-- Cancel a level; a second cancel, or one of a complete level, changes nothing (R340). -/
def cancelLevel (l : Level) (s : State) : State :=
  match l with
  | .launch i =>
    match launchByIndex s i with
    | none => s
    | some x => if x.status = .running then endLaunch x.lid cancelEnding s else s
  | .graph i => cancelGraph i s
  | .phase i =>
    match s.part.phases.find? (·.idx == i) with
    | none => s
    | some p =>
      if p.cancelled || levelComplete s (.phase i) then s
      else (s.part.graphs.filter (fun g => g.form.phase == some i)).foldl (fun t g => cancelGraph g.idx t)
        (s.updPart (fun q => { q with phases := q.phases.map (fun x => if x.idx = i then { x with cancelled := true } else x) }))
  | .job i =>
    match jobByIndex s i with
    | none => s
    | some j => cancelJob j.id s

end Sys2Proof.Machine
end

