-- ==== Sys2Proof/Machine/Engines.lean ====
section
/-! DEFINITION. The asynchronous engines: ENG and its checks, the progress of commands, and tickets
(R255 to R267, R299 to R301, R313 to R315, R400). -/

namespace Sys2Proof.Machine

/-! ## Tensor records (R256) -/

/-- A signed 32-bit field. -/
def signed32 (x : Nat) : Int := if x < 2 ^ 31 then x else (x : Int) - 2 ^ 32

def TensorRec.ofBytes (b : List Byte) : TensorRec where
  base := field b 0 8
  esz := field b 8 1
  rank := field b 9 1
  dkind := field b 0x0A 1
  scope := field b 0x0B 1
  etype := field b 0x0C 1
  mcast := BitVec.ofNat 8 (field b 0x0D 1)
  box := (List.range 5).map (fun d => field b (0x10 + 2 * d) 2)
  str := (List.range 4).map (fun d => signed32 (field b (0x20 + 4 * d) 4))
  org := BitVec.ofNat 64 (field b 0x30 8)
  aux := BitVec.ofNat 64 (field b 0x38 8)

/-- bytes(ESZ). -/
def TensorRec.eb (r : TensorRec) : Nat := 2 ^ r.esz
def TensorRec.ext (r : TensorRec) (d : Nat) : Nat := r.box.getD d 1
/-- The stride of dimension `d` ≥ 1. -/
def TensorRec.stride (r : TensorRec) (d : Nat) : Int := r.str.getD (d - 1) 0
/-- Elements of the box. -/
def TensorRec.count (r : TensorRec) : Nat := r.box.foldl (· * ·) 1

/-- The index of element `n` in box order. -/
def boxIndex : List Nat → Nat → List Nat
  | [], _ => []
  | e :: r, n => n % e :: boxIndex r (n / e)

/-- The address of a box element, computed exactly (R256). -/
def TensorRec.addr (r : TensorRec) (n : Nat) : Int :=
  let ix := boxIndex r.box n
  (r.base : Int) + (ix.getD 0 0 * r.eb : Nat) + ([1, 2, 3, 4].map (fun d => ((ix.getD d 0 : Nat) : Int) * r.stride d)).sum

/-- The byte hull of the source box: first byte and the byte after the last. -/
def TensorRec.hull (r : TensorRec) : Int × Int :=
  let ends := [1, 2, 3, 4].map (fun d => ((r.ext d : Int) - 1) * r.stride d)
  ((r.base : Int) + (ends.map (min 0)).sum,
   (r.base : Int) + (r.ext 0 * r.eb : Nat) + (ends.map (max 0)).sum)

/-! ## Functions (Tables 9-8, 18-3 and 20-2) -/

/-- The functions that read a tensor record. -/
def tensorFn (fn : Nat) : Bool := fn ≤ 5
def dkindsOf (fn : Nat) : List Nat :=
  match fn with
  | 0 => [2]
  | 1 => [0, 1, 3]
  | 4 => [3]
  | _ => [0]

/-- The offset of the first bad field of a record, where a check fails. -/
def firstBad (l : List (Nat × Bool)) : Option Nat := (l.find? (·.2)).map (·.1)

/-- A nonzero byte from `off` on, by its own offset's field. -/
def nonzeroFrom (b : List Byte) (off n : Nat) : Bool := !zeroAt b off n

/-- The checks of a tensor record that need no region (R257, Table 20-2), in offset order, and last of the output operand in
s[SB], at 0x40: for SPAR, that its upper half is zero, where R301 names no cause (the model's choice, log 28). -/
def tensorBad (fn : Nat) (b : List Byte) (sb : DWord) : Option Nat :=
  let r := TensorRec.ofBytes b
  let h := r.hull
  let out := if fn = 0 then sb.extractLsb' 17 47 != 0#47
    else if fn = 3 then sb.extractLsb' 32 32 != 0#32
    else if fn = 2 || (fn = 1 && r.dkind == 0) then decide (2 ^ 56 < sb.toNat + r.count * r.eb)
    else if fn = 5 then decide (2 ^ 56 ≤ sb.toNat) else false
  firstBad <|
    [(0x00, decide (2 ^ 56 ≤ r.base)),
     (0x08, !typeAgrees r.esz (if r.etype ≤ 4 then r.etype else 0) || (fn == 0 && r.esz == 3) || (fn == 5 && r.esz != 2)),
     (0x09, r.rank == 0 || decide (5 < r.rank) || (fn == 0 && r.rank != 2)),
     (0x0A, !(dkindsOf fn).contains r.dkind),
     (0x0B, r.scope == 0 || decide (4 < r.scope)),
     (0x0C, decide (4 < r.etype) || (fn == 5 && r.etype != 3)),
     (0x0D, fn != 0 && r.mcast != 0#8),
     (0x0E, nonzeroFrom b 0x0E 2)]
    ++ (List.range 5).map (fun d => (0x10 + 2 * d,
        r.ext d == 0 || (decide (r.rank ≤ d) && r.ext d != 1) || (fn == 0 && d == 0 && decide (64 < r.ext 0))))
    ++ [(0x1A, nonzeroFrom b 0x1A 6)]
    ++ [1, 2, 3, 4].map (fun d => (0x1C + 4 * d, decide (r.rank ≤ d) && r.stride d != 0))
    ++ [(0x30, fn != 2 && fn != 3 && r.org != 0#64),
        (0x38, if fn = 2 then r.aux.extractLsb' 32 32 != 0#32
               else if fn = 4 || fn = 5 then r.aux.extractLsb' 56 8 != 0#8 else r.aux != 0#64),
        (0x00, decide (h.1 < 0) || decide (2 ^ 56 < h.2)),
        (0x00, fn == 1 && r.dkind == 0 && decide (h.1 < (sb.toNat + r.count * r.eb : Nat)) && decide ((sb.toNat : Int) < h.2)),
        (0x40, out)]

/-- The checks of the other records (Table 20-2, R400). An area that must be zero is reported at its first nonzero
eight bytes for GCOND, LVLW and CANCEL, and at its start for HASH and KGROW, which the spec leaves open (log 28). -/
def recordBad (fn : Nat) (b : List Byte) (sb : DWord) : Option Nat :=
  match fn with
  | 6 => none
  | 7 | 8 => firstBad ((List.range 7).map (fun i => (8 * (i + 1), nonzeroFrom b (8 * (i + 1)) 8)))
  | 9 => firstBad ((List.range 8).map (fun i => (8 * i, nonzeroFrom b (8 * i) 8)))
  | 10 => firstBad [(0x00, field b 0 8 % 65536 != 0 || decide (2 ^ 56 ≤ field b 0 8)), (0x08, field b 8 8 % 65536 != 0),
      (0x10, decide (2 ^ 56 ≤ field b 0x10 8)), (0x18, nonzeroFrom b 0x18 40)]
  | 11 => firstBad [(0x00, field b 0 8 % 256 != 0),
      (0x08, field b 8 8 == 0 || decide (2 ^ 32 ≤ field b 8 8)), (0x10, nonzeroFrom b 0x10 48)]
  | _ => tensorBad fn b sb

/-- Engine record error, cause 0x19. -/
def recordReport (a : DWord) (off : Nat) (s : State) : Report := ⟨0x19#8, a, BitVec.ofNat 64 off, s.sq.em⟩

/-! ## The record (R300 step 2) -/

def scratchRecord (a : DWord) : Bool := a.getLsbD 63
def recordOffset (a : DWord) : Nat := (a.extractLsb' 0 20).toNat

/-- The checks of the record address (R300 step 2). For a record in scratch R300 gives no details: the model reports a
misaligned one by its offset in scratch, without bit 63, and one that leaves the allocation by the whole of s[SA] in
TINFO1 (log 28). -/
def recordFault (a : DWord) (s : State) : Option Report :=
  let l := lowest s.sq.em
  if scratchRecord a then
    if recordOffset a % 64 != 0 then some ⟨0x0B#8, BitVec.ofNat 64 (recordOffset a), 64#64, s.sq.em⟩
    else if a.extractLsb' 20 43 != 0#43 || decide (s.team.scr < recordOffset a + 64) then some ⟨0x12#8, BitVec.ofNat 64 l, a, s.sq.em⟩
    else none
  else memChecks { s with core := { s.core with locks := [] } } .read true s.sq.em 64 64 [(l, a.toNat)]

/-- The 64 bytes of the record, read once, at issue (R256). -/
def recordBytes (a : DWord) (s : State) : List Byte :=
  if scratchRecord a then (span (recordOffset a) 64).map (scratchByte s s.sq.key s.sq.seq)
  else (span ((phys s s.core.id s.launch.asid a.toNat).getD 0) 64).map
    (squadByte s s.sq.key s.core.id s.launch.asid s.sq.seq)

/-- The read of a record waits as a coherent load at issue does. -/
def recordHeld (a : DWord) (s : State) : Bool :=
  if scratchRecord a then readHeld s.sq s.sq.seq else readBlocked s s.sq.seq [a.toNat]

/-! ## Lists of DSP and CMB (R260, R261) -/

def entryBytes (fn : Nat) : Nat := if fn = 4 then 8 else 16
def listHull (fn : Nat) (r : TensorRec) : Nat × Nat := (r.aux.toNat, r.aux.toNat + entryBytes fn * r.ext 1)

/-- CMB's list as its issue checks read it; none where a page of it cannot be read. -/
def combineList (r : TensorRec) (s : State) : Option (List Byte) :=
  let h := listHull 5 r
  (span h.1 (h.2 - h.1)).mapM (fun a =>
    if (permFault s s.core.id s.launch.asid .read a).isSome then none
    else (phys s s.core.id s.launch.asid a).map (squadByte s s.sq.key s.core.id s.launch.asid s.sq.seq))

/-- The page of an access is mapped, but its port is absent or down (R393). -/
def portDown (s : State) (core asid va : Nat) : Bool :=
  match phys s core asid va with
  | none => false
  | some pa => !reachable s pa

/-- The code with which a CMB whose list cannot be read stops: that of its first byte that cannot (R262, R393). -/
def listStop (r : TensorRec) (s : State) : Nat :=
  let h := listHull 5 r
  match (span h.1 (h.2 - h.1)).find? (fun a => (permFault s s.core.id s.launch.asid .read a).isSome) with
  | some a => if portDown s s.core.id s.launch.asid a then 6 else 2
  | none => 2

/-- TOK, SRC and WEIGHT of CMB's entries. -/
def combineEntries (raw : List Byte) : List (Nat × Nat × Word) :=
  let l := raw.drop 64
  (List.range (l.length / 16)).map (fun j => (field l (16 * j) 4, field l (16 * j + 4) 4, BitVec.ofNat 32 (field l (16 * j + 8) 4)))

/-- An entry of CMB's list has a nonzero bit where it must be zero, bytes 12 to 15 (R7, R261). -/
def combineDirty (raw : List Byte) : Bool :=
  let l := raw.drop 64
  (List.range (l.length / 16)).any (fun j => field l (16 * j + 12) 4 != 0)

/-- The tokens of CMB's list, each once. -/
def combineToks (raw : List Byte) : List Nat := dedup ((combineEntries raw).map (·.1))

/-- The hull of CMB's output. -/
def combineHull (r : TensorRec) (sb : DWord) (raw : List Byte) : Nat × Nat :=
  let ts := combineToks raw
  let lo := ts.foldl min (ts.headD 0)
  let hi := ts.foldl max 0
  if ts.isEmpty then (sb.toNat, sb.toNat)
  else (sb.toNat + 4 * (lo * r.ext 0), sb.toNat + 4 * (hi * r.ext 0 + r.ext 0))

/-! ## Hulls and stock lines (R300 steps 5 and 6) -/

/-- The ranges in memory that a command registers: role (destination or not), first byte, byte after the
last (R263). DENSE has no source in memory, and SPAR no destination (R313). -/
def memoryHulls (fn : Nat) (r : TensorRec) (sb : DWord) (raw : List Byte) : List (Bool × Nat × Nat) :=
  let src := (false, r.hull.1.toNat, r.hull.2.toNat)
  let dst := (true, sb.toNat, sb.toNat + r.count * r.eb)
  match fn with
  | 0 => [src]
  | 1 => if r.dkind = 0 then [src, dst] else [src]
  | 2 => [dst]
  | 3 => [src]
  | 4 => [src, (false, listHull 4 r)]
  | 5 => [src, (false, listHull 5 r), (true, combineHull r sb raw)]
  | _ => []

/-- The first byte of a range outside the lease. -/
def firstOutside (leases : List (Nat × Nat)) : Nat → Nat → Nat
  | 0, lo => lo
  | k + 1, lo =>
    match leases.find? (fun r => r.1 ≤ lo && lo < r.1 + r.2) with
    | none => lo
    | some r => firstOutside leases k (r.1 + r.2)

/-- Step 5 of R300. DSP gathers the rows that its list names, so only its list is checked here (Table 20-2). -/
def hullFault (fn : Nat) (r : TensorRec) (sb : DWord) (raw : List Byte) (s : State) : Option Report :=
  let ls := s.launch.lr.leases
  let hs := (memoryHulls fn r sb raw).drop (if fn = 4 then 1 else 0)
  match hs.find? (fun h => !hullInLease ls (ls.length + 1) h.2.1 h.2.2) with
  | some h => some ⟨0x09#8, BitVec.ofNat 64 (firstOutside ls (ls.length + 1) h.2.1), if h.1 then 1#64 else 0#64, s.sq.em⟩
  | none =>
    if fn = 1 && r.dkind == 1 && decide (s.team.scr < sb.toNat + r.count * r.eb) then
      some ⟨0x12#8, BitVec.ofNat 64 (lowest s.sq.em), sb, s.sq.em⟩
    else none

/-- The first stock line of an STK, and the line after its last. -/
def stockHull (r : TensorRec) (sb : DWord) : Nat × Nat :=
  let e := 16 / r.eb
  (sb.toNat, sb.toNat + 16 * ((r.ext 1 - 1) / e) + (r.ext 0 - 1) / 4 + 1)

/-- A core hosts a team of a launch. -/
def hostsTeam (s : State) (core lid : Nat) : Bool :=
  s.allTeams.any (fun t => t.core == core && t.key.lid == lid && (t.status == .running || t.status == .preempting))

/-- Step 6 of R300. -/
def stockFault (r : TensorRec) (sb : DWord) (s : State) : Option Report :=
  let h := stockHull r sb
  let base := s.team.sbase
  let fin := base + s.team.slen
  if h.1 < base then some ⟨0x1B#8, BitVec.ofNat 64 h.1, 0#64, s.sq.em⟩
  else if fin < h.2 then some ⟨0x1B#8, BitVec.ofNat 64 (max h.1 fin), 0#64, s.sq.em⟩
  else if (stockCores s.core.id r.mcast).all (fun c => hostsTeam s c s.launch.lid) then none
  else some ⟨0x1B#8, BitVec.ofNat 64 h.1, 0#64, s.sq.em⟩

/-- Lines of an STK's destination are still to be read by a matrix word of a core that receives them (R278). -/
def stockHeld (s : State) (core : Nat) (r : TensorRec) (sb : DWord) : Bool :=
  (stockCores core r.mcast).any (fun i => stockInUse s i (stockHull r sb).1 (stockHull r sb).2)

/-! ## Handles (R300 step 4) -/

/-- An unknown handle: address or permission with KIND 1 (R333). -/
def unknownHandle (h : DWord) (s : State) : Report := ⟨0x0A#8, h, 1#64, s.sq.em⟩

/-- The region that a command names. -/
def regionHandle (fn : Nat) (r : TensorRec) (sb : DWord) : BitVec 32 := if fn = 2 then r.aux.setWidth 32 else sb.setWidth 32

/-- The coordinates of a box element in its region (R313). -/
def boxCoords (d : Desc) (r : TensorRec) (n : Nat) : List Nat :=
  let o := d.coords r.org.toNat
  let ix := boxIndex r.box n
  (List.range d.rank).map (fun i => o.getD i 0 + ix.getD i 0)

/-- The origin or the box leaves the region (R313). -/
def boxOutside (d : Desc) (r : TensorRec) : Bool :=
  !d.validKey r.org.toNat
    || (List.range d.rank).any (fun i => decide (d.extent i ≤ (d.coords r.org.toNat).getD i 0 + r.ext i - 1))

/-- The checks of the handle (R258, R300, R301, R310, R339). Two of them are the model's choices (log 28): a RANK that
disagrees with the region's is reported before an ESZ that does, and a KGROW whose s[SB] has a nonzero upper half
names an unknown region, cause 0x10 with subcode 1. -/
def handleFault (fn : Nat) (r : TensorRec) (a sb : DWord) (s : State) : Option Report :=
  let asid := s.launch.asid
  let unknown := fun (b : Bool) => if b then none else some (unknownHandle sb s)
  let sparse := fun (h : BitVec 32) => (handleSubcode s asid h).map (fun c => regionReport h c s.sq.em)
  match fn with
  | 2 | 3 =>
    let h := regionHandle fn r sb
    let d := readDesc s asid (handleRegion h)
    firstOf [sparse h,
      if r.rank != d.rank then some (recordReport a 0x09 s) else none,
      if r.esz != d.esz then some (recordReport a 0x08 s) else none,
      if boxOutside d r then some (regionReport h 3 s.sq.em) else none]
  | 6 => unknown (queueHandle s asid sb).isSome
  | 7 => unknown (condHandle s asid sb).isSome
  | 8 | 9 => unknown (levelLive s sb)
  | 11 => if sb.extractLsb' 32 32 != 0#32 then some (regionReport (sb.setWidth 32) 1 s.sq.em) else sparse (sb.setWidth 32)
  | _ => none

/-! ## ENG (R299, R300) -/

/-- The free range-lock entries of the core: a command that registers ranges holds two (R263). -/
def freeEntries (s : State) : List Nat :=
  let used := (s.cmds.filter (·.core == s.core.id)).flatMap (·.entries)
  (List.range 64).filter (fun e => !used.contains e)

/-- The engine that runs a command: a copy engine, taken in turn by command number, the slice of the region's HOME,
the dispatch/combine engine, or the graph walker (R16, R255; log 27). -/
def engineOf (fn id home : Nat) : Nat :=
  match fn with
  | 0 | 1 | 10 => id % 8
  | 2 | 3 | 11 => 8 + home % 8
  | 4 | 5 => 16
  | _ => 17

/-- The ranges of a command under two entries: the first for its sources, the second for its destination. -/
def commandLocks (fn : Nat) (r : TensorRec) (sb : DWord) (raw : List Byte) (id : Nat) (t : TeamKey) (e1 e2 : Nat) : List RangeLock :=
  (memoryHulls fn r sb raw).map (fun h => ⟨if h.1 then e2 else e1, id, h.1, 0, t, h.2.1, h.2.2⟩)
    ++ (if fn = 0 then [⟨e2, id, true, 2, t, (stockHull r sb).1, (stockHull r sb).2⟩] else [])
    ++ (if fn = 1 && r.dkind == 1 then [⟨e2, id, true, 1, t, sb.toNat, sb.toNat + r.count * r.eb⟩] else [])

/-- The scope at which the issue is a release (R236): the record's, and device for a record without one. -/
def recordScope (fn : Nat) (r : TensorRec) : Scope := if tensorFn fn then fscopeOf (BitVec.ofNat 3 r.scope) else .device

/-- The addresses of the record and the list that a command reads at issue. -/
def recordReads (fn : Nat) (ra : DWord) (r : TensorRec) : List Nat :=
  (if scratchRecord ra then [] else [ra.toNat])
    ++ (if fn = 5 then (List.range (r.ext 1)).flatMap (fun j => [r.aux.toNat + 16 * j, r.aux.toNat + 16 * j + 15]) else [])

/-- A command starts: its ticket is empty, its ranges are registered, and it acts as a release (R299). -/
def startCommand (fn : Nat) (d : Opnd) (ra : DWord) (r : TensorRec) (raw : List Byte) (sb : DWord) (stop : Option Nat) (s : State) :
    State :=
  let id := s.part.nextCmd
  let es := (freeEntries s).take 2
  let h := regionHandle fn r sb
  let cmd : Cmd :=
    { id := id, k := s.sq.key, core := s.core.id, asid := s.launch.asid, fn := fn
      engine := engineOf fn id (readDesc s s.launch.asid (handleRegion h)).home
      entries := if tensorFn fn then es else []
      tr := r, raw := raw, sb := sb, ticket := d
      seq := s.sq.seq, lclk := s.sq.lclk
      rel := ⟨s.sq.key, s.sq.seq, false, true, false, false, false, recordScope fn r, none, none⟩
      units := 0, count := 0, buf := [], cancelled := false, stop := stop }
  let s := countAccesses s.core.id s.launch.asid (recordReads fn ra r) (addProd (.ticket id) [d] s)
  let s := if (cmdRegion cmd).isSome then freshAges (regionOf cmd.asid h) s else s
  let s := { s with
    cmds := s.cmds ++ [cmd]
    core := { s.core with locks := s.core.locks
      ++ (if tensorFn fn then commandLocks fn r sb raw id cmd.k.team (es.getD 0 0) (es.getD 1 0) else []) } }
  settle (s.updPart (fun p => { p with nextCmd := id + 1 }))

/-- What step 3 of R300 finds in CMB's list: an output byte beyond 2^56, or an entry whose zero field is not
(R7, R257, R261; log 28). -/
def listFault (fn : Nat) (r : TensorRec) (ra sb : DWord) (raw : List Byte) (s : State) : Option Report :=
  if fn != 5 then none
  else if combineDirty raw then some (recordReport ra 0x38 s)
  else if 2 ^ 56 < (combineHull r sb raw).2 then some (recordReport ra 0x40 s) else none

/-- ENG: the checks of R300 in their order, then the start of the command. -/
def engWord (fn : Nat) (d : Opnd) (a b : BitVec 5) (s : State) : WordOut :=
  let ra := uval s (sReg a)
  let sb := uval s (sReg b)
  if (fn == 3 || fn == 6 || fn == 7) && turnHeld false s then .wait .turn
  else
    match recordFault ra s with
    | some x => .trap x
    | none =>
      if recordHeld ra s then .wait .order
      else
        let b := recordBytes ra s
        let r := TensorRec.ofBytes b
        match recordBad fn b sb with
        | some off => .trap (recordReport ra off s)
        | none =>
          match handleFault fn r ra sb s with
          | some x => .trap x
          | none =>
            if tensorFn fn then
              let list := if fn = 5 then combineList r s else some []
              let raw := b ++ list.getD []
              match firstOf [listFault fn r ra sb raw s, hullFault fn r sb raw s, if fn = 0 then stockFault r sb s else none] with
              | some x => .trap x
              | none =>
                if fn = 0 && stockHeld s s.core.id r sb then .wait .tile
                else if (freeEntries s).length < 2 then .wait .locks
                else .done (startCommand fn d ra r raw sb (if list.isNone then some (listStop r s) else none))
            else .done (startCommand fn d ra r b sb none)

def ownEngStk (d : Opnd) (a b : BitVec 5) (s : State) : WordOut := engWord 0 d a b s
def ownEngCpy (d : Opnd) (a b : BitVec 5) (s : State) : WordOut := engWord 1 d a b s
def ownEngDense (d : Opnd) (a b : BitVec 5) (s : State) : WordOut := engWord 2 d a b s
def ownEngSpar (d : Opnd) (a b : BitVec 5) (s : State) : WordOut := engWord 3 d a b s
def ownEngDsp (d : Opnd) (a : BitVec 5) (s : State) : WordOut := engWord 4 d a 0#5 s
def ownEngCmb (d : Opnd) (a b : BitVec 5) (s : State) : WordOut := engWord 5 d a b s
def ownEngQapp (d : Opnd) (a b : BitVec 5) (s : State) : WordOut := engWord 6 d a b s
def ownEngGcond (d : Opnd) (a b : BitVec 5) (s : State) : WordOut := engWord 7 d a b s
def ownEngLvlw (d : Opnd) (a b : BitVec 5) (s : State) : WordOut := engWord 8 d a b s
def ownEngCancel (d : Opnd) (a b : BitVec 5) (s : State) : WordOut := engWord 9 d a b s
def ownEngHash (d : Opnd) (a : BitVec 5) (s : State) : WordOut := engWord 10 d a 0#5 s
def ownEngKgrow (d : Opnd) (a b : BitVec 5) (s : State) : WordOut := engWord 11 d a b s

/-! ## What a command in flight reads and writes -/

/-- What one step of a command comes to. -/
inductive EngRes (α : Type) where
  | ok (x : α)
  /-- an error with its status code -/
  | stop (code : Nat)
  /-- an access outside the lease: its address and KIND -/
  | outside (va kind : Nat)
  /-- nothing can be done yet -/
  | blocked

/-- The checks of an engine access. DESIGN CHOICE (log 28): an exact address of a CMB or DSP row below 0 or beyond 2^56 stops
the command with code 0x02 before the lease is asked; R261 ends the launch for a row outside the lease, and R199, which
orders these checks, speaks of instruction words. -/
def engCheck (s : State) (c : Cmd) (k : AccKind) (va : Int) (n : Nat) : Option (EngRes Unit) :=
  let leases := (s.getLaunch c.k.lid).lr.leases
  if va < 0 || 2 ^ 56 < va + n then some (.stop 2)
  else
    let a := va.toNat
    match (span a n).find? (fun x => !inLease leases x 1) with
    | some x => some (.outside x k.kind.toNat)
    | none =>
      let pages := [a, a + n - 1]
      let v := engineView c.core c.engine s
      if pages.any (portDown v c.core c.asid) then some (.stop 6)
      else if pages.any (fun x => (permFault v c.core c.asid k x).isSome) then some (.stop 2)
      else if k != .read && !writable v c.core c.asid pages then some .blocked
      else none

/-- Bytes that an engine reads for a command. -/
def engRead (s : State) (c : Cmd) (va : Int) (n : Nat) : EngRes (List Byte) :=
  match engCheck s c .read va n with
  | some (.stop x) => .stop x
  | some (.outside x k) => .outside x k
  | some _ => .blocked
  | none => .ok ((span va.toNat n).map (fun a =>
      ((phys (engineView c.core c.engine s) c.core c.asid a).map (fun pa => agedByte s pa (coreByte s c.core pa))).getD 0#8))

/-- Physical cells of one element that an engine writes become visible together at the record's scope: an element
is single-copy atomic, also across lines (R236, R264). -/
def engAccept (c : Cmd) (cells : List (Nat × Byte)) (s : State) : State :=
  let ls := dedup (cells.map (fun x => lineOf x.1))
  let t := ls.foldl (fun t ln => drainCoreLine c.core ln t) s
  match c.rel.scope with
  | .squad | .team | .die => markDirty cells (dieAccept (dieOf c.core) c.k c.seq cells t)
  | _ => homeWrite cells (ls.foldl (fun t ln => drainDieLine (dieOf c.core) ln t) t)

/-- Count what an engine reaches, by its own translations (R360). -/
def countEng (c : Cmd) (vas : List Nat) (s : State) : State :=
  (dedup (vas.map (· / 128))).foldl (fun t g =>
    countSegment (dieOf c.core) c.asid (g * 128) (translate (engineView c.core c.engine t) c.core c.asid (g * 128)) t) s

/-- An engine writes an element. -/
def engWrite (c : Cmd) (va : Nat) (bs : List Byte) (s : State) : EngRes State :=
  match engCheck s c .write va bs.length with
  | some (.stop x) => .stop x
  | some (.outside x k) => .outside x k
  | some _ => .blocked
  | none => .ok (countEng c [va, va + bs.length - 1]
      (engAccept c ((cellsAt va bs).filterMap (fun x => (phys (engineView c.core c.engine s) c.core c.asid x.1).map (·, x.2))) s))

/-- Advance a command. -/
def advance (id : Nat) (units count : Nat) (s : State) : State :=
  s.updCmd id (fun c => { c with units := c.units + units, count := c.count + count })

def EngRes.bind {α β : Type} (x : EngRes α) (f : α → EngRes β) : EngRes β :=
  match x with
  | .ok a => f a
  | .stop c => .stop c
  | .outside va k => .outside va k
  | .blocked => .blocked

/-- Element `n` of the source box. -/
def engElem (s : State) (c : Cmd) (n : Nat) : EngRes (List Byte) := engRead s c (c.tr.addr n) c.tr.eb

/-- Count what an engine element of `n` bytes reaches (R360). -/
def countElem (c : Cmd) (va : Int) (n : Nat) (s : State) : State := countEng c [va.toNat, va.toNat + n - 1] s

/-- Count the segments of several elements, element by element (R360). -/
def countElems (c : Cmd) (vas : List Int) (n : Nat) (s : State) : State := vas.foldl (fun t va => countElem c va n t) s

/-! ## Element by element: STK and CPY -/

/-- The stock byte of element (c, k) of STK (R258). -/
def stockAddr (r : TensorRec) (sb : DWord) (n : Nat) : Nat :=
  let e := 16 / r.eb
  let col := n % r.ext 0
  let k := n / r.ext 0
  sb.toNat * 64 + k / e * 1024 + col * 16 + k % e * r.eb

/-- The cores whose stock an STK writes: its own, and those of MCAST that still hold a team of the launch. -/
def stockTargets (s : State) (c : Cmd) : List Nat :=
  (stockCores c.core c.tr.mcast).filter (fun i => i == c.core || hostsTeam s i c.k.lid)

/-- The next element of STK. It waits while a matrix word that issued in the chain of the ENG has yet to read a
line of the destination (R278). -/
def unitStk (c : Cmd) (s : State) : EngRes State :=
  if stockHeld s c.core c.tr c.sb then .blocked
  else (engElem s c c.units).bind (fun bs =>
    let t := (stockTargets s c).foldl (fun t i =>
      t.updCore i (fun x => { x with stock := x.stock.writeBytes (stockAddr c.tr c.sb c.units) bs })) s
    .ok (advance c.id 1 1 (countElem c (c.tr.addr c.units) c.tr.eb t)))

def unitCpy (c : Cmd) (s : State) : EngRes State :=
  (engElem s c c.units).bind (fun bs =>
    let at_ := c.sb.toNat + c.units * c.tr.eb
    let t := countElem c (c.tr.addr c.units) c.tr.eb s
    if c.tr.dkind = 0 then (engWrite c at_ bs t).bind (fun t => .ok (advance c.id 1 1 t))
    else .ok (advance c.id 1 1 (t.updTeam c.k.team (fun x => { x with scratch := x.scratch.writeBytes at_ bs }))))

/-! ## Regions: DENSE and SPAR (R313 to R315) -/

/-- The keys of a command's box in ascending order, with each element's place in box order. -/
def boxKeys (s : State) (c : Cmd) : List (Nat × Nat) :=
  let d := readDesc s c.asid (handleRegion (regionHandle c.fn c.tr c.sb))
  sortBy (fun a b => decide (a.1 < b.1)) ((List.range c.tr.count).map (fun n => (d.key (boxCoords d c.tr n), n)))

/-- What a kitty access that cannot be made comes to for a command: outside the lease it ends the launch (R304);
inside, the command stops with the code of its page or its port (R262, R393). -/
def kittyStop {α : Type} (s : State) (c : Cmd) (die va kind : Nat) : EngRes α :=
  if !inLease (s.getLaunch c.k.lid).lr.leases va 256 then .outside va kind
  else if (walk s die c.asid va).any (fun l => !reachable s (physOf l va)) then .stop 6
  else .stop 2

/-- The die of the home slice of a command's region. -/
def homeDie (s : State) (c : Cmd) : Nat := (readDesc s c.asid (handleRegion (regionHandle c.fn c.tr c.sb))).home / 8

/-- The values that one leaf gives: those of the keys, from the first on, whose search ends in it. -/
def leafValues (rd : Nat → Except Nat Node) (d : Desc) (keys : List (Nat × Nat)) : Except Nat (List (Nat × Nat)) :=
  match keys with
  | [] => .ok []
  | (k, _) :: _ =>
    if d.root = nullNode then .ok (keys.map (fun e => (e.2, 0)))
    else do
      let r ← descend rd k d.height d.root []
      let x := r.2.2
      let mine := keys.takeWhile (fun e => match descend rd e.1 d.height d.root [] with
        | .ok y => y.2.1 == r.2.1
        | .error _ => false)
      return mine.map (fun e => (e.2, (((x.keys.zip x.vals).find? (·.1 == e.1)).map (·.2)).getD 0))

/-- DENSE reads its next leaf whole, or writes one element of the leaf it has read. -/
def unitDense (c : Cmd) (s : State) : EngRes State :=
  match c.buf with
  | (n, v) :: r =>
    (engWrite c (c.sb.toNat + n * c.tr.eb) (toBytes c.tr.eb v) s).bind (fun t =>
      .ok ((advance c.id 0 1 t).updCmd c.id (fun c => { c with buf := r })))
  | [] =>
    let h := regionHandle 2 c.tr c.sb
    match searchKey c.asid (s.getLaunch c.k.lid).lr.leases h (fun rd d => leafValues rd d ((boxKeys s c).drop c.units)) s with
    | .ok vs =>
      let d := readDesc s c.asid (handleRegion h)
      let ki := kittyOf c.asid (s.getLaunch c.k.lid).lr.leases d
      let first := ((((boxKeys s c).drop c.units).head?).map (·.1)).getD 0
      .ok ((advance c.id vs.length 0 (countNodes ki (pathNodes (readNode s ki) d first) s)).updCmd c.id (fun c => { c with buf := vs }))
    | .outside va => kittyStop s c (homeDie s c) va 0
    | .dead _ => .stop 4
    | _ => .blocked

/-- The elements of SPAR's box from a place in key order: the zeros passed, and the first that is not zero. -/
def nextElem (s : State) (c : Cmd) : List (Nat × Nat) → Nat → EngRes (Nat × Option (Nat × Nat))
  | [], z => .ok (z, none)
  | (k, n) :: r, z =>
    match engElem s c n with
    | .ok bs => if isZeroElem c.tr.etype (ofBytes bs) then nextElem s c r (z + 1) else .ok (z, some (k, ofBytes bs))
    | .stop x => if z = 0 then .stop x else .ok (z, none)
    | .outside a k => if z = 0 then .outside a k else .ok (z, none)
    | .blocked => .blocked

/-- The next insert of SPAR. The elements to skip are those that the detector of the record's ETYPE calls zero
(R258); where the region's own detector calls an element zero that the record's does not, the insert is a store of
that value at its key and so deletes the key's entry, as R308 says of any store (log 21). COUNT counts the inserts
and not the elements skipped, under every code (R262; log 28). -/
def unitSpar (c : Cmd) (s : State) : EngRes State :=
  let todo := (boxKeys s c).drop c.units
  (nextElem s c todo 0).bind (fun r =>
    let s := countElems c ((todo.take (if r.2.isSome then r.1 + 1 else r.1)).map (fun e => c.tr.addr e.2)) c.tr.eb s
    match r.2 with
    | none => .ok (advance c.id r.1 0 s)
    | some (k, v) =>
      match storeKey c.asid (s.getLaunch c.k.lid).lr.leases (regionHandle 3 c.tr c.sb) k v s with
      | .ok t => .ok (advance c.id (r.1 + 1) 1 t)
      | .exhausted => .stop 3
      | .dead _ => .stop 4
      | .outside va => kittyStop s c (homeDie s c) va 1
      | .blocked => .blocked)

/-! ## CMB (R261) -/

/-- One output element of CMB. -/
def unitCmb (c : Cmd) (s : State) : EngRes State :=
  let toks := combineToks c.raw
  let tok := toks.getD (c.units / c.tr.ext 0) 0
  let col := c.units % c.tr.ext 0
  let es := (combineEntries c.raw).filter (fun e => e.1 == tok)
  let out := c.sb.toNat + 4 * (tok * c.tr.ext 0 + col)
  let source := fun (e : Nat × Nat × Word) => (c.tr.base : Int) + (e.2.1 : Int) * c.tr.stride 1 + (4 * col : Nat)
  let term := fun (e : Nat × Nat × Word) =>
    (engRead s c (source e) 4).bind (fun bs => .ok ((num32 e.2.2).mul (num32 (BitVec.ofNat 32 (ofBytes bs)))))
  let sum := es.foldl (fun (acc : EngRes (List Num)) e => acc.bind (fun l => (term e).bind (fun x => .ok (l ++ [x])))) (.ok [])
  sum.bind (fun ps => (engRead s c out 4).bind (fun bs =>
    (engWrite c out (toBytes 4 (roundFp32 (exactSum (num32 (BitVec.ofNat 32 (ofBytes bs)) :: ps))).toNat)
        (countElems c (es.map source) 4 s)).bind (fun t =>
      .ok (advance c.id 1 (if col + 1 = c.tr.ext 0 then es.length else 0) t))))

/-! ## HASH and KGROW (R400, R306) -/

/-- The names of the 64 KiB page at a physical address (R400). A page of a window onto a peer's memory may lie in two of
the peer's pages (R392). -/
def pagesAt (s : State) (pa : Nat) : List Nat :=
  if outside pa then dedup ((span pa 65536).map (fun a => canon s a / 65536)) else [pa / 65536]

/-- One of some pages has been written since its last HASH (R400). -/
def anyDirty (s : State) (pages : List Nat) : Bool := pages.any s.part.dirty.contains

/-- The dirty marks of some pages are cleared. -/
def clearDirty (pages : List Nat) (s : State) : State :=
  s.updPart (fun p => { p with dirty := p.dirty.filter (fun x => !pages.contains x) })

/-- One page of a HASH: a page written since its last hash gives an entry, and its mark is cleared. -/
def unitHash (c : Cmd) (s : State) : EngRes State :=
  let va := field c.raw 0 8 + 65536 * c.units
  match translate (engineView c.core c.engine s) c.core c.asid va with
  | none => .ok (advance c.id 1 0 s)
  | some l =>
    let pages := pagesAt s (physOf l va)
    if !anyDirty s pages then .ok (advance c.id 1 0 s)
    else
      match engCheck s c .read va 65536 with
      | some (.stop x) => .stop x
      | some (.outside x k) => .outside x k
      | some _ => .blocked
      | none =>
        let bs := (span (physOf l va) 65536).map (fun a => coreByte s c.core (canon s a))
        let dig := toBytes 32 (Config.shake256 bs).toNat
        (engWrite c (field c.raw 0x10 8 + 48 * c.count) (toBytes 8 va ++ dig ++ toBytes 8 0)
          (countEng c ((List.range 512).map (fun i => va + 128 * i)) (clearDirty pages s))).bind (fun t => .ok (advance c.id 1 1 t))

/-- Nodes pushed onto the free list of a kitty in ascending order (R306). -/
def growPlan (first : Nat) : Nat → Plan → Plan
  | 0, p => p
  | n + 1, p =>
    growPlan (first + 1) n ⟨{ p.desc with free := first, nfree := p.desc.nfree + 1 }, p.nodes ++ [(first, freeNode p.desc.free)]⟩

/-- KGROW, whole. -/
def unitKgrow (c : Cmd) (s : State) : EngRes State :=
  let h : BitVec 32 := c.sb.setWidth 32
  let leases := (s.getLaunch c.k.lid).lr.leases
  match handleSubcode s c.asid h with
  | some _ => .stop 4
  | none =>
    let d := readDesc s c.asid (handleRegion h)
    let ki := kittyOf c.asid leases d
    let rd := readNode s ki
    let base := field c.raw 0 8
    let n := field c.raw 8 8
    let first := (base - d.kwin) / 256
    if base < d.kwin || (base - d.kwin) % 256 != 0 || decide (d.kwin + 2 ^ 40 - 256 < base + 256 * n) then .stop 4
    else
      let have_ := do
        let t ← (if d.root = nullNode then pure [] else treeNodes rd d.height [d.root])
        let f ← freeNodes rd d.nfree d.free
        return t ++ f
      match have_ with
      | .error va => kittyStop s c ki.die va 1
      | .ok is =>
        if is.any (fun i => decide (first ≤ i) && decide (i < first + n)) then .stop 4
        else if !hullInLease leases (leases.length + 1) base (base + 256 * n) then
          .outside (firstOutside leases (leases.length + 1) base) 1
        else
          let p := growPlan first n ⟨d, []⟩
          if planBlocked s ki p then .blocked
          else match planCells s ki (descAddr s c.asid (handleRegion h)) p with
            | .error va => kittyStop s c ki.die va 1
            | .ok cells => .ok (advance c.id 1 n (countNodes ki (p.nodes.map (·.1)) (homeWrite cells s)))

/-! ## The graph walker's functions (R329, R332, R339, R340) -/

/-- The order of a record's producer (R345): launch number, logical squad index, and the lclk of the QAPP. -/
def producerOrder (s : State) (c : Cmd) : List Nat :=
  [c.k.lid, c.k.tmid * (s.getLaunch c.k.lid).lr.nsq + c.k.sqid, c.lclk.toNat]

/-- What an access of the walker for a command comes to where it cannot be made: its page is not mapped or lacks the
permission (code 0x02), its port is down (0x06), or its page is under migration (R262, R361, R393). DESIGN CHOICE (log 28):
whether the lease covers the walker's accesses for QAPP and GCOND the spec does not say, and Table 20-2 lists only codes
0x00 and 0x01 for the two; the model makes no lease check there and uses the codes that R262 gives every command. -/
def walkerCheck (s : State) (asid : Nat) (writes : Bool) (vas : List Nat) : Option (EngRes Unit) :=
  vas.findSome? (fun va => match walk s 0 asid va with
    | none => some (.stop 2)
    | some l =>
      if !reachable s (physOf l va) then some (.stop 6)
      else if !(if writes then leafW l.1 else leafR l.1) || decide (2 ^ 56 ≤ va) then some (.stop 2)
      else if writes && leafWBLK l.1 then some .blocked
      else none)

/-- Count what the walker reaches for a command, on the walker's die (R360). -/
def countWalker (asid : Nat) (vas : List Nat) (s : State) : State :=
  (dedup (vas.map (· / 128))).foldl (fun t g => countSegment 0 asid (g * 128) (walk t 0 asid (g * 128)) t) s

/-- An earlier append or write of a DET launch to the same node goes first (R345). -/
def walkerTurn (c : Cmd) (s : State) : Bool :=
  !(s.getLaunch c.k.lid).lr.det || !s.cmds.any (fun x => x.fn == c.fn && x.sb == c.sb && x.k.lid == c.k.lid && decide (x.id < c.id))

/-- What a QAPP or GCOND comes to whose handle no longer resolves after issue: its node lies behind a port that is down
(code 0x06, R393); else the spec says nothing, and it completes with code 0x00 and no effect (the model's choice, log 28). -/
def unresolved (c : Cmd) (s : State) : EngRes State :=
  let g := s.findGraph (c.sb.extractLsb' 16 12).toNat
  if g.any (fun g => (walk s 0 g.asid (g.base + 64 * (c.sb.extractLsb' 0 16).toNat)).any
    (fun l => !reachable s (physOf l (g.base + 64 * (c.sb.extractLsb' 0 16).toNat)))) then .stop 6
  else .ok (advance c.id 1 0 s)

/-- QAPP (R258, R329, R345). -/
def unitQapp (c : Cmd) (s : State) : EngRes State :=
  match queueHandle s c.asid c.sb with
  | none => unresolved c s
  | some (g, n, x) =>
    let head := [x.queue, x.queue + 63]
    match walkerCheck s g.asid false head, queueHead s g.asid x.queue with
    | some (.stop e), _ => .stop e
    | _, none => .stop 2
    | _, some q =>
      if !walkerTurn c s || q.nslot ≤ q.tail - q.head then .blocked
      else
        let slot := q.slots + 64 * (q.tail % q.nslot)
        match walkerCheck s g.asid true [slot, slot + 63, x.queue, x.queue + 7] with
        | some (.stop e) => .stop e
        | some _ => .blocked
        | none =>
          let s := walkerWrite g.asid slot c.raw s
          let s := walkerWrite g.asid x.queue (toBytes 8 (q.tail + 1)) s
          let who := (n, q.tail, (s.getLaunch c.k.lid).jobs, producerOrder s c)
          .ok (advance c.id 1 0 (countWalker g.asid (head ++ [slot, slot + 63])
            (s.updGraph g.idx (fun g => { g with appended := g.appended ++ [who] }))))

/-- GCOND (R258, R332). -/
def unitGcond (c : Cmd) (s : State) : EngRes State :=
  match condHandle s c.asid c.sb with
  | none => unresolved c s
  | some (g, _, x) =>
    if !walkerTurn c s then .blocked
    else match walkerCheck s g.asid true [x.cond, x.cond + 7] with
      | some (.stop e) => .stop e
      | some _ => .blocked
      | none => .ok (advance c.id 1 0 (countWalker g.asid [x.cond, x.cond + 7] (walkerWrite g.asid x.cond (c.raw.take 8) s)))

/-- LVLW waits for its level's counter; a cancelled level ends it with code 0x01 once it counts as complete (R340). A level
that no longer resolves ends it with code 0x00 and no effect (the model's choice, log 28). -/
def unitLvlw (c : Cmd) (s : State) : EngRes State :=
  match levelState s (levelOf c.sb) with
  | none => .ok (advance c.id 1 0 s)
  | some (n, cancelled) =>
    if field c.raw 0 8 ≤ n then .ok (advance c.id 1 0 s)
    else if cancelled && levelComplete s (levelOf c.sb) then .stop 1 else .blocked

/-! ## Shoes (R259, R260, R265) -/

/-- A release at a scope, now: what a core has merged, and what its die has accepted, goes as far as the scope needs
(R233, R234). -/
def releaseNow (core : Nat) (scope : Scope) (s : State) : State :=
  let d := dieOf core
  let merged := fun (t : State) => (t.getCore core).merged.foldl (fun t e => acceptFromCore core e.stamp t) t
  let pend := fun (t : State) => (t.getDie d).pend.foldl (fun t e => acceptFromDie d e.stamp t) t
  match scope with
  | .squad | .team => s
  | .die => merged s
  | .device | .system => pend (merged s)

/-- The scope at which the squads of one core see what another has merged (Table 16-3). -/
def scopeTo (src dst : Nat) : Scope := if src = dst then .team else if dieOf src = dieOf dst then .die else .device

/-- The release of a publication: at the record's scope, and as far as the core of the taker, whatever the scopes of the
two parties (R265). -/
def releaseTo (c : Cmd) (dst : Nat) (s : State) : State := releaseNow c.core (scopeTo c.core dst) (releaseNow c.core c.rel.scope s)

/-- Write a slot of a shoe and publish it as SHPUT.fill does. -/
def publish (t : TeamKey) (n : Nat) (bs : List Byte) (s : State) : State :=
  s.updTeam t (fun tm =>
    let h := vget tm.shoes n
    let size := 64 * h.slot
    { tm with
      scratch := tm.scratch.writeBytes (h.base + size * h.tail) ((padTo size bs).take size)
      shoes := vset tm.shoes n { h with free := h.free - 1, filled := h.filled + 1, tail := (h.tail + 1) % h.nslot } })

/-- A shoe refuses a publication of `n` bytes (R260, R262). -/
def shoeRefuses (h : Shoe) (n : Nat) : Bool := h.nslot == 0 || decide (64 * h.slot < n)
/-- A shoe has a free slot that no earlier take of its producers waits for. -/
def shoeReady (h : Shoe) : Bool := decide (0 < h.free) && h.ptakes.isEmpty

/-- Several elements read in order. -/
def engElems (s : State) (c : Cmd) (n k : Nat) : EngRes (List Byte) :=
  (List.range k).foldl (fun (acc : EngRes (List Byte)) i => acc.bind (fun l => (engElem s c (n + i)).bind (fun b => .ok (l ++ b)))) (.ok [])

/-- The next chunk of a CPY to a shoe (R259). -/
def unitCpyShoe (c : Cmd) (s : State) : EngRes State :=
  let n := (c.sb.extractLsb' 0 4).toNat
  let tm := s.getTeam c.k.team
  let h := vget tm.shoes n
  if !tm.shoeMask.getLsbD n || shoeRefuses h 0 then .stop 5
  else if !shoeReady h then .blocked
  else
    let k := min (64 * h.slot / c.tr.eb) (c.tr.count - c.units)
    (engElems s c c.units k).bind (fun bs =>
      .ok (advance c.id k k (publish c.k.team n bs (releaseNow c.core c.rel.scope
        (countElems c ((List.range k).map (fun i => c.tr.addr (c.units + i))) c.tr.eb s)))))

/-- The team that a list entry of DSP names on this part (R260). -/
def dispatchTeam (s : State) (c : Cmd) (tcore shoe : Nat) : Option Team := teamOfShoe s tcore shoe (· == c.asid)

/-- The bytes of a row of DSP: BOX0 elements at BASE + ROW × STR1. -/
def dispatchRow (s : State) (c : Cmd) (row : Nat) : EngRes (List Byte) :=
  (List.range (c.tr.ext 0)).foldl (fun (acc : EngRes (List Byte)) i => acc.bind (fun l =>
    (engRead s c ((c.tr.base : Int) + (row : Int) * c.tr.stride 1 + (i * c.tr.eb : Nat)) c.tr.eb).bind (fun b => .ok (l ++ b)))) (.ok [])

/-- The next row of DSP (R260). Whether a peer part accepts a row is its own check, and free. An entry with a
nonzero bit where it must be zero is refused with code 0x05 (R7; log 28). -/
def unitDsp (c : Cmd) (s : State) : EngRes State :=
  (engRead s c (c.tr.aux.toNat + 8 * c.units : Nat) 8).bind (fun eb =>
    let e := ofBytes eb
    let shoe := bits e 35 32
    let port := bits e 55 48
    let size := c.tr.ext 0 * c.tr.eb
    let row := (c.tr.base : Int) + (bits e 31 0 : Int) * c.tr.stride 1
    let count := fun (t : State) => advance c.id 1 1 (countElems c ((List.range (c.tr.ext 0)).map (fun i => row + (i * c.tr.eb : Nat))) c.tr.eb
      (countElem c (c.tr.aux.toNat + 8 * c.units : Nat) 8 t))
    if bits e 39 36 != 0 || bits e 63 56 != 0 then .stop 5
    else if port = 0xFF then
      match dispatchTeam s c (bits e 47 40) shoe with
      | none => .stop 5
      | some t =>
        let h := vget t.shoes shoe
        if t.status = .saved then .blocked
        else if shoeRefuses h size then .stop 5
        else if !shoeReady h then .blocked
        else (dispatchRow s c (bits e 31 0)).bind (fun bs => .ok (count (publish t.key shoe bs (releaseTo c t.core s))))
    else if !portUp s port then .stop 6
    else if Config.freeBit s.free .peerRow then .stop 5
    else (dispatchRow s c (bits e 31 0)).bind (fun _ => .ok (count (releaseNow c.core .system s))))

/-! ## Progress -/

/-- A command has started: its release is complete, and so is that of every earlier command of its squad
(R236, R255). -/
def cmdStarted (s : State) (c : Cmd) : Bool :=
  s.cmds.all (fun x => x.k != c.k || decide (c.id < x.id) || (fenceState s x.rel).2)

/-- The units of a command's walk. -/
def unitsOf (c : Cmd) : Nat :=
  match c.fn with
  | 0 | 1 | 2 | 3 => c.tr.count
  | 4 => c.tr.ext 1
  | 5 => (combineToks c.raw).length * c.tr.ext 0
  | 10 => field c.raw 8 8 / 65536
  | _ => 1

/-- Nothing of the command is left to do. -/
def cmdDone (c : Cmd) : Bool := decide (unitsOf c ≤ c.units) && c.buf.isEmpty

/-- The command publishes in shoes. -/
def toShoe (c : Cmd) : Bool := c.fn == 4 || (c.fn == 1 && c.tr.dkind == 3)

/-- The entries of a command leave the range-lock table (R263), and the command is gone. -/
def dropCmd (c : Cmd) (s : State) : State :=
  { s with cmds := s.cmds.filter (·.id != c.id) }.updCore c.core (fun x => { x with locks := x.locks.filter (·.cmd != c.id) })

/-- An engine access outside the lease ends the launch, and the status word is not written (R262). -/
def engLease (c : Cmd) (va kind : Nat) (s : State) : State :=
  settle (endLaunch c.k.lid ⟨3, 9, BitVec.ofNat 64 va, BitVec.ofNat 64 kind⟩ (dropCmd c s))

/-- Apply what one step of a command came to. -/
def applyUnit (c : Cmd) (r : EngRes State) (s : State) : State :=
  match r with
  | .ok t => settle t
  | .stop code => s.updCmd c.id (fun c => { c with stop := some code })
  | .outside va k => engLease c va k s
  | .blocked => s

/-- One step of a command other than a publication or an insert. -/
def unitOf (c : Cmd) (s : State) : EngRes State :=
  match c.fn with
  | 0 => unitStk c s
  | 1 => unitCpy c s
  | 2 => unitDense c s
  | 5 => unitCmb c s
  | 6 => unitQapp c s
  | 7 => unitGcond c s
  | 8 => unitLvlw c s
  | 9 => .ok (advance c.id 1 0 (cancelLevel (levelOf c.sb) s))
  | 10 => unitHash c s
  | 11 => unitKgrow c s
  | _ => .blocked

/-- The status word (Table 18-4). -/
def statusWord (fn code count : Nat) : DWord := BitVec.ofNat 64 (code + fn * 2 ^ 8 + count % 2 ^ 32 * 2 ^ 16)

/-- The walker fills a ticket in the saved context of a pre-empted squad (R70, R348): the register, its
F/E bit, its TKT bit and its poison. -/
def fillSaved (q : Squad) (n : Nat) (x : DWord) (s : State) : State :=
  let m := s.mem.put (q.ctx + 0x200 + 8 * n) 8 x.toNat
  let fe := BitVec.ofNat 32 (m.value (q.ctx + 0x148) 4) ||| (1#32 <<< n)
  let tkt := BitVec.ofNat 32 (m.value (q.ctx + 0xF4) 4) &&& ~~~(1#32 <<< n)
  let spsn := BitVec.ofNat 64 (m.value (q.ctx + 0x180) 8) &&& ~~~(3#64 <<< (2 * n))
  { s with mem := ((m.put (q.ctx + 0x148) 4 fe.toNat).put (q.ctx + 0xF4) 4 tkt.toNat).put (q.ctx + 0x180) 8 spsn.toNat }

/-- The ticket fills (R262): every write of the command, and what it read, is visible at its scope (R236). -/
def fillTicket (c : Cmd) (code : Nat) (s : State) : State :=
  let x := statusWord c.fn code c.count
  let s := dropAhead (s.getTeam c.k.team).core c.k (releaseNow c.core c.rel.scope s)
  let q := s.getSq c.k
  let t := fillU c.k c.seq x (dropCmd c s)
  let t := if (s.getTeam c.k.team).status = .saved then
      (match c.ticket with
       | .s n => fillSaved q n.val x t
       | _ => t)
    else t
  settle t

/-- TICKET_FILL: a command that is complete, cancelled or stopped by an error fills its ticket; any other
one goes on by one unit (log 3). CANCEL ends with code 0x00 alone (Table 20-2). -/
def execTicketFill (cmd : Nat) (s : State) : Host.Outcome State Fault Refusal :=
  match s.findCmd cmd with
  | none => .next s
  | some c =>
    match c.stop with
    | some code => .next (fillTicket c code s)
    | none =>
      if c.cancelled && c.fn != 9 then .next (fillTicket c 1 s)
      else if cmdDone c then .next (fillTicket c 0 s)
      else if cmdStarted s c && !toShoe c && c.fn != 3 then .next (applyUnit c (unitOf c s) s)
      else .next s

/-- ENGINE_SHOE_PUBLISH: the next slot of a command with DKIND 3 (R259). -/
def execEngineShoePublish (cmd : Nat) (s : State) : Host.Outcome State Fault Refusal :=
  match s.findCmd cmd with
  | none => .next s
  | some c =>
    if toShoe c && c.stop.isNone && !c.cancelled && !cmdDone c && cmdStarted s c then
      .next (applyUnit c (if c.fn = 4 then unitDsp c s else unitCpyShoe c s) s)
    else .next s

/-- The next insert of a SPAR command (R315). -/
def acceptInsert (cmd : Nat) (s : State) : State :=
  match s.findCmd cmd with
  | none => s
  | some c =>
    if c.fn = 3 && c.stop.isNone && !c.cancelled && !cmdDone c && cmdStarted s c then applyUnit c (unitSpar c s) s else s

/-- SINGLE_KEY_OPERATION: a home slice accepts one single-key operation (R309). -/
def execSingleKeyOperation (op : KeyOp) (s : State) : Host.Outcome State Fault Refusal :=
  match op with
  | .sst k => .next (settle (acceptStore k s))
  | .read k seq => .next (settle (acceptRead k seq s))
  | .spar cmd => .next (acceptInsert cmd s)

end Sys2Proof.Machine
end

