-- ==== Sys2Proof/Machine/Control.lean ====
section
/-! DEFINITION. Control, sequencer and system words (row 0x00 and SYS). -/

namespace Sys2Proof.Machine

/-! ## NOP, SEG, DEAL (R77, R84, R85, R128) -/

def ownNop (_s : State) : WordOut := .done id

/-- SEG (R77). -/
def ownSeg (slots : BitVec 8) (s : State) : WordOut :=
  let em := segLanes s.sq slots
  .done (fun t =>
    let t := t.onSq (fun q =>
      { q with em := em, segSlots := slots
               brn := lanes fun l => if em.getLsbD l then q.brOf l else q.brnOf l })
    if em = 0#32 then jumpTo (s.sq.hent.nextBoundary s.sq.pkt) t else t)

/-- BR after a deal: lanes not held move to BR_next (R84). -/
def dealt (q : Squad) : Squad :=
  let br := lanes fun l => if q.live.getLsbD l && !q.held.getLsbD l then q.brnOf l else q.brOf l
  { q with br := br, held := 0#32
           live := maskOf (fun l => q.live.getLsbD l && vget br l != 63#6) }

/-- The called set (R84). -/
def calledSet (q : Squad) : BitVec 64 := (Mask.list q.live).foldl (fun m l => m ||| blockMask (q.brOf l).toNat) 0#64

/-- The first block of `m` at or after the button, cyclically (R85). -/
def buttonBlock (button : Nat) (m : BitVec 64) : Nat :=
  (((List.range 63).map (fun i => (button + i) % 63)).find? (fun b => m.getLsbD b)).getD 63

/-- Deck fault (cause 0x07) with its subcode and second detail (Table 10-6). -/
def deckFault (sub : Nat) (i1 : DWord) (ls : Mask) : Report := ⟨0x07#8, BitVec.ofNat 64 sub, i1, ls⟩

/-- The trap of a lookup that found no hand: a deck entry check, or a read of the deck that its port refuses, which is
an access of KIND 0 (R83, R393; DEDUCED, log 34). -/
def deckStop (s : State) : DeckRes → Report
  | .down va => ⟨0x0A#8, BitVec.ofNat 64 va, 0#64, s.sq.em⟩
  | .hit off _ | .miss off | .bad off => deckFault 2 (BitVec.ofNat 64 off) s.sq.em

/-- The core counters of a deal whose hand entry was, or was not, in the deck cache (R101). -/
def countDeal (hit mis : Bool) (s : State) : State :=
  { s with core :=
    { s.core with
      crdhit := if hit then s.core.crdhit + 1#64 else s.core.crdhit
      crdmiss := if hit then s.core.crdmiss else s.core.crdmiss + 1#64
      crmisd := if mis then s.core.crmisd + 1#64 else s.core.crmisd } }

/-- Deals that enter the progress points of a running experiment, by experiment, suit and block (R401). -/
def countProgress (s : State) : State :=
  s.updPart (fun p =>
    { p with progress := p.progress.map (fun x =>
        if s.sq.suit = x.2.1 && s.sq.hent.mask.getLsbD x.2.2.1 &&
           p.experiments.any (fun e => e.1 == x.1 && e.2.lid == s.sq.key.lid)
        then (x.1, x.2.1, x.2.2.1, x.2.2.2 + 1) else x) })

/-- Run a dealt hand: HELD is empty on a hit; on a misdeal the lanes outside the hand are held and the
button moves past the chosen block (R84, R85). -/
def runDealt (mis : Option Nat) (h : Nat) (e : Hand) (s : State) : State :=
  let hit := deckHit s (suitAt s s.sq.suit) h e
  let held := maskOf (fun l => s.sq.live.getLsbD l && !e.mask.getLsbD (s.sq.brOf l).toNat)
  let s := match mis with
    | none => s
    | some b => s.onSq (fun q =>
        { q with held := held, button := (b + 1) % 63, sqmisd := q.sqmisd + 1#64
                 sqheld := q.sqheld + BitVec.ofNat 64 (popCount held) })
  let s := if mis.isSome then s.countLife 3 else s
  countProgress (countDeal hit mis.isSome (noteHand (suitAt s s.sq.suit) h e (runHand h e s)))

/-- DEAL (R84, R85, R95). The deck is read for the state as it stood before the DEAL (R83). A frame of KIND 1 whose
lanes all folded in a suit that the handler called ends as a call frame does (DESIGN CHOICE, log 25). -/
def ownDeal (s : State) : WordOut :=
  let q1 := dealt s.sq
  let m := calledSet q1
  let su := suitAt s s.sq.suit
  let after := fun (t : State) => endRun (t.onSq (fun q => { dealt q with sqdeal := q.sqdeal + 1#64 }))
  if m = 0#64 then
    match s.sq.frames with
    | [] => .done (fun t => (after t).onSq (fun q => { q with status := .retiring }))
    | f :: _ => .done (fun t => endFrame f (after t))
  else
    match lookup s su m with
    | .hit h e => .done (fun t => runDealt none h e (after t))
    | .miss _ =>
      let b := buttonBlock s.sq.button m
      match rowHand s su m b none 8 0 with
      | .hit h e => .done (fun t => runDealt (some b) h e (after t))
      | r => .trap (deckStop s r)
    | r => .trap (deckStop s r)

/-! ## Exits (R74, R130, R131) -/

/-- Set BR_next of the lanes of EM, precisely, from a target for each lane. -/
def exitTo (tgt : Nat → DWord) (lanesAtFault : Bool) (s : State) : WordOut :=
  let nblk := (suitAt s s.sq.suit).nblk
  let em := Mask.list s.sq.em
  let bad := em.filter (fun l => tgt l != 63#64 && decide (nblk ≤ (tgt l).toNat))
  let fold := em.filter (fun l => tgt l == 63#64)
  match bad with
  | l :: r =>
    let ls := if lanesAtFault then maskOfList (l :: r) else s.sq.em
    .trap (deckFault 1 (tgt (lowest ls)) ls)
  | [] =>
    match (if trapFrameOnTop s then fold else []) with
    | l :: _ => .trap (deckFault 5 (BitVec.ofNat 64 l) s.sq.em)
    | [] => .done (fun t => t.onSq (fun q =>
        { q with brn := lanes fun l => if s.sq.em.getLsbD l then (tgt l).setWidth 6 else q.brnOf l }))

def ownNxt (t : BitVec 6) (s : State) : WordOut := exitTo (fun _ => t.setWidth 64) false s

def ownNxtc (p : Opnd) (t f : BitVec 6) (s : State) : WordOut :=
  exitTo (fun l => if (val s p l).getLsbD 0 then t.setWidth 64 else f.setWidth 64) false s

def ownNxti (p : Opnd) (s : State) : WordOut := exitTo (fun l => val s p l) true s

def ownFold (s : State) : WordOut := exitTo (fun _ => 63#64) false s

/-- RET is legal only in a frame that CALL or CALLP entered (R131). -/
def ownRet (s : State) : WordOut :=
  if s.sq.frames.isEmpty || trapFrameOnTop s then .trap (deckFault 3 0#64 s.sq.em)
  else .done (fun t => t.onSq (fun q =>
    { q with brn := lanes fun l => if s.sq.em.getLsbD l then 63#6 else q.brnOf l
             retd := q.retd ||| s.sq.em }))

/-! ## CALL and CALLP (R89 to R91, R132, R405) -/

/-- The call of suit `i` by the given lanes; the position of `t` is the resume word. -/
def callSuit (i : Nat) (callers : Mask) (s : State) : WordOut :=
  let su := suitAt s i
  if callers = 0#32 then .done endRun
  else
    match (Mask.list callers).filter (fun l => vget s.sq.depth l == 255#8) with
    | l :: r => .trap ⟨0x06#8, BitVec.ofNat 64 i, 0#64, maskOfList (l :: r)⟩
    | [] =>
      match lookup s su (blockMask su.entry) with
      | .hit h e => .done (fun t =>
          let t := pushFrame (saveFrame t.sq false t.sq.pkt t.sq.word callers) t
          endRun (prefetchHands su (noteHand su h e (runHand h e (enterSuit i su.entry callers
            (t.onSq (fun q => { q with sqcall := q.sqcall + 1#64 })))))))
      | r => .trap (deckStop s r)

def ownCall (i : BitVec 17) (s : State) : WordOut :=
  if s.obj.suits.length ≤ i.toNat then .trap (deckFault 4 (i.setWidth 64) s.sq.em)
  else callSuit i.toNat s.sq.em s

def ownCallp (p : Opnd) (i : BitVec 17) (s : State) : WordOut :=
  if s.obj.suits.length ≤ i.toNat then .trap (deckFault 4 (i.setWidth 64) s.sq.em)
  else
    match sourceBlock s [(p, false)] with
    | some b => b.out
    | none =>
      match poisonBlock s [(p, false)] with
      | some b => b.out
      | none => callSuit i.toNat (maskOf (fun l => s.sq.em.getLsbD l && (val s p l).getLsbD 0)) s

/-! ## EMSET, EMGET, YIELD (R129, R133 to R135) -/

/-- The segment set (R129). -/
def segmentSet (q : Squad) : Mask := segLanes q q.segSlots

def ownEmset (a : Opnd) (s : State) : WordOut :=
  let m := if a.isP then maskOf (fun l => (val s a l).getLsbD 0) else (uval s a).setWidth 32
  .done (fun t => t.onSq (fun q => { q with em := segmentSet s.sq &&& m }))

def ownEmget (d : Opnd) (m : Bool) (s : State) : WordOut :=
  let x := if m then s.sq.held else segmentSet s.sq
  .done (if d.isS then fun t => t.onSq (·.putU d (x.setWidth 64))
    else fun t => t.onSq (·.putLanes d s.sq.em (fun _ => x)))

def ownYield (s : State) : WordOut :=
  let others := ((s.coreSquads s.core.id).filter (fun q => q.key != s.sq.key && q.fast && q.status == .live)).map (·.key)
  .done (fun t => endRun (t.onSq (fun q => { q with yieldTo := others })))

/-! ## TRAP, BRK, ERET (R136, R137) -/

def ownTrap (i : BitVec 17) (s : State) : WordOut := .trap ⟨0x15#8, i.setWidth 64, 0#64, s.sq.em⟩

/-- A debug stop names the tile tasks of a launch, with an engine's number or 0xFFFF for squads (R399). -/
def nameStop (lid engine : Nat) (s : State) : State :=
  s.updPart (fun p => { p with stops := p.stops ++ (s.getLaunch lid).tasks.map (fun t => ⟨t.1, t.2, engine⟩) })

/-- A team that a debugger stops: it stops at its run boundaries, as a pre-empted one does, and resumes no more. -/
def Team.stopped (t : Team) : Team :=
  { t with status := if t.status = .running then .preempting else t.status, debugStop := true }

/-- A team of a launch that holds squads, running or not. -/
def Team.stops (t : Team) (lid : Nat) : Bool :=
  t.key.lid == lid && (t.status == .running || t.status == .preempting || t.status == .saved)

/-- Every team of a launch stops for a debugger at its run boundaries, and none starts (R399). -/
def debugStopLaunch (lid : Nat) (s : State) : State :=
  let f := fun (t : Team) => if t.stops lid then t.stopped else t
  nameStop lid 0xFFFF ({ s with team := f s.team, teams := s.teams.map f }.updLaunch lid (fun l => { l with debugStop := true }))

def ownBrk (i : BitVec 17) (s : State) : WordOut :=
  if s.launch.bkpt then .done (fun t => endRun (debugStopLaunch s.sq.key.lid t))
  else .trap ⟨0x16#8, i.setWidth 64, 0#64, s.sq.em⟩

def ownEret (k : BitVec 4) (s : State) : WordOut :=
  match s.sq.frames with
  | f :: _ =>
    if f.trapKind then
      -- a skipped DEAL reissues
      .done (fun t =>
        let t := returnFromTrap f (k == 1#4 && !s.sq.tdeal) t
        if k = 1#4 then t.onSq (fun q => { q with mkeep := none }) else t)
    else .trap (deckFault 3 0#64 s.sq.em)
  | [] => .trap (deckFault 3 0#64 s.sq.em)

/-! ## SYS (R23, R24, R101, R138, R139, R217, R281) -/

/-- The CAP registers (Table 1-8). -/
def capValue (c : Caps) (n : Nat) : Option DWord :=
  if n = 0x100 then some (BitVec.ofNat 64 (0x7E1D + 0x4B02 * 2 ^ 16 + c.step.toNat * 2 ^ 32 + 2 * 2 ^ 48))
  else if 0x101 ≤ n ∧ n ≤ 0x104 then
    let m := vget c.cores (n - 0x101)
    some (BitVec.ofNat 64 (m.toNat + popCount m * 2 ^ 48))
  else if 0x105 ≤ n ∧ n ≤ 0x110 then
    let m := vget c.channels (n - 0x105)
    some (BitVec.ofNat 64 (m.toNat + 2 * popCount m * 2 ^ 32 + popCount m * 2 ^ 56))
  else if n = 0x111 then some (BitVec.ofNat 64 (c.ports.toNat + popCount c.ports * 2 ^ 48))
  else if n = 0x112 then some (c.wake.setWidth 64)
  else none

/-- The value of a system register that the current frame may read (Tables 1-7, 7-4, 10-5; R217, R281). -/
def sysRead (n : Nat) (s : State) : Option DWord :=
  let q := s.sq
  match capValue s.part.caps n with
  | some x => some x
  | none =>
    if n = 0x140 then some q.sqdeal
    else if n = 0x141 then some q.sqmisd
    else if n = 0x142 then some q.sqheld
    else if n = 0x143 then some q.sqcall
    else if n = 0x144 then some q.sqspill
    else if n = 0x148 then some s.core.crdhit
    else if n = 0x149 then some s.core.crdmiss
    else if n = 0x14A then some s.core.crmisd
    else if n = 0x188 then some q.tscr0
    else if n = 0x189 then some q.tscr1
    else if 0x1C0 ≤ n ∧ n ≤ 0x1CF then
      if s.team.shoeMask.getLsbD (n - 0x1C0) then some (vget s.team.shoes (n - 0x1C0)).conf else none
    else if n = 0x1D0 then some s.part.mxgate
    else if !inHandler s then none
    else if n = 0x180 then some q.th
    else if n = 0x181 then some q.tpos
    else if n = 0x182 then some q.tem
    else if n = 0x183 then some q.tcause
    else if n = 0x184 then some q.tinfo0
    else if n = 0x185 then some q.tinfo1
    else if n = 0x186 then some q.tlanes
    else none

/-- Address or permission for a system register (R138). -/
def sysFault (n : Nat) (s : State) : Report := ⟨0x0A#8, BitVec.ofNat 64 n, 3#64, s.sq.em⟩

def ownSysRdsr (d : Opnd) (a b : BitVec 5) (s : State) : WordOut :=
  match sysRead (a ++ b).toNat s with
  | some x => .done (fun t => t.onSq (·.putU d x))
  | none => .trap (sysFault (a ++ b).toNat s)

def ownSysWrsr (d : Opnd) (a b : BitVec 5) (s : State) : WordOut :=
  let n := (a ++ b).toNat
  let x := uval s d
  if n = 0x188 then .done (fun t => t.onSq (fun q => { q with tscr0 := x }))
  else if n = 0x189 then .done (fun t => t.onSq (fun q => { q with tscr1 := x }))
  else if 0x1C0 ≤ n ∧ n ≤ 0x1CF ∧ s.team.shoeMask.getLsbD (n - 0x1C0) then
    if shoeRefused s s.team.key (n - 0x1C0) x then .trap ⟨0x18#8, BitVec.ofNat 64 (n - 0x1C0), 0#64, s.sq.em⟩
    else .done (fun t => { t with team := { t.team with shoes := vset t.team.shoes (n - 0x1C0) (reconfigured x (vget t.team.shoes (n - 0x1C0))) } })
  else .trap (sysFault n s)

/-- The logical squad index (R336). -/
def logicalIndex (k : SquadKey) (nsq : Nat) : Nat := k.tmid * nsq + k.sqid

def ownSysHalt (s : State) : WordOut :=
  if s.sq.em = 0#32 then .done id
  else
    let e : Ending := ⟨4, 0, BitVec.ofNat 64 (logicalIndex s.sq.key s.launch.lr.nsq),
      BitVec.ofNat 64 (s.sq.pkt % 2 ^ 32 + s.sq.word * 2 ^ 32)⟩
    .done (fun t => stopSquad (endLaunch s.sq.key.lid e t))

end Sys2Proof.Machine
end

