-- ==== Sys2Proof/Machine/Words.lean ====
section
/-! DEFINITION. The meaning of each encoded word: its own effect, issued as a chain of one word under the
checks of R63 (see `issueWord`). Each `own…` stands in the file of its family. -/

namespace Sys2Proof.Machine

/-- NOP (R128). -/
def execNop (c : Bool) (st : State) : Host.Outcome State Fault Refusal :=
  issueWord (.nop c) (ownNop) st

/-- SEG (R77). -/
def execSeg (w : SegWord) (st : State) : Host.Outcome State Fault Refusal :=
  issueWord (.seg w) (ownSeg w.slots) st

/-- NXT (R130). -/
def execNxt (c : Bool) (t : BitVec 6) (st : State) : Host.Outcome State Fault Refusal :=
  issueWord (.nxt c t) (ownNxt t) st

/-- NXTC (R130). -/
def execNxtc (c : Bool) (p : Opnd) (t : BitVec 6) (f : BitVec 6) (e : Bool) (st : State) : Host.Outcome State Fault Refusal :=
  issueWord (.nxtc c p t f e) (ownNxtc p t f) st

/-- NXTI (R130). -/
def execNxti (c : Bool) (p : Opnd) (e : Bool) (st : State) : Host.Outcome State Fault Refusal :=
  issueWord (.nxti c p e) (ownNxti p) st

/-- DEAL (R84). -/
def execDeal (st : State) : Host.Outcome State Fault Refusal :=
  issueWord .deal (ownDeal) st

/-- FOLD (R130). -/
def execFold (c : Bool) (st : State) : Host.Outcome State Fault Refusal :=
  issueWord (.fold c) (ownFold) st

/-- CALL (R132). -/
def execCall (c : Bool) (i : BitVec 17) (st : State) : Host.Outcome State Fault Refusal :=
  issueWord (.call c i) (ownCall i) st

/-- CALLP (R132). -/
def execCallp (c : Bool) (p : Opnd) (i : BitVec 17) (st : State) : Host.Outcome State Fault Refusal :=
  issueWord (.callp c p i) (ownCallp p i) st

/-- RET (R131). -/
def execRet (c : Bool) (st : State) : Host.Outcome State Fault Refusal :=
  issueWord (.ret c) (ownRet) st

/-- TRAP (R136). -/
def execTrap (c : Bool) (i : BitVec 17) (st : State) : Host.Outcome State Fault Refusal :=
  issueWord (.trap c i) (ownTrap i) st

/-- ERET (R137). -/
def execEret (c : Bool) (k : BitVec 4) (st : State) : Host.Outcome State Fault Refusal :=
  issueWord (.eret c k) (ownEret k) st

/-- BRK (R136). -/
def execBrk (c : Bool) (i : BitVec 17) (st : State) : Host.Outcome State Fault Refusal :=
  issueWord (.brk c i) (ownBrk i) st

/-- EMSET (R133). -/
def execEmset (c : Bool) (a : Opnd) (e : Bool) (st : State) : Host.Outcome State Fault Refusal :=
  issueWord (.emset c a e) (ownEmset a) st

/-- EMGET (R134). -/
def execEmget (c : Bool) (d : Opnd) (m : Bool) (st : State) : Host.Outcome State Fault Refusal :=
  issueWord (.emget c d m) (ownEmget d m) st

/-- YIELD (R135). -/
def execYield (c : Bool) (st : State) : Host.Outcome State Fault Refusal :=
  issueWord (.yield c) (ownYield) st

/-- IADD (R152). -/
def execIadd (c : Bool) (d : Opnd) (a : Opnd) (b : Opnd) (e : Bool) (f : Bool) (m : Bool) (st : State) : Host.Outcome State Fault Refusal :=
  issueWord (.iadd c d a b e f m) (ownIadd d a b m) st

/-- ISUB (R152). -/
def execIsub (c : Bool) (d : Opnd) (a : Opnd) (b : Opnd) (e : Bool) (f : Bool) (m : Bool) (st : State) : Host.Outcome State Fault Refusal :=
  issueWord (.isub c d a b e f m) (ownIsub d a b m) st

/-- IMUL (R152). -/
def execImul (c : Bool) (d : Opnd) (a : Opnd) (b : Opnd) (e : Bool) (f : Bool) (m : Bool) (st : State) : Host.Outcome State Fault Refusal :=
  issueWord (.imul c d a b e f m) (ownImul d a b m) st

/-- IMULH (R152). -/
def execImulh (c : Bool) (d : Opnd) (a : Opnd) (b : Opnd) (e : Bool) (f : Bool) (m : Bool) (st : State) : Host.Outcome State Fault Refusal :=
  issueWord (.imulh c d a b e f m) (ownImulh d a b m) st

/-- IMAD (R155). -/
def execImad (c : Bool) (d : Opnd) (a : Opnd) (b : Opnd) (e : Bool) (f : Bool) (m : Bool) (st : State) : Host.Outcome State Fault Refusal :=
  issueWord (.imad c d a b e f m) (ownImad d a b m) st

/-- IMIN (R152). -/
def execImin (c : Bool) (d : Opnd) (a : Opnd) (b : Opnd) (e : Bool) (f : Bool) (m : Bool) (st : State) : Host.Outcome State Fault Refusal :=
  issueWord (.imin c d a b e f m) (ownImin d a b m) st

/-- IMAX (R152). -/
def execImax (c : Bool) (d : Opnd) (a : Opnd) (b : Opnd) (e : Bool) (f : Bool) (m : Bool) (st : State) : Host.Outcome State Fault Refusal :=
  issueWord (.imax c d a b e f m) (ownImax d a b m) st

/-- IABS (R154). -/
def execIabs (c : Bool) (d : Opnd) (a : Opnd) (e : Bool) (m : Bool) (st : State) : Host.Outcome State Fault Refusal :=
  issueWord (.iabs c d a e m) (ownIabs d a m) st

/-- AND (R152). -/
def execAnd (c : Bool) (d : Opnd) (a : Opnd) (b : Opnd) (e : Bool) (f : Bool) (st : State) : Host.Outcome State Fault Refusal :=
  issueWord (.and c d a b e f) (ownAnd d a b) st

/-- OR (R152). -/
def execOr (c : Bool) (d : Opnd) (a : Opnd) (b : Opnd) (e : Bool) (f : Bool) (st : State) : Host.Outcome State Fault Refusal :=
  issueWord (.or c d a b e f) (ownOr d a b) st

/-- XOR (R152). -/
def execXor (c : Bool) (d : Opnd) (a : Opnd) (b : Opnd) (e : Bool) (f : Bool) (st : State) : Host.Outcome State Fault Refusal :=
  issueWord (.xor c d a b e f) (ownXor d a b) st

/-- SHL (R152). -/
def execShl (c : Bool) (d : Opnd) (a : Opnd) (b : Opnd) (e : Bool) (f : Bool) (m : Bool) (st : State) : Host.Outcome State Fault Refusal :=
  issueWord (.shl c d a b e f m) (ownShl d a b m) st

/-- SHR (R152). -/
def execShr (c : Bool) (d : Opnd) (a : Opnd) (b : Opnd) (e : Bool) (f : Bool) (st : State) : Host.Outcome State Fault Refusal :=
  issueWord (.shr c d a b e f) (ownShr d a b) st

/-- SAR (R152). -/
def execSar (c : Bool) (d : Opnd) (a : Opnd) (b : Opnd) (e : Bool) (f : Bool) (st : State) : Host.Outcome State Fault Refusal :=
  issueWord (.sar c d a b e f) (ownSar d a b) st

/-- IADDMIN (R156). -/
def execIaddmin (c : Bool) (d : Opnd) (a : Opnd) (b : Opnd) (e : Bool) (f : Bool) (st : State) : Host.Outcome State Fault Refusal :=
  issueWord (.iaddmin c d a b e f) (ownIaddmin d a b) st

/-- CMOV (R157). -/
def execCmov (c : Bool) (d : Opnd) (a : Opnd) (b : Opnd) (e : Bool) (f : Bool) (st : State) : Host.Outcome State Fault Refusal :=
  issueWord (.cmov c d a b e f) (ownCmov d a b) st

/-- ICEQ (R153). -/
def execIceq (c : Bool) (d : Opnd) (a : Opnd) (b : Opnd) (e : Bool) (f : Bool) (st : State) : Host.Outcome State Fault Refusal :=
  issueWord (.iceq c d a b e f) (ownIceq d a b) st

/-- ICNE (R153). -/
def execIcne (c : Bool) (d : Opnd) (a : Opnd) (b : Opnd) (e : Bool) (f : Bool) (st : State) : Host.Outcome State Fault Refusal :=
  issueWord (.icne c d a b e f) (ownIcne d a b) st

/-- ICLT (R153). -/
def execIclt (c : Bool) (d : Opnd) (a : Opnd) (b : Opnd) (e : Bool) (f : Bool) (st : State) : Host.Outcome State Fault Refusal :=
  issueWord (.iclt c d a b e f) (ownIclt d a b) st

/-- ICLE (R153). -/
def execIcle (c : Bool) (d : Opnd) (a : Opnd) (b : Opnd) (e : Bool) (f : Bool) (st : State) : Host.Outcome State Fault Refusal :=
  issueWord (.icle c d a b e f) (ownIcle d a b) st

/-- ICLTU (R153). -/
def execIcltu (c : Bool) (d : Opnd) (a : Opnd) (b : Opnd) (e : Bool) (f : Bool) (st : State) : Host.Outcome State Fault Refusal :=
  issueWord (.icltu c d a b e f) (ownIcltu d a b) st

/-- ICLEU (R153). -/
def execIcleu (c : Bool) (d : Opnd) (a : Opnd) (b : Opnd) (e : Bool) (f : Bool) (st : State) : Host.Outcome State Fault Refusal :=
  issueWord (.icleu c d a b e f) (ownIcleu d a b) st

/-- POPC (R154). -/
def execPopc (c : Bool) (d : Opnd) (a : Opnd) (e : Bool) (st : State) : Host.Outcome State Fault Refusal :=
  issueWord (.popc c d a e) (ownPopc d a) st

/-- CLZ (R154). -/
def execClz (c : Bool) (d : Opnd) (a : Opnd) (e : Bool) (st : State) : Host.Outcome State Fault Refusal :=
  issueWord (.clz c d a e) (ownClz d a) st

/-- BREV (R154). -/
def execBrev (c : Bool) (d : Opnd) (a : Opnd) (e : Bool) (st : State) : Host.Outcome State Fault Refusal :=
  issueWord (.brev c d a e) (ownBrev d a) st

/-- BFX (R158). -/
def execBfx (c : Bool) (d : Opnd) (a : Opnd) (b : Opnd) (e : Bool) (f : Bool) (m : Bool) (st : State) : Host.Outcome State Fault Refusal :=
  issueWord (.bfx c d a b e f m) (ownBfx d a b m) st

/-- BFI (R158). -/
def execBfi (c : Bool) (d : Opnd) (a : Opnd) (b : Opnd) (e : Bool) (f : Bool) (st : State) : Host.Outcome State Fault Refusal :=
  issueWord (.bfi c d a b e f) (ownBfi d a b) st

/-- IDIV (R159). -/
def execIdiv (c : Bool) (d : Opnd) (a : Opnd) (b : Opnd) (e : Bool) (f : Bool) (m : Bool) (st : State) : Host.Outcome State Fault Refusal :=
  issueWord (.idiv c d a b e f m) (ownIdiv d a b m) st

/-- IREM (R159). -/
def execIrem (c : Bool) (d : Opnd) (a : Opnd) (b : Opnd) (e : Bool) (f : Bool) (m : Bool) (st : State) : Host.Outcome State Fault Refusal :=
  issueWord (.irem c d a b e f m) (ownIrem d a b m) st

/-- AGET (R165). -/
def execAget (c : Bool) (d : Opnd) (a : Opnd) (e : Bool) (m : Bool) (st : State) : Host.Outcome State Fault Refusal :=
  issueWord (.aget c d a e m) (ownAget d a m) st

/-- RGET (R167). -/
def execRget (c : Bool) (d : Opnd) (a : Opnd) (b : Opnd) (e : Bool) (f : Bool) (st : State) : Host.Outcome State Fault Refusal :=
  issueWord (.rget c d a b e f) (ownRget d a b e) st

/-- RPUT (R168). -/
def execRput (c : Bool) (d : Opnd) (a : Opnd) (b : Opnd) (f : Bool) (st : State) : Host.Outcome State Fault Refusal :=
  issueWord (.rput c d a b f) (ownRput d a b) st

/-- IADDI (R160). -/
def execIaddi (c : Bool) (d : Opnd) (a : Opnd) (i : BitVec 10) (st : State) : Host.Outcome State Fault Refusal :=
  issueWord (.iaddi c d a i) (ownIaddi d a i) st

/-- ANDI (R160). -/
def execAndi (c : Bool) (d : Opnd) (a : Opnd) (i : BitVec 10) (st : State) : Host.Outcome State Fault Refusal :=
  issueWord (.andi c d a i) (ownAndi d a i) st

/-- ORI (R160). -/
def execOri (c : Bool) (d : Opnd) (a : Opnd) (i : BitVec 10) (st : State) : Host.Outcome State Fault Refusal :=
  issueWord (.ori c d a i) (ownOri d a i) st

/-- XORI (R160). -/
def execXori (c : Bool) (d : Opnd) (a : Opnd) (i : BitVec 10) (st : State) : Host.Outcome State Fault Refusal :=
  issueWord (.xori c d a i) (ownXori d a i) st

/-- SHLI (R160). -/
def execShli (c : Bool) (d : Opnd) (a : Opnd) (i : BitVec 10) (st : State) : Host.Outcome State Fault Refusal :=
  issueWord (.shli c d a i) (ownShli d a i) st

/-- SHRI (R160). -/
def execShri (c : Bool) (d : Opnd) (a : Opnd) (i : BitVec 10) (st : State) : Host.Outcome State Fault Refusal :=
  issueWord (.shri c d a i) (ownShri d a i) st

/-- SARI (R160). -/
def execSari (c : Bool) (d : Opnd) (a : Opnd) (i : BitVec 10) (st : State) : Host.Outcome State Fault Refusal :=
  issueWord (.sari c d a i) (ownSari d a i) st

/-- ICEQI (R160). -/
def execIceqi (c : Bool) (d : Opnd) (a : Opnd) (i : BitVec 10) (st : State) : Host.Outcome State Fault Refusal :=
  issueWord (.iceqi c d a i) (ownIceqi d a i) st

/-- ICLTI (R160). -/
def execIclti (c : Bool) (d : Opnd) (a : Opnd) (i : BitVec 10) (st : State) : Host.Outcome State Fault Refusal :=
  issueWord (.iclti c d a i) (ownIclti d a i) st

/-- ICLTUI (R160). -/
def execIcltui (c : Bool) (d : Opnd) (a : Opnd) (i : BitVec 10) (st : State) : Host.Outcome State Fault Refusal :=
  issueWord (.icltui c d a i) (ownIcltui d a i) st

/-- MOVK (R161). -/
def execMovk (c : Bool) (d : Opnd) (i : BitVec 17) (st : State) : Host.Outcome State Fault Refusal :=
  issueWord (.movk c d i) (ownMovk d i) st

/-- MOVKH (R161). -/
def execMovkh (c : Bool) (d : Opnd) (i : BitVec 16) (st : State) : Host.Outcome State Fault Refusal :=
  issueWord (.movkh c d i) (ownMovkh d i) st

/-- PROM (R162). -/
def execProm (c : Bool) (d : Opnd) (a : Opnd) (b : Opnd) (e : Bool) (f : Bool) (m : Bool) (st : State) : Host.Outcome State Fault Refusal :=
  issueWord (.prom c d a b e f m) (ownProm d a b m) st

/-- DEMU (R163). -/
def execDemu (c : Bool) (d : Opnd) (a : Opnd) (e : Bool) (m : Bool) (st : State) : Host.Outcome State Fault Refusal :=
  issueWord (.demu c d a e m) (ownDemu d a m) st

/-- UNIQ (R164). -/
def execUniq (c : Bool) (d : Opnd) (a : Opnd) (b : Opnd) (e : Bool) (f : Bool) (st : State) : Host.Outcome State Fault Refusal :=
  issueWord (.uniq c d a b e f) (ownUniq d a b) st

/-- SETE (R166). -/
def execSete (c : Bool) (d : Opnd) (m : Bool) (st : State) : Host.Outcome State Fault Refusal :=
  issueWord (.sete c d m) (ownSete d m) st

/-- FADD (R175). -/
def execFadd (c : Bool) (d : Opnd) (a : Opnd) (b : Opnd) (e : Bool) (f : Bool) (st : State) : Host.Outcome State Fault Refusal :=
  issueWord (.fadd c d a b e f) (ownFadd d a b) st

/-- FSUB (R175). -/
def execFsub (c : Bool) (d : Opnd) (a : Opnd) (b : Opnd) (e : Bool) (f : Bool) (st : State) : Host.Outcome State Fault Refusal :=
  issueWord (.fsub c d a b e f) (ownFsub d a b) st

/-- FMUL (R175). -/
def execFmul (c : Bool) (d : Opnd) (a : Opnd) (b : Opnd) (e : Bool) (f : Bool) (st : State) : Host.Outcome State Fault Refusal :=
  issueWord (.fmul c d a b e f) (ownFmul d a b) st

/-- FFMA (R175). -/
def execFfma (c : Bool) (d : Opnd) (a : Opnd) (b : Opnd) (e : Bool) (f : Bool) (m : Bool) (st : State) : Host.Outcome State Fault Refusal :=
  issueWord (.ffma c d a b e f m) (ownFfma d a b m) st

/-- FMIN (R176). -/
def execFmin (c : Bool) (d : Opnd) (a : Opnd) (b : Opnd) (e : Bool) (f : Bool) (st : State) : Host.Outcome State Fault Refusal :=
  issueWord (.fmin c d a b e f) (ownFmin d a b) st

/-- FMAX (R176). -/
def execFmax (c : Bool) (d : Opnd) (a : Opnd) (b : Opnd) (e : Bool) (f : Bool) (st : State) : Host.Outcome State Fault Refusal :=
  issueWord (.fmax c d a b e f) (ownFmax d a b) st

/-- FRCP (R177). -/
def execFrcp (c : Bool) (d : Opnd) (a : Opnd) (e : Bool) (st : State) : Host.Outcome State Fault Refusal :=
  issueWord (.frcp c d a e) (ownFrcp d a) st

/-- FRSQ (R177). -/
def execFrsq (c : Bool) (d : Opnd) (a : Opnd) (e : Bool) (st : State) : Host.Outcome State Fault Refusal :=
  issueWord (.frsq c d a e) (ownFrsq d a) st

/-- FSQRT (R177). -/
def execFsqrt (c : Bool) (d : Opnd) (a : Opnd) (e : Bool) (st : State) : Host.Outcome State Fault Refusal :=
  issueWord (.fsqrt c d a e) (ownFsqrt d a) st

/-- FEXP2 (R177). -/
def execFexp2 (c : Bool) (d : Opnd) (a : Opnd) (e : Bool) (st : State) : Host.Outcome State Fault Refusal :=
  issueWord (.fexp2 c d a e) (ownFexp2 d a) st

/-- FLOG2 (R177). -/
def execFlog2 (c : Bool) (d : Opnd) (a : Opnd) (e : Bool) (st : State) : Host.Outcome State Fault Refusal :=
  issueWord (.flog2 c d a e) (ownFlog2 d a) st

/-- FCEQ (R178). -/
def execFceq (c : Bool) (d : Opnd) (a : Opnd) (b : Opnd) (e : Bool) (f : Bool) (st : State) : Host.Outcome State Fault Refusal :=
  issueWord (.fceq c d a b e f) (ownFceq d a b) st

/-- FCLT (R178). -/
def execFclt (c : Bool) (d : Opnd) (a : Opnd) (b : Opnd) (e : Bool) (f : Bool) (st : State) : Host.Outcome State Fault Refusal :=
  issueWord (.fclt c d a b e f) (ownFclt d a b) st

/-- FCLE (R178). -/
def execFcle (c : Bool) (d : Opnd) (a : Opnd) (b : Opnd) (e : Bool) (f : Bool) (st : State) : Host.Outcome State Fault Refusal :=
  issueWord (.fcle c d a b e f) (ownFcle d a b) st

/-- FCLASS (R179). -/
def execFclass (c : Bool) (d : Opnd) (a : Opnd) (e : Bool) (st : State) : Host.Outcome State Fault Refusal :=
  issueWord (.fclass c d a e) (ownFclass d a) st

/-- FRND (R180). -/
def execFrnd (c : Bool) (d : Opnd) (a : Opnd) (b : Opnd) (e : Bool) (f : Bool) (st : State) : Host.Outcome State Fault Refusal :=
  issueWord (.frnd c d a b e f) (ownFrnd d a b) st

/-- CVTFI (R181). -/
def execCvtfi (c : Bool) (d : Opnd) (a : Opnd) (b : Opnd) (e : Bool) (f : Bool) (m : Bool) (st : State) : Host.Outcome State Fault Refusal :=
  issueWord (.cvtfi c d a b e f m) (ownCvtfi d a b m) st

/-- CVTIF (R182). -/
def execCvtif (c : Bool) (d : Opnd) (a : Opnd) (e : Bool) (m : Bool) (st : State) : Host.Outcome State Fault Refusal :=
  issueWord (.cvtif c d a e m) (ownCvtif d a m) st

/-- CVTN (R183). -/
def execCvtn (c : Bool) (d : Opnd) (a : Opnd) (b : Opnd) (e : Bool) (f : Bool) (st : State) : Host.Outcome State Fault Refusal :=
  issueWord (.cvtn c d a b e f) (ownCvtn d a b) st

/-- CVTW (R184). -/
def execCvtw (c : Bool) (d : Opnd) (a : Opnd) (b : Opnd) (e : Bool) (f : Bool) (st : State) : Host.Outcome State Fault Refusal :=
  issueWord (.cvtw c d a b e f) (ownCvtw d a b) st

/-- CVTH (R185). -/
def execCvth (c : Bool) (d : Opnd) (a : Opnd) (b : Opnd) (e : Bool) (f : Bool) (m : Bool) (st : State) : Host.Outcome State Fault Refusal :=
  issueWord (.cvth c d a b e f m) (ownCvth d a b m) st

/-- SETFMT (R186). -/
def execSetfmt (c : Bool) (a : Opnd) (e : Bool) (st : State) : Host.Outcome State Fault Refusal :=
  issueWord (.setfmt c a e) (ownSetfmt a) st

/-- GETFMT (R187). -/
def execGetfmt (c : Bool) (d : Opnd) (st : State) : Host.Outcome State Fault Refusal :=
  issueWord (.getfmt c d) (ownGetfmt d) st

/-- RAND (R188). -/
def execRand (c : Bool) (d : Opnd) (a : Opnd) (b : Opnd) (e : Bool) (f : Bool) (m : Bool) (st : State) : Host.Outcome State Fault Refusal :=
  issueWord (.rand c d a b e f m) (ownRand d a b m) st

/-- SHFL (R191). -/
def execShfl (c : Bool) (d : Opnd) (a : Opnd) (b : Opnd) (e : Bool) (f : Bool) (st : State) : Host.Outcome State Fault Refusal :=
  issueWord (.shfl c d a b e f) (ownShfl d a b) st

/-- SHUP (R192). -/
def execShup (c : Bool) (d : Opnd) (a : Opnd) (b : Opnd) (e : Bool) (f : Bool) (st : State) : Host.Outcome State Fault Refusal :=
  issueWord (.shup c d a b e f) (ownShup d a b) st

/-- SHDN (R192). -/
def execShdn (c : Bool) (d : Opnd) (a : Opnd) (b : Opnd) (e : Bool) (f : Bool) (st : State) : Host.Outcome State Fault Refusal :=
  issueWord (.shdn c d a b e f) (ownShdn d a b) st

/-- BCAST (R193). -/
def execBcast (c : Bool) (d : Opnd) (a : Opnd) (b : Opnd) (e : Bool) (f : Bool) (st : State) : Host.Outcome State Fault Refusal :=
  issueWord (.bcast c d a b e f) (ownBcast d a b) st

/-- VANY (R194). -/
def execVany (c : Bool) (d : Opnd) (a : Opnd) (e : Bool) (st : State) : Host.Outcome State Fault Refusal :=
  issueWord (.vany c d a e) (ownVany d a) st

/-- VBAL (R194). -/
def execVbal (c : Bool) (d : Opnd) (a : Opnd) (e : Bool) (st : State) : Host.Outcome State Fault Refusal :=
  issueWord (.vbal c d a e) (ownVbal d a) st

/-- RDADD (R195). -/
def execRdadd (c : Bool) (d : Opnd) (a : Opnd) (e : Bool) (m : Bool) (st : State) : Host.Outcome State Fault Refusal :=
  issueWord (.rdadd c d a e m) (ownRdadd d a m) st

/-- RDMIN (R195). -/
def execRdmin (c : Bool) (d : Opnd) (a : Opnd) (e : Bool) (m : Bool) (st : State) : Host.Outcome State Fault Refusal :=
  issueWord (.rdmin c d a e m) (ownRdmin d a m) st

/-- LD (R203). -/
def execLd (c : Bool) (d : Opnd) (b : Opnd) (s : BitVec 2) (o : Bool) (e : Bool) (n : BitVec 6) (st : State) : Host.Outcome State Fault Refusal :=
  issueWord (.ld c d b s o e n) (ownLd d b s o n) st

/-- LDSX (R203). -/
def execLdsx (c : Bool) (d : Opnd) (b : Opnd) (s : BitVec 2) (o : Bool) (e : Bool) (n : BitVec 6) (st : State) : Host.Outcome State Fault Refusal :=
  issueWord (.ldsx c d b s o e n) (ownLdsx d b s o n) st

/-- ST (R204). -/
def execSt (c : Bool) (d : Opnd) (b : Opnd) (s : BitVec 2) (e : Bool) (n : BitVec 6) (st : State) : Host.Outcome State Fault Refusal :=
  issueWord (.st c d b s e n) (ownSt d b s n) st

/-- LDSC (R206). -/
def execLdsc (c : Bool) (d : Opnd) (b : Opnd) (s : BitVec 2) (e : Bool) (n : BitVec 6) (st : State) : Host.Outcome State Fault Refusal :=
  issueWord (.ldsc c d b s e n) (ownLdsc d b s n) st

/-- STSC (R206). -/
def execStsc (c : Bool) (d : Opnd) (b : Opnd) (s : BitVec 2) (e : Bool) (n : BitVec 6) (st : State) : Host.Outcome State Fault Refusal :=
  issueWord (.stsc c d b s e n) (ownStsc d b s n) st

/-- AMO (R209). -/
def execAmo (c : Bool) (d : Opnd) (b : Opnd) (s : BitVec 2) (e : Bool) (p : BitVec 4) (g : BitVec 2) (st : State) : Host.Outcome State Fault Refusal :=
  issueWord (.amo c d b s e p g) (ownAmo d b s p g) st

/-- AMOR (R209). -/
def execAmor (c : Bool) (d : Opnd) (b : Opnd) (s : BitVec 2) (e : Bool) (p : BitVec 4) (g : BitVec 2) (st : State) : Host.Outcome State Fault Refusal :=
  issueWord (.amor c d b s e p g) (ownAmor c d b s e p g) st

/-- CAS (R211). -/
def execCas (c : Bool) (d : Opnd) (b : Opnd) (s : BitVec 2) (e : Bool) (g : BitVec 2) (st : State) : Host.Outcome State Fault Refusal :=
  issueWord (.cas c d b s e g) (ownCas c d b s e g) st

/-- FENCE (R213). -/
def execFence (c : Bool) (k : BitVec 2) (g : BitVec 3) (st : State) : Host.Outcome State Fault Refusal :=
  issueWord (.fence c k g) (ownFence k g) st

/-- IFENCE (R214). -/
def execIfence (c : Bool) (st : State) : Host.Outcome State Fault Refusal :=
  issueWord (.ifence c) (ownIfence) st

/-- PF (R215). -/
def execPf (c : Bool) (b : Opnd) (s : BitVec 2) (o : Bool) (e : Bool) (n : BitVec 6) (st : State) : Host.Outcome State Fault Refusal :=
  issueWord (.pf c b s o e n) (ownPf b s o n) st

/-- L1INV (R216). -/
def execL1inv (c : Bool) (st : State) : Host.Outcome State Fault Refusal :=
  issueWord (.l1inv c) (ownL1inv) st

/-- SHTAKE (R218). -/
def execShtake (c : Bool) (d : Opnd) (a : Opnd) (m : Bool) (st : State) : Host.Outcome State Fault Refusal :=
  issueWord (.shtake c d a m) (ownShtake d a m) st

/-- SHPUT (R219). -/
def execShput (c : Bool) (a : Opnd) (b : Opnd) (m : Bool) (st : State) : Host.Outcome State Fault Refusal :=
  issueWord (.shput c a b m) (ownShput a b m) st

/-- SHQRY (R220). -/
def execShqry (c : Bool) (d : Opnd) (a : Opnd) (st : State) : Host.Outcome State Fault Refusal :=
  issueWord (.shqry c d a) (ownShqry d a) st

/-- WAITE (R222). -/
def execWaite (c : Bool) (a : Opnd) (b : Opnd) (st : State) : Host.Outcome State Fault Refusal :=
  issueWord (.waite c a b) (ownWaite) st

/-- TLD (R287). -/
def execTld (c : Bool) (t : BitVec 3) (l : Bool) (x : BitVec 5) (i : BitVec 5) (v : Opnd) (e : Bool) (f : BitVec 2) (st : State) : Host.Outcome State Fault Refusal :=
  issueWord (.tld c t l x i v e f) (ownTld t l x i v e f) st

/-- TST (R287). -/
def execTst (c : Bool) (t : BitVec 3) (l : Bool) (x : BitVec 5) (i : BitVec 5) (v : Opnd) (e : Bool) (f : BitVec 2) (st : State) : Host.Outcome State Fault Refusal :=
  issueWord (.tst c t l x i v e f) (ownTst t l x i v e f) st

/-- TMOV (R289). -/
def execTmov (c : Bool) (t : BitVec 3) (l : Bool) (x : BitVec 5) (i : BitVec 5) (v : Opnd) (e : Bool) (f : Bool) (st : State) : Host.Outcome State Fault Refusal :=
  issueWord (.tmov c t l x i v e f) (ownTmov t l x i v e f) st

/-- ZCLR (R290). -/
def execZclr (c : Bool) (z : BitVec 3) (f : BitVec 3) (st : State) : Host.Outcome State Fault Refusal :=
  issueWord (.zclr c z f) (ownZclr z f) st

/-- ZRD (R291). -/
def execZrd (c : Bool) (t : BitVec 3) (l : Bool) (x : BitVec 5) (i : BitVec 5) (v : Opnd) (f : BitVec 2) (st : State) : Host.Outcome State Fault Refusal :=
  issueWord (.zrd c t l x i v f) (ownZrd t x i v f) st

/-- ZXF (R293). -/
def execZxf (c : Bool) (z : BitVec 3) (b : BitVec 5) (e : Bool) (m : Bool) (st : State) : Host.Outcome State Fault Refusal :=
  issueWord (.zxf c z b e m) (ownZxf z b e m) st

/-- MMA (R295). -/
def execMma (c : Bool) (z : BitVec 3) (a : BitVec 3) (b : BitVec 5) (s : BitVec 5) (f : BitVec 3) (e : Bool) (st : State) : Host.Outcome State Fault Refusal :=
  issueWord (.mma c z a b s f e) (ownMma c z a b s f e) st

/-- MMAS (R296). -/
def execMmas (c : Bool) (z : BitVec 3) (a : BitVec 3) (b : BitVec 5) (s : BitVec 5) (t : BitVec 3) (f : BitVec 3) (e : Bool) (st : State) : Host.Outcome State Fault Refusal :=
  issueWord (.mmas c z a b s t f e) (ownMmas c z a b s t f e) st

/-- SLD (R322). -/
def execSld (c : Bool) (d : Opnd) (a : Opnd) (b : Opnd) (e : Bool) (f : Bool) (m : Bool) (st : State) : Host.Outcome State Fault Refusal :=
  issueWord (.sld c d a b e f m) (ownSld d a b m) st

/-- SST (R323). -/
def execSst (c : Bool) (d : Opnd) (a : Opnd) (b : Opnd) (e : Bool) (f : Bool) (m : Bool) (st : State) : Host.Outcome State Fault Refusal :=
  issueWord (.sst c d a b e f m) (ownSst c d a b e f m) st

/-- SCUR (R325). -/
def execScur (c : Bool) (d : Opnd) (a : Opnd) (b : Opnd) (e : Bool) (f : Bool) (st : State) : Host.Outcome State Fault Refusal :=
  issueWord (.scur c d a b e f) (ownScur d a b) st

/-- SNXT (R326). -/
def execSnxt (c : Bool) (d : Opnd) (a : Opnd) (b : Opnd) (e : Bool) (f : Bool) (st : State) : Host.Outcome State Fault Refusal :=
  issueWord (.snxt c d a b e f) (ownSnxt d a b) st

/-- SISX (R327). -/
def execSisx (c : Bool) (d : Opnd) (a : Opnd) (b : Opnd) (e : Bool) (f : Bool) (st : State) : Host.Outcome State Fault Refusal :=
  issueWord (.sisx c d a b e f) (ownSisx d a b) st

/-- ENG_STK (R258). -/
def execEngStk (c : Bool) (d : Opnd) (a : BitVec 5) (b : BitVec 5) (st : State) : Host.Outcome State Fault Refusal :=
  issueWord (.engStk c d a b) (ownEngStk d a b) st

/-- ENG_CPY (R258). -/
def execEngCpy (c : Bool) (d : Opnd) (a : BitVec 5) (b : BitVec 5) (st : State) : Host.Outcome State Fault Refusal :=
  issueWord (.engCpy c d a b) (ownEngCpy d a b) st

/-- ENG_DENSE (R314). -/
def execEngDense (c : Bool) (d : Opnd) (a : BitVec 5) (b : BitVec 5) (st : State) : Host.Outcome State Fault Refusal :=
  issueWord (.engDense c d a b) (ownEngDense d a b) st

/-- ENG_SPAR (R315). -/
def execEngSpar (c : Bool) (d : Opnd) (a : BitVec 5) (b : BitVec 5) (st : State) : Host.Outcome State Fault Refusal :=
  issueWord (.engSpar c d a b) (ownEngSpar d a b) st

/-- ENG_DSP (R260). -/
def execEngDsp (c : Bool) (d : Opnd) (a : BitVec 5) (st : State) : Host.Outcome State Fault Refusal :=
  issueWord (.engDsp c d a) (ownEngDsp d a) st

/-- ENG_CMB (R261). -/
def execEngCmb (c : Bool) (d : Opnd) (a : BitVec 5) (b : BitVec 5) (st : State) : Host.Outcome State Fault Refusal :=
  issueWord (.engCmb c d a b) (ownEngCmb d a b) st

/-- ENG_QAPP (R329). -/
def execEngQapp (c : Bool) (d : Opnd) (a : BitVec 5) (b : BitVec 5) (st : State) : Host.Outcome State Fault Refusal :=
  issueWord (.engQapp c d a b) (ownEngQapp d a b) st

/-- ENG_GCOND (R332). -/
def execEngGcond (c : Bool) (d : Opnd) (a : BitVec 5) (b : BitVec 5) (st : State) : Host.Outcome State Fault Refusal :=
  issueWord (.engGcond c d a b) (ownEngGcond d a b) st

/-- ENG_LVLW (R339). -/
def execEngLvlw (c : Bool) (d : Opnd) (a : BitVec 5) (b : BitVec 5) (st : State) : Host.Outcome State Fault Refusal :=
  issueWord (.engLvlw c d a b) (ownEngLvlw d a b) st

/-- ENG_CANCEL (R340). -/
def execEngCancel (c : Bool) (d : Opnd) (a : BitVec 5) (b : BitVec 5) (st : State) : Host.Outcome State Fault Refusal :=
  issueWord (.engCancel c d a b) (ownEngCancel d a b) st

/-- ENG_HASH (R400). -/
def execEngHash (c : Bool) (d : Opnd) (a : BitVec 5) (st : State) : Host.Outcome State Fault Refusal :=
  issueWord (.engHash c d a) (ownEngHash d a) st

/-- ENG_KGROW (R306). -/
def execEngKgrow (c : Bool) (d : Opnd) (a : BitVec 5) (b : BitVec 5) (st : State) : Host.Outcome State Fault Refusal :=
  issueWord (.engKgrow c d a b) (ownEngKgrow d a b) st

/-- BAR_ARRIVE (R224). -/
def execBarArrive (c : Bool) (d : Opnd) (a : BitVec 5) (n : BitVec 4) (st : State) : Host.Outcome State Fault Refusal :=
  issueWord (.barArrive c d a n) (ownBarArrive d a n) st

/-- BAR_WAIT (R225). -/
def execBarWait (c : Bool) (b : BitVec 5) (n : BitVec 4) (st : State) : Host.Outcome State Fault Refusal :=
  issueWord (.barWait c b n) (ownBarWait b n) st

/-- BAR_SYNC (R225). -/
def execBarSync (c : Bool) (a : BitVec 5) (n : BitVec 4) (st : State) : Host.Outcome State Fault Refusal :=
  issueWord (.barSync c a n) (ownBarSync a n) st

/-- SYS_RDSR (R138). -/
def execSysRdsr (c : Bool) (d : Opnd) (a : BitVec 5) (b : BitVec 5) (st : State) : Host.Outcome State Fault Refusal :=
  issueWord (.sysRdsr c d a b) (ownSysRdsr d a b) st

/-- SYS_WRSR (R138). -/
def execSysWrsr (c : Bool) (d : Opnd) (a : BitVec 5) (b : BitVec 5) (st : State) : Host.Outcome State Fault Refusal :=
  issueWord (.sysWrsr c d a b) (ownSysWrsr d a b) st

/-- SYS_HALT (R139). -/
def execSysHalt (c : Bool) (st : State) : Host.Outcome State Fault Refusal :=
  issueWord (.sysHalt c) (ownSysHalt) st

/-- The own effect of a word, for a chain of several words (R105 to R107). -/
def ownOf : Instr → State → WordOut
  | .nop _ => ownNop
  | .seg w => ownSeg w.slots
  | .nxt _ t => ownNxt t
  | .nxtc _ p t f _ => ownNxtc p t f
  | .nxti _ p _ => ownNxti p
  | .deal => ownDeal
  | .fold _ => ownFold
  | .call _ i => ownCall i
  | .callp _ p i => ownCallp p i
  | .ret _ => ownRet
  | .trap _ i => ownTrap i
  | .eret _ k => ownEret k
  | .brk _ i => ownBrk i
  | .emset _ a _ => ownEmset a
  | .emget _ d m => ownEmget d m
  | .yield _ => ownYield
  | .iadd _ d a b _ _ m => ownIadd d a b m
  | .isub _ d a b _ _ m => ownIsub d a b m
  | .imul _ d a b _ _ m => ownImul d a b m
  | .imulh _ d a b _ _ m => ownImulh d a b m
  | .imad _ d a b _ _ m => ownImad d a b m
  | .imin _ d a b _ _ m => ownImin d a b m
  | .imax _ d a b _ _ m => ownImax d a b m
  | .iabs _ d a _ m => ownIabs d a m
  | .and _ d a b _ _ => ownAnd d a b
  | .or _ d a b _ _ => ownOr d a b
  | .xor _ d a b _ _ => ownXor d a b
  | .shl _ d a b _ _ m => ownShl d a b m
  | .shr _ d a b _ _ => ownShr d a b
  | .sar _ d a b _ _ => ownSar d a b
  | .iaddmin _ d a b _ _ => ownIaddmin d a b
  | .cmov _ d a b _ _ => ownCmov d a b
  | .iceq _ d a b _ _ => ownIceq d a b
  | .icne _ d a b _ _ => ownIcne d a b
  | .iclt _ d a b _ _ => ownIclt d a b
  | .icle _ d a b _ _ => ownIcle d a b
  | .icltu _ d a b _ _ => ownIcltu d a b
  | .icleu _ d a b _ _ => ownIcleu d a b
  | .popc _ d a _ => ownPopc d a
  | .clz _ d a _ => ownClz d a
  | .brev _ d a _ => ownBrev d a
  | .bfx _ d a b _ _ m => ownBfx d a b m
  | .bfi _ d a b _ _ => ownBfi d a b
  | .idiv _ d a b _ _ m => ownIdiv d a b m
  | .irem _ d a b _ _ m => ownIrem d a b m
  | .aget _ d a _ m => ownAget d a m
  | .rget _ d a b e _ => ownRget d a b e
  | .rput _ d a b _ => ownRput d a b
  | .iaddi _ d a i => ownIaddi d a i
  | .andi _ d a i => ownAndi d a i
  | .ori _ d a i => ownOri d a i
  | .xori _ d a i => ownXori d a i
  | .shli _ d a i => ownShli d a i
  | .shri _ d a i => ownShri d a i
  | .sari _ d a i => ownSari d a i
  | .iceqi _ d a i => ownIceqi d a i
  | .iclti _ d a i => ownIclti d a i
  | .icltui _ d a i => ownIcltui d a i
  | .movk _ d i => ownMovk d i
  | .movkh _ d i => ownMovkh d i
  | .prom _ d a b _ _ m => ownProm d a b m
  | .demu _ d a _ m => ownDemu d a m
  | .uniq _ d a b _ _ => ownUniq d a b
  | .sete _ d m => ownSete d m
  | .fadd _ d a b _ _ => ownFadd d a b
  | .fsub _ d a b _ _ => ownFsub d a b
  | .fmul _ d a b _ _ => ownFmul d a b
  | .ffma _ d a b _ _ m => ownFfma d a b m
  | .fmin _ d a b _ _ => ownFmin d a b
  | .fmax _ d a b _ _ => ownFmax d a b
  | .frcp _ d a _ => ownFrcp d a
  | .frsq _ d a _ => ownFrsq d a
  | .fsqrt _ d a _ => ownFsqrt d a
  | .fexp2 _ d a _ => ownFexp2 d a
  | .flog2 _ d a _ => ownFlog2 d a
  | .fceq _ d a b _ _ => ownFceq d a b
  | .fclt _ d a b _ _ => ownFclt d a b
  | .fcle _ d a b _ _ => ownFcle d a b
  | .fclass _ d a _ => ownFclass d a
  | .frnd _ d a b _ _ => ownFrnd d a b
  | .cvtfi _ d a b _ _ m => ownCvtfi d a b m
  | .cvtif _ d a _ m => ownCvtif d a m
  | .cvtn _ d a b _ _ => ownCvtn d a b
  | .cvtw _ d a b _ _ => ownCvtw d a b
  | .cvth _ d a b _ _ m => ownCvth d a b m
  | .setfmt _ a _ => ownSetfmt a
  | .getfmt _ d => ownGetfmt d
  | .rand _ d a b _ _ m => ownRand d a b m
  | .shfl _ d a b _ _ => ownShfl d a b
  | .shup _ d a b _ _ => ownShup d a b
  | .shdn _ d a b _ _ => ownShdn d a b
  | .bcast _ d a b _ _ => ownBcast d a b
  | .vany _ d a _ => ownVany d a
  | .vbal _ d a _ => ownVbal d a
  | .rdadd _ d a _ m => ownRdadd d a m
  | .rdmin _ d a _ m => ownRdmin d a m
  | .ld _ d b s o _ n => ownLd d b s o n
  | .ldsx _ d b s o _ n => ownLdsx d b s o n
  | .st _ d b s _ n => ownSt d b s n
  | .ldsc _ d b s _ n => ownLdsc d b s n
  | .stsc _ d b s _ n => ownStsc d b s n
  | .amo _ d b s _ p g => ownAmo d b s p g
  | .amor c d b s e p g => ownAmor c d b s e p g
  | .cas c d b s e g => ownCas c d b s e g
  | .fence _ k g => ownFence k g
  | .ifence _ => ownIfence
  | .pf _ b s o _ n => ownPf b s o n
  | .l1inv _ => ownL1inv
  | .shtake _ d a m => ownShtake d a m
  | .shput _ a b m => ownShput a b m
  | .shqry _ d a => ownShqry d a
  | .waite _ _ _ => ownWaite
  | .tld _ t l x i v e f => ownTld t l x i v e f
  | .tst _ t l x i v e f => ownTst t l x i v e f
  | .tmov _ t l x i v e f => ownTmov t l x i v e f
  | .zclr _ z f => ownZclr z f
  | .zrd _ t _ x i v f => ownZrd t x i v f
  | .zxf _ z b e m => ownZxf z b e m
  | .mma c z a b s f e => ownMma c z a b s f e
  | .mmas c z a b s t f e => ownMmas c z a b s t f e
  | .sld _ d a b _ _ m => ownSld d a b m
  | .sst c d a b e f m => ownSst c d a b e f m
  | .scur _ d a b _ _ => ownScur d a b
  | .snxt _ d a b _ _ => ownSnxt d a b
  | .sisx _ d a b _ _ => ownSisx d a b
  | .engStk _ d a b => ownEngStk d a b
  | .engCpy _ d a b => ownEngCpy d a b
  | .engDense _ d a b => ownEngDense d a b
  | .engSpar _ d a b => ownEngSpar d a b
  | .engDsp _ d a => ownEngDsp d a
  | .engCmb _ d a b => ownEngCmb d a b
  | .engQapp _ d a b => ownEngQapp d a b
  | .engGcond _ d a b => ownEngGcond d a b
  | .engLvlw _ d a b => ownEngLvlw d a b
  | .engCancel _ d a b => ownEngCancel d a b
  | .engHash _ d a => ownEngHash d a
  | .engKgrow _ d a b => ownEngKgrow d a b
  | .barArrive _ d a n => ownBarArrive d a n
  | .barWait _ b n => ownBarWait b n
  | .barSync _ a n => ownBarSync a n
  | .sysRdsr _ d a b => ownSysRdsr d a b
  | .sysWrsr _ d a b => ownSysWrsr d a b
  | .sysHalt _ => ownSysHalt
  | _ => fun _ => .done id

end Sys2Proof.Machine
end

