-- ==== Sys2Proof/Machine/Issue.lean ====
section
/-! DEFINITION. What a chain of words comes to before it issues (R102 to R108, R214), and when a squad is
ready (R342). -/

namespace Sys2Proof.Machine

/-- A byte of code may be fetched: its page has X, and no port on the way is down (R356, R393). -/
def fetchable (s : State) (va : Nat) : Bool :=
  (translate s s.core.id s.launch.asid va).any (fun l => leafX l.1 && reachable s (physOf l va))

/-- The faults of a fetch: bits [63:56], lease, permission, range lock (R199, R208, R214, R356, Table 10-6). -/
def fetchFault (s : State) : Option Report :=
  let va := packetVa s s.sq.pkt
  let a := BitVec.ofNat 64 va
  let em := s.sq.em
  if 2 ^ 56 < va + 12 then some ⟨0x0A#8, a, 2#64, em⟩
  else if !inLease s.launch.lr.leases va 12 then some ⟨0x09#8, a, 2#64, em⟩
  else if !(span va 12).all (fetchable s) then some ⟨0x0A#8, a, 2#64, em⟩
  else match lockHit s s.core.id s.team.key s.launch.asid 0 .read va 12 with
    | some r => some ⟨0x08#8, a, BitVec.ofNat 64 (r.entry + 64), em⟩
    | none => none

/-- A word decoded and well formed. -/
def goodWord (w : Word) : Option Instr :=
  match decode w with
  | .ok i => if i.wf then some i else none
  | .error _ => none

/-- A chain of several words holds one that stands alone (R108). A stand-alone opcode with a nonzero zero field decodes
to no instruction and is an undefined word like any other; with an operand or function value that its form does not
admit it still counts as one that stands alone, and is reported at word 0. R108 does not say which of the two a
malformed stand-alone word is: the model's choice (log 13). -/
def holdsAlone (ws : List Word) : Bool :=
  decide (1 < ws.length) && ws.any (fun w => match decode w with
    | .ok i => standsAlone i
    | .error _ => false)

/-- Undefined encoding of word `k` of a chain: the word, then the chain's other words (Table 10-6). -/
def chainUndefined (ws : List Word) (k : Nat) (s : State) : Report :=
  let others := ws.eraseIdx k
  ⟨0x01#8, (ws.getD k 0#32).setWidth 64, others.getD 1 0#32 ++ others.getD 0 0#32, s.sq.em⟩

/-- The second conflicting word of a chain: the lowest that conflicts with an earlier one (R106). -/
def conflictAt (fmt : Word) (is : List Instr) : Option Nat :=
  (List.range is.length).find? (fun k => (is.take k).any (fun j => conflicts fmt j (is.getD k default)))

/-! An engine command reads its record and list at issue, and with them every store of its squad that precedes the
ENG, those of its own chain among them (R230, R236, R256; log 11). -/

def isEng : Instr → Bool
  | .engStk _ _ _ _ | .engCpy _ _ _ _ | .engDense _ _ _ _ | .engSpar _ _ _ _ | .engDsp _ _ _ | .engCmb _ _ _ _
  | .engQapp _ _ _ _ | .engGcond _ _ _ _ | .engLvlw _ _ _ _ | .engCancel _ _ _ _ | .engHash _ _ _ | .engKgrow _ _ _ _ => true
  | _ => false

/-- Atomics of the current squad from place `n` of its program order on stand in its queue. -/
def openAtomics (n : Nat) (s : State) : Bool :=
  s.sq.storeq.any (fun e => decide (n ≤ e.seq) && (match e.kind with | .atomic _ _ _ _ _ _ _ _ => true | _ => false))

/-- The first coherent load of the chain at place `n` that has no value yet. -/
def openLoad (n : Nat) (s : State) : Option Prod :=
  s.sq.prods.find? (fun p => decide (n ≤ p.seq) && (match p.kind with
    | .load false _ _ co _ acc => acc.any (fun a => coherent s s.core.id s.launch.asid co a.2)
    | _ => false))

/-- A load of the chain is performed as the chain issues, where its order allows. -/
def flushLoad (n : Nat) (s : State) : State :=
  match openLoad n s with
  | none => s
  | some p => match p.kind with
    | .load _ sz signed co uni acc =>
      if loadReady s s.core.id s.launch.asid s.sq p acc then performLoad s.core.id s.launch.asid s.sq.key p sz signed co uni acc s else s
    | _ => s

/-- The words of the chain at place `n`, which an ENG behind them is to follow, are performed as the chain issues, as far
as their order allows: its atomics where nothing older stands in the queue, its coherent load, and then the tile word that
waits behind them. -/
def flushChain (n : Nat) (s : State) : State :=
  let merged := if openAtomics n s && s.sq.storeq.all (fun e => decide (n ≤ e.seq)) then
      (List.range s.sq.storeq.length).foldl (fun t _ => if openAtomics n t then mergeOne t.core.id t.sq.key t else t) s
    else s
  let read := flushLoad n merged
  match read.sq.late with
  | (m, .tile p ws) :: r => if lateReady m (.tile p ws) read then lateEffect m (.tile p ws) r read else read
  | (m, .acc p em es) :: r => if lateReady m (.acc p em es) read then lateEffect m (.acc p em es) r read else read
  | _ => read

/-- The state after some words of a chain whose updates are given, latest first. -/
def afterWords (s : State) (done : List (State → State)) : State := flushChain s.sq.seq (done.foldr (fun u t => u t) s)

/-- An ENG waits for a FENCE of its own chain, and for an atomic or a coherent load of it, which something older than the
chain holds back. The served take of an SHTAKE of its chain it cannot wait for, since the record is read at issue (R256):
the command's own accesses wait for it (`fenceState`). -/
def engWaits (s t : State) : Bool :=
  t.sq.fences.any (fun f => decide (s.sq.seq ≤ f.seq)
    && (if f.full then !(fenceState t f).2 else f.acq && s.sq.prods.any (·.kind.orders)))
  || openAtomics s.sq.seq t || (openLoad s.sq.seq t).isSome

/-- What an ENG behind some words of its chain reads: its registers from before the chain, and memory with their stores. -/
def chainView (s t : State) : State :=
  { s with
    mem := t.mem, dies := t.dies, core := { s.core with merged := t.core.merged }
    sq := { s.sq with storeq := t.sq.storeq, seq := t.sq.seq } }

/-- The acquires that the words of a chain, in the state `t` after them, have added. -/
def newAcquires (s t : State) : List FenceRec := t.sq.fences.filter (fun f => decide (s.sq.seq ≤ f.seq))

/-- An SST behind a BAR.wait or a BAR.sync of its chain (R225, R234): its checks are made at issue; behind a BAR.wait it
waits for the earlier loads that the acquire waits for, and behind a BAR.sync, whose arrival is made when the chain issues,
its lanes are accepted once the wait has ended (R309; log 11). -/
def sstBehind (s t : State) (k : Nat) (r : SstRec) (o : WordOut) : WordOut :=
  match o with
  | .trap x => .trap x
  | .wait w => .wait w
  | o =>
    if r.todo.isEmpty || (newAcquires s t).isEmpty then o
    else if (newAcquires s t).any (·.barrier) then
      let n := (chainFrom (packetWords s) s.sq.word).length
      .done (addLate (.sst r s.sq.pkt s.sq.word k n))
    else if s.sq.prods.any (·.kind.orders) then .wait .order else o

/-- The outcome of one word of a chain behind words whose updates are given. -/
def chainWord (s : State) (done : List (State → State)) (i : Instr) : WordOut :=
  if done.isEmpty then wordOut i (ownOf i) s
  else if isEng i then
    let t := afterWords s done
    match wordOut i (ownOf i) (chainView s t) with
    | .done u => if engWaits s t then .wait .order else .done (fun x => u (flushChain s.sq.seq x))
    | o => o
  else match sstRecord i s with
    | none => wordOut i (ownOf i) s
    | some r => sstBehind s (done.foldr (fun u t => u t) s) done.length r (wordOut i (ownOf i) s)

/-- The outcomes of a chain's words in order: the updates, or the first word that waits or traps. -/
def chainOuts (s : State) : Nat → List Instr → List (State → State) → Sum (Nat × WordOut) (List (State → State))
  | _, [], acc => .inr acc.reverse
  | k, i :: r, acc =>
    match chainWord s acc i with
    | .done u => chainOuts s (k + 1) r (u :: acc)
    | .hold fails w u =>
      -- the rest of the chain must be able to issue before the word begins
      match chainOuts s (k + 1) r acc, fails with
      | .inl (j, .wait x), _ => .inl (j, .wait x)
      | .inl (j, .trap x), false => .inl (j, .trap x)
      | _, _ => .inl (k, .hold fails w u)
    | .fail u x =>
      match chainOuts s (k + 1) r acc with
      | .inl (j, .wait x) => .inl (j, .wait x)
      | _ => .inl (k, .fail u x)
    | o => .inl (k, o)

/-- Whether the chain at the position would issue now rather than wait: what makes a squad ready (R342). -/
def wouldIssue (s : State) : Bool :=
  if s.sq.sst.any (fun r => !r.todo.isEmpty) || s.sq.syncw.isSome || s.sq.mprog.any (·.doomed) then false
  else if !s.sq.late.isEmpty then (doLate s).isSome
  else match fetchFault s with
    | some _ => true
    | none =>
      let ws := chainFrom (packetWords s) s.sq.word
      let good := ws.map goodWord
      if holdsAlone ws || good.any (·.isNone) || (conflictAt s.sq.fmt (good.map (·.getD default))).isSome then true
      else match chainOuts s 0 (good.map (·.getD default)) [] with
        | .inl (_, .wait _) => false
        | _ => true

end Sys2Proof.Machine
end

