-- ==== Sys2Proof/Machine/Sched.lean ====
section
/-! DEFINITION. The core's scheduler: runs, moves between the files, retirement and stop
(R70, R96, R97, R135, R340, R342). -/

namespace Sys2Proof.Machine

/-! ## Runs -/

/-- An access of a squad waits, behind a BAR.sync of its own chain, for a barrier that the team has yet to
complete (R225). -/
def heldBySync (s : State) (t : TeamKey) : Bool :=
  (s.teamSquads t).any (fun q => inSync q && q.fences.any (fun f => f.barrier &&
    (q.prods.any (fun p => decide (f.seq < p.seq) && p.kind.pendingLoad) || q.storeq.any (fun e => decide (f.seq < e.seq))
      || q.late.any (fun l => decide (f.seq < l.1)))))

/-- A team's squads may start a run. Those of a team that is pre-empted only finish an SST or the words left of a
chain, or go on while an access that must be waited for hangs on a barrier of the team (R347, R348; log 38). -/
def mayRun (s : State) (q : Squad) : Bool :=
  let st := (s.getTeam q.key.team).status
  st == .running || (st == .preempting && (q.sst.isSome || !q.late.isEmpty || heldBySync s q.key.team))

/-- A squad in the fast file that may win the issue slot at a run boundary. -/
def active (s : State) (q : Squad) : Bool :=
  q.fast && q.status == .live && mayRun s q && (s.getLaunch q.key.lid).status == .running

/-- A ready squad: its next chain would issue. -/
def ready (s : State) (q : Squad) : Bool := wouldIssue (s.focus q.key)

/-- The ready active squads of a core, in round-robin order of the fast file after the last one served (R342). -/
def candidates (s : State) (core : Nat) : List SquadKey :=
  let c := s.getCore core
  let qs := sortBy (fun a b => decide (a.slot < b.slot)) ((s.coreSquads core).filter (fun q => active s q && ready s q))
  let qs := if c.served.isNone then qs
    else qs.filter (fun q => decide (c.turn < q.slot)) ++ qs.filter (fun q => decide (q.slot ≤ c.turn))
  qs.map (·.key)

/-- The squad that wins the issue slot: a squad that yielded waits for the others that are ready (R135). -/
def winner (s : State) (core : Nat) : Option SquadKey :=
  let ks := candidates s core
  ks.find? (fun k => !((s.getSq k).yieldTo.any ks.contains))

/-- The squad of a core whose run is in progress. -/
def midRun (s : State) (core : Nat) : Option SquadKey :=
  ((s.coreSquads core).find? (fun q => q.running && q.status == .live)).map (·.key)

/-! ## The files (R70, R342) -/

/-- Squads of a core in the fast file. -/
def fastSquads (s : State) (core : Nat) : List Squad := (s.coreSquads core).filter (fun q => q.fast)

/-- The lowest free place of a core's fast file. -/
def freePlace (s : State) (core : Nat) : Option Nat := [0, 1, 2, 3].find? (fun i => (fastSquads s core).all (fun q => q.slot != i))

/-- Uncorrectable words are poisoned when a context moves (R69). -/
def moveFile (place : Option Nat) (age : Nat) (q : Squad) : Squad :=
  { q with fast := place.isSome, slot := place.getD 0, age := age, pended := 0, poison := q.uncorr ++ q.poison, uncorr := [] }

/-- Move a context between the files. -/
def moveSquad (k : SquadKey) (place : Option Nat) (s : State) : State :=
  let t := s.updSq k (moveFile place s.free)
  if (s.getSq k).uncorr.isEmpty then t else t.countLife 1

/-- Squads of a core in the slow file, which holds twelve contexts (R15, R70). -/
def slowSquads (s : State) (core : Nat) : List Squad := (s.coreSquads core).filter (fun q => !q.fast && q.status != .retired)

/-- A squad of the fast file and one of the slow file change places. -/
def exchange (out into : SquadKey) (s : State) : State := moveSquad into (some (s.getSq out).slot) (moveSquad out none s)

/-- What a squad waits on at its next chain is an empty register, a barrier or a shoe take (R342). -/
def waitsLong (s : State) (q : Squad) : Bool :=
  q.syncw.isSome || (match nextWait (s.focus q.key) with
    | some (.reg _) | some (.take _) | some (.barWait _ _) => true
    | _ => false)

/-- An active squad that waits so, at a run boundary. -/
def demotable (s : State) (q : Squad) : Bool := q.fast && q.status == .live && !q.running && waitsLong s q

/-- The first of a list by age: the oldest pending squad, or the active one whose last run is longest past. -/
def oldest (l : List Squad) : Option Squad := (sortBy (fun a b => decide (a.age < b.age)) l).head?

/-- The ready pending squads of a core. -/
def pendingReady (s : State) (core : Nat) : List Squad :=
  (s.coreSquads core).filter (fun q => !q.fast && q.status == .live && mayRun s q && ready s q)

/-- A squad moves to the slow file of its core. With that file full it changes places with the oldest ready pending
squad, and stays where there is none (R15; log 44). -/
def toSlow (core : Nat) (k : SquadKey) (s : State) : State :=
  if (slowSquads s core).length < 12 then moveSquad k none s
  else match oldest (pendingReady s core) with
    | some q => exchange k q.key s
    | none => s

/-- SQUAD_DEMOTION: a squad that has waited long moves to the slow file, together with the longest-waiting other
such squad of its core (R342; log 44). -/
def execSquadDemotion (k : SquadKey) (s : State) : Host.Outcome State Fault Refusal :=
  if demotable s (s.getSq k) then
    let core := (s.getTeam k.team).core
    let others := (fastSquads s core).filter (fun q => q.key != k && demotable s q)
    let t := toSlow core k s
    .next (match oldest others with
      | none => t
      | some q => toSlow core q.key t)
  else .next s

def execSquadPromotion (k : SquadKey) (s : State) : Host.Outcome State Fault Refusal :=
  let core := (s.getTeam k.team).core
  match freePlace s core, oldest (pendingReady s core) with
  | some i, some q => if q.key = k then .next (moveSquad k (some i) s) else .next s
  | _, _ => .next s

/-- How long a squad of the fast file has stood ready: not at all where it is not ready, else the runs that passed it by. -/
def standing (s : State) (q : Squad) : Nat := if active s q && ready s q then q.passed + 1 else 0

/-- The squad of the fast file that gives its place up first: one that is not ready, else the one that fewest runs
have passed by. -/
def placeTaken (s : State) (core : Nat) : Option Squad :=
  (sortBy (fun a b => decide (standing s a < standing s b)) ((fastSquads s core).filter (fun q => !q.running))).head?

/-- A ready pending squad takes a free place of the fast file, or that of a squad that is not ready (R342; log 44). -/
def promote (core : Nat) (q : Squad) (s : State) : State :=
  match freePlace s core with
  | some i => moveSquad q.key (some i) s
  | none => match placeTaken s core with
    | none => s
    | some out => if standing s out = 0 then exchange out.key q.key s else s

/-- Four runs of its core have passed a pending squad by while it stood ready: it is promoted now (R342). -/
def promotionDue (q : Squad) : Bool := decide (4 ≤ q.pended)

/-- A pending squad whose promotion is due takes the place of the ready squad that fewest runs have passed by (log 44). -/
def rotateIn (core : Nat) (q : Squad) (s : State) : State :=
  if (s.getSq q.key).fast then s
  else match placeTaken s core with
    | none => s
    | some out => exchange out.key q.key s

/-- Of two ready pending squads the one that more runs have passed by goes first, then the older. -/
def promotedBefore (a b : Squad) : Bool := decide (b.passed < a.passed) || (a.passed == b.passed && decide (a.age < b.age))

/-- The promotions of a run boundary (R342, R343): into free places and those of squads that are not ready, and then of
every squad that is due, the one that most runs have passed by last, so that it keeps its place where more are due than the
fast file has places. -/
def promoteDue (core : Nat) (s : State) : State :=
  let l := sortBy promotedBefore (pendingReady s core)
  (l.filter promotionDue).reverse.foldl (fun t q => rotateIn core q t) (l.foldl (fun t q => promote core q t) s)

/-- A squad of the core that could have had the run. -/
def readyHere (s : State) (q : Squad) : Bool := q.status == .live && mayRun s q && ready s q

/-- The squad starts a run: it is the last one served, a yielding squad no longer waits for it, and the run passes by
each other ready squad of its core. -/
def startRun (k : SquadKey) (core : Nat) (s : State) : State :=
  let here := (s.coreSquads core).map (fun q => (q.key, readyHere s q))
  let t := (s.focus k).updCore core (fun c => { c with served := some k, turn := (s.getSq k).slot })
  let f := fun (q : Squad) =>
    { q with
      yieldTo := q.yieldTo.filter (· != k)
      passed := match here.find? (·.1 == q.key) with
        | none => q.passed
        | some r => if r.2 then q.passed + 1 else 0
      pended := match here.find? (·.1 == q.key) with
        | none => q.pended
        | some r => if r.2 && !q.fast then q.pended + 1 else 0 }
  { t with
    sq := { t.sq with running := true, runPkts := [], wait := none, yieldTo := [], passed := 0, age := s.free }
    squads := t.squads.map f }

/-- RUN_ISSUE (R342): a core gives its issue slot to a squad, which goes on chain by chain. -/
def execRunIssue (core : Nat) (s : State) : Host.Outcome State Fault Refusal :=
  match midRun s core with
  | some k => .next (s.focus k)
  | none =>
    let s := promoteDue core s
    match winner s core with
    | none => .next s
    | some k => .next (startRun k core s)

/-! ## Retirement and stop (R96, R139 to R141, R340) -/

/-- The squad's producers have written and its stores have merged. Tickets are not waited for: their
status words are discarded (R96). -/
def drained (q : Squad) : Bool :=
  q.storeq.isEmpty && q.mprog.isEmpty && q.prods.all (fun p => match p.kind with
    | .ticket _ | .done _ _ => true
    | _ => false)

/-- A squad's context and z-tile claims are released (R96). -/
def releaseSquad (k : SquadKey) (s : State) : State :=
  ((dropAhead (s.getTeam k.team).core k s).updSq k (fun q => { q with status := .retired, fast := false, running := false, wait := none, prods := [], fences := [] })).updTeam
    k.team (fun t => { t with owner := t.owner.map (fun o => if o.toNat = k.sqid then 0xFF#8 else o) })

/-- A team whose squads have all gone gives its core up; the launch counts it where it retired (R339). -/
def closeTeam (t : TeamKey) (retired : Bool) (s : State) : State :=
  if (s.teamSquads t).all (fun q => q.status == .retired) then
    (s.updTeam t (fun x => { x with status := .done })).updLaunch t.lid
      (fun l => if retired then { l with retired := l.retired + 1 } else l)
  else s

def execSquadRetirement (k : SquadKey) (s : State) : Host.Outcome State Fault Refusal :=
  let q := s.getSq k
  if q.status == .retiring && drained q then
    .next (settle (closeTeam k.team ((s.getLaunch k.lid).status == .running) (releaseSquad k s)))
  else .next s

/-- A take of a team that stops may still be served: a slot stands ready on its side, or a squad of the team has a run
or a chain to finish, or a command names the shoe (R218, R221). -/
def servable (s : State) (t : TeamKey) (n : Nat) (free : Bool) : Bool :=
  let h := vget (s.getTeam t).shoes n
  (if free then h.free else h.filled) != 0 || (s.teamSquads t).any (fun q => q.running || !q.late.isEmpty) || shoeBusy s t n

/-- Drop what a stopping squad will not do: its matrix words, and those of its takes that nothing can serve any more
(log 22). Its other producers write, as at retirement (R96, R139, R141). -/
def withdraw (k : SquadKey) (s : State) : State :=
  let keep := servable s k.team
  let own := fun (l : List (SquadKey × Nat)) => l.filter (fun x => x.1 != k)
  let shoe := fun (n : Nat) (h : Shoe) => { h with
    ctakes := if keep n false then h.ctakes else own h.ctakes
    ptakes := if keep n true then h.ptakes else own h.ptakes }
  (s.updSq k (fun q => { q with
    mprog := []
    prods := q.prods.filter (fun p => match p.kind with
      | .take n free => keep n.toNat free
      | _ => true) })).updTeam k.team (fun t => { t with shoes := Vector.ofFn (fun n => shoe n.val (vget t.shoes n.val)) })

/-- SQUAD_STOP: a squad of a launch that ends stops at a run boundary, once the words of its last chain have had their
effect, and leaves once its stores have drained and its producers have written (R139 to R141, R340). What stands
behind a BAR.sync of that chain that still waits has no effect (log 22). -/
def execSquadStop (k : SquadKey) (s : State) : Host.Outcome State Fault Refusal :=
  let q := s.getSq k
  if (s.getLaunch k.lid).status != .stopping then .next s
  else if (q.status == .live && !q.running) || q.status == .retiring then
    let u := withdraw k s
    if q.late.isEmpty || q.syncw.isSome then .next (withdraw k (s.updSq k Squad.halted))
    else .next ((doLate (u.focus k)).getD u)
  else if q.status == .stopped then
    if drained (((withdraw k s).getSq k)) then .next (settle (closeTeam k.team false (releaseSquad k (withdraw k s))))
    else .next (withdraw k s)
  else .next s

end Sys2Proof.Machine
end

