-- ==== Sys2Proof/Machine/Tables.lean ====
section
/-! DEFINITION. Page tables as the part reads and writes them: entries, mapping, residency, and what tables use
(R341, R355, R359, R361, R375). -/

namespace Sys2Proof.Machine

/-! ## Entries -/

/-- Write a page-table entry at its home. -/
def putEntry (a : Nat) (e : DWord) (s : State) : State := homeWrite (namedCells s a (toBytes 8 e.toNat)) s

/-- A leaf with another frame. -/
def reframe (e : DWord) (pa : Nat) : DWord :=
  (e &&& ~~~(BitVec.ofNat 64 ((2 ^ 39 - 1) * 2 ^ 13))) ||| BitVec.ofNat 64 (pa / 8192 % 2 ^ 39 * 2 ^ 13)

/-- Set or clear one bit of an entry. -/
def setBit (e : DWord) (i : Nat) (b : Bool) : DWord := if b then e ||| (1#64 <<< i) else e &&& ~~~(1#64 <<< i)

/-- The address of the entry that a walk ends at. -/
def entryAddrFrom (s : State) : Nat → Nat → Nat → Option Nat
  | 0, _, _ => none
  | k + 1, tab, va =>
    let a := tab + 8 * (va / 2 ^ (16 + 10 * k) % 1024)
    let e := BitVec.ofNat 64 (dieValue s 0 a 8)
    match entryKind s (k + 1) e with
    | .bad => none
    | .leaf => some a
    | .table => entryAddrFrom s k (leafAddr e) va

def entryAddr (s : State) (asid va : Nat) : Option Nat :=
  (rootOf s asid).bind (entryAddrFrom s 4 · va)

/-! ## Mapping (R341, R375) -/

/-- Write one leaf, making the tables on the way that are missing, with `k` levels left. -/
def mapFrom (leaf : DWord) : Nat → Nat → Nat → List Nat → State → Option (List Nat × State)
  | 0, _, _, _, _ => none
  | k + 1, tab, va, fresh, s =>
    let a := tab + 8 * (va / 2 ^ (16 + 10 * k) % 1024)
    let e := BitVec.ofNat 64 (dieValue s 0 a 8)
    match entryKind s (k + 1) e with
    | .leaf => none
    | .table => mapFrom leaf k (leafAddr e) va fresh s
    | .bad =>
      if absentEntry s (k + 1) e then none
      else if k = 0 then some (fresh, putEntry a leaf s)
      else match fresh with
        | [] => none
        | f :: r =>
          mapFrom leaf k f va r (putEntry a (reframe 1#64 f) (homeWrite (namedCells s f (List.replicate 8192 0#8)) s))

/-- Map one 64 KiB page. -/
def mapPage (asid va frame : Nat) (perm : DWord) (fresh : List Nat) (s : State) : Option (List Nat × State) :=
  (rootOf s asid).bind (fun a => mapFrom (reframe (0x101#64 ||| perm) frame) 4 a va fresh s)

/-! ## What tables say and use -/

/-- What the tables say of a page: mapped, missing (V = 0, or an entry that R355 treats so), or an entry of an absent
channel; with the size of what the entry covers. -/
inductive PageState where
  | mapped (size : Nat)
  | missing (size : Nat)
  | absent (size : Nat)
deriving DecidableEq, Repr

def PageState.size : PageState → Nat
  | .mapped n | .missing n | .absent n => n

/-- The walk of R355 from a table, with `k` levels left. -/
def pageFrom (s : State) : Nat → Nat → Nat → PageState
  | 0, _, _ => .missing 65536
  | k + 1, tab, va =>
    let e := BitVec.ofNat 64 (dieValue s 0 (tab + 8 * (va / 2 ^ (16 + 10 * k) % 1024)) 8)
    if absentEntry s (k + 1) e then .absent (2 ^ (16 + 10 * k))
    else match entryKind s (k + 1) e with
      | .bad => .missing (2 ^ (16 + 10 * k))
      | .leaf => .mapped (2 ^ (16 + 10 * k))
      | .table => pageFrom s k (leafAddr e) va

def pageState (s : State) (asid va : Nat) : PageState :=
  match rootOf s asid with
  | some a => pageFrom s 4 a va
  | none => .missing (2 ^ 56)

/-- The states of the pages that a range meets, each once. -/
def rangePages (s : State) (asid hi : Nat) : Nat → Nat → List PageState
  | 0, _ => []
  | n + 1, va =>
    if hi ≤ va then []
    else
      let p := pageState s asid va
      p :: rangePages s asid hi n ((va / p.size + 1) * p.size)

/-- The pages of a lease range. -/
def leasePages (s : State) (asid : Nat) (l : Nat × Nat) : List PageState := rangePages s asid (l.1 + l.2) (l.2 / 65536 + 2) l.1

/-- A lease range is unmapped, none of its pages being mapped, or an entry of it maps to an absent channel (R335). -/
def rangeRefused (s : State) (asid : Nat) (l : Nat × Nat) : Bool :=
  let ps := leasePages s asid l
  ps.any (fun p => match p with | .absent _ => true | _ => false) || ps.all (fun p => match p with | .mapped _ => false | _ => true)

/-- The first page of a range that is missing. -/
def firstMissing (s : State) (asid hi : Nat) : Nat → Nat → Option Nat
  | 0, _ => none
  | n + 1, va =>
    if hi ≤ va then none
    else match pageState s asid va with
      | .missing _ => some (va / 65536 * 65536)
      | p => firstMissing s asid hi n ((va / p.size + 1) * p.size)

/-- The lowest page of a lease that is missing (R341). -/
def lowestMissing (s : State) (asid : Nat) (leases : List (Nat × Nat)) : Option Nat :=
  let l := leases.filterMap (fun l => firstMissing s asid (l.1 + l.2) (l.2 / 65536 + 2) l.1)
  l.head?.map (fun a => l.foldl min a)

/-- The permission bits that a leaf of the scheduler may carry: R, W, X, G and AC (R355). -/
def leafPerm (p : DWord) : DWord := p &&& 0x5E#64

/-- The missing pages of a lease are mapped on the frames given, lowest page first; none where frames or tables do not
suffice (R341). -/
def makeResident (asid : Nat) (leases : List (Nat × Nat)) : List ResidentPage → List Nat → State → Option State
  | [], _, s => if (lowestMissing s asid leases).isNone then some s else none
  | p :: r, fresh, s =>
    match lowestMissing s asid leases with
    | none => some s
    | some va => match mapPage asid va p.frame (leafPerm p.perm) fresh s with
      | none => none
      | some (fresh, s) => makeResident asid leases r fresh s

/-- A table, or one below it, or a frame that they map meets a list of ranges. -/
def tableUses (s : State) (rs : List (Nat × Nat)) : Nat → Nat → Bool
  | 0, _ => false
  | k + 1, tab =>
    rs.any (fun r => decide (r.1 < tab + 8192) && decide (tab < r.1 + r.2)) || (List.range 1024).any (fun i =>
      let e := BitVec.ofNat 64 (dieValue s 0 (tab + 8 * i) 8)
      match entryKind s (k + 1) e with
      | .bad => false
      | .leaf => rs.any (fun r => decide (r.1 < leafAddr e + 2 ^ (16 + 10 * k)) && decide (leafAddr e < r.1 + r.2))
      | .table => tableUses s rs k (leafAddr e))

/-- The page tables of every ASID, and the frames that they map, are apart from some ranges. -/
def tablesApart (s : State) (rs : List (Nat × Nat)) : Bool :=
  s.part.asids.all (fun e => !(rootOf s e.n).any (tableUses s rs 4))

end Sys2Proof.Machine
end

