-- ==== Sys2Proof/Machine/Walker.lean ====
section
/-! DEFINITION. The graph walker: queues, nodes, launches, teams and completions (R329 to R341, R346). -/

namespace Sys2Proof.Machine

/-! ## Graph registration (R333) -/

/-- A phase with this index exists. -/
def withPhase (i : Option Nat) (p : Part) : Part :=
  match i with
  | none => p
  | some i => if p.phases.any (·.idx == i) then p else { p with phases := p.phases ++ [⟨i, 0, false⟩] }

/-- GRAPH_REGISTRATION: the graph gets the least free index (R333). How graphs form phases, and in which parameter
words their launches receive handles, is not said; system software names both (log 5). -/
def execGraphRegistration (asid base count : Nat) (form : GraphForm) (s : State) : Host.Outcome State Fault Refusal :=
  match (if s.part.bootst = 3#4 then (List.range 4096).find? (fun i => (s.findGraph i).isNone) else none) with
  | none => .next s
  | some i => .next (s.updPart (fun p => withPhase form.phase
      { p with graphs := p.graphs ++ [⟨i, asid, base, count, form, 0, false, [], [], [], [], []⟩] }))

/-! ## Nodes -/

/-- The successors of a node. -/
def successors (s : State) (g : Graph) (x : GNode) : List Nat :=
  (List.range x.nsucc).map (fun i => (walkerValue s g.asid (x.succ + 4 * i) 4).getD 0)

/-- Nodes that follow from a list of nodes, the list included. -/
def reach (s : State) (g : Graph) : Nat → List Nat → List Nat → List Nat
  | 0, _, seen => seen
  | n + 1, front, seen =>
    let next := (dedup (front.flatMap (fun i => successors s g (gnode s g i)))).filter (fun i => decide (i < g.count) && !seen.contains i)
    if next.isEmpty then seen else reach s g n next (seen ++ next)

/-- A node that a job would reach is malformed, or names a node that the graph does not have (R331). -/
def malformed (s : State) (g : Graph) (n : Nat) : Bool :=
  (reach s g g.count [n] [n]).any (fun i =>
    !(gnode s g i).wf || (successors s g (gnode s g i)).any (fun j => decide (g.count ≤ j)))

/-- An entry node of a graph: no node has it as a successor (R330; log 54). -/
def entryNode (s : State) (g : Graph) (n : Nat) : Bool :=
  (List.range g.count).all (fun m => !(successors s g (gnode s g m)).contains n)

/-- One completion arrives at each of some nodes. A record node fires by its records alone: a completion that
arrives there has no effect (R332; log 54). -/
def deliver (g : Nat) (jobs : List Nat) (ns : List Nat) (s : State) : State :=
  s.updGraph g (fun x => { x with
    arrived := x.arrived ++ (ns.filter (fun n => (gnode s x n).kind != 1)).map (fun n => (n, jobs)) })

/-- A node is to fire once, whatever its NPRED. -/
def fireOnce (g : Nat) (jobs : List Nat) (n : Nat) (s : State) : State :=
  match s.findGraph g with
  | none => s
  | some x => deliver g jobs (List.replicate (needs (gnode s x n)) n) s

/-- An execution of a node ends: the counters of its graph and jobs rise, and a while node whose body it
was fires again (R332, R339). -/
def nodeEnded (g n : Nat) (jobs : List Nat) (s : State) : State :=
  let s := s.updGraph g (fun x => { x with counter := x.counter + 1 })
  let s := jobs.foldl (fun t j => t.updJob j (fun x => { x with counter := x.counter + 1 })) s
  match (s.findGraph g).bind (fun x => x.loops.find? (fun l => l.1 == n && l.2.2.headD 0 == jobs.headD 0)) with
  | none => s
  | some l => fireOnce g jobs l.2.1 (s.updGraph g (fun x => { x with loops := x.loops.erase l }))

/-! ## Queues (R329, R330) -/

/-- What a record that enters a graph starts: a job, refused at once where a node is malformed. `task` is the
queue and the record's ordinal there. -/
def newJob (g : Graph) (n : Nat) (bs : List Byte) (task : Nat × Nat) (s : State) : Nat × State :=
  let id := s.part.nextJob
  let e : Ending := ⟨if malformed s g n then 2 else 0, 0, 0#64, 0#64⟩
  (id, s.updPart (fun p => { p with
    jobs := p.jobs ++ [⟨id, g.idx, BitVec.ofNat 64 (field bs 0 8), field bs 8 8, 0, e, false, task⟩], nextJob := id + 1 }))

/-- A record joins the node's waiting ones. At an entry node it starts a job, and what follows from it belongs to the
jobs of its producer too (R330). At another node it belongs to its producer's jobs of the graph, where it has one; a record
without such a producer enters the graph there (log 54). A malformed node refuses the job, and the producer's jobs of the
graph (R331). -/
def admitRecord (g : Graph) (n queue num : Nat) (bs : List Byte) (s : State) : State :=
  let task := (queue, num)
  let taken := fun (t : State) =>
    t.updGraph g.idx (fun x => { x with appended := x.appended.filter (fun a => !(a.1 == n && a.2.1 == num)) })
  let put := fun (js order : List Nat) (t : State) =>
    t.updGraph g.idx (fun x => { x with waiting := x.waiting ++ [⟨n, js, bs, order, task⟩] })
  let enter := fun (more order : List Nat) =>
    let r := newJob g n bs task (taken s)
    if ((r.2.findJob r.1).map (·.ending.code)).getD 0 = 0 then put (r.1 :: more) order r.2 else r.2
  match g.appended.find? (fun a => a.1 == n && a.2.1 == num) with
  | none => enter [] []
  | some a =>
    let inner := a.2.2.1.any (fun j => (s.findJob j).any (·.graph == g.idx))
    let refuse := fun (t : State) =>
      if inner && malformed s g n then a.2.2.1.foldl (fun t j => stopJob j ⟨2, 0, 0#64, 0#64⟩ t) t else t
    if a.2.2.1.isEmpty then taken s
    else if entryNode s g n || !inner then refuse (enter a.2.2.1 a.2.2.2)
    else if malformed s g n then refuse (taken s)
    else put a.2.2.1 a.2.2.2 (taken s)

/-- QUEUE_RECORD_TAKE (R329). A header with a nonzero reserved field is reported as a queue error too (R7). The take, whose
write of HEAD it is, waits while that page is under migration (R361). -/
def execQueueRecordTake (graph node : Nat) (s : State) : Host.Outcome State Fault Refusal :=
  match s.findGraph graph with
  | none => .next s
  | some g =>
    let x := gnode s g node
    if g.cancelled || decide (g.count ≤ node) || x.queue == 0 then .next s
    else
      match queueHead s g.asid x.queue with
      | none => .next s
      | some q =>
        let n := (q.tail + 2 ^ 64 - q.head) % 2 ^ 64
        if q.nslot < n || !q.clean then
          if g.badQueues.contains node then .next s
          else .next (post (eventNote 4 0 g.asid x.queue) (s.updGraph graph (fun g => { g with badQueues := g.badQueues ++ [node] })))
        else
          let s := s.updGraph graph (fun g => { g with badQueues := g.badQueues.filter (· != node) })
          if n = 0 then .next s
          else
            let bs := (walkerRead s g.asid (q.slots + 64 * (q.head % q.nslot)) 64).getD []
            if walkerHeld s g.asid [x.queue + 8, x.queue + 15] then .next s
            else .next (admitRecord g node x.queue q.head bs (walkerWrite g.asid (x.queue + 8) (toBytes 8 (q.head + 1)) s))

/-! ## Firing nodes (R332) -/

/-- A launch is submitted. -/
def submit (g n : Nat) (jobs : List Nat) (args : Option (List DWord)) (records : List (List Byte)) (tasks : List (Nat × Nat))
    (s : State) : State :=
  s.updPart (fun p => { p with
    submitted := p.submitted ++ [⟨p.nextPid, g, n, jobs, args, records, tasks⟩], nextPid := p.nextPid + 1 })

/-- ARG0 to ARG5 of a queue record. -/
def argsOf (bs : List Byte) : List DWord := (List.range 6).map (fun i => BitVec.ofNat 64 (field bs (0x10 + 8 * i) 8))

/-- The tile tasks of some jobs (R399). -/
def tasksOf (s : State) (jobs : List Nat) : List (Nat × Nat) := dedup (jobs.filterMap (fun j => (s.findJob j).map (·.task)))

/-- What fires a node once. -/
structure Firing where
  g : Graph
  x : GNode
  jobs : List Nat
  /-- the record, where a queue fires it -/
  waiting : Option WaitingRec
  /-- the graph without what the firing takes -/
  rest : Graph

/-- The firing of a node of one kind: the first record that waits at it, or the completions of its
predecessors (R331, R332). -/
def fired (s : State) (graph node kind : Nat) : Option Firing :=
  match s.findGraph graph with
  | none => none
  | some g =>
    let x := gnode s g node
    if g.cancelled || x.kind != kind || decide (g.count ≤ node) then none
    else match g.waiting.find? (·.node == node) with
      | some w => some ⟨g, x, w.jobs, some w, { g with waiting := g.waiting.erase w }⟩
      | none => (arrivals g node (needs x)).map (fun a => ⟨g, x, a.1, none, { g with arrived := a.2 }⟩)

def execKernelNodeFire (graph node : Nat) (s : State) : Host.Outcome State Fault Refusal :=
  match fired s graph node 0 with
  | none => .next s
  | some f =>
    .next (submit graph node f.jobs (f.waiting.map (fun w => argsOf w.bytes)) [] (match f.waiting with
      | some w => [w.task]
      | none => tasksOf s f.jobs) (s.updGraph graph (fun _ => f.rest)))

/-- The order of producers (R345): host records first, then the launch number, compared as R336 states, the
logical squad index and the lclk. -/
def producerBefore : List Nat → List Nat → Bool
  | [], _ :: _ => true
  | a :: r, b :: t =>
    if a = b then (match r, t with
      | i :: l, j :: m => if i = j then decide (l.headD 0 < m.headD 0) else decide (i < j)
      | _, _ => false)
    else launchEarlier a b
  | _, [] => false

/-- The launch record of a node carries DET. -/
def nodeDet (s : State) (g : Graph) (x : GNode) : Bool := (walkerValue s g.asid (x.lrec + 0x0B) 1).getD 0 % 2 == 1

/-- Records of a record node in the order in which they are taken: oldest first, or by producer (R345). -/
def orderedRecords (s : State) (g : Graph) (node : Nat) : List WaitingRec :=
  let l := g.waiting.filter (·.node == node)
  if nodeDet s g (gnode s g node) then sortBy (fun a b => producerBefore a.order b.order) l else l

/-- A queue of a graph holds records that the walker has yet to take. -/
def queueHolds (s : State) (g : Graph) (n : Nat) : Bool :=
  let x := gnode s g n
  x.queue != 0 && !g.badQueues.contains n && (queueHead s g.asid x.queue).any (fun q => q.tail != q.head)

/-- A node other than a given one can fire, or will once its own producers are done. Of two record nodes that
wait for their producers, the lower in graph and node index goes first (log 54). -/
def canFire (s : State) (g : Graph) (n : Nat) (me : Nat × Nat) : Bool :=
  let x := gnode s g n
  let k := (g.waiting.filter (·.node == n)).length
  (g.idx, n) != me && !g.cancelled &&
    (if x.kind = 1 then
       k != 0 && (decide (x.thresh ≤ k) || (if nodeDet s g x then decide (g.idx < me.1) || (g.idx == me.1 && decide (n < me.2)) else x.tmo != 0))
     else k != 0 || (arrivals g n (needs x)).isSome)

/-- Every producer level has completed: in the graph's address space no launch runs or is to start, and no
other node can fire (R345). -/
def producersDone (s : State) (g : Graph) (node : Nat) : Bool :=
  let gs := s.part.graphs.filter (·.asid == g.asid)
  !(s.allLaunches.any (fun l => l.asid == g.asid && l.active))
    && s.part.submitted.all (fun u => gs.all (fun h => h.idx != u.graph))
    && gs.all (fun h => h.appended.isEmpty && (List.range h.count).all (fun n =>
      !queueHolds s h n && !canFire s h n (g.idx, node)))

/-- A record node fires with the first records in order. -/
def fireRecords (g : Graph) (node n : Nat) (s : State) : State :=
  let l := (orderedRecords s g node).take n
  submit g.idx node (dedup (l.flatMap (·.jobs))) none (l.map (·.bytes)) (l.map (·.task))
    (s.updGraph g.idx (fun x => { x with waiting := l.foldl (fun w r => w.erase r) x.waiting }))

/-- A record node and the number of its waiting records. -/
def recordNode (s : State) (graph node : Nat) : Option (Graph × GNode × Nat) :=
  match s.findGraph graph with
  | none => none
  | some g =>
    let x := gnode s g node
    let n := (g.waiting.filter (·.node == node)).length
    if g.cancelled || x.kind != 1 || decide (g.count ≤ node) || n == 0 then none else some (g, x, n)

def execRecordNodeFire (graph node : Nat) (s : State) : Host.Outcome State Fault Refusal :=
  match recordNode s graph node with
  | none => .next s
  | some (g, x, n) =>
    if x.thresh ≤ n || (nodeDet s g x && producersDone s g node) then .next (fireRecords g node x.thresh s) else .next s

/-- TMO has passed since the oldest waiting record arrived; a DET launch ignores TMO (R345). -/
def execRecordNodeTimeout (graph node : Nat) (s : State) : Host.Outcome State Fault Refusal :=
  match recordNode s graph node with
  | none => .next s
  | some (g, x, _) => if x.tmo = 0 || nodeDet s g x then .next s else .next (fireRecords g node x.thresh s)

/-- The value of a condition word. -/
def condValue (s : State) (g : Graph) (x : GNode) : Nat := (walkerValue s g.asid x.cond 8).getD 0

def execConditionalNodeFire (graph node : Nat) (s : State) : Host.Outcome State Fault Refusal :=
  match fired s graph node 2 with
  | none => .next s
  | some f =>
    let t := nodeEnded graph node f.jobs (s.updGraph graph (fun _ => f.rest))
    match (successors s f.g f.x)[min (condValue s f.g f.x) (f.x.nsucc - 1)]? with
    | none => .next t
    | some n => .next (fireOnce graph f.jobs n t)

/-- A while node runs its body, or ends and fires its exit (R332). -/
def execWhileNodeFire (graph node : Nat) (s : State) : Host.Outcome State Fault Refusal :=
  match fired s graph node 3 with
  | none => .next s
  | some f =>
    let t := s.updGraph graph (fun _ => f.rest)
    if condValue s f.g f.x != 0 then
      match (successors s f.g f.x)[0]? with
      | none => .next (nodeEnded graph node f.jobs t)
      | some n => .next (fireOnce graph f.jobs n (t.updGraph graph (fun y => { y with loops := y.loops ++ [(n, node, f.jobs)] })))
    else
      let t := nodeEnded graph node f.jobs t
      match (successors s f.g f.x)[1]? with
      | none => .next t
      | some n => .next (fireOnce graph f.jobs n t)

/-! ## Launch records (R334, R335) -/

def LaunchRec.ofBytes (b : List Byte) (leases : List (Nat × Nat)) : LaunchRec where
  obj := field b 0 8
  suit := field b 8 2
  nsq := field b 0x0A 1
  det := field b 0x0B 1 % 2 == 1
  nparm := field b 0x0C 1
  dies := field b 0x0D 1
  scr := field b 0x0E 2 * 1024
  gx := field b 0x10 4
  gy := field b 0x14 4
  gz := field b 0x18 4
  shoes := BitVec.ofNat 16 (field b 0x1C 2)
  owner := (b.drop 0x20).take 8
  sbase := field b 0x28 4
  slen := field b 0x2C 4
  leases := leases
  rcount := field b 0x3C 4
  rseed := BitVec.ofNat 64 (field b 0x40 8)
  rbase := field b 0x48 4
  parms := (List.range 16).map (fun i => BitVec.ofNat 64 (field b (0x50 + 8 * i) 8))

def LaunchRec.teams (r : LaunchRec) : Nat := r.gx * r.gy * r.gz

/-- The lease list of a record. -/
def leaseList (s : State) (asid : Nat) (b : List Byte) : Option (List (Nat × Nat)) :=
  (List.range (field b 0x38 4)).mapM (fun i =>
    (walkerRead s asid (field b 0x30 8 + 16 * i) 16).map (fun e => (field e 0 8, field e 8 8)))

/-- Cores of die `d` that are present. -/
def coresPresent (s : State) (d : Nat) : List Nat :=
  ((List.range 48).filter (fun i => (vget s.part.caps.cores d).getLsbD i)).map (fun i => 48 * d + i)

/-- The dies that a record names. -/
def diesOf (r : LaunchRec) : List Nat := (List.range 4).filter (fun d => r.dies.testBit d)

/-- The cores on which the teams of a record may be placed, lowest first. -/
def admissible (s : State) (r : LaunchRec) : List Nat := (diesOf r).flatMap (coresPresent s)

/-- A field of a launch record lies outside its range, or a reserved one is not zero (R334, R335). -/
def recordOutOfRange (s : State) (asid : Nat) (b : List Byte) (r : LaunchRec) : Bool :=
  let suits := match s.findObj r.obj with
    | some o => if o.asid = asid then o.suits.length else 0
    | none => 0
  decide (suits ≤ r.suit) || r.nsq == 0 || decide (16 < r.nsq) || decide (1 < field b 0x0B 1) || decide (16 < r.nparm)
    || decide (16 ≤ r.dies) || decide (1024 * 1024 < r.scr) || r.gx == 0 || r.gy == 0 || r.gz == 0 || !zeroAt b 0x1E 2
    || r.owner.any (fun o => o != 0xFF#8 && decide (r.nsq ≤ o.toNat)) || decide (131072 < r.sbase + r.slen)
    || field b 0x38 4 == 0 || decide (256 < field b 0x38 4)
    || r.leases.any (fun l => decide (2 ^ 56 ≤ l.1) || l.2 == 0 || decide (2 ^ 48 < l.2))
    || !zeroAt b 0x4C 4 || !zeroAt b 0xD0 48

/-! ## Placement (R335, R336, R338) -/

/-- The teams that a core holds. -/
def coreTeams (s : State) (core : Nat) : List Team :=
  s.allTeams.filter (fun t => t.core == core && (t.status == .running || t.status == .preempting))

/-- Saved teams whose scratch and stock stay in place on their core (R352). -/
def keptTeams (s : State) (core : Nat) : List Team :=
  s.allTeams.filter (fun t => t.core == core && t.status == .saved && !t.copied)

/-- Squad contexts that a team holds: those of retired squads are free again (R96). -/
def squadsHeld (s : State) (t : Team) : Nat := ((s.teamSquads t.key).filter (fun q => q.status != .retired)).length

/-- Two ranges of stock lines, each with its first line and count, meet. -/
def linesMeet (a b : Nat × Nat) : Bool := a.2 != 0 && b.2 != 0 && decide (a.1 < b.1 + b.2) && decide (b.1 < a.1 + a.2)

/-- A core has room for a team of a record, given the teams that run on it and those whose scratch and stock it
keeps (R335). Lines that an STK in flight still writes are not free (R338). -/
def roomBeside (s : State) (r : LaunchRec) (core : Nat) (ts kept : List Team) : Bool :=
  let held := ts ++ kept
  decide ((ts.map (squadsHeld s)).sum + r.nsq ≤ 16) && decide ((held.map (·.scr)).sum + r.scr ≤ 1024 * 1024)
    && ts.all (fun t => t.shoeMask &&& r.shoes == 0#16
      && (List.range 8).all (fun p => t.owner.getD p 0xFF#8 == 0xFF#8 || r.owner.getD p 0xFF#8 == 0xFF#8))
    && held.all (fun t => !linesMeet (t.sbase, t.slen) (r.sbase, r.slen))
    && (stockRanges s core).all (fun k => !linesMeet (k.lo, k.hi - k.lo) (r.sbase, r.slen))

/-- A core has room for a team of a record (R335). -/
def coreRoom (s : State) (r : LaunchRec) (core : Nat) : Bool := roomBeside s r core (coreTeams s core) (keptTeams s core)

/-- The first admissible core that has room. -/
def placeFor (s : State) (r : LaunchRec) : Option Nat := (admissible s r).find? (coreRoom s r)

/-- Teams of a record that one empty core can hold at once. -/
def perCore (r : LaunchRec) : Nat :=
  if r.slen != 0 || r.shoes != 0#16 || r.owner.any (· != 0xFF#8) then 1
  else min (16 / r.nsq) (if r.scr = 0 then 16 else 1024 * 1024 / r.scr)

/-- A launch is refused (R335). -/
def launchRefused (s : State) (asid lrec : Nat) (b : List Byte) (leases : Option (List (Nat × Nat))) : Bool :=
  let r := LaunchRec.ofBytes b (leases.getD [])
  decide (b.length ≠ 256) || lrec % 64 != 0 || leases.isNone || recordOutOfRange s asid b r
    || (diesOf r).isEmpty || (diesOf r).any (fun d => (coresPresent s d).isEmpty)
    || (r.det && decide (perCore r * (admissible s r).length < r.teams))
    || r.leases.any (rangeRefused s asid)

/-! ## Context areas (R350) -/

def roundUp (x n : Nat) : Nat := (x + n - 1) / n * n

/-- The bytes of a team's context area, in whole 64 KiB. -/
def teamArea (r : LaunchRec) : Nat := roundUp (0x21000 + r.scr + 64 * r.slen) 65536

/-- Take `n` areas of `size` bytes, aligned to 64 KiB, from a pool of ranges: the runs of areas, each with its
base and count, and the pool left. -/
def takeAreas (size : Nat) : Nat → List (Nat × Nat) → Option (List (Nat × Nat) × List (Nat × Nat))
  | 0, pool => some ([], pool)
  | _ + 1, [] => none
  | n + 1, (b, l) :: r =>
    let a := roundUp b 65536
    let k := min (n + 1) ((b + l - a) / size)
    let cut := [(b, a - b), (a + k * size, b + l - (a + k * size))].filter (fun x => x.2 != 0)
    if k = 0 then (takeAreas size (n + 1) r).map (fun x => (x.1, (b, l) :: x.2))
    else (takeAreas size (n + 1 - k) r).map (fun x => ((a, k) :: x.1, cut ++ x.2))

/-- The areas of a launch's teams and squads: the larger ones first, or the other way round where that fits. -/
def takeContexts (r : LaunchRec) (pool : List (Nat × Nat)) : Option (List (Nat × Nat) × List (Nat × Nat) × List (Nat × Nat)) :=
  match (takeAreas (teamArea r) r.teams pool).bind (fun x =>
      (takeAreas 65536 (r.teams * r.nsq) x.2).map (fun y => (x.1, y.1, y.2))) with
  | some x => some x
  | none => (takeAreas 65536 (r.teams * r.nsq) pool).bind (fun y =>
      (takeAreas (teamArea r) r.teams y.2).map (fun x => (x.1, y.1, x.2)))

/-- Area `i` of a list of runs. -/
def areaAt (size : Nat) : List (Nat × Nat) → Nat → Nat
  | [], _ => 0
  | (b, k) :: r, i => if i < k then b + size * i else areaAt size r (i - k)

/-- Ranges in ascending order, adjacent ones joined. -/
def joinRanges (l : List (Nat × Nat)) : List (Nat × Nat) :=
  (sortBy (fun a b => decide (a.1 < b.1)) l).foldr (fun x acc => match acc with
    | [] => [x]
    | y :: r => if x.1 + x.2 = y.1 then (x.1, x.2 + y.2) :: r else x :: acc) []

/-! ## Starting teams (R335 to R338, R405) -/

/-- Clear the resources of a starting team on its core (R338). -/
def clearCore (r : LaunchRec) (core : Nat) (s : State) : State :=
  let ps := (List.range 8).filter (fun p => r.owner.getD p 0xFF#8 != 0xFF#8)
  s.updCore core (fun c => { c with
    stock := c.stock.clear (64 * r.sbase) (64 * r.slen)
    z := ps.foldl (fun z p => vset z p (Vector.replicate 32 0#2304)) c.z
    ovf := ps.foldl (fun o p => o &&& ~~~(1#8 <<< p)) c.ovf
    zbad := c.zbad.filter (fun e => !ps.contains e.1)
    zpoison := c.zpoison.filter (fun e => !ps.contains e.1) })

/-- The team as it starts. -/
def newTeam (l : Launch) (tmid core : Nat) : Team :=
  let r := l.lr
  { Team.empty with
    key := ⟨l.lid, tmid⟩, status := .running, core := core, nsq := r.nsq
    scratch := (Memory.mk []).writeCells ((cellsAt 0 l.records.flatten).filter (fun c => decide (c.1 < r.scr)))
    scr := r.scr, shoeMask := r.shoes, owner := r.owner, sbase := r.sbase, slen := r.slen
    ctx := areaAt (teamArea r) l.teamAreas tmid }

/-- The squad as it is created (R337), before its first hand. -/
def newSquad (l : Launch) (su : Suit) (tmid sqid age : Nat) (place : Option Nat) : Squad :=
  { Squad.empty with
    key := ⟨l.lid, tmid, sqid⟩, status := .live
    s := (l.lr.parms.take l.lr.nparm).zipIdx.foldl (fun v x => vset v x.2 x.1) Squad.empty.s
    br := Vector.replicate 32 (BitVec.ofNat 6 su.entry), brn := Vector.replicate 32 (BitVec.ofNat 6 su.entry)
    live := BitVec.allOnes 32, suit := l.lr.suit, fast := place.isSome, slot := place.getD 0, age := age
    ctx := areaAt 65536 l.squadAreas (tmid * l.lr.nsq + sqid) }

/-- Create one squad: it runs the hand of its suit's entry block; where the deck fails, the launch ends and
the squad issues nothing (R405). -/
def createSquad (l : Launch) (core tmid sqid : Nat) (s : State) : State :=
  let o := (s.findObj l.lr.obj).getD Obj.empty
  let su := (o.suits[l.lr.suit]?).getD ⟨0, 0, 0, 0, 0, []⟩
  let q := newSquad l su tmid sqid s.free (freePlace s core)
  let fail := fun (cause : Nat) (i0 i1 : DWord) => endLaunch l.lid ⟨3, cause, i0, i1⟩
    { s with squads := s.squads ++ [{ q with status := .stopped }] }
  let view : State := { s with core := s.getCore core, launch := l, obj := o, team := Team.empty }
  match lookup view su (blockMask su.entry) with
  | .hit h e =>
    let deck := (prefetchHands su (noteHand su h e view)).core.deck
    { s with squads := s.squads ++ [{ q with hand := h, hent := e, pkt := e.code, word := 0 }] }.updCore core
      (fun c => { c with deck := deck })
  | .down va => fail 0x0A (BitVec.ofNat 64 va) 0#64
  | .bad off | .miss off => fail 7 2#64 (BitVec.ofNat 64 off)

/-- Start the next team of a launch on a core (R335 to R338). -/
def startTeam (lid core : Nat) (s : State) : State :=
  let l := s.getLaunch lid
  let s := clearCore l.lr core { s with teams := s.teams ++ [newTeam l l.nextTeam core] }
  let s := (List.range l.lr.nsq).foldl (fun t i => createSquad l core l.nextTeam i t) s
  s.updLaunch lid (fun l => { l with nextTeam := l.nextTeam + 1 })

/-- Start the teams that are left, one after the other; none where one has no place (R336). -/
def startAll (lid : Nat) : Nat → State → Option State
  | 0, s => some s
  | n + 1, s =>
    match placeFor s (s.getLaunch lid).lr with
    | none => none
    | some c => startAll lid n (startTeam lid c s)

/-- TEAM_START: the next team of a running launch starts on the first admissible core that has room, unless a
debugger has stopped the launch (R399). The teams of a DET launch start with it. -/
def execTeamStart (lid : Nat) (s : State) : Host.Outcome State Fault Refusal :=
  let l := s.getLaunch lid
  if l.status != .running || l.debugStop || decide (l.lr.teams ≤ l.nextTeam) || l.lr.det then .next s
  else match placeFor s l.lr with
    | none => .next s
    | some c => .next (startTeam lid c s)

/-! ## Starting a launch (R336, R341, R346) -/

/-- Two counter ranges meet, modulo 2^32. -/
def streamsMeet (a b : Nat × Nat) : Bool :=
  decide ((b.1 + 2 ^ 32 - a.1) % 2 ^ 32 < a.2) || decide ((a.1 + 2 ^ 32 - b.1) % 2 ^ 32 < b.2)

/-- The notification of R346. -/
def streamNote (asid a b : Nat) : List Byte := eventNote 5 0 asid (a + b * 2 ^ 32)

/-- Enter the launch's stream (R346). -/
def enterStream (lid asid : Nat) (r : LaunchRec) (s : State) : State :=
  if r.rcount = 0 then s
  else
    let s := match s.part.streams.find? (fun e => e.2.1 == r.rseed && streamsMeet (e.2.2.1, e.2.2.2) (r.rbase, r.rcount)) with
      | some e => post (streamNote asid lid e.1) s
      | none => s
    if s.part.streams.length < 64 then
      s.updPart (fun p => { p with streams := p.streams ++ [(lid, r.rseed, r.rbase, r.rcount)] })
    else post (streamNote asid lid 0xFFFFFFFF) s

/-- The oldest live launch holds this number back (R336). -/
def numberHeld (s : State) : Bool :=
  s.allLaunches.any (fun l => (l.status == .running || l.status == .stopping)
    && decide (2 ^ 31 ≤ (s.part.nextLaunch + 2 ^ 32 - l.lid) % 2 ^ 32))

/-- The parameter words of a launch: a queue record replaces PARM10 to PARM15, and a record node's count
stands in PARM15 (R332, R334). -/
def launchParms (u : Submitted) (g : Nat) (ps : List DWord) : List DWord :=
  match u.args with
  | some a => ps.take 10 ++ a
  | none => if g = 1 then ps.take 15 ++ [BitVec.ofNat 64 u.records.length] else ps

/-- A handle that the walker passes to a launch of a node (R333, R339). -/
def passedHandle (g : Graph) (lid : Nat) (jobs : List Nat) : PassedHandle → Option Nat
  | .launch => some (lid % 2 ^ 30)
  | .graph => some (2 ^ 30 + g.idx)
  | .phase => g.form.phase.map (fun i => 2 * 2 ^ 30 + i % 2 ^ 30)
  | .job => jobs.head?.map (fun j => 3 * 2 ^ 30 + j % 2 ^ 30)
  | .node n => some (g.idx * 2 ^ 16 + n % 2 ^ 16)

/-- The parameter words of a launch with the handles that its graph's form has it receive (log 5). -/
def withHandles (g : Graph) (node lid : Nat) (jobs : List Nat) (ps : List DWord) : List DWord :=
  (g.form.slots.filter (·.node == node)).foldl (fun ps x => match passedHandle g lid jobs x.handle with
    | some h => ps.set x.word (BitVec.ofNat 64 h)
    | none => ps) ps

/-- The ranges of physical memory that the part or system software uses for something else than pages: the context pool
and what live launches have of it, the promotion pool, the region tables, the notification ring, and the frames of
migrations in progress. -/
def usedRanges (s : State) : List (Nat × Nat) :=
  s.part.ctxPool ++ s.part.promoPool.map (·, 2 ^ 26)
    ++ (s.allLaunches.filter Launch.active).flatMap (fun l =>
      l.teamAreas.map (fun a => (a.1, a.2 * teamArea l.lr)) ++ l.squadAreas.map (fun a => (a.1, a.2 * 65536)))
    ++ s.part.asids.map (fun e => (e.rtab.toNat, 64 * e.rtabn.toNat))
    ++ [(s.part.nqbase.toNat, 32 * s.part.nqsize.toNat)]
    ++ s.part.migrations.map (fun m => (m.new, ((walk s 0 m.asid m.va).map (·.2)).getD 65536))

/-- Frames of pages and of page tables are fresh: in memory, apart from one another, and used for nothing else (R341,
R375). -/
def freshFrames (s : State) (frames tables : List Nat) : Bool :=
  let rs := frames.map (·, 65536) ++ tables.map (·, 8192)
  frames.all (fun f => f % 65536 == 0 && inHbm s f 65536) && frames.Nodup
    && tables.all (fun f => f % 8192 == 0 && inHbm s f 8192 && !frames.contains (f / 65536 * 65536)) && tables.Nodup
    && (usedRanges s).all (fun x => rs.all (fun r => !(decide (r.1 < x.1 + x.2) && decide (x.1 < r.1 + r.2))))
    && tablesApart s rs

/-- Every page of the lease is resident before the first squad starts: the scheduler maps the missing ones on fresh
frames that system software supplies, and the start is delayed where they do not suffice (R341; log 54). -/
def resident (asid : Nat) (leases : List (Nat × Nat)) (r : LaunchRequest) (s : State) : Option State :=
  if (lowestMissing s asid leases).isNone then some s
  else if freshFrames s (r.pages.map (·.frame)) r.tables then makeResident asid leases r.pages r.tables s
  else none

/-- LAUNCH_START: refused, or held back, or started (R335, R336, R341, R350). -/
def execLaunchStart (req : LaunchRequest) (s : State) : Host.Outcome State Fault Refusal :=
  let pid := req.pid
  match s.part.submitted.find? (·.pid == pid) with
  | none => .next s
  | some u =>
    match s.findGraph u.graph with
    | none => .next s
    | some g =>
      let x := gnode s g u.node
      let b := (walkerRead s g.asid x.lrec 256).getD []
      let leases := leaseList s g.asid b
      let gone := fun (t : State) => t.updPart (fun p => { p with submitted := p.submitted.filter (·.pid != pid) })
      if launchRefused s g.asid x.lrec b leases then
        .next (u.jobs.foldl (fun t j => stopJob j ⟨2, 0, 0#64, 0#64⟩ t) (gone s))
      else
        let r := LaunchRec.ofBytes b (leases.getD [])
        let r := { r with parms := withHandles g u.node s.part.nextLaunch u.jobs (launchParms u x.kind r.parms) }
        match takeContexts r s.part.ctxPool with
        | none => .next s
        | some (teamAreas, squadAreas, pool) =>
          match (if numberHeld s then none else resident g.asid r.leases req s) with
          | none => .next s
          | some m =>
            let lid := s.part.nextLaunch
            let l : Launch := { Launch.empty with
              lid := lid, status := .running, asid := g.asid, lr := r, jobs := u.jobs, graph := u.graph, node := u.node
              records := u.records, stream := r.rcount != 0, teamAreas := teamAreas, squadAreas := squadAreas, tasks := u.tasks }
            let t := enterStream lid g.asid r (gone { m with
              launches := m.launches.filter (fun (y : Launch) => y.lid != lid) ++ [l]
              part := { m.part with nextLaunch := (lid + 1) % 2 ^ 32, ctxPool := pool } })
            if r.det then
              match startAll lid r.teams t with
              | none => .next s
              | some t => .next t
            else if (placeFor t r).isNone then .next s
            else .next t

/-! ## Completion (R330, R337, R339) -/

/-- Bytes of the launch are still on their way home. -/
def writesPending (lid : Nat) (s : State) : Bool :=
  let own := fun (l : List Pending) => l.any (fun e => e.k.lid == lid)
  own s.core.merged || s.cores.any (fun c => own c.merged) || s.dies.toList.any (fun d => own d.pend)

/-- The launch may complete: its squads have gone, its tickets have filled, and its writes are visible. -/
def launchOver (s : State) (l : Launch) : Bool :=
  ((l.status == .running && decide (l.lr.teams ≤ l.nextTeam)) || l.status == .stopping)
    && (s.allTeams.filter (fun t => t.key.lid == l.lid)).all (fun t => t.status == .done)
    && s.cmds.all (fun c => c.k.lid != l.lid) && !writesPending l.lid s

/-- The squads, teams, context areas, stream and clock shift of a launch go. -/
def clearLaunch (l : Launch) (s : State) : State :=
  let s := l.shift.foldl (fun t m => moveClock m.1 (-m.2) t) s
  let cur := s.isCurLaunch l.lid
  let mine := fun (k : TeamKey) => k.lid == l.lid
  { s with
    squads := s.squads.filter (fun q => q.key.lid != l.lid)
    teams := s.teams.filter (fun t => !mine t.key)
    sq := if s.sq.key.lid = l.lid then Squad.empty else s.sq
    team := if mine s.team.key then Team.empty else s.team
    launch := if cur then Launch.empty else s.launch
    obj := if cur then Obj.empty else s.obj
    launches := s.launches.filter (fun (y : Launch) => y.lid != l.lid) ++ [{ l with status := .done }] }.updPart (fun p => { p with
      streams := p.streams.filter (·.1 != l.lid)
      ctxPool := joinRanges (p.ctxPool ++ l.teamAreas.map (fun (a : Nat × Nat) => (a.1, a.2 * teamArea l.lr)) ++ l.squadAreas.map (fun (a : Nat × Nat) => (a.1, a.2 * 65536))) })

/-- One page of a HASH that firmware issues: a page written since its last hash gives an entry, its mark is cleared, and
what is read and written is counted (R360). Beside the state stands the number of entries; none where the entry's page is
under migration, for which an engine's write waits (R361). -/
def hashPage (h : HashRequest) (va : Nat) (x : Nat × State) : Option (Nat × State) :=
  match walk x.2 0 h.asid va with
  | none => some x
  | some l =>
    let pages := pagesAt x.2 (physOf l va)
    let out := h.out + 48 * x.1
    if !anyDirty x.2 pages || !reachable x.2 (physOf l va) then some x
    else if walkerHeld x.2 h.asid [out, out + 47] then none
    else
      let dig := toBytes 32 (Config.shake256 ((span (physOf l va) 65536).map (fun a => dieByte x.2 0 (canon x.2 a)))).toNat
      let t := countWalker h.asid [out, out + 47] (countWalker h.asid ((List.range 512).map (fun i => va + 128 * i)) (clearDirty pages x.2))
      some (x.1 + 1, walkerWrite h.asid out (toBytes 8 va ++ dig ++ toBytes 8 0) t)

/-- HASH over a named ASID, whole, at a launch completion (R400); none while it waits. -/
def firmwareHash (h : HashRequest) (s : State) : Option State :=
  if h.base % 65536 = 0 && h.len % 65536 = 0 && decide (h.base + h.len ≤ 2 ^ 56) then
    ((List.range (h.len / 65536)).foldl (fun x i => x.bind (hashPage h (h.base + 65536 * i))) (some (0, s))).map (·.2)
  else some s

/-- A launch that stopped because its graph or one of its jobs was cancelled: the cancel does not reach its other jobs
(R340; log 54). -/
def cancelledWith (s : State) (l : Launch) : Bool :=
  l.ending.code == 1 && ((s.findGraph l.graph).any (·.cancelled) || l.jobs.any (fun j => (s.findJob j).any (fun x => x.ending.code != 0)))

/-- LAUNCH_COMPLETION, with the HASH that firmware may issue there, for whose writes it waits. A launch that ended early
ends its jobs the same way. -/
def execLaunchCompletion (r : CompletionRequest) (s : State) : Host.Outcome State Fault Refusal :=
  match s.findLaunch r.lid with
  | none => .next s
  | some l =>
    if launchOver s l then
      let jobs := l.jobs.filter (fun j => (s.findJob j).any (fun x => x.ending.code == 0))
      match r.hash.elim (some s) (firmwareHash · s) with
      | none => .next s
      | some u =>
      let t := nodeEnded l.graph l.node jobs (clearLaunch l u)
      if l.ending.code != 0 then .next (if cancelledWith s l then t else l.jobs.foldl (fun t j => stopJob j l.ending t) t)
      else if jobs.isEmpty then .next t
      else match t.findGraph l.graph with
        | none => .next t
        | some g => .next (deliver l.graph jobs (successors t g (gnode t g l.node)) t)
    else .next s

/-- Something of the job is in progress or can still fire. -/
def jobBusy (s : State) (j : Nat) : Bool :=
  s.part.submitted.any (·.jobs.contains j)
    || s.allLaunches.any (fun l => l.jobs.contains j && (l.status == .running || l.status == .stopping))
    || s.part.graphs.any (fun g => g.waiting.any (·.jobs.contains j) || g.appended.any (·.2.2.1.contains j)
      || g.arrived.any (fun a => a.2.contains j && (arrivals g a.1 (needs (gnode s g a.1))).isSome))

/-- The completion slot (R330). -/
def completionSlot (x : Job) : List Byte :=
  let e := x.ending
  let details := e.code == 3 || e.code == 4
  toBytes 8 x.tag.toNat ++ toBytes 8 (e.code + e.cause * 256) ++ toBytes 8 (if details then e.info0.toNat else 0)
    ++ toBytes 8 (if details then e.info1.toNat else 0) ++ toBytes 32 0

/-- JOB_COMPLETION: the slot write is the job's release (R330), and waits while its page is under migration or behind a
port that is down (R361, R393); a graph with no other job is complete. -/
def execJobCompletion (job : Nat) (s : State) : Host.Outcome State Fault Refusal :=
  match s.findJob job with
  | none => .next s
  | some x =>
    if x.done || jobBusy s job then .next s
    else
      match s.findGraph x.graph with
      | none => .next s
      | some g =>
        if x.cq != 0 && walkerHeld s g.asid [x.cq, x.cq + 63] then .next s
        else
        let t := s.updJob job (fun x => { x with done := true })
        let t := t.updPart (fun p => { p with graphs := p.graphs.map (Graph.forget job) })
        let t := if x.cq = 0 then t else walkerWrite g.asid x.cq (completionSlot x) t
        let more := t.part.jobs.any (fun y => y.graph == x.graph && !y.done)
        match g.form.phase with
        | none => .next t
        | some i =>
          if more then .next t
          else .next (t.updPart (fun p => { p with phases := p.phases.map (fun y => if y.idx = i then { y with counter := y.counter + 1 } else y) }))

end Sys2Proof.Machine
end

