-- ==== Sys2Proof/Machine/Preempt.lean ====
section
/-! DEFINITION. Pre-emption, the context areas, and resumption (R347 to R353). -/

namespace Sys2Proof.Machine

/-! ## Requests and the drain (R347, R348) -/

/-- A function of the copy engines, the SIU slices or the dispatch/combine engine. -/
def drainsFn (fn : Nat) : Bool := !(6 ≤ fn && fn ≤ 9)

/-- The drain limit passes: commands of the first kind that are still in flight are cancelled. -/
def expireDrain (t : TeamKey) (s : State) : State :=
  { s with cmds := s.cmds.map (fun c => if c.k.team = t && drainsFn c.fn then { c with cancelled := true } else c) }

def execPreemptionRequest (lid : Nat) (teams : Option (List Nat)) (s : State) : Host.Outcome State Fault Refusal :=
  let named := fun (t : Team) => t.key.lid == lid && t.status == .running && (match teams with
    | none => true
    | some l => l.contains t.key.tmid)
  let ts := (s.allTeams.filter named).map (·.key)
  let s := ts.foldl (fun s k => s.updTeam k (fun t => { t with status := .preempting })) s
  if s.part.drain = 0#64 then .next (ts.foldl (fun s k => expireDrain k s) s) else .next s

def execDrainLimitExpiry (t : TeamKey) (s : State) : Host.Outcome State Fault Refusal :=
  if (s.getTeam t).status = .preempting then .next (expireDrain t s) else .next s

/-! ## The squad save area (Tables 26-1 to 26-3) -/

/-- A bit string of `n` bits as bytes. -/
def bitBytes (n : Nat) (f : Nat → Bool) : List Byte :=
  toBytes (n / 8) ((List.range n).foldl (fun x i => if f i then x + 2 ^ i else x) 0)

/-- The image is padded at each place to its offset. -/
def at_ (off : Nat) (x acc : List Byte) : List Byte := padTo off acc ++ x

/-- One matrix progress record. -/
def mprogBytes (r : MProg) : List Byte :=
  toBytes 1 1 ++ toBytes 1 r.done ++ toBytes 2 0 ++ toBytes 4 ((encode r.word).headD 0#32).toNat ++ toBytes 8 r.sd.toNat
    ++ toBytes 8 r.scd.toNat ++ toBytes 4 r.fmt.toNat ++ toBytes 4 r.em.toNat

/-- The takes of a squad that are not served, in issue order: shoe, side and destination. -/
def pendingTakes (q : Squad) : List (Nat × Nat × Bool × Opnd) :=
  q.prods.filterMap (fun p => match p.kind, p.regs with
    | .take n free, d :: _ => some (p.seq, n.toNat, free, d)
    | _, _ => none)

/-- The registers that await a walker ticket. -/
def walkerTickets (s : State) (k : SquadKey) : List Nat :=
  (s.cmds.filter (fun c => c.k == k && !drainsFn c.fn)).filterMap (fun c => match c.ticket with
    | .s n => some n.val
    | _ => none)

/-- SEQ (Table 26-2). -/
def seqBytes (s : State) (q : Squad) : List Byte :=
  toBytes 2 q.suit ++ toBytes 2 q.hand ++ toBytes 1 q.button ++ toBytes 1 q.word ++ toBytes 1 q.frames.length ++ toBytes 1 0
    ++ toBytes 4 q.pkt ++ toBytes 4 q.em.toNat ++ toBytes 4 q.live.toNat ++ toBytes 4 q.held.toNat ++ toBytes 4 q.retd.toNat
    ++ toBytes 4 q.fmt.toNat ++ toBytes 24 (packLanes q.br) ++ toBytes 24 (packLanes q.brn)
    ++ laneList.map (fun l => vget q.depth l) ++ toBytes 8 q.lclk.toNat ++ toBytes 2 q.nspill ++ toBytes 6 0
    ++ [q.sqdeal, q.sqmisd, q.sqheld, q.sqcall, q.sqspill].flatMap (fun x => toBytes 8 x.toNat)
    ++ [q.th, q.tpos, q.tem, q.tcause, q.tinfo0, q.tinfo1, q.tlanes, q.tscr0, q.tscr1].flatMap (fun x => toBytes 8 x.toNat)
    ++ toBytes 4 (pendingTakes q).length ++ bitBytes 32 (fun n => (walkerTickets s q.key).contains n)
    ++ (match q.syncw with
      | none => toBytes 8 0
      | some (p, n) => toBytes 8 (p.toNat + n.toNat * 2 ^ 32 + 2 ^ 63))

/-- The save area of a squad, 27 KiB; poisoned words are those that are poisoned or uncorrectable (R69). -/
def saveArea (s : State) (q : Squad) : List Byte :=
  let bad := q.isBad
  let img := seqBytes s q
  let img := at_ 0x100 (q.mprog.flatMap mprogBytes) img
  let img := at_ 0x140 (toBytes 8 q.fev.toNat ++ toBytes 4 q.fes.toNat ++ toBytes 2 q.fea.toNat ++ toBytes 1 q.fep.toNat ++ toBytes 1 q.fet.toNat) img
  let img := at_ 0x180 (bitBytes 64 (fun i => bad (.s (i / 2) (i % 2)))) img
  let img := at_ 0x188 (bitBytes 64 (fun i => bad (.a (i / 4) (i % 4)))) img
  let img := at_ 0x190 (bitBytes 8 (fun i => bad (.p i))) img
  let img := at_ 0x200 (q.s.toList.flatMap (fun x => toBytes 8 x.toNat)) img
  let img := at_ 0x300 ((List.range 16).flatMap (fun n => toBytes 8 (vget q.abase n).toNat ++ toBytes 8 (vget q.astride n).toNat)) img
  let img := at_ 0x400 (q.p.toList.flatMap (fun x => toBytes 4 x.toNat)) img
  let img := at_ 0x420 ((pendingTakes q).flatMap (fun t =>
    toBytes 4 (t.2.1 + (if t.2.2.1 then 16 else 0) + t.2.2.2.code.toNat * 256))) img
  let img := at_ 0x500 ((List.range 64).flatMap (fun n => bitBytes 32 (fun l => bad (.v n l)))) img
  let img := at_ 0x600 ((List.range 256).flatMap (fun i => bitBytes 16 (fun w => bad (.t (i / 32) (16 * (i % 32) + w))))) img
  let img := at_ 0x800 (q.frames.reverse.flatMap Frame.toBytes) img
  let img := at_ 0xC00 (q.v.toList.flatMap (fun r => r.toList.flatMap (fun x => toBytes 4 x.toNat))) img
  at_ 0x2C00 (q.t.toList.flatMap (fun r => r.toList.flatMap (fun x => toBytes 64 x.toNat))) img

/-! ## Restoring a squad (R353) -/

/-- `n` values of `w` bits from an address. -/
def table (m : Memory) (a n bytes w : Nat) : Vector (BitVec w) n := Vector.ofFn (fun i => BitVec.ofNat w (m.value (a + bytes * i.val) bytes))

/-- Which of `n` marks are set in a bit string of the image. -/
def marks (m : Memory) (a n : Nat) : List Nat := (List.range n).filter (fun i => (m.value (a + i / 8) 1).testBit (i % 8))

/-- Poison marks of an image. -/
def restorePoison (m : Memory) (a : Nat) : List WordRef :=
  (marks m (a + 0x180) 64).map (fun i => .s (i / 2) (i % 2))
    ++ (marks m (a + 0x188) 64).map (fun i => .a (i / 4) (i % 4))
    ++ (marks m (a + 0x190) 8).map .p
    ++ (marks m (a + 0x500) 2048).map (fun i => .v (i / 32) (i % 32))
    ++ (marks m (a + 0x600) 4096).map (fun i => .t (i / 512) (i % 512))

/-- A squad with its context read back from its area. Unserved takes and matrix words stay as they were
recorded. -/
def restoreSquad (m : Memory) (q : Squad) : Squad :=
  let a := q.ctx
  let d := fun (off : Nat) => BitVec.ofNat 64 (m.value (a + off) 8)
  let w := fun (off : Nat) => BitVec.ofNat 32 (m.value (a + off) 4)
  { q with
    suit := m.value a 2, hand := m.value (a + 2) 2 % 4096, button := m.value (a + 4) 1, word := m.value (a + 5) 1
    pkt := m.value (a + 8) 4, em := w 0x0C, live := w 0x10, held := w 0x14, retd := w 0x18, fmt := w 0x1C
    br := unpackLanes (m.value (a + 0x20) 24), brn := unpackLanes (m.value (a + 0x38) 24)
    depth := table m (a + 0x50) 32 1 8, lclk := d 0x70, nspill := m.value (a + 0x78) 2
    sqdeal := d 0x80, sqmisd := d 0x88, sqheld := d 0x90, sqcall := d 0x98, sqspill := d 0xA0
    th := d 0xA8, tpos := d 0xB0, tem := d 0xB8, tcause := d 0xC0, tinfo0 := d 0xC8, tinfo1 := d 0xD0, tlanes := d 0xD8
    tscr0 := d 0xE0, tscr1 := d 0xE8
    syncw := if (d 0xF8).getLsbD 63 then some ((d 0xF8).setWidth 32, (d 0xF8).extractLsb' 32 4) else none
    fev := d 0x140, fes := w 0x148, fea := BitVec.ofNat 16 (m.value (a + 0x14C) 2)
    fep := BitVec.ofNat 8 (m.value (a + 0x14E) 1), fet := BitVec.ofNat 8 (m.value (a + 0x14F) 1)
    uncorr := [], poison := restorePoison m a
    s := table m (a + 0x200) 32 8 64, abase := table m (a + 0x300) 16 16 64, astride := table m (a + 0x308) 16 16 64
    p := table m (a + 0x400) 8 4 32
    frames := ((List.range (m.value (a + 6) 1)).map (fun j => Frame.ofBytes (m.bytes (a + 0x800 + 96 * j) 96))).reverse
    v := Vector.ofFn (fun n => table m (a + 0xC00 + 128 * n.val) 32 4 32)
    t := Vector.ofFn (fun n => table m (a + 0x2C00 + 2048 * n.val) 32 64 512) }

/-! ## The team context area (Table 26-4) -/

def barBytes (b : Barrier) : List Byte := toBytes 4 b.phase.toNat ++ toBytes 1 b.need ++ toBytes 1 b.arr ++ toBytes 2 0
def shoeBytes (h : Shoe) : List Byte := toBytes 8 h.conf.toNat ++ toBytes 8 (shoeReading h).toNat

/-- The physical tiles that a team uses. -/
def teamTiles (t : Team) : List Nat := (List.range 8).filter (fun p => t.owner.getD p 0xFF#8 != 0xFF#8)

/-- Cells of a team's context area; scratch and stock only where they are copied (R352). -/
def teamCells (s : State) (t : Team) (copy : Bool) : List (Nat × Byte) :=
  let c := s.getCore t.core
  let badz := fun (p i : Nat) => c.zbad.contains (p, i / 64, i % 64) || c.zpoison.contains (p, i / 64, i % 64)
  cellsAt t.ctx (t.bars.toList.flatMap barBytes)
    ++ cellsAt (t.ctx + 0x80) (t.shoes.toList.flatMap shoeBytes)
    ++ cellsAt (t.ctx + 0x180) (padTo 128 ((List.range 8).map (fun p => if c.ovf.getLsbD p then 1#8 else 0#8)))
    ++ (teamTiles t).flatMap (fun p => cellsAt (t.ctx + 0x200 + 256 * p) (bitBytes 2048 (badz p)))
    ++ (teamTiles t).flatMap (fun p => cellsAt (t.ctx + 0x1000 + 0x4000 * p)
        ((List.range 2048).flatMap (fun e => toBytes 8 (zElem (vget c.z p) (e / 64) (e % 64)).toNat)))
    ++ (if copy then cellsAt (t.ctx + 0x21000) ((span 0 t.scr).map t.scratch.read)
      ++ cellsAt (t.ctx + 0x21000 + t.scr) ((span (64 * t.sbase) (64 * t.slen)).map c.stock.read) else [])

/-- A barrier and a shoe read back. -/
def restoreBar (m : Memory) (a : Nat) : Barrier := ⟨BitVec.ofNat 32 (m.value a 4), m.value (a + 4) 1, m.value (a + 5) 1⟩
def restoreShoe (m : Memory) (a : Nat) : Shoe :=
  ⟨BitVec.ofNat 64 (m.value a 8), m.value (a + 8) 1, m.value (a + 9) 1, m.value (a + 10) 1, m.value (a + 11) 1, m.value (a + 12) 1,
    m.value (a + 13) 1, [], []⟩

/-! ## TEAM_CONTEXT_SAVE (R348 to R352) -/

/-- Everything in flight that R348 has settled before the save. -/
def settledSquad (q : Squad) : Bool :=
  !q.running && q.sst.isNone && q.late.isEmpty && q.storeq.isEmpty && q.prods.all (fun p => match p.kind with
    | .take _ _ | .ticket _ | .done _ _ => true
    | _ => false)

def teamSettled (s : State) (t : TeamKey) : Bool :=
  (s.teamSquads t).all settledSquad && !s.cmds.any (fun c => c.k.team == t && drainsFn c.fn)

/-- Takes leave their shoes' orders (R348). -/
def withdrawTakes (t : TeamKey) (s : State) : State :=
  s.updTeam t (fun x => { x with shoes := x.shoes.map (fun h => { h with ctakes := [], ptakes := [] }) })

/-- Write the areas of a team. -/
def saveTeam (t : TeamKey) (copy : Bool) (s : State) : State :=
  let s := (s.teamSquads t).foldl (fun u q => dropAhead (s.getTeam t).core q.key (homeWrite (cellsAt q.ctx (saveArea s q)) u)) s
  homeWrite (teamCells s (s.getTeam t) copy) s

/-- Uncorrectable elements of the team's accumulator tiles are saved as poison, which is an event (R69, R403). -/
def countTiles (t : Team) (s : State) : State :=
  if (s.getCore t.core).zbad.any (fun e => (teamTiles t).contains e.1) then s.countLife 1 else s

/-- TEAM_CONTEXT_SAVE. `copy`: the team will not resume in its own allocation on its own core (R352). -/
def execTeamContextSave (r : SaveRequest) (s : State) : Host.Outcome State Fault Refusal :=
  let t := r.t
  if (s.getTeam t).status = .preempting && teamSettled s t then
    let u := countTiles (s.getTeam t) (withdrawTakes t (saveTeam t r.copy s))
    let u := (s.teamSquads t).foldl (fun u q => moveSquad q.key none u) u
    .next (settle (u.updTeam t (fun x => { x with status := .saved, copied := r.copy })))
  else .next s

/-! ## TEAM_RESUME (R353) -/

/-- Bytes that the team has stored, or has read of other teams' stores, are still short of their homes: a load on
another core could miss them (R240, R349). -/
def storesAway (s : State) (t : Team) (core : Nat) : Bool :=
  core != t.core && (!(s.getCore t.core).merged.isEmpty || !(s.getDie (dieOf t.core)).pend.isEmpty)

/-- A core that satisfies the launch record and has room: any, or the team's own where its scratch and stock stayed
there (R352). A team that a debugger stopped waits until the stop is lifted (R399; log 45). -/
def mayResume (s : State) (t : Team) (core : Nat) : Bool :=
  let r := (s.getLaunch t.key.lid).lr
  !t.debugStop && (admissible s r).contains core && (t.copied || core == t.core)
    && roomBeside s { r with owner := t.owner } core (coreTeams s core) ((keptTeams s core).filter (·.key != t.key))

/-- Put the team's tiles, stock and marks on a core. -/
def restoreCore (t : Team) (s : State) (core : Nat) : State :=
  let m := s.mem
  let ps := teamTiles t
  let tile := fun (p : Nat) => Vector.ofFn (fun (i : Fin 32) =>
    (List.range 64).foldl (fun (x : BitVec 2304) c =>
      patch x (36 * c) (BitVec.ofNat 36 (m.value (t.ctx + 0x1000 + 0x4000 * p + 512 * i.val + 8 * c) 8))) 0#2304)
  s.updCore core (fun c => { c with
    stock := if t.copied then c.stock.writeBytes (64 * t.sbase) (m.bytes (t.ctx + 0x21000 + t.scr) (64 * t.slen)) else c.stock
    z := ps.foldl (fun z p => vset z p (tile p)) c.z
    ovf := ps.foldl (fun o p => if m.read (t.ctx + 0x180 + p) = 1#8 then o ||| (1#8 <<< p) else o &&& ~~~(1#8 <<< p)) c.ovf
    zbad := c.zbad.filter (fun e => !ps.contains e.1)
    zpoison := c.zpoison.filter (fun e => !ps.contains e.1)
      ++ ps.flatMap (fun p => (marks m (t.ctx + 0x200 + 256 * p) 2048).map (fun i => (p, i / 64, i % 64))) })

/-- The team itself, read back. -/
def restoreTeam (m : Memory) (core : Nat) (t : Team) : Team :=
  { t with
    status := .running, core := core, copied := false
    bars := Vector.ofFn (fun n => restoreBar m (t.ctx + 8 * n.val))
    shoes := Vector.ofFn (fun n => restoreShoe m (t.ctx + 0x80 + 16 * n.val))
    scratch := if t.copied then (Memory.mk []).writeBytes 0 (m.bytes (t.ctx + 0x21000) t.scr) else t.scratch }

/-- Everything that a core's caches hold. -/
def Core.caches (c : Core) : Caches := ⟨c.l1, c.icache, c.deck⟩

/-- What a fence still waits for on another core: every store before it has reached its home. -/
def FenceRec.moved (f : FenceRec) : FenceRec := { f with coreStamp := f.coreStamp.map (fun _ => 0), dieStamp := f.dieStamp.map (fun _ => 0) }

/-- Requeue a squad's takes, and resume its matrix words at their recorded steps. -/
def resumeSquad (core : Nat) (k : SquadKey) (s : State) : State :=
  let q := s.getSq k
  let s := (pendingTakes q).foldl (fun u x => u.updTeam k.team (fun t =>
    { t with shoes := vset t.shoes x.2.1 (queueTake x.2.2.1 k x.1 (vget t.shoes x.2.1)) })) s
  let c := s.getCore core
  let arith := ((s.findObj (s.getLaunch k.lid).lr.obj).map (·.arith)).getD s.obj.arith
  let place := if q.status = .live || 12 < (slowSquads s core).length then freePlace s core else none
  s.updSq k (fun q => { q with
    fast := place.isSome, slot := place.getD 0, passed := 0, pended := 0, age := s.free
    mprog := q.mprog.map (fun r =>
      let p := ((ownedTiles (s.getTeam k.team).owner k.sqid)[(mshape r.word).z]?).getD 0
      let tile := vget c.z p
      { r with start := r.done, before := tile, ovf := c.ovf.getLsbD p, doomed := doomedWord c q arith r tile }) })

def execTeamResume (t : TeamKey) (core : Nat) (s : State) : Host.Outcome State Fault Refusal :=
  let x := s.getTeam t
  if x.status = .saved && (s.getLaunch t.lid).status == .running && !storesAway s x core && mayResume s x core then
    let ks := (s.teamSquads t).map (·.key)
    let m := s.mem
    let shunned := if core = x.core then x.shunned else (s.getCore core).caches
    let u := restoreCore x (s.updTeam t (fun x => { restoreTeam m core x with shunned := shunned })) core
    let u := if s.isCurTeam t then u.focusCore core else u
    let moved := fun (q : Squad) => if core = x.core then q else { q with fences := q.fences.map FenceRec.moved }
    let u := ks.foldl (fun u k => u.updSq k (fun q => moved (restoreSquad m q))) u
    .next (settle ((sortBy keyBefore ks).foldl (fun u k => resumeSquad core k u) u))
  else .next s

end Sys2Proof.Machine
end

