-- ==== Sys2Proof/Machine/System.lean ====
section
/-! DEFINITION. Translation events, the host and the links, power, boot, trust, debug and field functions
(R354 to R361, R387 to R403). -/

namespace Sys2Proof.Machine

/-! ## Walks and shoot-downs (R357, R358) -/

/-- A TLB with one entry more; the oldest gives way. -/
def tlbAdd (cap : Nat) (e : TlbEntry) (l : List TlbEntry) : List TlbEntry :=
  (e :: l.filter (fun x => !(x.asid == e.asid && x.va / x.size == e.va / e.size))).take cap

/-- The engines of a die that work for an ASID. -/
def enginesFor (s : State) (die asid : Nat) : List Nat :=
  dedup ((s.cmds.filter (fun c => dieOf c.core == die && c.asid == asid)).map (·.engine))

/-- A walk-ahead TLB of a die, of 1K entries, takes one entry more. -/
def aheadAdd (e : TlbEntry) (l : List (Nat × TlbEntry)) (engine : Nat) : List (Nat × TlbEntry) :=
  (tlbAdd 1024 e ((l.filter (·.1 == engine)).map (·.2))).map (engine, ·) ++ l.filter (·.1 != engine)

/-- PAGE_WALK: the leaf found fills the core's and the die's TLB, and the walk-ahead TLB of each engine that
works for the ASID, stamped with the ASID's generation (R267, R357). -/
def execPageWalk (core asid va : Nat) (s : State) : Host.Outcome State Fault Refusal :=
  match walk s (dieOf core) asid va with
  | none => .next s
  | some l =>
    let e : TlbEntry := ⟨asid, l.2, va, l.1, (asidEnt s asid).gen⟩
    .next ((s.updCore core (fun c => { c with tlb := tlbAdd 128 e c.tlb })).updDie (dieOf core)
      (fun d => { d with
        tlb := tlbAdd 16384 e d.tlb
        walkAhead := (enginesFor s (dieOf core) asid).foldl (aheadAdd e) d.walkAhead }))

/-- An entry that a shoot-down removes: it meets the range and a named ASID; a global one only when every
ASID is named. -/
def shot (asids : Option (List Nat)) (lo hi : Nat) (e : TlbEntry) : Bool :=
  match asids with
  | none => true
  | some l => l.contains e.asid && !leafG e.leaf && decide (e.va / e.size * e.size < hi) && decide (lo < (e.va / e.size + 1) * e.size)

/-- A shoot-down. Accesses translate when they are performed, so none is left to wait for (R358). -/
def shootDown (asids : Option (List Nat)) (lo hi : Nat) (s : State) : State :=
  let keep := fun (l : List TlbEntry) => l.filter (fun e => !shot asids lo hi e)
  let named := (asids.getD (List.range 1024)).filter (fun n => decide (n < 1024))
  let t : State := { s with
    core := { s.core with tlb := keep s.core.tlb }
    cores := s.cores.map (fun (c : Core) => { c with tlb := keep c.tlb })
    dies := s.dies.map (fun (d : Die) => { d with tlb := keep d.tlb, walkAhead := d.walkAhead.filter (fun e => !shot asids lo hi e.2) }) }
  t.updPart (fun p => { p with
    asids := p.asids.filter (fun e => !named.contains e.n)
      ++ (dedup named).map (fun n => { asidEnt s n with gen := (asidEnt s n).gen + 1#32 }) })

/-- The part's own shoot-down of a page: a global leaf serves every ASID, and only one that names them all removes
its entries (R358, R359, R361). -/
def shootPage (asid lo hi : Nat) (leaf : DWord) (s : State) : State :=
  shootDown (if leafG leaf then none else some [asid]) lo hi s

def execShootDown (asids : Option (List Nat)) (lo hi : Nat) (s : State) : Host.Outcome State Fault Refusal :=
  .next (if failed s then s else shootDown asids lo hi s)

/-! ## Migration and promotion (R359, R361) -/

/-- A byte, by its name, may lie in a frame. -/
def inFrame (pa n a : Nat) : Bool := if outside pa then outside a else decide (pa ≤ a) && decide (a < pa + n)

/-- Every byte on its way to a frame reaches it (R358: accesses through the old entry have been performed). -/
def settleFrame (pa n : Nat) (s : State) : State :=
  let lines := fun (l : List Pending) => dedup ((l.flatMap (·.cells)).filterMap (fun c =>
    if inFrame pa n c.1 then some (lineOf c.1) else none))
  let cores := s.core.id :: s.cores.map (·.id)
  let s := cores.foldl (fun t c => (lines (t.getCore c).merged).foldl (fun u ln => drainCoreLine c ln u) t) s
  [0, 1, 2, 3].foldl (fun t d => (lines (t.getDie d).pend).foldl (fun u ln => drainDieLine d ln u) t) s

/-- The dirty marks of a frame's 64 KiB pages, by their names, pass to the frame that takes its place (R400). -/
def moveDirty (s : State) (src dst n : Nat) (l : List Nat) : List Nat :=
  let is := List.range (n / 65536)
  let of := fun (pa i : Nat) => pagesAt s (pa + 65536 * i)
  l.filter (fun x => !is.any (fun i => (of src i).contains x || (of dst i).contains x))
    ++ dedup ((is.filter (fun i => (of src i).any l.contains)).flatMap (of dst))

/-- What a core holds of a frame's former bytes goes. -/
def Core.forgetFrame (pa n : Nat) (c : Core) : Core :=
  { c with
    l1 := c.l1.filter (fun x => !inFrame pa n x.pa), ahead := c.ahead.filter (fun x => x.scratch || !inFrame pa n x.pa)
    icache := c.icache.filter (fun x => !inFrame pa n x.1), deck := c.deck.filter (fun x => !inFrame pa n x.1) }

/-- Copy a frame: a page keeps its dirty mark, and gets none by being moved. No core serves the new frame's former
bytes, since the move changes no data (R359, R361). -/
def copyFrame (src dst n : Nat) (s : State) : State :=
  let s := settleFrame src n s
  let cells := (span 0 n).map (fun i => (canon s (dst + i), s.mem.read (canon s (src + i))))
  { s with
    mem := s.mem.writeCells cells
    core := s.core.forgetFrame dst n
    cores := s.cores.map (Core.forgetFrame dst n) }.updPart (fun p => { p with dirty := moveDirty s src dst n p.dirty })

/-- A frame of host memory: from 2^40 on, and in no peer window (R207, R355, R404). -/
def hostResident (s : State) (pa : Nat) : Bool := outside pa && (peerPort s pa).isNone

/-- MIGRATION_REQUEST: WBLK is set and the page shot down; the writes to it wait from here (R361). The destination
is a frame of present memory or of a window whose port serves it, with a 52-bit address (R17, R22, R393). -/
def execMigrationRequest (asid va frame : Nat) (s : State) : Host.Outcome State Fault Refusal :=
  match walk s 0 asid va, entryAddr s asid va with
  | some l, some a =>
    if leafWBLK l.1 || frame % l.2 != 0 || !served s frame l.2 || decide (2 ^ 52 < frame + l.2) || s.part.migrations.any (fun m => m.asid == asid && m.va / l.2 == va / l.2) then .next s
    else
      let page := va / l.2 * l.2
      .next ((shootPage asid page (page + l.2) l.1 (putEntry a (setBit l.1 7 true) s)).updPart (fun p => { p with
        migrations := p.migrations ++ [⟨asid, page, leafAddr l.1, frame⟩] }))
  | _, _ => .next s

/-- MIGRATION_COMPLETION: the copy, the new leaf, with CO where the new frame is resident in the host (R355), the second
shoot-down and the notification (R361). The copy waits while a port on its way is down (R393). -/
def execMigrationCompletion (asid va : Nat) (s : State) : Host.Outcome State Fault Refusal :=
  match walk s 0 asid va, entryAddr s asid va with
  | some l, some a =>
    match s.part.migrations.find? (fun m => m.asid == asid && m.va == va / l.2 * l.2) with
    | none => .next s
    | some m =>
      if !(portsOf s m.old l.2 ++ portsOf s m.new l.2).all (portUp s) then .next s
      else
      let e := setBit (setBit (reframe l.1 m.new) 5 (hostResident s m.new)) 7 false
      let t := shootPage asid m.va (m.va + l.2) l.1 (putEntry a e (copyFrame m.old m.new l.2 s))
      .next (settle (post (pageNote 2 (homeOf s m.old) asid 0 m.va m.old)
        (t.updPart (fun p => { p with migrations := p.migrations.erase m }))))
  | _, _ => .next s

/-- A level-3 entry that points to a table, with its address. -/
def tableEntry (s : State) (asid va : Nat) : Option (Nat × Nat) :=
  let rd := fun (a : Nat) => BitVec.ofNat 64 (dieValue s 0 a 8)
  match rootOf s asid with
  | none => none
  | some root =>
    let a1 := root + 8 * (va / 2 ^ 46 % 1024)
    if entryKind s 4 (rd a1) != .table then none
    else
      let a2 := leafAddr (rd a1) + 8 * (va / 2 ^ 36 % 1024)
      if entryKind s 3 (rd a2) != .table then none
      else
        let a3 := leafAddr (rd a2) + 8 * (va / 2 ^ 26 % 1024)
        if entryKind s 2 (rd a3) != .table then none else some (a3, leafAddr (rd a3))

/-- PROMOTION of the 64 MiB that hold a virtual address (R359). R404 leaves the channel of a byte open, so
the frames are those of the promoting die's memory. -/
def execPromotion (die asid va : Nat) (s : State) : Host.Outcome State Fault Refusal :=
  let big := 2 ^ 26
  let page := va / big * big
  match tableEntry s asid va with
  | none => .next s
  | some (a, tab) =>
    let es := (List.range 1024).map (fun i => BitVec.ofNat 64 (dieValue s 0 (tab + 8 * i) 8))
    let e0 := es.headD 0#64
    let frames := es.map leafAddr
    let uniform := es.all (fun e => entryKind s 1 e == .leaf && !leafCO e && !leafWBLK e && e.extractLsb' 1 8 == e0.extractLsb' 1 8
      && inHbm s (leafAddr e) 65536 && homeOf s (leafAddr e) == die)
    let inOrder := frames.headD 0 % big == 0 && frames.zipIdx.all (fun f => f.1 == frames.headD 0 + 65536 * f.2)
    if !(asidEnt s asid).promo || s.part.promoPaused || !uniform then .next s
    else
      let done := fun (pa count : Nat) (t : State) =>
        let t := putEntry a (reframe (e0 &&& 0x1FF#64) pa) t
        post (pageNote 3 die asid count page (frames.headD 0)) (shootPage asid page (page + big) e0 t)
      if inOrder then .next (settle (done (frames.headD 0) 0 s))
      else match s.part.promoPool.find? (fun f => homeOf s f == die) with
        | none => .next s
        | some f =>
          let t := frames.zipIdx.foldl (fun t x => copyFrame x.1 (f + 65536 * x.2) 65536 t) s
          .next (settle (done f 1024 (t.updPart (fun p => { p with promoPool := p.promoPool.erase f }))))

/-! ## Host and peer accesses (R238, R387, R391, R392) -/

/-- Perform an access of a party of system scope at the home; a host reaches no peer window. -/
def outerAccess (pa : Nat) (op : OuterOp) (s : State) : State :=
  match op with
  | .read n => s.updPart (fun p => { p with outerRead := s.mem.bytes pa n })
  | .write bs => homeWrite (cellsAt pa bs) s
  | .atomic opn n x =>
    let old := BitVec.ofNat 64 (s.mem.value pa n)
    (homeWrite (cellsAt pa (toBytes n (atomicNew opn n none old x).toNat)) s).updPart
      (fun p => { p with outerRead := s.mem.bytes pa n })
  | .row _ _ _ => s

/-- The bytes of an access. -/
def outerSize : OuterOp → Nat
  | .read n => n
  | .write bs => bs.length
  | .atomic _ n _ => n
  | .row _ _ _ => 0

/-- A host-memory window holds the address. -/
def inHostWindow (s : State) (pa n : Nat) : Bool :=
  match windowAt s pa with
  | some w => w.port.isNone && decide (pa + n ≤ w.base + w.len)
  | none => false

/-- HOST_MEMORY_ACCESS: over CXL.mem to HBM, or by the host to its own memory. An address that R404 leaves
unbacked does not exist. -/
def execHostMemoryAccess (pa : Nat) (op : OuterOp) (s : State) : Host.Outcome State Fault Refusal :=
  if failed s then .next s
  else if inHbm s pa (outerSize op) || inHostWindow s pa (outerSize op) then .next (settle (outerAccess pa op s))
  else .fault (.unbackedAddress pa)

/-- A row of a peer's DSP meets the checks of R260 against the ASID of its port: accepted (1) or refused
(0); with no free slot, or while the team is saved, it waits (R349). -/
def acceptRow (port core shoe : Nat) (bs : List Byte) (s : State) : State :=
  let asid := (s.part.portAsids.find? (·.1 == port)).map (·.2)
  let answer := fun (b : Byte) (t : State) => t.updPart (fun p => { p with outerRead := [b] })
  match teamOfShoe s core shoe (fun n => some n == asid) with
  | none => answer 0#8 s
  | some t =>
    let h := vget t.shoes shoe
    if t.status = .saved then s
    else if shoeRefuses h bs.length then answer 0#8 s
    else if shoeReady h then answer 1#8 (publish t.key shoe bs s)
    else s

/-- PEER_ACCESS: over a port that is up, to present HBM (R392). -/
def execPeerAccess (port pa : Nat) (op : OuterOp) (s : State) : Host.Outcome State Fault Refusal :=
  if failed s || !portUp s port then .next s
  else match op with
    | .row core shoe bs => .next (settle (acceptRow port core shoe bs s))
    | _ => if inHbm s pa (outerSize op) then .next (settle (outerAccess pa op s)) else .fault (.unbackedAddress pa)

/-! ## Links and power (R393, R394) -/

def execLinkPortDown (port : Nat) (s : State) : Host.Outcome State Fault Refusal :=
  if s.part.caps.ports.getLsbD port && port < 16 && !failed s then
    .next (post (eventNote 8 (port / 4) 0 port)
      ((s.updPart (fun p => { p with portsDown := p.portsDown ||| (1#16 <<< port) })).countLife 5))
  else .next s

def execLinkRetrainComplete (port : Nat) (s : State) : Host.Outcome State Fault Refusal :=
  if failed s then .next s else .next (s.updPart (fun p => { p with portsDown := p.portsDown &&& ~~~(1#16 <<< port) }))

/-- NTOK of a die (R280). -/
def ntokOf (x : BitVec 16) (d : Nat) : Nat := (x.extractLsb' (4 * d) 4).toNat
def ntokLegal (x : BitVec 16) : Bool := [0, 1, 2, 3].all (fun d => decide (1 ≤ ntokOf x d) && decide (ntokOf x d ≤ 6))

/-- A die holds NTOK tokens: clusters without one get the new ones, and the last holders lose theirs. -/
def setTokens (x : BitVec 16) (s : State) : State :=
  [0, 1, 2, 3].foldl (fun t d => t.updDie d (fun y => { y with
    tokens := (y.tokens ++ (List.range 6).filter (fun k => !y.tokens.contains k)).take (ntokOf x d) }))
    (s.updPart (fun p => { p with ntok := x }))

/-- A limit of the package is reached: PCAP, or one of the cold plate's (R394, Table 29-3). -/
def limitReached (limit : LimitHit) (s : State) : Bool := limit.plate || decide (s.part.pcap.toNat ≤ limit.watts)

/-- NTOK goes down on some die and up on none, or stays at one token a die. -/
def tokensLower (old new : BitVec 16) : Bool :=
  [0, 1, 2, 3].all (fun d => decide (ntokOf new d ≤ ntokOf old d)) && (old != new || old == 0x1111#16)

/-- THROTTLE: a limit is reached; firmware lowers NTOK, then the clusters' clocks, and posts a TYPE 0x07 record
(R394; log 31). Firmware acts from STATE 3 on (R389). -/
def execThrottle (ntok : BitVec 16) (limit : LimitHit) (clocks : List Nat) (s : State) : Host.Outcome State Fault Refusal :=
  if s.part.bootst != 3#4 || !limitReached limit s || !ntokLegal ntok || !tokensLower s.part.ntok ntok then .next s
  else
    let lower := fun (d : Die) => { d with clocks := d.clocks.zipIdx.map (fun c => min c.1 ((clocks[6 * d.id + c.2]?).getD c.1)) }
    .next (post (eventNote 7 0 0 (ntok.toNat + limit.watts % 2 ^ 32 * 2 ^ 32))
      (({ setTokens ntok s with dies := (setTokens ntok s).dies.map lower }).countLife 4))

/-! ## Boot and trust (R396 to R398) -/

/-- RESET: every register as at reset; non-volatile memory, the bytes of memory and the model's own fields
stay. The ROM's checks decide whether firmware runs. -/
def execReset (s : State) : Host.Outcome State Fault Refusal :=
  .next { State.reset with
    mem := s.mem, agenda := s.agenda, free := s.free, sstChunk := s.sstChunk
    part := { Part.reset with
      lifetime := s.part.lifetime, histograms := s.part.histograms, hour := s.part.hour
      identityLeft := s.part.identityLeft, attestLeft := s.part.attestLeft
      bootst := if Config.firmwareGood then 2#4 else 0xF#4
      fwver := if Config.firmwareGood then Config.firmwareVersion else 0#32 } }

def execFirmwareReady (s : State) : Host.Outcome State Fault Refusal :=
  if s.part.bootst = 2#4 then .next (s.updPart (fun p => { p with bootst := 3#4, caps := Caps.fused })) else .next s

/-- The CAP values in number order. -/
def capBytes (c : Caps) : List Byte := (List.range 19).flatMap (fun i => toBytes 8 ((capValue c (0x100 + i)).getD 0#64).toNat)

/-- An attestation key with signatures left: an exhausted one is replaced by a fresh key that the identity key
certifies, with one signature of its own tree (R397). -/
def freshKey (p : Part) : Part :=
  if p.attestLeft = 0 then { p with attestLeft := 1024, identityLeft := p.identityLeft - 1 } else p

/-- ATTESTATION_REPORT: the state of the trees is updated before the report is made (R397). The report's layout and
the signature's bytes are free (log 14). An exhausted identity key certifies nothing more. -/
def execAttestationReport (nonce : List Byte) (s : State) : Host.Outcome State Fault Refusal :=
  if s.part.bootst != 3#4 || nonce.length != 32 || (s.part.attestLeft == 0 && s.part.identityLeft == 0) then .next s
  else
    let body := toBytes 32 Config.firmwareDigest.toNat ++ toBytes 4 s.part.fwver.toNat ++ capBytes s.part.caps ++ nonce
    .next ((s.updPart freshKey).updPart (fun p => { p with
      attestLeft := p.attestLeft - 1, attestation := body ++ toBytes 8 (Config.freeValue s.free).toNat }))

/-! ## The management window (R388, R389) -/

/-- BOOTST as it is read. -/
def bootstValue (p : Part) : DWord :=
  BitVec.ofNat 64 (p.bootst.toNat + p.fwver.toNat * 2 ^ 16 + (if p.badWrite then 2 ^ 63 else 0))

/-- A 64-bit word of the management window as the host reads it, by offset: the registers of Table 29-1, the CAP
mirror, and zero at a reserved offset (R388). Only the read of BOOTST changes anything. -/
def windowValue (p : Part) (off : Nat) : DWord :=
  if off = 0 then bootstValue p
  else if off = 0x100 then p.nqbase
  else if off = 0x108 then p.nqsize
  else if off = 0x110 then p.nqtail
  else if off = 0x118 then p.nqhead
  else if off = 0x120 then p.nqdrop
  else if off = 0x200 then p.lcopol.setWidth 64
  else if 0x300 ≤ off ∧ off < 0x400 ∧ off % 8 = 0 then vget (vget p.lcokeys ((off - 0x300) / 32)) ((off - 0x300) / 8 % 4)
  else if off = 0x400 then p.drain
  else if off = 0x408 then p.mxgate
  else if off = 0x410 then p.ntok.setWidth 64
  else if off = 0x418 then p.pcap
  else if 0x800 ≤ off ∧ off % 8 = 0 then (capValue p.caps (0x100 + (off - 0x800) / 8)).getD 0#64
  else 0#64

def execBootstRead (s : State) : Host.Outcome State Fault Refusal :=
  .next (s.updPart (fun p => { p with bootRead := bootstValue p, badWrite := false }))

/-- A write that changes nothing and sets bit 63 of BOOTST. -/
def refuseWrite (s : State) : State := s.updPart (fun p => { p with badWrite := true })

/-- NQBASE without its reserved bits, which ignore writes (R388). -/
def baseOf (x : DWord) : DWord := (x.extractLsb' 0 52).setWidth 64
/-- A multiple of 4 KiB, where present memory or a window lies (R22). -/
def baseLegal (s : State) (x : DWord) : Bool := decide ((baseOf x).toNat % 4096 = 0) && placed s (baseOf x).toNat 4096
def sizeLegal (x : DWord) : Bool := ((List.range 11).map (fun i => 64 * 2 ^ i)).contains x.toNat
/-- The ring may be changed: there is none, or the host has consumed every record. -/
def ringFree (p : Part) : Bool := p.nqsize == 0#64 || p.nqtail == p.nqhead

/-- A ring of some entries from a base lies in present memory, or from 2^40 on outside the windows of absent ports, and
within 52 bits (R17, R22). -/
def ringBacked (s : State) (base size : DWord) : Bool := placed s base.toNat (32 * size.toNat)

/-- NQSIZE takes effect, and the held records are posted, oldest first. -/
def setRing (base size : DWord) (s : State) : State :=
  let held := s.part.held
  held.foldl (fun t r => post r t) (s.updPart (fun p => { p with nqbase := base, nqsize := size, held := [] }))

def execNotificationRingSetup (base size : DWord) (s : State) : Host.Outcome State Fault Refusal :=
  if failed s then .next s
  else if baseLegal s base && sizeLegal size && ringBacked s (baseOf base) size && ringFree s.part then .next (setRing (baseOf base) size s)
  else .next (refuseWrite s)

/-- One 64-bit word of an ASID table entry (R354); GEN is written only by the part. The region table lies at a
52-bit physical address (R17). DESIGN CHOICE (log 43): R388 has the reserved bits of Table 29-1's registers ignore writes
and R354 does not say it of an entry's, so a word with a nonzero zero field is a value outside its range and is refused. -/
def setAsid (n : Nat) (dword : Fin 4) (x : DWord) (s : State) : Option State :=
  let e := asidEnt s n
  let new : Option AsidEnt :=
    match dword.val with
    | 0 => if x.extractLsb' 1 12 = 0#12 ∧ x.extractLsb' 52 12 = 0#12 then some { e with root := x } else none
    | 1 => if x.extractLsb' 32 16 ≠ 0#16 ∧ x.extractLsb' 49 15 = 0#15 then
        some { e with acthr := x.extractLsb' 32 16, promo := x.getLsbD 48 } else none
    | 2 => if x.extractLsb' 0 6 = 0#6 ∧ x.extractLsb' 52 12 = 0#12 then some { e with rtab := x } else none
    | _ => if x.toNat ≤ 65536 then some { e with rtabn := x.setWidth 32 } else none
  if 1024 ≤ n then none
  else new.map (fun e => s.updPart (fun p => { p with asids := p.asids.filter (·.n != n) ++ [e] }))

/-- A legal write of a register, or nothing. -/
def mgmtWrite (r : MgmtReg) (x : DWord) (s : State) : Option State :=
  let set := fun (ok : Bool) (f : Part → Part) => if ok then some (s.updPart f) else none
  match r with
  | .nqbase => set (baseLegal s x && ringBacked s (baseOf x) s.part.nqsize && ringFree s.part) (fun p => { p with nqbase := baseOf x })
  | .nqsize => if sizeLegal x && ringBacked s s.part.nqbase x && ringFree s.part then some (setRing s.part.nqbase x s) else none
  | .nqhead => set (decide ((s.part.nqtail - x).toNat ≤ (s.part.nqtail - s.part.nqhead).toNat)) (fun p => { p with nqhead := x })
  | .lcopol => set (!s.part.lcopol.getLsbD 1) (fun p => { p with lcopol := x.setWidth 2 })
  | .lcokey n d => set (!s.part.lcopol.getLsbD 1) (fun p => { p with lcokeys := vset p.lcokeys n.val (vset (vget p.lcokeys n.val) d.val x) })
  | .drain => set (decide (x.toNat % 2 ^ 21 ≤ 2 ^ 20)) (fun p => { p with drain := (x.extractLsb' 0 21).setWidth 64 })
  | .mxgate => set true (fun p => { p with mxgate := (x.extractLsb' 0 16).setWidth 64 })
  | .ntok => if ntokLegal (x.setWidth 16) then some (setTokens (x.setWidth 16) s) else none
  | .pcap => set (decide (600 ≤ x.toNat) && decide (x.toNat ≤ 2400)) (fun p => { p with pcap := x })
  | .readOnly _ => some s
  | .asid n d => setAsid n d x s
  | .window b l port peer => set (decide (2 ^ 40 ≤ b) && decide (b + l ≤ 2 ^ 52) && decide (peer + l ≤ 2 ^ 52)) (fun p => { p with
      windows := p.windows.filter (·.base != b) ++ (if l = 0 then [] else [⟨b, l, port, peer⟩]) })
  | .contextPool b l => set (decide (b + l ≤ hbmBytes s.part.caps)) (fun p => { p with ctxPool := p.ctxPool ++ [(b, l)] })
  | .promotionFrame pa => set (decide (pa % 2 ^ 26 = 0) && inHbm s pa (2 ^ 26)) (fun p => { p with promoPool := p.promoPool ++ [pa] })
  | .promotionPause => set true (fun p => { p with promoPaused := x.getLsbD 0 })
  | .portAsid n => set (decide (n < 16) && decide (x.toNat < 1024)) (fun p => { p with
      portAsids := (n, x.toNat) :: p.portAsids.filter (·.1 != n) })

def execMgmtRegisterWrite (reg : MgmtReg) (x : DWord) (s : State) : Host.Outcome State Fault Refusal :=
  if failed s then .next s
  else match mgmtWrite reg x s with
    | some t => .next t
    | none => .next (refuseWrite s)

def execCoreCounterClear (core : Nat) (s : State) : Host.Outcome State Fault Refusal :=
  if failed s then .next s
  else .next (s.updCore core (fun c => { c with crdhit := 0#64, crdmiss := 0#64, crmisd := 0#64 }))

/-! ## Debug and field functions (R399 to R403, R68) -/

/-- The stopped teams of a launch may resume, and others of it start. -/
def liftStop (lid : Nat) (s : State) : State :=
  let f := fun (t : Team) => if t.key.lid = lid then { t with debugStop := false } else t
  { s with team := f s.team, teams := s.teams.map f }.updLaunch lid (fun l => { l with debugStop := false })

/-- DEBUG_STOP: the squads of a launch stop at their run boundaries and are saved; a command stops only after it
completes, so the stop is named and nothing else changes; breakpoint stops are armed, or disarmed and the stop of
the launch lifted (R399; log 45). -/
def execDebugStop (target : StopTarget) (s : State) : Host.Outcome State Fault Refusal :=
  if failed s then .next s
  else match target with
  | .launch lid => .next (debugStopLaunch lid s)
  | .command c => .next (match s.findCmd c with
      | some x => nameStop x.k.lid x.engine s
      | none => s)
  | .arm lid on => .next (s.updLaunch lid (fun l => { l with bkpt := on }) |> if on then id else liftStop lid)

/-- CAUSAL_EXPERIMENT: an experiment starts with its counts at zero, or one that runs ends and its counts stay
(R401). -/
def execCausalExperiment (op : ExperimentOp) (s : State) : Host.Outcome State Fault Refusal :=
  if failed s then .next s
  else match op with
  | .start e =>
    if 1 ≤ e.delay && e.delay ≤ 4096 && e.points.length ≤ 4 then
      .next (s.updPart (fun p => { p with
        experiments := p.experiments ++ [(p.nextExperiment, e)]
        progress := p.progress ++ e.points.map (fun x => (p.nextExperiment, x.1, x.2, 0))
        nextExperiment := p.nextExperiment + 1 }))
    else .next s
  | .stop id => .next (s.updPart (fun p => { p with experiments := p.experiments.filter (·.1 != id) }))

/-- What a squad waits for: a barrier after its BAR.sync, or what holds its next chain (R402). -/
def waitNow (s : State) (q : Squad) : Option Wait := if q.syncw.isSome then some .barSync else nextWait (s.focus q.key)

/-- The squads that a waiting squad waits for: at a barrier, the live squads of its team that do not wait
there; on a shoe side, the live squads of its team, once all of them wait and no command serves the shoe. -/
def waitsFor (s : State) (q : Squad) : List SquadKey :=
  let mates := (s.teamSquads q.key.team).filter (fun x => x.key != q.key && x.status == .live)
  let elsewhere := fun (n : BitVec 4) => mates.filter (fun x => !(match waitNow s x with
    | some (.barWait m _) => m == n
    | some .barSync => x.syncw.any (·.2 == n)
    | _ => false))
  match waitNow s q with
  | some (.barWait n p) => if (vget (s.getTeam q.key.team).bars n.toNat).phase = p then (elsewhere n).map (·.key) else []
  | some .barSync => (match q.syncw with
    | some (_, n) => (elsewhere n).map (·.key)
    | none => [])
  | some (.take o) =>
    if !q.isFull o && mates.all (waitsLong s) && !s.cmds.any (fun c => toShoe c) then mates.map (·.key) else []
  | _ => []

/-- Squads reached from a list of squads, the list included. -/
def waitReach (s : State) : Nat → List SquadKey → List SquadKey
  | 0, l => l
  | n + 1, l =>
    let next := dedup (l ++ l.flatMap (fun k => waitsFor s (s.getSq k)))
    if next.length = l.length then l else waitReach s n next

/-- A squad waits on a register that no producer will fill (R67). -/
def waitsOnNothing (s : State) (q : Squad) : Bool :=
  match waitNow s q with
  | some (.reg o) => !q.isFull o && (q.pendingOn o).isNone
  | _ => false

/-- The squads of a wait cycle through a squad. -/
def waitCycle (s : State) (k : SquadKey) : List SquadKey :=
  let n := s.allSquads.length
  let r := waitReach s n (waitsFor s (s.getSq k))
  if r.contains k then r.filter (fun x => (waitReach s n (waitsFor s (s.getSq x))).contains k) else []

/-- The deadlock report: the number of squads named, then up to six logical squad indices (log 14). -/
def waitNote (s : State) (ks : List SquadKey) : List Byte :=
  let l := s.getLaunch ((ks.headD ⟨0, 0, 0⟩).lid)
  let six := ks.take 6
  toBytes 1 6 ++ toBytes 1 0 ++ toBytes 2 l.asid ++ toBytes 4 six.length
    ++ padTo 24 (six.flatMap (fun k => toBytes 4 (logicalIndex k l.lr.nsq)))

/-- The bin of a number of events in an hour: 2^k events or more, and less than 2^(k+1), stand in bin k; the last
bin has no upper bound, and an hour without events stands in none (R403; log 35). -/
def hourBin (n : Nat) : Option Nat := if n = 0 then none else some (min 15 n.log2)

/-- An hour ends: each counter's histogram takes the hour's events. -/
def closeHour (p : Part) : Part :=
  { p with
    histograms := Vector.ofFn (fun i => match hourBin (vget p.hour i.val) with
      | none => vget p.histograms i.val
      | some b => vset (vget p.histograms i.val) b (vget (vget p.histograms i.val) b + 1))
    hour := Vector.replicate 6 0 }

/-- WAIT_FOR_GRAPH_SAMPLE: each cycle, and each squad that waits on no producer, is posted once (R402). Where an hour
has passed, which is a free choice here, the histograms take it (R403; log 10). -/
def execWaitForGraphSample (s : State) : Host.Outcome State Fault Refusal :=
  if s.part.bootst != 3#4 then .next s
  else
    let ks := (s.allSquads.filter (fun q => q.status == .live)).map (·.key)
    let found := (ks.filter (fun k => waitsOnNothing s (s.getSq k))).map (fun k => [k])
      ++ dedup ((ks.map (fun k => sortBy keyBefore (waitCycle s k))).filter (fun c => !c.isEmpty))
    let t := found.foldl (fun t c => post (waitNote s c) t) s
    .next (if Config.freeBit s.free .hour then t.updPart closeHour else t)

/-- REGISTER_PARITY_FAILURE: a register word that still has a duplicate is repaired and counted, another one
is uncorrectable; which, is a free choice. Accumulator elements have no duplicates (R68). An error that HBM's own
code corrects is counted (R403). -/
def execRegisterParityFailure (target : ParityTarget) (s : State) : Host.Outcome State Fault Refusal :=
  if failed s then .next s
  else match target with
  | .reg k w =>
    if Config.freeBit s.free .duplicate then .next (s.countLife 0)
    else .next (s.updSq k (fun q => { q with uncorr := if q.uncorr.contains w then q.uncorr else w :: q.uncorr }))
  | .acc core tile row col => .next (s.updCore core (fun c => { c with zbad := (tile, row, col) :: c.zbad }))
  | .hbm pa => if inHbm s pa 1 then .next (s.countLife 2) else .next s

end Sys2Proof.Machine
end

