-- ==== Sys2Proof/Machine/Objects.lean ====
section
/-! DEFINITION. Code objects: the checks of a load, the load and the unload (R362 to R377, R398, R406). -/

namespace Sys2Proof.Machine

/-! ## The object file (R362 to R374) -/

/-- A section: its offset and size. -/
structure Sect where
  off : Nat
  size : Nat
deriving DecidableEq, Repr, Inhabited

/-- TYPE, zero, SIZE and OFFSET of section table entry `i` (R363). -/
def sectEntry (b : List Byte) (i : Nat) : Nat × Nat × Nat × Nat :=
  let e := (b.drop (0x40 + 16 * i)).take 16
  (field e 0 2, field e 2 2, field e 4 4, field e 8 8)

def sectCount (b : List Byte) : Nat := field b 0x0E 2

/-- The section of a type; an absent one is empty. -/
def sectOf (b : List Byte) (ty : Nat) : Sect :=
  match ((List.range (sectCount b)).map (sectEntry b)).find? (·.1 == ty) with
  | none => ⟨0, 0⟩
  | some e => ⟨e.2.2.2, e.2.2.1⟩

def hasSect (b : List Byte) (ty : Nat) : Bool := ((List.range (sectCount b)).map (sectEntry b)).any (·.1 == ty)

/-- The bytes of a section. -/
def sectBytes (b : List Byte) (ty : Nat) : List Byte := (b.drop (sectOf b ty).off).take (sectOf b ty).size

/-- A suit entry (Table 28-3). -/
structure SuitEnt where
  name : Nat
  nblk : Nat
  entry : Nat
  flags : Nat
  deck : Nat
  deckLen : Nat
  cpkt : Nat
  npkt : Nat
  succ : Nat
  nsucc : Nat
deriving DecidableEq, Repr, Inhabited

def suitEnt (b : List Byte) (i : Nat) : SuitEnt :=
  let e := (b.drop ((sectOf b 1).off + 32 * i)).take 32
  ⟨field e 0 4, field e 4 1, field e 5 1, field e 6 1, field e 8 4, field e 0x0C 4, field e 0x10 4, field e 0x14 4,
    field e 0x18 4, field e 0x1C 2⟩

def suitCount (b : List Byte) : Nat := field b 0x18 2

/-- A lease template: its offset in the object and its number of ranges (R370). -/
def templatesFrom (b : List Byte) (hi : Nat) : Nat → Nat → List (Nat × Nat)
  | 0, _ => []
  | n + 1, off => if hi ≤ off then [] else
    let k := field b (off + 4) 2
    (off, k) :: templatesFrom b hi n (off + 8 + 16 * k)

def templates (b : List Byte) : List (Nat × Nat) :=
  let s := sectOf b 8
  templatesFrom b (s.off + s.size) (s.size / 8 + 1) s.off

/-- A relocation (R373). -/
structure RelocEnt where
  sect : Nat
  kind : Nat
  sym : Nat
  off : Nat
  addend : Nat
deriving DecidableEq, Repr, Inhabited

def relocEnt (b : List Byte) (i : Nat) : RelocEnt :=
  let e := (b.drop ((sectOf b 0x0D).off + 24 * i)).take 24
  ⟨field e 0 1, field e 1 1, field e 4 4, field e 8 8, field e 0x10 8⟩

def relocCount (b : List Byte) : Nat := (sectOf b 0x0D).size / 24

/-- A symbol: NAME, KIND, SECT, SUIT, VALUE (R372). -/
def symEnt (b : List Byte) (i : Nat) : Nat × Nat × Nat × Nat × Nat :=
  let e := (b.drop ((sectOf b 0x0B).off + 16 * i)).take 16
  (field e 0 4, field e 4 1, field e 5 1, field e 6 2, field e 8 8)

def symCount (b : List Byte) : Nat := (sectOf b 0x0B).size / 16
def regionCount (b : List Byte) : Nat := (sectOf b 7).size / 48
def launchCount (b : List Byte) : Nat := (sectOf b 9).size / 272

/-! ## Refusals (R376, Table 28-4): each check gives whether it fails, and the offset of the field -/

/-- The first failing check's offset. -/
def firstFlaw (l : List (Bool × Nat)) : Option Nat := (l.find? (·.1)).map (·.2)

/-- A field of the object is to be zero. -/
def nonzeroAt (b : List Byte) (off n : Nat) : List (Bool × Nat) := [(!zeroAt b off n, off)]

/-- Code 0x01. -/
def badHeader (b : List Byte) : List (Bool × Nat) :=
  [(field b 0 4 != 0x004F434C, 0), (field b 4 2 != 1, 4), (decide (4 ≤ field b 7 1), 7)] ++ nonzeroAt b 0x20 32

/-- Code 0x02. -/
def badPart (s : State) (b : List Byte) : List (Bool × Nat) :=
  [(field b 8 2 != 0x7E1D, 8), (field b 0x0A 2 != 0x4B02, 0x0A), (decide (s.part.caps.step.toNat < field b 0x0C 2), 0x0C)]

/-- Code 0x03 (R45). -/
def badArith (b : List Byte) : List (Bool × Nat) := [(field b 6 1 != 1 && field b 6 1 != 2, 6)]

/-- Code 0x04. -/
def badSections (b : List Byte) : List (Bool × Nat) :=
  let n := sectCount b
  let es := (List.range n).map (sectEntry b)
  [(decide (n < 4) || decide (14 < n), 0x0E)]
  ++ es.zipIdx.flatMap (fun x =>
      let e := x.1
      let at_ := 0x40 + 16 * x.2
      let hi := e.2.2.2 + e.2.2.1
      [(e.1 == 0 || decide (14 < e.1) || (es.take x.2).any (·.1 == e.1), at_),
       (decide (min (field b 0x10 8) b.length < hi) || (e.1 == 2 && decide (65535 < e.2.2.1 / 8)), at_ + 4),
       (e.2.2.2 % 64 != 0 || decide (e.2.2.2 < 0x40 + 16 * n)
        || (es.take x.2).any (fun o => decide (e.2.2.2 < o.2.2.2 + o.2.2.1) && decide (o.2.2.2 < hi)), at_ + 8)])
  ++ [(!([1, 2, 3, 4, 0x0C] : List Nat).all (hasSect b), 0x0E)]

/-- The hands of a deck image in row order: larger first, then by index, the singleton last of at most eight (R80). -/
def rowOf (masks : List (BitVec 64)) (blk : Nat) : List Nat :=
  let mine := masks.zipIdx.filter (fun x => x.1 != 0#64 && lowestBlock x.1 == blk)
  let big := sortBy (fun (x y : BitVec 64 × Nat) => decide (popCount y.1 < popCount x.1)) (mine.filter (fun x => popCount x.1 != 1))
  let hands := (big.take 7 ++ mine.filter (fun x => popCount x.1 == 1)).map (·.2)
  hands ++ List.replicate (8 - hands.length) 0xFFFF

/-- The probe of R82 over the entries of a hash table. -/
def probeIn (masks : List (BitVec 64)) (hash : List Nat) (m : BitVec 64) : Nat → Nat → Option Nat
  | 0, _ => none
  | n + 1, i =>
    let e := hash.getD i 0xFFFF
    if e = 0xFFFF then none
    else if masks.getD e 0#64 = m then some e
    else probeIn masks hash m n ((i + 1) % hash.length)

/-- The first entry that the probe of R82 reads. -/
def probeStart (m : BitVec 64) (hbits : Nat) : Nat :=
  let x := m.extractLsb' 0 32 ^^^ m.extractLsb' 32 32
  (x * 0x6C8E9CF5#32).toNat / 2 ^ (32 - hbits)

/-- Code 0x05 for one suit: the image at `base` against R78 to R81 and the suit entry. -/
def badDeck (b : List Byte) (i : Nat) : List (Bool × Nat) :=
  let u := suitEnt b i
  let ent := (sectOf b 1).off + 32 * i
  let base := (sectOf b 3).off + u.deck
  let d := (b.drop base).take u.deckLen
  let nh := field d 0 2
  let nb := field d 2 1
  let hb := field d 3 1
  let ho := field d 8 4
  let ro := field d 0x0C 4
  let xo := field d 0x10 4
  let masks := (List.range nh).map (fun h => BitVec.ofNat 64 (field d (ho + 32 * h) 8))
  let hash := (List.range (2 ^ hb)).map (fun j => field d (xo + 2 * j) 2)
  let outOf := fun (off n : Nat) => decide (u.deckLen < off + n)
  [(decide ((sectOf b 3).size < u.deck + u.deckLen), ent + 8), (decide (u.deckLen < 32), ent + 0x0C),
   (nh == 0 || decide (4096 < nh), base), (nb == 0 || decide (63 < nb), base + 2),
   (decide (hb < 4) || decide (13 < hb) || decide (2 ^ hb ≤ nh), base + 3), (decide (nb ≤ field d 4 1), base + 4),
   (!zeroAt d 5 3, base + 5), (ho % 32 != 0 || outOf ho (32 * nh), base + 8), (ro % 16 != 0 || outOf ro 1008, base + 0x0C),
   (xo % 16 != 0 || outOf xo (2 * 2 ^ hb), base + 0x10), (!zeroAt d 0x14 12, base + 0x14)]
  ++ masks.zipIdx.flatMap (fun x =>
      let at_ := base + ho + 32 * x.2
      let e := (d.drop (ho + 32 * x.2)).take 32
      let n := field e 0x0C 1
      [(decide (2 ^ nb ≤ x.1.toNat) || popCount x.1 == 0 || decide (8 < popCount x.1) || (masks.take x.2).contains x.1, at_),
       (n != popCount x.1, at_ + 0x0C), (!zeroAt e 0x0D 3, at_ + 0x0D)]
      ++ (List.range 7).map (fun k => (decide (n ≤ k + 1) && field e (0x10 + 2 * k) 2 != 0, at_ + 0x10 + 2 * k)))
  ++ (List.range 63).flatMap (fun r =>
      (rowOf masks r).zipIdx.map (fun x => (field d (ro + 16 * r + 2 * x.2) 2 != x.1, base + ro + 16 * r + 2 * x.2))
      ++ [(decide (r < nb) && !masks.contains (blockMask r), base + ro + 16 * r)])
  ++ hash.zipIdx.map (fun x =>
      (x.1 != 0xFFFF && (decide (nh ≤ x.1) || (hash.take x.2).contains x.1), base + xo + 2 * x.2))
  ++ masks.zipIdx.map (fun x =>
      (probeIn masks hash x.1 hash.length (probeStart x.1 hb) != some x.2, base + xo + 2 * probeStart x.1 hb))
  ++ [(nb != u.nblk, ent + 4), (field d 4 1 != u.entry, ent + 5)]

/-- Word 0 of packet `p` of CODE. -/
def packetHead (b : List Byte) (p : Nat) : Word := BitVec.ofNat 32 (field b ((sectOf b 4).off + 12 * p) 4)

/-- Code 0x06 for one suit (R76, R79). -/
def badCode (b : List Byte) (i : Nat) : List (Bool × Nat) :=
  let u := suitEnt b i
  let base := (sectOf b 3).off + u.deck
  let d := (b.drop base).take u.deckLen
  let ho := field d 8 4
  let bad := fun (p : Nat) (w : Instr) => decide (p < u.cpkt) || decide (u.cpkt + u.npkt ≤ p)
    || decide ((sectOf b 4).size < 12 * (p + 1)) || packetHead b p != (encode w).headD 0#32
  (List.range (field d 0 2)).flatMap (fun h =>
    let at_ := base + ho + 32 * h
    let e := (d.drop (ho + 32 * h)).take 32
    let c := field e 8 4
    [(bad c (.seg ⟨false, 1#8⟩), at_ + 8)]
    ++ (List.range (field e 0x0C 1 - 1)).map (fun k =>
        (bad (c + field e (0x10 + 2 * k) 2) (.seg ⟨false, 1#8 <<< (k + 1)⟩), at_ + 0x10 + 2 * k))
    ++ [(bad (c + field e 0x1E 2) .deal, at_ + 0x1E)])

/-- Code 0x07. -/
def badTrapSuit (b : List Byte) : List (Bool × Nat) :=
  let t := field b 0x1A 2
  let named := field b 7 1 % 2 == 1
  [(t != 0xFFFF && (decide (suitCount b ≤ t) || (suitEnt b t).flags % 2 == 0), 0x1A), (named != (t != 0xFFFF), 7)]
  ++ (List.range (suitCount b)).map (fun i => ((suitEnt b i).flags % 2 == 1 && i != t, (sectOf b 1).off + 32 * i + 6))

/-- VALUE of a symbol is in range for its KIND. -/
def symValueGood (b : List Byte) (e : Nat × Nat × Nat × Nat × Nat) : Bool :=
  let v := e.2.2.2.2
  match e.2.1 with
  | 0 => decide (v < (sectOf b 6).size)
  | 1 => decide (v < (sectOf b 5).size)
  | 2 => decide (v < suitCount b)
  | 3 => decide (e.2.2.2.1 < suitCount b) && decide (v < (suitEnt b e.2.2.2.1).nblk)
  | 4 => decide (v < regionCount b)
  | 5 => decide (v < (templates b).length)
  | 6 => decide (v < launchCount b)
  | _ => true

/-- Code 0x08: strings, symbols, successors, relocations, and the bytes that relocations patch. -/
def badIndices (b : List Byte) : List (Bool × Nat) :=
  let str := fun (off : Nat) => (decide ((sectOf b 0x0C).size ≤ field b off 4), off)
  let s1 := (sectOf b 1).off
  let s7 := (sectOf b 7).off
  let s9 := (sectOf b 9).off
  let sB := (sectOf b 0x0B).off
  let sD := (sectOf b 0x0D).off
  [str 0x1C]
  ++ (List.range (suitCount b)).flatMap (fun i =>
      let u := suitEnt b i
      [str (s1 + 32 * i), (decide ((sectOf b 0x0A).size < 2 * u.succ), s1 + 32 * i + 0x18),
       (decide ((sectOf b 0x0A).size < 2 * (u.succ + u.nsucc)), s1 + 32 * i + 0x1C)])
  ++ (List.range ((sectOf b 2).size / 8)).map (fun i => str ((sectOf b 2).off + 8 * i))
  ++ (List.range ((sectOf b 0x0A).size / 2)).map (fun i =>
      (decide (suitCount b ≤ field b ((sectOf b 0x0A).off + 2 * i) 2), (sectOf b 0x0A).off + 2 * i))
  ++ (List.range (regionCount b)).map (fun i => str (s7 + 48 * i))
  ++ (templates b).map (fun t => str t.1)
  ++ (List.range (launchCount b)).map (fun i => str (s9 + 272 * i))
  ++ (List.range (symCount b)).flatMap (fun i =>
      [str (sB + 16 * i), (!symValueGood b (symEnt b i), sB + 16 * i + 8)])
  ++ (List.range (relocCount b)).flatMap (fun i =>
      let r := relocEnt b i
      let at_ := sD + 24 * i
      [(!([5, 6, 7, 8, 9] : List Nat).contains r.sect || !hasSect b r.sect, at_),
       (decide (symCount b ≤ r.sym), at_ + 4),
       (decide ((sectOf b r.sect).size < r.off + 8), at_ + 8)]
      ++ (if !([5, 6, 7, 8, 9] : List Nat).contains r.sect || decide ((sectOf b r.sect).size < r.off + 8) then []
          else nonzeroAt b ((sectOf b r.sect).off + r.off) 8))

/-- The address of a label, or of the mapped section that a symbol of another kind stands in; `va` gives the addresses
of sections 3 to 6. -/
def symAddr (va : List Nat) (y : Nat × Nat × Nat × Nat × Nat) : Option Nat :=
  match y.2.1 with
  | 0 => some (va.getD 3 0 + y.2.2.2.2)
  | 1 => some (va.getD 2 0 + y.2.2.2.2)
  | _ => if 3 ≤ y.2.2.1 ∧ y.2.2.1 ≤ 6 then some (va.getD (y.2.2.1 - 3) 0) else none

/-- What a relocation writes, if its KIND is one of the two (R373). For a symbol that has no address or no handle the
manual states no value, and it is the free value `free` (log 40). -/
def relocValue (va : List Nat) (handles : List (BitVec 32)) (free : DWord) (r : RelocEnt) (y : Nat × Nat × Nat × Nat × Nat) :
    Option Nat :=
  match r.kind with
  | 0 => some (((symAddr va y).map (fun a => (a + r.addend) % 2 ^ 64)).getD free.toNat)
  | 1 => some ((if y.2.1 = 4 then (handles[y.2.2.2.2]?).map BitVec.toNat else none).getD free.toNat)
  | _ => none

/-- The object with its relocations applied (R373); `free` gives each one's free value. -/
def relocate (va : List Nat) (handles : List (BitVec 32)) (free : Nat → DWord) (b : List Byte) : List Byte :=
  (List.range (relocCount b)).foldl (fun (x : List Byte) i =>
    let r := relocEnt b i
    let p := (sectOf b r.sect).off + r.off
    match relocValue va handles (free i) r (symEnt b r.sym) with
    | none => x
    | some v => x.take p ++ toBytes 8 v ++ x.drop (p + 8)) b

/-- The descriptor of REGIONS entry `i` (R369, R303). -/
def regionDesc (b : List Byte) (i gen : Nat) : List Byte :=
  let e := (b.drop ((sectOf b 7).off + 48 * i)).take 48
  (e.drop 4).take 5 ++ [1#8] ++ toBytes 2 gen ++ (e.drop 0x18).take 16 ++ (e.drop 0x10).take 8
    ++ List.replicate 8 0xFF#8 ++ List.replicate 24 0#8

/-- Where a descriptor breaks R304, by the offset in its REGIONS entry (Table 28-3): RANK, ESZ, ETYPE, KORD, HOME, KWIN,
then the first extent that is 0 or with which the field widths pass 64. -/
def descFlaws (s : State) (d : Desc) : List (Bool × Nat) :=
  let widths := fun (k : Nat) => ((List.range k).map (fun i => fieldWidth (d.extent i))).sum
  [(decide (d.rank < 1) || decide (4 < d.rank), 4), (!typeAgrees d.esz d.etype && decide (d.etype ≤ 4), 5), (decide (4 < d.etype), 6),
   (!(List.range d.rank).all (fun i => d.order.contains i) || d.kord / 4 ^ d.rank != 0, 7),
   (decide (32 ≤ d.home) || !diePresent s (d.home / 8), 8), (decide (2 ^ 56 ≤ d.kwin) || d.kwin % 256 != 0, 0x10)]
  ++ (List.range 4).map (fun i => (d.extent i == 0 || (decide (i < d.rank) && decide (64 < widths (i + 1))), 0x18 + 4 * i))

/-- Code 0x09, after relocation. -/
def badRegions (s : State) (b : List Byte) : List (Bool × Nat) :=
  (List.range (regionCount b)).flatMap (fun i =>
    let at_ := (sectOf b 7).off + 48 * i
    let fs := (descFlaws s (Desc.ofBytes (regionDesc b i 0))).map (fun f => (f.1, at_ + f.2))
    fs.take 5 ++ nonzeroAt b (at_ + 9) 7 ++ fs.drop 5 ++ nonzeroAt b (at_ + 0x28) 8)

/-- The ranges of a template (R341). -/
def templateRanges (b : List Byte) (t : Nat × Nat) : List (Nat × Nat) :=
  (List.range t.2).map (fun j => (field b (t.1 + 8 + 16 * j) 8, field b (t.1 + 16 + 16 * j) 8))

/-- Code 0x0A: templates and launch record images, after relocation; `t` has the object's sections mapped. -/
def badLaunches (t : State) (asid : Nat) (b : List Byte) : List (Bool × Nat) :=
  let ts := templates b
  let s8 := sectOf b 8
  let more := if hasSect b 5 then 3 else 2
  ts.flatMap (fun x =>
    [(x.2 == 0 || decide (253 < x.2) || decide (s8.off + s8.size < x.1 + 8 + 16 * x.2), x.1 + 4), (!zeroAt b (x.1 + 6) 2, x.1 + 6)]
    ++ (templateRanges b x).zipIdx.flatMap (fun r =>
        let at_ := x.1 + 8 + 16 * r.2
        [(decide (2 ^ 56 ≤ r.1.1), at_), (r.1.2 == 0 || decide (2 ^ 48 < r.1.2), at_ + 8),
         (rangeRefused t asid r.1, at_)])
    ++ [(decide (256 < x.2 + more), x.1 + 4)])
  ++ (List.range (launchCount b)).flatMap (fun i =>
    let at_ := (sectOf b 9).off + 272 * i
    let e := ((b.drop (at_ + 16)).take 256)
    let r := LaunchRec.ofBytes e []
    [(decide (ts.length ≤ field b (at_ + 4) 2), at_ + 4)] ++ nonzeroAt b (at_ + 6) 10 ++ nonzeroAt b (at_ + 0x10) 8
    ++ [(decide (suitCount b ≤ r.suit), at_ + 0x18), (r.nsq == 0 || decide (16 < r.nsq), at_ + 0x1A),
        (decide (1 < field e 0x0B 1), at_ + 0x1B), (decide (16 < r.nparm), at_ + 0x1C), (r.dies != 0, at_ + 0x1D),
        (decide (1024 * 1024 < r.scr), at_ + 0x1E), (r.gx == 0, at_ + 0x20), (r.gy == 0, at_ + 0x24), (r.gz == 0, at_ + 0x28)]
    ++ nonzeroAt b (at_ + 0x2E) 2
    ++ r.owner.zipIdx.map (fun o => (o.1 != 0xFF#8 && decide (r.nsq ≤ o.1.toNat), at_ + 0x30 + o.2))
    ++ [(decide (131072 < r.sbase + r.slen), at_ + 0x38)] ++ nonzeroAt b (at_ + 0x40) 8 ++ nonzeroAt b (at_ + 0x48) 4 ++ nonzeroAt b (at_ + 0x5C) 4
    ++ nonzeroAt b (at_ + 0xE0) 48)

/-- The object carries a valid signature (R374). -/
def signed (b : List Byte) : Bool :=
  let g := sectOf b 0x0E
  hasSect b 0x0E && g.size == 2860 && field b g.off 4 == 1 && zeroAt b (g.off + 4) 4
    && Config.verifies (b.take g.off) ((b.drop (g.off + 8)).take 2852)

/-- The signature is accepted (R398): valid, under a key that an LCOKEY names. -/
def accepted (s : State) (b : List Byte) : Bool :=
  let g := sectOf b 0x0E
  let key := (List.range 4).map (fun j => BitVec.ofNat 64 (field b (g.off + 8 + 8 * j) 8))
  signed b && s.part.lcokeys.toList.any (fun k => k.toList == key && k.toList.any (· != 0#64))

/-- Code 0x0B. -/
def badSignature (s : State) (b : List Byte) : List (Bool × Nat) :=
  let named := field b 7 1 / 2 % 2 == 1
  [(named && !hasSect b 0x0E, 7), (named && !signed b, (sectOf b 0x0E).off),
   (s.part.lcopol.getLsbD 0 && !accepted s b, if hasSect b 0x0E then (sectOf b 0x0E).off else 7)]

/-! ## The load (R375) -/

/-- Map the pages of a section on the next frames and give them its bytes. -/
def mapPages (asid : Nat) (perm : DWord) : Nat → Nat → List Byte → List Nat × List Nat × State → Option (List Nat × List Nat × State)
  | 0, _, _, x => some x
  | n + 1, va, bs, (frames, fresh, s) =>
    match frames with
    | [] => none
    | f :: fr =>
      match mapPage asid va f perm fresh s with
      | none => none
      | some (fresh, s) =>
        mapPages asid perm n (va + 65536) (bs.drop 65536) (fr, fresh,
          homeWrite (cellsAt f (bs.take 65536 ++ List.replicate (65536 - bs.length) 0#8)) s)

/-- Pages of a section. -/
def pagesOf (size : Nat) : Nat := (size + 65535) / 65536

/-- The mapped sections: type, virtual address and permission bits (Table 28-2). -/
def mappedSects (q : LoadRequest) (b : List Byte) : List (Nat × Nat × DWord) :=
  [(3, q.va.getD 0 0, 0x2#64), (4, q.va.getD 1 0, 0xA#64), (5, q.va.getD 2 0, 0x2#64), (6, q.va.getD 3 0, 0x6#64)].filter
    (fun x => hasSect b x.1)

/-- The area of launch records, 256 bytes each, and after them lease lists of 4 KiB each. -/
def recordsSize (b : List Byte) : Nat := 4352 * launchCount b

/-- The lease of launch `i`: its template's ranges, then DECKS, CODE and CONST (R375). -/
def leaseOf (q : LoadRequest) (b : List Byte) (i : Nat) : List (Nat × Nat) :=
  let t := (templates b).getD (field b ((sectOf b 9).off + 272 * i + 4) 2) (0, 0)
  templateRanges b t ++ ((mappedSects q b).filter (fun x => x.1 != 6)).map (fun x => (x.2.1, (sectOf b x.1).size))

/-- The dies with a core (R24). -/
def diesWithCores (s : State) : Nat := ((List.range 4).map (fun d => if (coresPresent s d).isEmpty then 0 else 2 ^ d)).sum

/-- The completed record of launch `i` (R371, R375). -/
def recordOf (s : State) (q : LoadRequest) (b : List Byte) (addr i : Nat) : List Byte :=
  let e := (b.drop ((sectOf b 9).off + 272 * i + 16)).take 256
  toBytes 8 addr ++ (e.drop 8).take 5 ++ toBytes 1 (diesWithCores s) ++ (e.drop 0x0E).take 0x22
    ++ toBytes 8 (q.records + 256 * launchCount b + 4096 * i) ++ toBytes 4 (leaseOf q b i).length ++ e.drop 0x3C

/-- The bytes of the records area. -/
def recordsBytes (s : State) (q : LoadRequest) (b : List Byte) (addr : Nat) : List Byte :=
  (List.range (launchCount b)).flatMap (recordOf s q b addr)
  ++ (List.range (launchCount b)).flatMap (fun i =>
      let l := (leaseOf q b i).flatMap (fun r => toBytes 8 r.1 ++ toBytes 8 r.2)
      l ++ List.replicate (4096 - l.length) 0#8)

/-- Region table entries whose VALID is 0 (R375). -/
def regionsFree (s : State) (asid : Nat) : Nat :=
  ((List.range (asidEnt s asid).rtabn.toNat).filter (fun i => descBacked s asid i && (readDesc s asid i).flags % 2 == 0)).length

/-- A region table entry that is free for a GEN: one that an earlier region has used keeps the GEN that its unload
raised (R375, R377; log 40). -/
def entryFree (s : State) (asid i : Nat) (gen : BitVec 16) : Bool :=
  let d := readDesc s asid i
  descBacked s asid i && d.flags % 2 == 0 && (d.rank == 0 || d.gen == gen.toNat)

/-- The choices of system software are ones that it may make (R375). -/
def requestGood (s : State) (q : LoadRequest) (b : List Byte) : Bool :=
  let m := mappedSects q b
  let need := (m.map (fun x => pagesOf (sectOf b x.1).size)).sum + pagesOf (recordsSize b)
  m.all (fun x => x.2.1 % 65536 == 0 && decide (x.2.1 + (sectOf b x.1).size ≤ 2 ^ 56))
    && q.records % 65536 == 0 && decide (q.records + recordsSize b ≤ 2 ^ 56) && decide (need ≤ q.frames.length)
    && q.regions.length == regionCount b && (q.regions.map (·.1)).Nodup
    && q.regions.all (fun r => entryFree s q.asid r.1 r.2) && freshFrames s q.frames q.tables

/-- The handles that the chosen entries fix. -/
def handlesOf (q : LoadRequest) : List (BitVec 32) := q.regions.map (fun r => BitVec.ofNat 32 (r.1 + 65536 * r.2.toNat))

/-- The refusal that comes before any mapping: code and offset. -/
def refusedEarly (s : State) (b : List Byte) : Option (Nat × Nat) :=
  let suits := List.range (suitCount b)
  [(1, firstFlaw (badHeader b)), (2, firstFlaw (badPart s b)), (3, firstFlaw (badArith b)), (4, firstFlaw (badSections b)),
   (5, firstFlaw (suits.flatMap (badDeck b))), (6, firstFlaw (suits.flatMap (badCode b))), (7, firstFlaw (badTrapSuit b)),
   (8, firstFlaw (badIndices b))].findSome? (fun x => x.2.map (x.1, ·))

/-- A refused load: its report, and nothing else. -/
def refuseLoad (code off : Nat) (s : State) : State := s.updPart (fun p => { p with loadReport := [code, off] })

/-- The regions' descriptors are written (R303, R375). -/
def writeRegions (q : LoadRequest) (b : List Byte) (s : State) : State :=
  q.regions.zipIdx.foldl (fun t r => homeWrite (namedCells s (descAddr s q.asid r.1.1) (regionDesc b r.2 r.1.2.toNat)) t) s

/-- The sections and the records area are mapped. -/
def mapObject (q : LoadRequest) (b : List Byte) (addr : Nat) (s : State) : Option State :=
  let m := (mappedSects q b).foldl (fun (x : Option (List Nat × List Nat × State)) y =>
    x.bind (mapPages q.asid y.2.2 (pagesOf (sectOf b y.1).size) y.2.1 (sectBytes b y.1))) (some (q.frames, q.tables, s))
  ((m.bind (mapPages q.asid 0x2#64 (pagesOf (recordsSize b)) q.records (recordsBytes s q b addr)))).map (·.2.2)

/-- The loaded object as the part holds it. -/
def loadedObj (q : LoadRequest) (b : List Byte) (addr : Nat) : Obj where
  addr := addr
  asid := q.asid
  arith := field b 6 1
  suits := (List.range (suitCount b)).map (fun i =>
    let u := suitEnt b i
    ⟨q.va.getD 0 0 + u.deck, u.nblk, u.entry, u.cpkt, u.npkt,
      (List.range u.nsucc).map (fun j => field b ((sectOf b 0x0A).off + 2 * (u.succ + j)) 2)⟩)
  trapSuit := if field b 0x1A 2 = 0xFFFF then none else some (field b 0x1A 2)
  code := q.va.getD 1 0
  maps := (mappedSects q b).map (fun x => (x.2.1, (sectOf b x.1).size)) ++ [(q.records, recordsSize b)]
  regions := q.regions
  launches := (List.range (launchCount b)).map (fun i => q.records + 256 * i)
  report := (List.range (launchCount b)).map (fun i => q.records + 256 * i) ++ (mappedSects q b).map (·.2.1)
    ++ (handlesOf q).map BitVec.toNat
  handles := handlesOf q

/-- OBJECT_LOAD: the checks, the mapping, the descriptors, the relocations, the records and the report. The
load address is the physical address of the object's first frame (log 41). -/
def execObjectLoad (req : LoadRequest) (s : State) : Host.Outcome State Fault Refusal :=
  if s.part.bootst != 3#4 then .next s
  else match refusedEarly s req.bytes with
    | some r => .next (refuseLoad r.1 r.2 s)
    | none =>
      let b := relocate req.va (handlesOf req) (Config.freeAddress s.free) req.bytes
      if regionsFree s req.asid < regionCount b then .next (refuseLoad 9 (sectOf b 7).off s)
      else match firstFlaw (badRegions s b) with
        | some off => .next (refuseLoad 9 off s)
        | none =>
          let addr := req.frames.headD 0
          if !requestGood s req b then .next s
          else match mapObject req b addr s with
            | none => .next s
            | some t =>
              match firstFlaw (badLaunches t req.asid b), firstFlaw (badSignature s req.bytes) with
              | some off, _ => .next (refuseLoad 0x0A off s)
              | none, some off => .next (refuseLoad 0x0B off s)
              | none, none =>
                let o := loadedObj req b addr
                .next ((writeRegions req b t).updPart (fun p => { p with
                  objs := p.objs.filter (fun (x : Obj) => x.addr != addr) ++ [o]
                  loadReport := o.report }))

/-! ## The unload (R377) -/

/-- A launch of the object is live or submitted. -/
def objInUse (s : State) (o : Obj) : Bool :=
  s.allLaunches.any (fun l => l.lr.obj == o.addr && (l.status == .running || l.status == .stopping))
    || s.part.submitted.any (fun u => match s.findGraph u.graph with
      | none => false
      | some g => (walkerValue s g.asid (gnode s g u.node).lrec 8).getD 0 == o.addr)

/-- A larger leaf gives way to a table of 1,024 leaves that map the same frames. The table stands in the frame of the
page that is unmapped next, `k` tables into it (log 48). -/
def splitLeaf (a k : Nat) (l : DWord × Nat) (va : Nat) (s : State) : State :=
  let base := leafAddr l.1 / l.2 * l.2
  let tab := physOf l (va / 65536 * 65536) + 8192 * k
  let es := (List.range 1024).flatMap (fun i => toBytes 8 (reframe l.1 (base + l.2 / 1024 * i)).toNat)
  putEntry a (reframe 1#64 tab) (homeWrite (namedCells s tab es) s)

/-- One 64 KiB page is unmapped; a larger leaf that holds it is split until it maps that page alone. -/
def unmapPage (asid va : Nat) : Nat → State → State
  | 0, s => s
  | k + 1, s =>
    match walk s 0 asid va, entryAddr s asid va with
    | some l, some a => if l.2 = 65536 then putEntry a 0#64 s else unmapPage asid va k (splitLeaf a k l va s)
    | _, _ => s

/-- The pages of a range are unmapped. -/
def unmapPages (asid : Nat) : Nat → Nat → State → State
  | 0, _, s => s
  | n + 1, va, s => unmapPages asid n (va + 65536) (unmapPage asid va 3 s)

/-- A port that retrains keeps the unload of a region from its descriptor (R393; log 34). -/
def unloadWaits (s : State) (asid i : Nat) : Bool :=
  (portsOf s (descAddr s asid i) 64).any (fun p => s.part.caps.ports.getLsbD p && !portUp s p)

/-- OBJECT_UNLOAD: refused while a launch of the object is live or submitted; else VALID is cleared and GEN
raised in its region descriptors, those that still lie in memory (R17, R22), and its sections are unmapped and shot
down. -/
def execObjectUnload (obj : Nat) (s : State) : Host.Outcome State Fault Refusal :=
  match s.findObj obj with
  | none => .next s
  | some o =>
    if objInUse s o || o.regions.any (unloadWaits s o.asid ·.1) then .next s
    else
      let t := o.regions.foldl (fun (t : State) r =>
        let a := descAddr t o.asid r.1
        let d := readDesc t o.asid r.1
        if !descBacked t o.asid r.1 then t
        else homeWrite (namedCells t (a + 5) (toBytes 1 (d.flags / 2 * 2) ++ toBytes 2 ((d.gen + 1) % 65536))) t) s
      let t := o.maps.foldl (fun (t : State) m =>
        shootDown (some [o.asid]) m.1 (m.1 + 65536 * pagesOf m.2) (unmapPages o.asid (pagesOf m.2) m.1 t)) t
      .next (t.updPart (fun p => { p with objs := p.objs.filter (fun (x : Obj) => x.addr != obj) }))

end Sys2Proof.Machine
end

