-- ==== Sys2Proof/Machine/Dispatch.lean ====
section
/-! DEFINITION. The dispatch: one arm per constructor of Instr. -/

namespace Sys2Proof.Machine

def exec (i : Instr) (s : State) : Host.Outcome State Fault Refusal :=
  match i with
  | .nop x0 => Sys2Proof.Machine.execNop x0 s
  | .seg x0 => Sys2Proof.Machine.execSeg x0 s
  | .nxt x0 x1 => Sys2Proof.Machine.execNxt x0 x1 s
  | .nxtc x0 x1 x2 x3 x4 => Sys2Proof.Machine.execNxtc x0 x1 x2 x3 x4 s
  | .nxti x0 x1 x2 => Sys2Proof.Machine.execNxti x0 x1 x2 s
  | .deal => Sys2Proof.Machine.execDeal s
  | .fold x0 => Sys2Proof.Machine.execFold x0 s
  | .call x0 x1 => Sys2Proof.Machine.execCall x0 x1 s
  | .callp x0 x1 x2 => Sys2Proof.Machine.execCallp x0 x1 x2 s
  | .ret x0 => Sys2Proof.Machine.execRet x0 s
  | .trap x0 x1 => Sys2Proof.Machine.execTrap x0 x1 s
  | .eret x0 x1 => Sys2Proof.Machine.execEret x0 x1 s
  | .brk x0 x1 => Sys2Proof.Machine.execBrk x0 x1 s
  | .emset x0 x1 x2 => Sys2Proof.Machine.execEmset x0 x1 x2 s
  | .emget x0 x1 x2 => Sys2Proof.Machine.execEmget x0 x1 x2 s
  | .yield x0 => Sys2Proof.Machine.execYield x0 s
  | .iadd x0 x1 x2 x3 x4 x5 x6 => Sys2Proof.Machine.execIadd x0 x1 x2 x3 x4 x5 x6 s
  | .isub x0 x1 x2 x3 x4 x5 x6 => Sys2Proof.Machine.execIsub x0 x1 x2 x3 x4 x5 x6 s
  | .imul x0 x1 x2 x3 x4 x5 x6 => Sys2Proof.Machine.execImul x0 x1 x2 x3 x4 x5 x6 s
  | .imulh x0 x1 x2 x3 x4 x5 x6 => Sys2Proof.Machine.execImulh x0 x1 x2 x3 x4 x5 x6 s
  | .imad x0 x1 x2 x3 x4 x5 x6 => Sys2Proof.Machine.execImad x0 x1 x2 x3 x4 x5 x6 s
  | .imin x0 x1 x2 x3 x4 x5 x6 => Sys2Proof.Machine.execImin x0 x1 x2 x3 x4 x5 x6 s
  | .imax x0 x1 x2 x3 x4 x5 x6 => Sys2Proof.Machine.execImax x0 x1 x2 x3 x4 x5 x6 s
  | .iabs x0 x1 x2 x3 x4 => Sys2Proof.Machine.execIabs x0 x1 x2 x3 x4 s
  | .and x0 x1 x2 x3 x4 x5 => Sys2Proof.Machine.execAnd x0 x1 x2 x3 x4 x5 s
  | .or x0 x1 x2 x3 x4 x5 => Sys2Proof.Machine.execOr x0 x1 x2 x3 x4 x5 s
  | .xor x0 x1 x2 x3 x4 x5 => Sys2Proof.Machine.execXor x0 x1 x2 x3 x4 x5 s
  | .shl x0 x1 x2 x3 x4 x5 x6 => Sys2Proof.Machine.execShl x0 x1 x2 x3 x4 x5 x6 s
  | .shr x0 x1 x2 x3 x4 x5 => Sys2Proof.Machine.execShr x0 x1 x2 x3 x4 x5 s
  | .sar x0 x1 x2 x3 x4 x5 => Sys2Proof.Machine.execSar x0 x1 x2 x3 x4 x5 s
  | .iaddmin x0 x1 x2 x3 x4 x5 => Sys2Proof.Machine.execIaddmin x0 x1 x2 x3 x4 x5 s
  | .cmov x0 x1 x2 x3 x4 x5 => Sys2Proof.Machine.execCmov x0 x1 x2 x3 x4 x5 s
  | .iceq x0 x1 x2 x3 x4 x5 => Sys2Proof.Machine.execIceq x0 x1 x2 x3 x4 x5 s
  | .icne x0 x1 x2 x3 x4 x5 => Sys2Proof.Machine.execIcne x0 x1 x2 x3 x4 x5 s
  | .iclt x0 x1 x2 x3 x4 x5 => Sys2Proof.Machine.execIclt x0 x1 x2 x3 x4 x5 s
  | .icle x0 x1 x2 x3 x4 x5 => Sys2Proof.Machine.execIcle x0 x1 x2 x3 x4 x5 s
  | .icltu x0 x1 x2 x3 x4 x5 => Sys2Proof.Machine.execIcltu x0 x1 x2 x3 x4 x5 s
  | .icleu x0 x1 x2 x3 x4 x5 => Sys2Proof.Machine.execIcleu x0 x1 x2 x3 x4 x5 s
  | .popc x0 x1 x2 x3 => Sys2Proof.Machine.execPopc x0 x1 x2 x3 s
  | .clz x0 x1 x2 x3 => Sys2Proof.Machine.execClz x0 x1 x2 x3 s
  | .brev x0 x1 x2 x3 => Sys2Proof.Machine.execBrev x0 x1 x2 x3 s
  | .bfx x0 x1 x2 x3 x4 x5 x6 => Sys2Proof.Machine.execBfx x0 x1 x2 x3 x4 x5 x6 s
  | .bfi x0 x1 x2 x3 x4 x5 => Sys2Proof.Machine.execBfi x0 x1 x2 x3 x4 x5 s
  | .idiv x0 x1 x2 x3 x4 x5 x6 => Sys2Proof.Machine.execIdiv x0 x1 x2 x3 x4 x5 x6 s
  | .irem x0 x1 x2 x3 x4 x5 x6 => Sys2Proof.Machine.execIrem x0 x1 x2 x3 x4 x5 x6 s
  | .aget x0 x1 x2 x3 x4 => Sys2Proof.Machine.execAget x0 x1 x2 x3 x4 s
  | .rget x0 x1 x2 x3 x4 x5 => Sys2Proof.Machine.execRget x0 x1 x2 x3 x4 x5 s
  | .rput x0 x1 x2 x3 x4 => Sys2Proof.Machine.execRput x0 x1 x2 x3 x4 s
  | .iaddi x0 x1 x2 x3 => Sys2Proof.Machine.execIaddi x0 x1 x2 x3 s
  | .andi x0 x1 x2 x3 => Sys2Proof.Machine.execAndi x0 x1 x2 x3 s
  | .ori x0 x1 x2 x3 => Sys2Proof.Machine.execOri x0 x1 x2 x3 s
  | .xori x0 x1 x2 x3 => Sys2Proof.Machine.execXori x0 x1 x2 x3 s
  | .shli x0 x1 x2 x3 => Sys2Proof.Machine.execShli x0 x1 x2 x3 s
  | .shri x0 x1 x2 x3 => Sys2Proof.Machine.execShri x0 x1 x2 x3 s
  | .sari x0 x1 x2 x3 => Sys2Proof.Machine.execSari x0 x1 x2 x3 s
  | .iceqi x0 x1 x2 x3 => Sys2Proof.Machine.execIceqi x0 x1 x2 x3 s
  | .iclti x0 x1 x2 x3 => Sys2Proof.Machine.execIclti x0 x1 x2 x3 s
  | .icltui x0 x1 x2 x3 => Sys2Proof.Machine.execIcltui x0 x1 x2 x3 s
  | .movk x0 x1 x2 => Sys2Proof.Machine.execMovk x0 x1 x2 s
  | .movkh x0 x1 x2 => Sys2Proof.Machine.execMovkh x0 x1 x2 s
  | .prom x0 x1 x2 x3 x4 x5 x6 => Sys2Proof.Machine.execProm x0 x1 x2 x3 x4 x5 x6 s
  | .demu x0 x1 x2 x3 x4 => Sys2Proof.Machine.execDemu x0 x1 x2 x3 x4 s
  | .uniq x0 x1 x2 x3 x4 x5 => Sys2Proof.Machine.execUniq x0 x1 x2 x3 x4 x5 s
  | .sete x0 x1 x2 => Sys2Proof.Machine.execSete x0 x1 x2 s
  | .fadd x0 x1 x2 x3 x4 x5 => Sys2Proof.Machine.execFadd x0 x1 x2 x3 x4 x5 s
  | .fsub x0 x1 x2 x3 x4 x5 => Sys2Proof.Machine.execFsub x0 x1 x2 x3 x4 x5 s
  | .fmul x0 x1 x2 x3 x4 x5 => Sys2Proof.Machine.execFmul x0 x1 x2 x3 x4 x5 s
  | .ffma x0 x1 x2 x3 x4 x5 x6 => Sys2Proof.Machine.execFfma x0 x1 x2 x3 x4 x5 x6 s
  | .fmin x0 x1 x2 x3 x4 x5 => Sys2Proof.Machine.execFmin x0 x1 x2 x3 x4 x5 s
  | .fmax x0 x1 x2 x3 x4 x5 => Sys2Proof.Machine.execFmax x0 x1 x2 x3 x4 x5 s
  | .frcp x0 x1 x2 x3 => Sys2Proof.Machine.execFrcp x0 x1 x2 x3 s
  | .frsq x0 x1 x2 x3 => Sys2Proof.Machine.execFrsq x0 x1 x2 x3 s
  | .fsqrt x0 x1 x2 x3 => Sys2Proof.Machine.execFsqrt x0 x1 x2 x3 s
  | .fexp2 x0 x1 x2 x3 => Sys2Proof.Machine.execFexp2 x0 x1 x2 x3 s
  | .flog2 x0 x1 x2 x3 => Sys2Proof.Machine.execFlog2 x0 x1 x2 x3 s
  | .fceq x0 x1 x2 x3 x4 x5 => Sys2Proof.Machine.execFceq x0 x1 x2 x3 x4 x5 s
  | .fclt x0 x1 x2 x3 x4 x5 => Sys2Proof.Machine.execFclt x0 x1 x2 x3 x4 x5 s
  | .fcle x0 x1 x2 x3 x4 x5 => Sys2Proof.Machine.execFcle x0 x1 x2 x3 x4 x5 s
  | .fclass x0 x1 x2 x3 => Sys2Proof.Machine.execFclass x0 x1 x2 x3 s
  | .frnd x0 x1 x2 x3 x4 x5 => Sys2Proof.Machine.execFrnd x0 x1 x2 x3 x4 x5 s
  | .cvtfi x0 x1 x2 x3 x4 x5 x6 => Sys2Proof.Machine.execCvtfi x0 x1 x2 x3 x4 x5 x6 s
  | .cvtif x0 x1 x2 x3 x4 => Sys2Proof.Machine.execCvtif x0 x1 x2 x3 x4 s
  | .cvtn x0 x1 x2 x3 x4 x5 => Sys2Proof.Machine.execCvtn x0 x1 x2 x3 x4 x5 s
  | .cvtw x0 x1 x2 x3 x4 x5 => Sys2Proof.Machine.execCvtw x0 x1 x2 x3 x4 x5 s
  | .cvth x0 x1 x2 x3 x4 x5 x6 => Sys2Proof.Machine.execCvth x0 x1 x2 x3 x4 x5 x6 s
  | .setfmt x0 x1 x2 => Sys2Proof.Machine.execSetfmt x0 x1 x2 s
  | .getfmt x0 x1 => Sys2Proof.Machine.execGetfmt x0 x1 s
  | .rand x0 x1 x2 x3 x4 x5 x6 => Sys2Proof.Machine.execRand x0 x1 x2 x3 x4 x5 x6 s
  | .shfl x0 x1 x2 x3 x4 x5 => Sys2Proof.Machine.execShfl x0 x1 x2 x3 x4 x5 s
  | .shup x0 x1 x2 x3 x4 x5 => Sys2Proof.Machine.execShup x0 x1 x2 x3 x4 x5 s
  | .shdn x0 x1 x2 x3 x4 x5 => Sys2Proof.Machine.execShdn x0 x1 x2 x3 x4 x5 s
  | .bcast x0 x1 x2 x3 x4 x5 => Sys2Proof.Machine.execBcast x0 x1 x2 x3 x4 x5 s
  | .vany x0 x1 x2 x3 => Sys2Proof.Machine.execVany x0 x1 x2 x3 s
  | .vbal x0 x1 x2 x3 => Sys2Proof.Machine.execVbal x0 x1 x2 x3 s
  | .rdadd x0 x1 x2 x3 x4 => Sys2Proof.Machine.execRdadd x0 x1 x2 x3 x4 s
  | .rdmin x0 x1 x2 x3 x4 => Sys2Proof.Machine.execRdmin x0 x1 x2 x3 x4 s
  | .ld x0 x1 x2 x3 x4 x5 x6 => Sys2Proof.Machine.execLd x0 x1 x2 x3 x4 x5 x6 s
  | .ldsx x0 x1 x2 x3 x4 x5 x6 => Sys2Proof.Machine.execLdsx x0 x1 x2 x3 x4 x5 x6 s
  | .st x0 x1 x2 x3 x4 x5 => Sys2Proof.Machine.execSt x0 x1 x2 x3 x4 x5 s
  | .ldsc x0 x1 x2 x3 x4 x5 => Sys2Proof.Machine.execLdsc x0 x1 x2 x3 x4 x5 s
  | .stsc x0 x1 x2 x3 x4 x5 => Sys2Proof.Machine.execStsc x0 x1 x2 x3 x4 x5 s
  | .amo x0 x1 x2 x3 x4 x5 x6 => Sys2Proof.Machine.execAmo x0 x1 x2 x3 x4 x5 x6 s
  | .amor x0 x1 x2 x3 x4 x5 x6 => Sys2Proof.Machine.execAmor x0 x1 x2 x3 x4 x5 x6 s
  | .cas x0 x1 x2 x3 x4 x5 => Sys2Proof.Machine.execCas x0 x1 x2 x3 x4 x5 s
  | .fence x0 x1 x2 => Sys2Proof.Machine.execFence x0 x1 x2 s
  | .ifence x0 => Sys2Proof.Machine.execIfence x0 s
  | .pf x0 x1 x2 x3 x4 x5 => Sys2Proof.Machine.execPf x0 x1 x2 x3 x4 x5 s
  | .l1inv x0 => Sys2Proof.Machine.execL1inv x0 s
  | .shtake x0 x1 x2 x3 => Sys2Proof.Machine.execShtake x0 x1 x2 x3 s
  | .shput x0 x1 x2 x3 => Sys2Proof.Machine.execShput x0 x1 x2 x3 s
  | .shqry x0 x1 x2 => Sys2Proof.Machine.execShqry x0 x1 x2 s
  | .waite x0 x1 x2 => Sys2Proof.Machine.execWaite x0 x1 x2 s
  | .tld x0 x1 x2 x3 x4 x5 x6 x7 => Sys2Proof.Machine.execTld x0 x1 x2 x3 x4 x5 x6 x7 s
  | .tst x0 x1 x2 x3 x4 x5 x6 x7 => Sys2Proof.Machine.execTst x0 x1 x2 x3 x4 x5 x6 x7 s
  | .tmov x0 x1 x2 x3 x4 x5 x6 x7 => Sys2Proof.Machine.execTmov x0 x1 x2 x3 x4 x5 x6 x7 s
  | .zclr x0 x1 x2 => Sys2Proof.Machine.execZclr x0 x1 x2 s
  | .zrd x0 x1 x2 x3 x4 x5 x6 => Sys2Proof.Machine.execZrd x0 x1 x2 x3 x4 x5 x6 s
  | .zxf x0 x1 x2 x3 x4 => Sys2Proof.Machine.execZxf x0 x1 x2 x3 x4 s
  | .mma x0 x1 x2 x3 x4 x5 x6 => Sys2Proof.Machine.execMma x0 x1 x2 x3 x4 x5 x6 s
  | .mmas x0 x1 x2 x3 x4 x5 x6 x7 => Sys2Proof.Machine.execMmas x0 x1 x2 x3 x4 x5 x6 x7 s
  | .matrixKStep x0 x1 => Sys2Proof.Machine.execMatrixKStep x0 x1 s
  | .sld x0 x1 x2 x3 x4 x5 x6 => Sys2Proof.Machine.execSld x0 x1 x2 x3 x4 x5 x6 s
  | .sst x0 x1 x2 x3 x4 x5 x6 => Sys2Proof.Machine.execSst x0 x1 x2 x3 x4 x5 x6 s
  | .scur x0 x1 x2 x3 x4 x5 => Sys2Proof.Machine.execScur x0 x1 x2 x3 x4 x5 s
  | .snxt x0 x1 x2 x3 x4 x5 => Sys2Proof.Machine.execSnxt x0 x1 x2 x3 x4 x5 s
  | .sisx x0 x1 x2 x3 x4 x5 => Sys2Proof.Machine.execSisx x0 x1 x2 x3 x4 x5 s
  | .singleKeyOperation x0 => Sys2Proof.Machine.execSingleKeyOperation x0 s
  | .engStk x0 x1 x2 x3 => Sys2Proof.Machine.execEngStk x0 x1 x2 x3 s
  | .engCpy x0 x1 x2 x3 => Sys2Proof.Machine.execEngCpy x0 x1 x2 x3 s
  | .engDense x0 x1 x2 x3 => Sys2Proof.Machine.execEngDense x0 x1 x2 x3 s
  | .engSpar x0 x1 x2 x3 => Sys2Proof.Machine.execEngSpar x0 x1 x2 x3 s
  | .engDsp x0 x1 x2 => Sys2Proof.Machine.execEngDsp x0 x1 x2 s
  | .engCmb x0 x1 x2 x3 => Sys2Proof.Machine.execEngCmb x0 x1 x2 x3 s
  | .engQapp x0 x1 x2 x3 => Sys2Proof.Machine.execEngQapp x0 x1 x2 x3 s
  | .engGcond x0 x1 x2 x3 => Sys2Proof.Machine.execEngGcond x0 x1 x2 x3 s
  | .engLvlw x0 x1 x2 x3 => Sys2Proof.Machine.execEngLvlw x0 x1 x2 x3 s
  | .engCancel x0 x1 x2 x3 => Sys2Proof.Machine.execEngCancel x0 x1 x2 x3 s
  | .engHash x0 x1 x2 => Sys2Proof.Machine.execEngHash x0 x1 x2 s
  | .engKgrow x0 x1 x2 x3 => Sys2Proof.Machine.execEngKgrow x0 x1 x2 x3 s
  | .engineShoePublish x0 => Sys2Proof.Machine.execEngineShoePublish x0 s
  | .ticketFill x0 => Sys2Proof.Machine.execTicketFill x0 s
  | .barArrive x0 x1 x2 x3 => Sys2Proof.Machine.execBarArrive x0 x1 x2 x3 s
  | .barWait x0 x1 x2 => Sys2Proof.Machine.execBarWait x0 x1 x2 s
  | .barSync x0 x1 x2 => Sys2Proof.Machine.execBarSync x0 x1 x2 s
  | .barSyncCompletion x0 => Sys2Proof.Machine.execBarSyncCompletion x0 s
  | .sysRdsr x0 x1 x2 x3 => Sys2Proof.Machine.execSysRdsr x0 x1 x2 x3 s
  | .sysWrsr x0 x1 x2 x3 => Sys2Proof.Machine.execSysWrsr x0 x1 x2 x3 s
  | .shoeConfigure x0 x1 x2 => Sys2Proof.Machine.execShoeConfigure x0 x1 x2 s
  | .sysHalt x0 => Sys2Proof.Machine.execSysHalt x0 s
  | .producerWrite x0 x1 => Sys2Proof.Machine.execProducerWrite x0 x1 s
  | .mergeStep x0 x1 => Sys2Proof.Machine.execMergeStep x0 x1 s
  | .shoeTakeServe x0 x1 x2 => Sys2Proof.Machine.execShoeTakeServe x0 x1 x2 s
  | .runIssue x0 => Sys2Proof.Machine.execRunIssue x0 s
  | .squadDemotion x0 => Sys2Proof.Machine.execSquadDemotion x0 s
  | .squadPromotion x0 => Sys2Proof.Machine.execSquadPromotion x0 s
  | .squadRetirement x0 => Sys2Proof.Machine.execSquadRetirement x0 s
  | .squadStop x0 => Sys2Proof.Machine.execSquadStop x0 s
  | .powerTokenPass x0 x1 => Sys2Proof.Machine.execPowerTokenPass x0 x1 s
  | .subarrayPowerGate x0 x1 => Sys2Proof.Machine.execSubarrayPowerGate x0 x1 s
  | .subarrayWake x0 x1 => Sys2Proof.Machine.execSubarrayWake x0 x1 s
  | .queueRecordTake x0 x1 => Sys2Proof.Machine.execQueueRecordTake x0 x1 s
  | .kernelNodeFire x0 x1 => Sys2Proof.Machine.execKernelNodeFire x0 x1 s
  | .recordNodeFire x0 x1 => Sys2Proof.Machine.execRecordNodeFire x0 x1 s
  | .recordNodeTimeout x0 x1 => Sys2Proof.Machine.execRecordNodeTimeout x0 x1 s
  | .conditionalNodeFire x0 x1 => Sys2Proof.Machine.execConditionalNodeFire x0 x1 s
  | .whileNodeFire x0 x1 => Sys2Proof.Machine.execWhileNodeFire x0 x1 s
  | .launchStart x0 => Sys2Proof.Machine.execLaunchStart x0 s
  | .teamStart x0 => Sys2Proof.Machine.execTeamStart x0 s
  | .launchCompletion x0 => Sys2Proof.Machine.execLaunchCompletion x0 s
  | .jobCompletion x0 => Sys2Proof.Machine.execJobCompletion x0 s
  | .graphRegistration x0 x1 x2 x3 => Sys2Proof.Machine.execGraphRegistration x0 x1 x2 x3 s
  | .preemptionRequest x0 x1 => Sys2Proof.Machine.execPreemptionRequest x0 x1 s
  | .drainLimitExpiry x0 => Sys2Proof.Machine.execDrainLimitExpiry x0 s
  | .teamContextSave x0 => Sys2Proof.Machine.execTeamContextSave x0 s
  | .teamResume x0 x1 => Sys2Proof.Machine.execTeamResume x0 x1 s
  | .pageWalk x0 x1 x2 => Sys2Proof.Machine.execPageWalk x0 x1 x2 s
  | .shootDown x0 x1 x2 => Sys2Proof.Machine.execShootDown x0 x1 x2 s
  | .promotion x0 x1 x2 => Sys2Proof.Machine.execPromotion x0 x1 x2 s
  | .migrationRequest x0 x1 x2 => Sys2Proof.Machine.execMigrationRequest x0 x1 x2 s
  | .migrationCompletion x0 x1 => Sys2Proof.Machine.execMigrationCompletion x0 x1 s
  | .hostMemoryAccess x0 x1 => Sys2Proof.Machine.execHostMemoryAccess x0 x1 s
  | .peerAccess x0 x1 x2 => Sys2Proof.Machine.execPeerAccess x0 x1 x2 s
  | .linkPortDown x0 => Sys2Proof.Machine.execLinkPortDown x0 s
  | .throttle x0 x1 x2 => Sys2Proof.Machine.execThrottle x0 x1 x2 s
  | .reset => Sys2Proof.Machine.execReset s
  | .firmwareReady => Sys2Proof.Machine.execFirmwareReady s
  | .attestationReport x0 => Sys2Proof.Machine.execAttestationReport x0 s
  | .bootstRead => Sys2Proof.Machine.execBootstRead s
  | .notificationRingSetup x0 x1 => Sys2Proof.Machine.execNotificationRingSetup x0 x1 s
  | .mgmtRegisterWrite x0 x1 => Sys2Proof.Machine.execMgmtRegisterWrite x0 x1 s
  | .coreCounterClear x0 => Sys2Proof.Machine.execCoreCounterClear x0 s
  | .objectLoad x0 => Sys2Proof.Machine.execObjectLoad x0 s
  | .objectUnload x0 => Sys2Proof.Machine.execObjectUnload x0 s
  | .debugStop x0 => Sys2Proof.Machine.execDebugStop x0 s
  | .causalExperiment x0 => Sys2Proof.Machine.execCausalExperiment x0 s
  | .waitForGraphSample => Sys2Proof.Machine.execWaitForGraphSample s
  | .registerParityFailure x0 => Sys2Proof.Machine.execRegisterParityFailure x0 s
  | .dieL2Acceptance x0 x1 => Sys2Proof.Machine.execDieL2Acceptance x0 x1 s
  | .homeAcceptance x0 x1 => Sys2Proof.Machine.execHomeAcceptance x0 x1 s
  | .linkRetrainComplete x0 => Sys2Proof.Machine.execLinkRetrainComplete x0 s

end Sys2Proof.Machine
end

