-- ==== Sys2Proof/Machine/Chain.lean ====
section
/-! DEFINITION. Issuing the chain at a squad's position (R103 to R107). -/

namespace Sys2Proof.Machine

/-- The line that the current squad reads ahead of its loads from a place on: of memory or of scratch, which and where
is free (R196, R206). -/
def lineAhead (place : Nat) (t : State) : Ahead :=
  let pa := lineOf (Config.freeLine t.free)
  let scratch := Config.freeBit t.free .aheadScratch
  ⟨t.sq.key, place, scratch, pa, (span pa 128).map (if scratch then t.team.scratch.read else coreByte t t.core.id)⟩

/-- A load of the current squad may be performed before the squad's older loads where it does not depend on them: the
squad reads a line now, which a later load may still return once the older ones have their values (R196, R235; log 16).
At most 16 lines stand so on a core. -/
def readAhead (is : List Instr) (t : State) : State :=
  match (t.sq.prods.filter (·.kind.pendingLoad)).map (·.seq) with
  | [] => t
  | n :: r =>
    if is.any (fun i => match i with | .ld _ _ _ _ _ _ _ | .ldsx _ _ _ _ _ _ _ | .ldsc _ _ _ _ _ _ => true | _ => false)
        && !t.sq.fences.any (fun f => f.acq || f.full) then
      { t with core := { t.core with ahead := (lineAhead (r.foldl min n) t :: t.core.ahead).take 16 } }
    else t

/-- What the squad notes of the words of a chain that has issued: the loads on which its registers depend, and what it
reads ahead of its loads. A chain has issued where lclk has risen (R56). -/
def noteIssue (is : List Instr) (s t : State) : State :=
  if t.sq.lclk = s.sq.lclk then t else readAhead is (t.onSq (noteDeps is s.sq))

/-- The same of an outcome. -/
def noted (is : List Instr) (s : State) : Host.Outcome State Fault Refusal → Host.Outcome State Fault Refusal
  | .next t => .next (noteIssue is s t)
  | o => o

/-- Issue a chain of several words as one unit (R105 to R107). -/
def issueMany (ws : List Word) (s : State) : Host.Outcome State Fault Refusal :=
  let n := ws.length
  let trap := fun (k : Nat) (r : Report) => Host.Outcome.next (takeTrap r s.sq.pkt s.sq.word k n s)
  let good := ws.map goodWord
  if holdsAlone ws then
    trap 0 (chainUndefined ws 0 s)
  else match good.findIdx? (·.isNone) with
    | some k => trap k (chainUndefined ws k s)
    | none =>
      let is := good.map (·.getD default)
      match conflictAt s.sq.fmt is with
      | some k => trap k ⟨0x1A#8, BitVec.ofNat 64 k, 0#64, s.sq.em⟩
      | none =>
        match chainOuts s 0 is [] with
        | .inl (k, .trap r) => trap k r
        | .inl (_, .wait w) => .next (waitHere w s)
        | .inl (_, .hold _ w u) => .next (waitHere w (u s))
        | .inl (k, .fail u r) => .next (takeTrap r s.sq.pkt s.sq.word k n (u s))
        | .inl (_, .done _) => .next s
        | .inr us =>
          let rb := s.sq.word + n == 3 && (ws.getLastD 0#32).getLsbD 31
          let t := us.foldl (fun t u => u t) (retire n rb (is.foldl (fun t i => markPoison i t) s))
          .next (noteIssue is s (if t.sq.late.isEmpty then t else waitHere .order t))

/-- Issue the chain at the position of the current squad. A chain of one is `exec` of its word. A fetch that
faults has no chain: its report names chain word 0 of a chain of one (R140; log 25). -/
def issueChain (s : State) : Host.Outcome State Fault Refusal :=
  match fetchFault s with
  | some r => .next (takeTrap r s.sq.pkt s.sq.word 0 1 s)
  | none =>
    let t := noteFetch s.core.id s.launch.asid (packetVa s s.sq.pkt) 12 s
    match chainFrom (packetWords s) s.sq.word with
    | [w] =>
      match decode w with
      | .ok i => noted [i] t (exec i t)
      | .error _ => .next (takeTrap (undefinedReport w t) t.sq.pkt t.sq.word 0 1 t)
    | ws => issueMany ws t

/-- The current squad is in the middle of a run (R97). -/
def runsOn (s : State) : Bool := s.sq.status == .live && s.sq.running

/-- Go on with the run of the current squad: its next chain, unless a word that has begun holds it. -/
def continueRun (s : State) : Host.Outcome State Fault Refusal :=
  if s.sq.sst.any (fun r => !r.todo.isEmpty) then .next (waitHere .sst s)
  else if s.sq.syncw.isSome then .next (waitHere .barSync s)
  else if s.sq.mprog.any (·.doomed) then .next (waitHere .tile s)
  else if !s.sq.late.isEmpty then
    match doLate s with
    | some t => .next t
    | none => .next (waitHere .order s)
  else issueChain s

end Sys2Proof.Machine
end

