-- ==== Sys2Proof/Machine/Policy.lean ====
section
/-! DEFINITION. Which occurrence happens next when none is due: a default choice of the model (log 4). The
spec fixes the order of occurrences only where its ordering rules do, and each of them stands in the
precondition of the occurrence. -/

namespace Sys2Proof.Machine

/-- Boot (R396). -/
def bootEvents (s : State) : List Instr :=
  if s.part.bootst = 0#4 then [.reset] else if s.part.bootst = 2#4 then [.firmwareReady] else []

/-- Producers, merges and acceptances (R64, R231, R232). -/
def memoryEvents (s : State) : List Instr :=
  s.allSquads.flatMap (fun q => q.prods.flatMap (fun p => match p.kind with
    | .sparse _ _ _ _ (_ :: _) _ => [.singleKeyOperation (.read q.key p.seq)]
    | .take _ _ | .ticket _ => []
    | _ => [.producerWrite q.key p.seq]))
  ++ s.allSquads.flatMap (fun q => if q.storeq.isEmpty then [] else [.mergeStep (s.getTeam q.key.team).core [q.key]])
  ++ s.allSquads.flatMap (fun q => if q.sst.any (fun r => !r.todo.isEmpty) then [.singleKeyOperation (.sst q.key)] else [])
  ++ (s.core :: s.cores).flatMap (fun c => c.merged.map (fun e => .dieL2Acceptance c.id e.stamp))
  ++ s.dies.toList.flatMap (fun d => d.pend.map (fun e => .homeAcceptance d.id e.stamp))

/-- Matrix steps, with the wakes and tokens they need (R41, R280, R281). -/
def matrixEvents (s : State) : List Instr :=
  s.allSquads.flatMap (fun q => if q.mprog.isEmpty then [] else
    let c := (s.getTeam q.key.team).core
    [.matrixKStep c [q.key]]
      ++ ([0, 1, 2, 3].filter (fun i => (s.getCore c).gated.getLsbD i)).map (.subarrayWake c ·)
      ++ (s.getDie (dieOf c)).tokens.map (.powerTokenPass (dieOf c) ·))

/-- Shoes, engines and barriers (R218, R225, R259, R262, R315). -/
def unitEvents (s : State) : List Instr :=
  s.allTeams.flatMap (fun t => (List.range 16).flatMap (fun n =>
    let h := vget t.shoes n
    (if h.ctakes.isEmpty then [] else [.shoeTakeServe t.key (BitVec.ofNat 4 n) false])
      ++ (if h.ptakes.isEmpty then [] else [.shoeTakeServe t.key (BitVec.ofNat 4 n) true])))
  ++ s.cmds.flatMap (fun c => [.ticketFill c.id, .engineShoePublish c.id, .singleKeyOperation (.spar c.id)])
  ++ s.allSquads.flatMap (fun q => if q.syncw.isSome then [.barSyncCompletion q.key] else [])

/-- Stops, retirements and moves (R96, R340, R342). -/
def schedulerEvents (s : State) : List Instr :=
  s.allSquads.flatMap (fun q => match q.status with
    | .absent | .retired => []
    | .retiring => [.squadRetirement q.key, .squadStop q.key]
    | _ => [.squadStop q.key])
  ++ s.allSquads.flatMap (fun q => if q.fast || q.status != .live then [] else [.squadPromotion q.key])
  ++ s.allSquads.flatMap (fun q => if demotable s q
        && !(pendingReady s (s.getTeam q.key.team).core).isEmpty then [.squadDemotion q.key] else [])
  ++ s.allTeams.flatMap (fun t => if t.status = .preempting then [.teamContextSave ⟨t.key, true⟩] else [])

/-- The walker (R329 to R343, R352). -/
def walkerEvents (s : State) : List Instr :=
  let nodes := s.part.graphs.flatMap (fun g => (List.range g.count).map (fun n => (g.idx, n)))
  s.allLaunches.map (fun l => .launchCompletion ⟨l.lid, none⟩)
  ++ s.part.jobs.map (fun j => .jobCompletion j.id)
  ++ nodes.flatMap (fun x => [.kernelNodeFire x.1 x.2, .recordNodeFire x.1 x.2, .conditionalNodeFire x.1 x.2, .whileNodeFire x.1 x.2])
  ++ s.part.submitted.map (fun u => .launchStart ⟨u.pid, [], []⟩)
  ++ s.allTeams.flatMap (fun t => if t.status = .saved then (admissible s (s.getLaunch t.key.lid).lr).map (.teamResume t.key ·) else [])
  ++ s.allLaunches.map (fun l => .teamStart l.lid)
  ++ nodes.map (fun x => .queueRecordTake x.1 x.2)
  ++ s.part.migrations.map (fun m => .migrationCompletion m.asid m.va)

/-- Runs: the cores take turns, the one after the last in number first (R342). -/
def runEvents (s : State) : List Instr :=
  let ids := sortBy (fun (a b : Nat) => decide (a < b)) ((s.core :: s.cores).map (·.id))
  (ids.filter (fun i => decide (s.core.id < i)) ++ ids.filter (fun i => decide (i ≤ s.core.id))).map (.runIssue ·)

/-- What only time brings, when nothing else happens (R332, R349). -/
def timeEvents (s : State) : List Instr :=
  s.part.graphs.flatMap (fun g => (List.range g.count).map (fun n => .recordNodeTimeout g.idx n))
  ++ s.allTeams.flatMap (fun t => if t.status = .preempting then [.drainLimitExpiry t.key] else [])

/-- The occurrence changes something. -/
def changes (s : State) (i : Instr) : Bool :=
  match exec i s with
  | .next t => decide (t ≠ s)
  | _ => true

/-- The first occurrence, in the order above, that changes something. -/
def autoNext (s : State) : Option Instr :=
  (bootEvents s ++ memoryEvents s ++ matrixEvents s ++ unitEvents s ++ schedulerEvents s ++ walkerEvents s ++ runEvents s
    ++ timeEvents s).find? (changes s)

end Sys2Proof.Machine
end

