-- ==== Sys2Proof/Machine/Step.lean ====
section
/-! DEFINITION. One step of the machine, and the state that fetches a given word next. -/

namespace Sys2Proof.Machine

/-- Advance the index of the free values (log 3). -/
def tick : Host.Outcome State Fault Refusal → Host.Outcome State Fault Refusal
  | .next s => .next { s with free := s.free + 1 }
  | o => o

/-- One step: the occurrence due first; else the next chain of the run in progress; else what the
default policy names; else nothing happens. -/
def step (s : State) : Host.Outcome State Fault Refusal :=
  match s.agenda with
  | i :: r => if isWord i then tick (.next { s with agenda := r }) else tick (exec i { s with agenda := r })
  | [] =>
    if runsOn s then tick (continueRun s)
    else
      match autoNext s with
      | some i => tick (exec i s)
      | none => tick (.next s)

/-- Every unit present (R25). -/
def fullCaps : Caps :=
  ⟨1#16, Vector.replicate 4 (BitVec.allOnes 48), Vector.replicate 12 (BitVec.allOnes 32), BitVec.allOnes 16, 32#16⟩

/-- Page tables that map virtual page 0 to frame 0x1_0000 with R, W and X, and one packet of code there. -/
def placeWord (m : Memory) (w : Word) : Memory :=
  let m := m.put 0x2000 8 0x4001
  let m := m.put 0x4000 8 0x6001
  let m := m.put 0x6000 8 0x8001
  let m := m.put 0x8000 8 0x1010F
  m.put 0x10000 12 w.toNat

/-- The state with a word where the step fetches next: a part whose units are present, an address space
that maps one page of code, a loaded object of one suit, and a live squad of a running launch that
stands at packet 0 of that code in the middle of a run (log 5). -/
def State.withFetchWord (s : State) (_nbits w : Nat) : State :=
  let h : Hand := ⟨1#64, 0, 1, [0, 0, 0, 0, 0, 0, 0], 1⟩
  let lr : LaunchRec := { LaunchRec.empty with nsq := 1, gx := 1, gy := 1, gz := 1, leases := [(0, 65536)], dies := 1 }
  { s with
    sq := { s.sq with
      key := ⟨0, 0, 0⟩, status := .live, running := true, runPkts := [], wait := none, fast := true
      em := BitVec.allOnes 32, live := BitVec.allOnes 32, held := 0#32
      suit := 0, hand := 0, hent := h, segSlots := 1#8, pkt := 0, word := 0, sst := none, syncw := none, mprog := [] }
    team := { s.team with key := ⟨0, 0⟩, status := .running, core := 0, nsq := 1 }
    core := { Core.fresh 0 with stock := s.core.stock, z := s.core.z, ovf := s.core.ovf }
    launch := { s.launch with lid := 0, status := .running, asid := 0, lr := lr }
    obj := { s.obj with addr := 0, asid := 0, suits := [⟨0, 1, 0, 0, 2, []⟩], code := 0 }
    dies := s.dies.map (fun d => { d with pend := [], tlb := [], walkAhead := [] })
    mem := placeWord s.mem (BitVec.ofNat 32 w)
    part := { s.part with
      caps := fullCaps
      asids := ⟨0, 0x2001#64, 0#32, 1#16, false, 0#64, 0#32⟩ :: s.part.asids.filter (fun e => e.n != 0) }
    agenda := [] }

end Sys2Proof.Machine
end

