-- ==== Sys2Proof/Safety.lean ====
section
/-! DEFINITION. What claims speak of: canonical memories, a word that is ready to issue, the completion of
an instruction, and what an instruction leaves unchanged. -/

namespace Sys2Proof.Machine

/-- Every memory that the state lists is in canonical form. -/
structure State.Canonical (s : State) : Prop where
  mem : s.mem.wf = true
  scratch : s.team.scratch.wf = true
  stock : s.core.stock.wf = true
  teams : ∀ t ∈ s.teams, t.scratch.wf = true
  cores : ∀ c ∈ s.cores, c.stock.wf = true

/-- Nothing keeps a word from issuing (R62 to R69): it is well formed, its class write is uniform under a full
segment, its sources are full and not interlocked, no producer is pending on its destinations, and no register word is bad. -/
structure ReadyFor (i : Instr) (s : State) : Prop where
  wf : i.wf = true
  uniform : (usage s.sq.fmt i).part = none ∨ s.sq.em = s.sq.live
  sources : ∀ x ∈ (usage s.sq.fmt i).srcs, s.sq.settled x.1 = true
  dests : ∀ o ∈ (usage s.sq.fmt i).dst, s.sq.settled o = true ∨ s.sq.pendingOn o = none
  parity : s.sq.uncorr = []
  poison : s.sq.poison = []

/-- The instruction runs: `exec` answers a next state, and `P` holds of it. -/
def Completes (i : Instr) (s : State) (P : State → Prop) : Prop := ∃ t, exec i s = .next t ∧ P t

/-- The chain of one word at the position has retired (R56): lclk counts it, and the position moves past it. -/
structure Retired (s t : State) : Prop where
  lclk : t.sq.lclk = s.sq.lclk + 1#64
  next : (t.sq.pkt, t.sq.word) = if 2 ≤ s.sq.word then (s.sq.pkt + 1, 0) else (s.sq.pkt, s.sq.word + 1)

/-- Every register outside `ds` holds its value in every lane and its F/E bit. -/
def RegsKept (ds : List Opnd) (s t : State) : Prop :=
  ∀ o : Opnd, o.isReg = true → o ∉ ds → (∀ l, val t o l = val s o l) ∧ t.sq.isFull o = s.sq.isFull o

/-- Every byte of memory, of the team's scratch and of the core's stock reads as before. -/
def BytesKept (s t : State) : Prop :=
  (∀ a, t.mem.read a = s.mem.read a) ∧ (∀ a, t.team.scratch.read a = s.team.scratch.read a)
    ∧ (∀ a, t.core.stock.read a = s.core.stock.read a)

/-- A word that only writes registers: it retires; outside `ds` every register and F/E bit is kept; the
tiles, the masks, the frames, the format word, the trap registers, the counters, the queues and everything
outside the squad (team, core, launch, other squads, memory, part) are as before. -/
structure OnlyRegs (ds : List Opnd) (s t : State) : Prop where
  outside : t = { s with sq := t.sq }
  squad : t.sq = { s.sq with
    v := t.sq.v, s := t.sq.s, abase := t.sq.abase, astride := t.sq.astride, p := t.sq.p
    fev := t.sq.fev, fes := t.sq.fes, fea := t.sq.fea, fep := t.sq.fep
    lclk := t.sq.lclk, wait := t.sq.wait, pkt := t.sq.pkt, word := t.sq.word
    running := t.sq.running, runPkts := t.sq.runPkts }
  retired : Retired s t
  regs : RegsKept ds s t
  bytes : BytesKept s t

/-- What a destination of class V holds after a 32-bit result: a p register takes bit 0 (R53, R146). -/
def held32 (d : Opnd) (x : Word) : DWord := if d.isP then (x.extractLsb' 0 1).setWidth 64 else x.setWidth 64

/-- D takes `f l` in every active lane and keeps the others; it is full unless no lane is active (R127, R146). -/
def LaneResult (d : Opnd) (f : Nat → Word) (s t : State) : Prop :=
  (∀ l, l < 32 → val t d l = if s.sq.em.getLsbD l then held32 d (f l) else val s d l)
    ∧ t.sq.isFull d = (s.sq.em != 0#32 || s.sq.isFull d)

/-- The pair of D takes `f l` in every active lane and keeps the others (R9). -/
def PairResult (d : Opnd) (f : Nat → DWord) (s t : State) : Prop :=
  (∀ l, l < 32 → val64 t d l = if s.sq.em.getLsbD l then f l else val64 s d l)
    ∧ ∀ o ∈ d.pair, t.sq.isFull o = (s.sq.em != 0#32 || s.sq.isFull o)

/-- D takes one value and is full. -/
def UniResult (d : Opnd) (x : DWord) (t : State) : Prop := uval t d = x ∧ t.sq.isFull d = true

/-- D takes a base and a stride, and is full (R52). -/
def AffResult (d : Opnd) (b st : DWord) (t : State) : Prop :=
  affine t d = (b, st) ∧ t.sq.isFull d = true

/-- A result of class U or V, 64 bits once or 32 bits in each active lane (R146). -/
def Result (d : Opnd) (u : DWord) (f : Nat → Word) (s t : State) : Prop :=
  if d.isS then UniResult d u t else LaneResult d f s t

/-! ## Shapes of words -/

/-- The word ends in a trap with this report, raised by the chain of one word at the position (R140). -/
def Traps (i : Instr) (s : State) (r : Report) : Prop :=
  exec i s = .next (takeTrap r s.sq.pkt s.sq.word 0 1 s)

/-- The lanes of EM for which `bad` holds fault: TLANES names exactly those, and TINFO0 the lowest of them
(R8, Table 10-6). -/
def LaneTrap (cause : BitVec 8) (bad : Nat → Prop) (info1 : Nat → DWord) (i : Instr) (s : State) : Prop :=
  ∃ l m, s.sq.em.getLsbD l = true ∧ bad l ∧ (∀ k, k < l → ¬ (s.sq.em.getLsbD k = true ∧ bad k))
    ∧ (∀ k, k < 32 → (m.getLsbD k = true ↔ s.sq.em.getLsbD k = true ∧ bad k))
    ∧ Traps i s ⟨cause, BitVec.ofNat 64 l, info1 l, m⟩

/-- The one value of a uniform join faults: TLANES is EM (R140). -/
def UniTrap (cause : BitVec 8) (info1 : DWord) (i : Instr) (s : State) : Prop :=
  Traps i s ⟨cause, BitVec.ofNat 64 (lowest s.sq.em), info1, s.sq.em⟩

/-- A word of two sources whose destination is of class U or V: where `ok` holds of its operands, its result is
`op` of them, at 64 bits once or at 32 bits in each active lane (R146). -/
def TwoSource (ok : Opnd → Opnd → Opnd → State → Prop) (op : (w : Nat) → BitVec w → BitVec w → BitVec w)
    (i : Opnd → Opnd → Opnd → Instr) : Prop :=
  ∀ d a b s, d.isA = false → ok d a b s → ReadyFor (i d a b) s → Completes (i d a b) s fun t =>
    OnlyRegs [d] s t
      ∧ Result d (op 64 (uval s a) (uval s b)) (fun l => op 32 (val32 s a l) (val32 s b l)) s t

/-- As `TwoSource`, for a word that also reads its destination. -/
def ThreeSource (ok : Opnd → Opnd → Opnd → State → Prop) (op : (w : Nat) → BitVec w → BitVec w → BitVec w → BitVec w)
    (i : Opnd → Opnd → Opnd → Instr) : Prop :=
  ∀ d a b s, d.isA = false → ok d a b s → ReadyFor (i d a b) s → Completes (i d a b) s fun t =>
    OnlyRegs [d] s t
      ∧ Result d (op 64 (uval s d) (uval s a) (uval s b))
          (fun l => op 32 (val32 s d l) (val32 s a l) (val32 s b l)) s t

/-- A word whose destination is affine: where `ok` holds, its base and stride are `f` of those of its sources
(R52, R59). -/
def Affine (ok : Opnd → Opnd → Opnd → State → Prop) (f : DWord × DWord → DWord × DWord → DWord × DWord)
    (i : Opnd → Opnd → Opnd → Instr) : Prop :=
  ∀ d a b s, d.isA = true → ok d a b s → ReadyFor (i d a b) s → Completes (i d a b) s fun t =>
    OnlyRegs [d] s t ∧ AffResult d (f (affine s a) (affine s b)).1 (f (affine s a) (affine s b)).2 t

/-- No condition on the operands. -/
def anyOperands (_ _ _ : Opnd) (_ : State) : Prop := True

/-- Only registers change, and a result of 32 bits in every class goes to D: once, zero-extended, for a uniform
destination, and else to each active lane (R170). -/
def Result32 (d : Opnd) (f : Nat → Word) (s t : State) : Prop :=
  OnlyRegs [d] s t ∧ Result d ((f 0).setWidth 64) f s t

/-- The true value fits in a signed number of `w` bits. -/
def Fits (w : Nat) (x : Int) : Prop := -(2 ^ (w - 1)) ≤ x ∧ x < 2 ^ (w - 1)

/-- The true value `tv` that a checked word must represent in a lane (R60, R150). -/
def FitsIn (tv : Nat → Int → Int → Int) (d a b : Opnd) (s : State) (l : Nat) : Prop :=
  if d.isA then Fits 64 (tv 64 (val s a l).toInt (val s b l).toInt)
  else Fits 32 (tv 32 (val32 s a l).toInt (val32 s b l).toInt)

/-- Every true value of a checked word fits. -/
def InRange (tv : Nat → Int → Int → Int) (d a b : Opnd) (s : State) : Prop :=
  if d.isS then Fits 64 (tv 64 (uval s a).toInt (uval s b).toInt)
  else ∀ l, s.sq.em.getLsbD l = true → FitsIn tv d a b s l

/-- A checked word that overflows takes the trap of cause 0x03 and writes nothing (R60, R150). -/
def OverflowTraps (tv : Nat → Int → Int → Int) (i : Opnd → Opnd → Opnd → Instr) : Prop :=
  ∀ d a b s, ¬ InRange tv d a b s → ReadyFor (i d a b) s →
    if d.isS then UniTrap 0x03#8 0#64 (i d a b) s
    else LaneTrap 0x03#8 (fun l => ¬ FitsIn tv d a b s l) (fun _ => 0#64) (i d a b) s

/-- The word has issued and changed no register: only lclk, the position and the run have moved on. -/
def Issued (s r : State) : Prop := OnlyRegs [] s r

/-- What an issued chain leaves beside its words' effects: from which loads the registers' values come, and a line that
the squad may read ahead (R196, R235; log 16). -/
def Noted (t u : State) : Prop :=
  ∃ deps control ahead, u = { t with
    sq := { t.sq with deps := deps, control := control }, core := { t.core with ahead := ahead } }

/-- `l` is the lowest lane of a mask. -/
def IsLowest (m : Mask) (l : Nat) : Prop := m.getLsbD l = true ∧ ∀ k, k < l → m.getLsbD k = false

/-- No lane that the word computes becomes NaN while none of its sources is, or NaN does not trap (R49). -/
def NoNewNaN (d : Opnd) (srcs : List Opnd) (f : Nat → Word) (s : State) : Prop :=
  fmtNT s.sq.fmt = true → ∀ l, (if d.isS then l = 0 else s.sq.em.getLsbD l = true) →
    isNaN32 (f l) = true → ∃ o ∈ srcs, isNaN32 (val32 s o l) = true

/-- A float word: its result where no new NaN traps, and the trap of cause 0x0C where one does (R49, R172). -/
def FloatWord (i : Instr) (d : Opnd) (srcs : List Opnd) (f : State → Nat → Word) : Prop :=
  ∀ s, ReadyFor i s →
    (NoNewNaN d srcs (f s) s → Completes i s (Result32 d (f s) s))
    ∧ (¬ NoNewNaN d srcs (f s) s →
        if d.isS then UniTrap 0x0C#8 0#64 i s
        else LaneTrap 0x0C#8 (fun l => isNaN32 (f s l) = true ∧ ∀ o ∈ srcs, isNaN32 (val32 s o l) = false) (fun _ => 0#64) i s)

/-- The register that lane `l` indexes from `v base`, as its index word says (R71). -/
def indexOf (b : Opnd) (s : State) (l : Nat) : Nat := ((val32 s b l).extractLsb' 0 8).toNat

/-- The index word of lane `l` lies inside its bounds (R71, R167). -/
def IndexFits (base : Nat) (b : Opnd) (s : State) (l : Nat) : Prop :=
  (val32 s b l).extractLsb' 16 16 = 0#16 ∧ indexOf b s l < ((val32 s b l).extractLsb' 8 8).toNat ∧ base + indexOf b s l ≤ 63

/-- No divisor that the word uses is 0 (R159). -/
def NonZero (d _a b : Opnd) (s : State) : Prop :=
  if d.isS then uval s b ≠ 0#64 else ∀ l, s.sq.em.getLsbD l = true → val32 s b l ≠ 0#32

/-- POS + LEN of a field descriptor (R158). -/
def fieldEnd {w : Nat} (y : BitVec w) : Nat := (y.extractLsb' 0 6).toNat + (y.extractLsb' 8 6).toNat

/-- Every field that the word uses lies inside the width (R158). -/
def FieldsFit (d _a b : Opnd) (s : State) : Prop :=
  if d.isS then fieldEnd (uval s b) ≤ 64 else ∀ l, s.sq.em.getLsbD l = true → fieldEnd (val32 s b l) ≤ 32

/-! ## Memory words -/

/-- The byte that a list of cells gives an address: that of the last one. -/
def lastCell : List (Nat × Byte) → Nat → Option Byte
  | [], _ => none
  | (k, b) :: r, a => (lastCell r a).or (if k = a then some b else none)

/-- `bytes` of memory hold what the cells say, and every other byte reads as before. -/
def Stored (cells : List (Nat × Byte)) (m m' : Memory) : Prop :=
  ∀ a, m'.read a = (lastCell cells a).getD (m.read a)

/-- The byte is none of the notification ring's (R389), by the names that the ring's addresses have (R392). -/
def OutsideRing (s : State) (a : Nat) : Prop :=
  ∀ p, s.part.nqbase.toNat ≤ p → p < s.part.nqbase.toNat + 32 * s.part.nqsize.toNat → canon s p ≠ a

/-- What the counting of accesses may do (R360): page counts of the dies, and a notification record for a page that
reaches its threshold. No byte of memory outside the ring changes. -/
structure Counted (r t : State) : Prop where
  outside : t = { r with dies := t.dies, mem := t.mem, part := t.part }
  part : t.part = { r.part with
    held := t.part.held, nqdrop := t.part.nqdrop, nqtail := t.part.nqtail, dirty := t.part.dirty }
  memory : r.mem.wf = true → ∀ a, OutsideRing r a → t.mem.read a = r.mem.read a
  canonical : r.mem.wf = true → t.mem.wf = true

/-- A word that waits for a value has begun: its destinations are empty, one producer is pending on them under the
squad's next sequence number, every register holds its value, and no memory byte outside the ring has changed. The
address depends on no load from place `dep` of program order on. -/
def BegunFrom (dep : Nat) (kind : ProdKind) (regs : List Opnd) (s t : State) : Prop :=
  ∃ r, Issued s r ∧ Counted (addLoad dep kind regs r) t
    ∧ (∀ o ∈ regs, o.isReg = true → t.sq.isFull o = false) ∧ (∀ o, o ∉ regs → t.sq.isFull o = s.sq.isFull o)
    ∧ (∀ o, o.isReg = true → ∀ l, val t o l = val s o l)
    ∧ t.sq.prods = s.sq.prods ++ [⟨s.sq.seq, kind, regs, [], dep⟩]

/-- The same of a word that is no load. -/
def Begun (kind : ProdKind) (regs : List Opnd) (s t : State) : Prop := BegunFrom 0 kind regs s t

/-- One check of R199: what fails it, by address, and the report of the lowest lane that does, by lane and address. -/
structure Check where
  cause : BitVec 8
  bad : Nat → Prop
  info0 : Nat → Nat → DWord
  info1 : Nat → Nat → DWord

/-- The word traps by the first check of a list that an access fails, with the lowest lane that fails it; TLANES names
the lanes that fail it, or EM for the one access of a uniform word (R140, R199). -/
def TrapsFirst (i : Instr) (s : State) (uni : Bool) (addr : Nat → Nat) (checks : List Check) : Prop :=
  let lane := fun l => if uni then IsLowest s.sq.em l else s.sq.em.getLsbD l = true
  ∀ pre c post l m, checks = pre ++ c :: post → (∀ x ∈ pre, ∀ k, lane k → ¬ x.bad (addr k)) → lane l → c.bad (addr l) →
    (∀ k, k < l → lane k → ¬ c.bad (addr k)) →
    (∀ k, k < 32 → (m.getLsbD k = true ↔ s.sq.em.getLsbD k = true ∧ (uni = true ∨ c.bad (addr k)))) →
    Traps i s ⟨c.cause, c.info0 l (addr l), c.info1 l (addr l), m⟩

/-- No access of the word fails a check. -/
def PassesAll (s : State) (uni : Bool) (addr : Nat → Nat) (checks : List Check) : Prop :=
  ∀ c ∈ checks, ∀ l, (if uni then IsLowest s.sq.em l else s.sq.em.getLsbD l = true) → ¬ c.bad (addr l)

/-- The page of an address lacks what an access needs: no leaf, no R or W, or a link port that is down (R356, R393). -/
def Lacks (s : State) (k : AccKind) (va : Nat) : Prop :=
  match translate s s.core.id s.launch.asid va with
  | none => True
  | some l => (k ≠ .write ∧ leafR l.1 = false) ∨ (k ≠ .read ∧ leafW l.1 = false)
      ∨ ∃ p, peerPort s (physOf l va) = some p ∧ portUp s p = false

/-- KIND of a failed permission: an atomic reports a read where the page has no R (R199). -/
def lacksKind (s : State) (k : AccKind) (va : Nat) : DWord :=
  match translate s s.core.id s.launch.asid va with
  | none => if k = .write then 1#64 else 0#64
  | some l => if k = .read ∨ (k = .atomic ∧ leafR l.1 = false) then 0#64 else 1#64

/-- The checks of R199 for an access of `n` bytes to memory, in order: alignment, bits [63:56], lease, permission, range lock. -/
def memoryChecks (s : State) (k : AccKind) (n : Nat) : List Check :=
  let kind : DWord := if k = .read then 0#64 else 1#64
  let lock := fun va => lockHit s s.core.id s.team.key s.launch.asid 0 k va n
  [⟨0x0B#8, fun va => va % n ≠ 0, fun _ va => BitVec.ofNat 64 va, fun _ _ => BitVec.ofNat 64 n⟩,
   ⟨0x0A#8, fun va => 2 ^ 56 ≤ va, fun _ va => BitVec.ofNat 64 va, fun _ _ => kind⟩,
   ⟨0x09#8, fun va => ∃ j, j < n ∧ ∀ r ∈ s.launch.lr.leases, va + j < r.1 ∨ r.1 + r.2 ≤ va + j,
     fun _ va => BitVec.ofNat 64 va, fun _ _ => kind⟩,
   ⟨0x0A#8, Lacks s k, fun _ va => BitVec.ofNat 64 va, fun _ va => lacksKind s k va⟩,
   ⟨0x08#8, fun va => lock va ≠ none, fun _ va => BitVec.ofNat 64 va,
     fun _ va => BitVec.ofNat 64 (((lock va).map (·.entry)).getD 0)⟩]

/-- The checks of R199 for scratch: alignment, the end of the allocation, range lock. -/
def teamScratchChecks (s : State) (k : AccKind) (n : Nat) : List Check :=
  let lock := fun va => lockHit s s.core.id s.team.key s.launch.asid 1 k va n
  [⟨0x0B#8, fun va => va % n ≠ 0, fun _ va => BitVec.ofNat 64 va, fun _ _ => BitVec.ofNat 64 n⟩,
   ⟨0x12#8, fun va => s.team.scr < va + n, fun l _ => BitVec.ofNat 64 l, fun _ va => BitVec.ofNat 64 va⟩,
   ⟨0x08#8, fun va => lock va ≠ none, fun _ va => BitVec.ofNat 64 va,
     fun _ va => BitVec.ofNat 64 (((lock va).map (·.entry)).getD 0)⟩]

/-- The bytes of a squad's queued stores before a place of program order, oldest first, at their physical addresses. -/
def queuedCells (s : State) (q : Squad) (core asid seq : Nat) : List (Nat × Byte) :=
  (q.storeq.filter (fun e => decide (e.seq < seq))).flatMap (fun e => match e.kind with
    | .store cells => cells.filterMap (fun c => (phys s core asid c.1).map (·, c.2))
    | _ => [])

/-- The bytes of a squad's queued stores to scratch before a place of its program order, oldest first (R206). -/
def queuedScratch (q : Squad) (seq : Nat) : List (Nat × Byte) :=
  (q.storeq.filter (fun e => decide (e.seq < seq))).flatMap (fun e => match e.kind with
    | .scratch cells => cells
    | _ => [])

/-- A byte of team scratch that a load of the current squad at place `seq` may take: the youngest of its own queued stores
before it, else the scratch's own or one that the squad read ahead of loads on which the address does not depend
(R196, R202, R203). -/
def ScratchByteRead (s : State) (seq dep a : Nat) (x : Option Byte) : Prop :=
  let own := lastCell (queuedScratch s.sq seq) a
  x = some (own.getD (s.team.scratch.read a))
    ∨ (own = none ∧ ∃ r ∈ s.core.ahead, r.k = s.sq.key ∧ r.scratch = true ∧ dep ≤ r.place ∧ r.pa = lineOf a ∧ x = r.bytes[a % 128]?)

/-- The bytes on their way behind the store queues of a core, oldest first: pending at its die, then merged (R227, R231). -/
def cellsOnWay (s : State) (core : Nat) : List (Nat × Byte) :=
  (s.getDie (dieOf core)).pend.flatMap (·.cells) ++ (s.getCore core).merged.flatMap (·.cells)

/-- Op(old, x) of Table 9-7, for the operations that a width has (R209). -/
def operates (opn : Nat) (w : Nat) (old x new : BitVec w) : Prop :=
  match opn with
  | 0 => new = BitVec.ofNat w (old.toNat + x.toNat)
  | 1 => new = old &&& x
  | 2 => new = old ||| x
  | 3 => new = old ^^^ x
  | 4 => new = if x.toInt < old.toInt then x else old
  | 5 => new = if old.toInt < x.toInt then x else old
  | 6 => new = if x.toNat < old.toNat then x else old
  | 7 => new = if old.toNat < x.toNat then x else old
  | 8 => new = x
  | 9 => new.toNat = (roundFp32 ((num32 (old.setWidth 32)).add (num32 (x.setWidth 32)))).toNat
  | 10 => new.toNat = (fmin (old.setWidth 32) (x.setWidth 32)).toNat
  | 11 => new.toNat = (fmax (old.setWidth 32) (x.setWidth 32)).toNat
  | _ => False

/-! ## Tile and matrix words -/

/-- Words of tile t`n` take the listed values (row, word, value); its other words and the other tiles are kept. -/
def TileWords (n : Nat) (ws : List (Nat × Nat × Word)) (q r : Squad) : Prop :=
  (∀ k, k ≠ n → vget r.t k = vget q.t k)
    ∧ ∀ i w, i < 32 → w < 16 →
      r.tword n i w = ((ws.find? (fun x => x.1 == i && x.2.1 == w)).map (·.2.2)).getD (q.tword n i w)

/-- Where a TMOV or a transfer of one word for each lane finds lane `l`'s word: a column takes one word of each row,
a row one lane for each word (R285, R289). -/
def cellOf (col : Bool) (n l : Nat) : Nat × Nat := if col then (l, n) else (n, l)

/-! ## Shoes and barriers -/

/-- The shoe that a word's operand names, where it is one of the team's and configured (R217, R221). -/
def namesShoe (x : DWord) (n : Fin 16) (s : State) : Prop :=
  x = BitVec.ofNat 64 n.val ∧ s.team.shoeMask.getLsbD n.val = true ∧ (vget s.team.shoes n.val).nslot ≠ 0

/-- A command in flight names shoe `n` of a team as its destination: a CPY into the issuing team's shoe, or a DSP one of
whose list entries names that shoe on the team's core (R217, R259, R260). -/
def CommandNames (s : State) (tm : Team) (n : Nat) (c : Cmd) : Prop :=
  (c.fn = 1 ∧ c.tr.dkind = 3 ∧ c.k.team = tm.key ∧ (c.sb.extractLsb' 0 4).toNat = n)
  ∨ (c.fn = 4 ∧ ∃ j, j < c.tr.box.getD 1 1 ∧
      let e := ofBytes ((span (c.tr.aux.toNat + 8 * j) 8).map (fun a => ((phys s c.core c.asid a).map (coreByte s c.core)).getD 0#8))
      e / 2 ^ 32 % 16 = n ∧ e / 2 ^ 40 % 256 = tm.core ∧ e / 2 ^ 48 % 256 = 0xFF)

/-- R217: the values of SHOEn that a write refuses: a reserved bit is set; there are slots and their size is 0; they do
not fit into the team's scratch; or the shoe has a pending take, a taken slot or a command in flight that names it. -/
def RefusesShoe (s : State) (tm : Team) (n : Nat) (x : DWord) : Prop :=
  let base := (x.extractLsb' 0 20).toNat
  let slot := (x.extractLsb' 24 8).toNat
  let nslot := (x.extractLsb' 32 8).toNat
  let old := vget tm.shoes n
  x.extractLsb' 40 24 ≠ 0#24 ∨ x.extractLsb' 20 4 ≠ 0#4 ∨ (nslot ≠ 0 ∧ slot = 0) ∨ tm.scr < base + 64 * slot * nslot
    ∨ old.ctakes ≠ [] ∨ old.ptakes ≠ [] ∨ old.ctaken ≠ 0 ∨ old.ptaken ≠ 0 ∨ ∃ c ∈ s.cmds, CommandNames s tm n c

/-- R224: a barrier after an arrival with count `c`: the last one advances the phase and empties the barrier. -/
def afterArrival (b : Barrier) (c : Nat) : Barrier :=
  if b.arr + 1 = c then ⟨b.phase + 1#32, 0, 0⟩ else ⟨b.phase, c, b.arr + 1⟩

end Sys2Proof.Machine
end

