-- ==== Sys2Proof/Certificates/Slice0/Obligations.lean ====
section
/-! DEFINITION. The statements for the provers. -/

open Sys2Proof Sys2Proof.Machine

/-! ## Encoding, fetch and issue; traps; reset and canonical memory -/

/-- Words written out from the encodings of Tables 9-3, 9-5 to 9-8 decode to what they stand for. -/
def Obligations.WordsDecode : Prop :=
  decode 0x30020401#32 = .ok (.iaddi false (.v 1) (.v 1) 1#10)
  ∧ decode 0x20E00630#32 = .ok (.iceq false (.p 0) (.v 1) (.s 6) false false)
  ∧ decode 0xC0060410#32 = .ok (.fadd true (.v 3) (.v 1) (.v 2) false false)
  ∧ decode 0x60118E3F#32 = .ok (.ld false (.v 8) (.a 3) 2#2 false false 63#6)
  ∧ decode 0x03E00800#32 = .ok (.nxtc false (.p 0) 1#6 0#6 false)
  ∧ decode 0x0A001234#32 = .ok (.trap false 0x1234#17)
  ∧ decode 0x7D8C2180#32 = .ok (.engStk false (.s 6) 2#5 3#5)
  ∧ decode 0x7F88A080#32 = .ok (.sysRdsr false (.s 4) 10#5 1#5)
  ∧ decode 0x81030000#32 = .ok (.seg ⟨true, 3#8⟩)

/-- R111 to R122: encoding loses nothing. Every well-formed word instruction is one word, and decodes to itself. -/
def Obligations.EncodeThenDecode : Prop :=
  ∀ i : Instr, isWord i = true → ∃ w, encode i = [w] ∧ decode w = .ok i ∧ decodeTableWord 32 w.toNat = some i

/-- R112, R114, R123: no bit of a word is ignored, but for bit 31 of DEAL. A word that decodes is the encoding of what it
decodes to; a DEAL with bit 31 is that without it, since the model's DEAL keeps no C (its choice, log 13). -/
def Obligations.DecodeThenEncode : Prop :=
  ∀ (w : Word) (i : Instr), decode w = .ok i →
    isWord i = true ∧ encode i = [if i = .deal then w &&& 0x7FFFFFFF#32 else w]

/-- R102, R103, R97: while a run goes on, a step fetches the packet at the position and runs the chain there: a chain of one
is the decoded word's `exec`, one that does not decode traps, and a longer chain issues as one. `free` is the model's own
counter (log 3), and an issued chain notes from which loads its results come (log 16). -/
def Obligations.StepRunsTheWord : Prop :=
  ∀ (s : State),
    let word := fun k => (packetWords s).getD (s.sq.word + k) 0#32
    let w := word 0
    let ticked := fun (t : State) => step s = .next { t with free := t.free + 1 }
    s.agenda = [] → s.sq.status = .live → s.sq.running = true → s.sq.sst = none → s.sq.syncw = none → s.sq.mprog = [] →
    s.sq.late = [] → fetchFault s = none → s.sq.word < 3 →
    ∃ ic, let f := { s with core := { s.core with icache := ic } }
      (s.sq.word = 2 ∨ w.getLsbD 31 = false →
        (∀ i, decode w = .ok i → ∀ t, exec i f = .next t → ∃ u, Noted t u ∧ ticked u)
        ∧ (∀ e, decode w = .error e → ticked (takeTrap ⟨0x01#8, w.setWidth 64, 0#64, s.sq.em⟩ s.sq.pkt s.sq.word 0 1 f)))
      ∧ (s.sq.word < 2 → w.getLsbD 31 = true →
        let ws := if s.sq.word = 0 ∧ (word 1).getLsbD 31 = true then [w, word 1, word 2] else [w, word 1]
        ∀ t, issueMany ws f = .next t → ticked t)
      ∧ (∀ pa, s.core.icache = [] → s.core.merged = [] → (s.getDie (dieOf s.core.id)).pend = [] →
          (∀ b, b < 12 → phys s s.core.id s.launch.asid (packetVa s s.sq.pkt + b) = some (pa + b)) →
          ∀ k, s.sq.word + k < 3 →
            word k = BitVec.ofNat 32 (ofBytes ((span (pa + 4 * (s.sq.word + k)) 4).map s.mem.read)))

/-- R62 to R66, R69, R105 to R108, R123: the checks of a word, in their order, and of a chain. A word that the tables do not
admit traps with cause 0x01 and the word; a class U or A write under a partial mask traps; the first empty source waits
where its E bit is 0, and traps where it is 1; a write to an empty register whose producer is pending waits (where R63 places
this wait is the model's choice, log 53); the first bad register word that the word reads for EM traps with cause 0x05. The order of a word's sources in each check,
and of a chain's checks, is the model's choice (log 11). In a chain every word reads its registers from before the chain;
an ENG reads memory behind the chain's earlier words, and an SST behind a BAR.wait or a BAR.sync of its chain waits for that
acquire (log 11). -/
def Obligations.IssueChecks : Prop :=
  (∀ (i : Instr) (s : State), isWord i = true →
    exec i s = issueWord i (ownOf i) s
    ∧ (i.wf = false → ∃ w, encode i = [w] ∧ Traps i s ⟨0x01#8, w.setWidth 64, 0#64, s.sq.em⟩)
    ∧ (∀ code, i.wf = true → (usage s.sq.fmt i).part = some code → s.sq.em ≠ s.sq.live →
      Traps i s ⟨0x02#8, s.sq.live.setWidth 64, BitVec.ofNat 64 code, s.sq.em⟩)
    ∧ (i.wf = true → (usage s.sq.fmt i).part = none ∨ s.sq.em = s.sq.live →
      (∀ pre o e post, (usage s.sq.fmt i).srcs = pre ++ (o, e) :: post → (∀ x ∈ pre, s.sq.settled x.1 = true) →
        s.sq.isFull o = false → s.sq.interlocked o = false →
        (e = true → Traps i s ⟨0x04#8, o.code.setWidth 64, 0#64, s.sq.em⟩)
        ∧ (e = false → exec i s = .next (waitHere (s.sq.waitOn o) s)))
      ∧ ((∀ x ∈ (usage s.sq.fmt i).srcs, s.sq.settled x.1 = true) →
        (∀ pre o post, destElsewhere i = false → (usage s.sq.fmt i).dst = pre ++ o :: post →
          (∀ x ∈ pre, s.sq.settled x = true ∨ s.sq.pendingOn x = none) → s.sq.isFull o = false → s.sq.interlocked o = false →
          (s.sq.pendingOn o).isSome = true → o.cls ≠ .v ∨ s.sq.em ≠ 0#32 → exec i s = .next (waitHere (s.sq.waitOn o) s))
        ∧ (∀ pre o post before w after info, (∀ x ∈ (usage s.sq.fmt i).dst, s.sq.settled x = true ∨ s.sq.pendingOn x = none) →
          crossLane i = false → poisonElsewhere i = false → (usage s.sq.fmt i).srcs.map (·.1) = pre ++ o :: post →
          (∀ x ∈ pre, ∀ y ∈ wordsOf x s.sq.em, s.sq.isBad y = false) → wordsOf o s.sq.em = before ++ w :: after →
          (∀ y ∈ before, s.sq.isBad y = false) → s.sq.isBad w = true →
          ((∃ n l, w = .v n l ∧ info = n + l * 65536) ∨ (∃ n k, w = .s n k ∧ info = 64 + n + k * 65536)
            ∨ (∃ n k, w = .a n k ∧ info = 96 + n + k * 65536) ∨ (∃ n, w = .p n ∧ info = 112 + n)) →
          Traps i s ⟨0x05#8, BitVec.ofNat 64 info, 0#64, s.sq.em⟩))))
  ∧ (∀ (ws : List Word) (s : State), 1 < ws.length →
    let traps := fun (k : Nat) (r : Report) => issueMany ws s = .next (takeTrap r s.sq.pkt s.sq.word k ws.length s)
    let info := fun (k : Nat) => (ws.eraseIdx k).getD 1 0#32 ++ (ws.eraseIdx k).getD 0 0#32
    let alone := fun (w : Word) => ∃ i c x p, decode w = .ok i ∧ (i = .seg ⟨c, x⟩ ∨ i = .deal ∨ (∃ n, i = .call c n)
      ∨ (∃ n, i = .callp c p n) ∨ i = .yield c ∨ (∃ n, i = .trap c n) ∨ (∃ n, i = .brk c n) ∨ (∃ m, i = .eret c m) ∨ i = .sysHalt c)
    ((∃ w ∈ ws, alone w) → traps 0 ⟨0x01#8, (ws.getD 0 0#32).setWidth 64, info 0, s.sq.em⟩)
    ∧ ((∀ w ∈ ws, ¬ alone w) → ∀ k, k < ws.length → goodWord (ws.getD k 0#32) = none →
        (∀ j, j < k → goodWord (ws.getD j 0#32) ≠ none) → traps k ⟨0x01#8, (ws.getD k 0#32).setWidth 64, info k, s.sq.em⟩)
    ∧ (∀ is : List Instr, (∀ w ∈ ws, ¬ alone w) → ws.map goodWord = is.map some →
      let clash := fun (j k : Nat) => let a := is.getD j default; let b := is.getD k default
        (pipe a ≠ none ∧ pipe a = pipe b) ∨ (∃ r, r ∈ chainWrites s.sq.fmt a ∧ r ∈ chainWrites s.sq.fmt b)
          ∨ (∃ r, r ∈ seqWrites a ∧ r ∈ seqWrites b)
      (∀ k, k < is.length → (∃ j, j < k ∧ clash j k) → (∀ k', k' < k → ∀ j, j < k' → ¬ clash j k') →
        traps k ⟨0x1A#8, BitVec.ofNat 64 k, 0#64, s.sq.em⟩)
      ∧ ((∀ k, k < is.length → ∀ j, j < k → ¬ clash j k) →
        let out := fun (us : List (State → State)) (k : Nat) => chainWord s (us.take k).reverse (is.getD k default)
        (∀ us : List (State → State), s.sq.uncorr = [] → us.length = is.length →
          (∀ k, k < is.length → out us k = .done (us.getD k id)) →
          let t := us.foldl (fun t u => u t) (retire ws.length (s.sq.word + ws.length == 3 && (ws.getLastD 0#32).getLsbD 31) s)
          ∃ u, issueMany ws s = .next u ∧ Noted (if t.sq.late = [] then t else waitHere .order t) u)
        ∧ (∀ us k, k < is.length → us.length = k → (∀ j, j < k → out us j = .done (us.getD j id)) →
          (∀ x, out us k = .wait x → issueMany ws s = .next (waitHere x s)) ∧ (∀ r, out us k = .trap r → traps k r)))))
  ∧ (∀ (s : State) (done : List (State → State)) (i : Instr),
    let u := chainView s (afterWords s done)
    let own := wordOut i (ownOf i) s
    let acquires := newAcquires s (done.foldr (fun u t => u t) s)
    ((isEng i = false ∧ sstRecord i s = none) ∨ done = [] → chainWord s done i = own)
    ∧ (∀ r, sstRecord i s = some r → done ≠ [] → (∀ x, own ≠ .trap x) → (∀ w, own ≠ .wait w) →
        (r.todo = [] ∨ acquires = [] → chainWord s done i = own)
        ∧ (r.todo ≠ [] → (∃ f ∈ acquires, f.barrier = true) → chainWord s done i = .done (addLate (.sst r s.sq.pkt s.sq.word
            done.length (chainFrom (packetWords s) s.sq.word).length)))
        ∧ (r.todo ≠ [] → acquires ≠ [] → (∀ f ∈ acquires, f.barrier = false) →
            chainWord s done i = if s.sq.prods.any (·.kind.orders) then .wait .order else own))
    ∧ (∀ o l, val u o l = val s o l) ∧ u.mem = (afterWords s done).mem ∧ u.sq.storeq = (afterWords s done).sq.storeq
    ∧ (isEng i = true → done ≠ [] → ∀ f, wordOut i (ownOf i) u = .done f → engWaits s (afterWords s done) = false →
        chainWord s done i = .done (fun x => f (flushChain s.sq.seq x))))

/-- R140: taking a trap. The trap registers, the frame of KIND 1, the depths, HELD, BUTTON and the blocks are written,
the squad stands at the trap suit's entry hand, which the deck cache may hold from now on, with entry hands of the suit's
successors (R99, log 8), the run ends, and nothing else changes but the model's note whether the word was a DEAL (log 25). -/
def Obligations.TrapEntry : Prop :=
  ∀ (s : State) (i : Instr) (r : Report) (ts : Nat) (h : Nat) (e : Hand),
    Traps i s r → inHandler s = false → r.cause ≠ 0x09#8 → s.obj.trapSuit = some ts →
    (∀ l, s.sq.live.getLsbD l = true → vget s.sq.depth l ≠ 255#8) → s.sq.frames.length < 8 →
    lookup s (suitAt s ts) (blockMask (suitAt s ts).entry) = .hit h e →
    let q := s.sq
    let entry := BitVec.ofNat 6 (suitAt s ts).entry
    ∃ dk, (∀ x ∈ dk, x ∈ s.core.deck ∨ x.2 = (e.mask.toNat, h, e) ∨ ∃ n ∈ (suitAt s ts).succ,
      imageLookup s (suitAt s n) (blockMask (suitAt s n).entry) = .hit x.2.2.1 x.2.2.2) ∧
    exec i s = .next { s with core := { s.core with deck := dk }, sq := { q with
      th := BitVec.ofNat 64 (q.hand % 4096 + q.suit * 65536)
      tpos := BitVec.ofNat 64 (q.pkt % 2 ^ 32 + q.word * 2 ^ 32 + 2 ^ 36)
      tem := q.em.setWidth 64, tcause := r.cause.setWidth 64, tinfo0 := r.info0, tinfo1 := r.info1, tlanes := r.lanes.setWidth 64
      tdeal := dealAt q.pkt q.word s
      frames := ⟨q.suit, q.hand, q.button, true, q.pkt, q.word, q.em, q.held, q.live, q.fmt, q.br, q.brn, q.live⟩ :: q.frames
      depth := lanes fun l => if q.live.getLsbD l then vget q.depth l + 1#8 else vget q.depth l
      held := 0#32, button := 0, suit := ts, hand := h, hent := e, segSlots := 0#8, pkt := e.code, word := 0
      br := lanes fun l => if q.live.getLsbD l then entry else vget q.br l
      brn := lanes fun l => if q.live.getLsbD l then entry else vget q.brn l
      running := false, runPkts := [], wait := none } }

/-- R91, R141: a terminal trap stops the squad and ends its launch with the cause, and its report stands in TCAUSE, TINFO0,
TINFO1 and TLANES; a trap in a handler is cause 0x17. -/
def Obligations.TerminalTraps : Prop :=
  ∀ (s : State) (i : Instr) (r : Report), Traps i s r → s.launch.lid = s.sq.key.lid → s.launch.status = .running →
    let ends := fun (cause : Nat) (info0 info1 : DWord) => exec i s = .next { s with
      sq := { s.sq with
        tcause := BitVec.ofNat 64 cause, tinfo0 := info0, tinfo1 := info1, tlanes := r.lanes.setWidth 64
        status := .stopped, running := false, runPkts := [], wait := none, sst := none, syncw := none, late := [] }
      launch := { s.launch with status := .stopping, ending := ⟨3, cause, info0, info1⟩ }
      cmds := s.cmds.map (fun c => if c.k.lid = s.sq.key.lid then { c with cancelled := true } else c) }
    (inHandler s = true → ends 0x17 (r.cause.setWidth 64) r.info0)
    ∧ (inHandler s = false → (r.cause = 0x09#8 ∨ s.obj.trapSuit = none ∨ ∃ l, s.sq.live.getLsbD l = true ∧ vget s.sq.depth l = 255#8) →
      ends r.cause.toNat r.info0 r.info1)

/-- R389, Table 29-1a: the registers whose reset values the spec gives; and, by the model's choice, no squad is present
(log 2) and memory lists nothing (log 1). -/
def Obligations.ResetValues : Prop :=
  let p := State.reset.part
  p.nqbase = 0#64 ∧ p.nqsize = 0#64 ∧ p.nqtail = 0#64 ∧ p.nqhead = 0#64 ∧ p.nqdrop = 0#64 ∧ p.lcopol = 0#2
  ∧ (∀ n d, n < 8 → d < 4 → vget (vget p.lcokeys n) d = 0#64) ∧ p.drain = 65536#64 ∧ p.mxgate = 2048#64 ∧ p.ntok = 0x3333#16
  ∧ p.pcap = 2400#64 ∧ State.reset.sq.status = .absent ∧ State.reset.squads = [] ∧ State.reset.mem.cells = []

/-- The reset state's memories are in canonical form. -/
def Obligations.ResetIsCanonical : Prop := State.reset.Canonical

/-- Every step keeps every memory in canonical form: equal memories stay equal data (the model's own invariant, log 1). -/
def Obligations.StepKeepsCanonical : Prop := ∀ s t : State, s.Canonical → step s = .next t → t.Canonical

/-! ## Integer words -/

/-- R146, R150 to R153: the two-source words of class U and V, and the compares. -/
def Obligations.IntTwoSource : Prop :=
  ∀ c e f m : Bool,
    TwoSource (fun d a b s => m = true → InRange (fun _ x y => x + y) d a b s) (fun w x y => BitVec.ofInt w (x.toInt + y.toInt))
        (fun d a b => .iadd c d a b e f m)
    ∧ TwoSource (fun d a b s => m = true → InRange (fun _ x y => x - y) d a b s) (fun w x y => BitVec.ofInt w (x.toInt - y.toInt))
        (fun d a b => .isub c d a b e f m)
    ∧ TwoSource (fun d a b s => m = true → InRange (fun _ x y => x * y) d a b s) (fun w x y => BitVec.ofInt w (x.toInt * y.toInt))
        (fun d a b => .imul c d a b e f m)
    ∧ TwoSource anyOperands (fun w x y => if m then BitVec.ofNat w (x.toNat * y.toNat / 2 ^ w)
        else BitVec.ofInt w (x.toInt * y.toInt / 2 ^ w)) (fun d a b => .imulh c d a b e f m)
    ∧ TwoSource anyOperands (fun _ x y => if m then (if x.toNat ≤ y.toNat then x else y) else if x.toInt ≤ y.toInt then x else y)
        (fun d a b => .imin c d a b e f m)
    ∧ TwoSource anyOperands (fun _ x y => if m then (if y.toNat ≤ x.toNat then x else y) else if y.toInt ≤ x.toInt then x else y)
        (fun d a b => .imax c d a b e f m)
    ∧ TwoSource anyOperands (fun _ x y => x &&& y) (fun d a b => .and c d a b e f)
    ∧ TwoSource anyOperands (fun _ x y => x ||| y) (fun d a b => .or c d a b e f)
    ∧ TwoSource anyOperands (fun _ x y => x ^^^ y) (fun d a b => .xor c d a b e f)
    ∧ TwoSource (fun d a b s => m = true → InRange (fun w x y => x * 2 ^ (y % w).toNat) d a b s)
        (fun w x y => BitVec.ofNat w (x.toNat * 2 ^ (y.toNat % w))) (fun d a b => .shl c d a b e f m)
    ∧ TwoSource anyOperands (fun w x y => BitVec.ofNat w (x.toNat / 2 ^ (y.toNat % w))) (fun d a b => .shr c d a b e f)
    ∧ TwoSource anyOperands (fun w x y => BitVec.ofInt w (x.toInt / 2 ^ (y.toNat % w))) (fun d a b => .sar c d a b e f)
    ∧ TwoSource anyOperands (fun w x y => if x = y then 1#w else 0#w) (fun d a b => .iceq c d a b e f)
    ∧ TwoSource anyOperands (fun w x y => if x ≠ y then 1#w else 0#w) (fun d a b => .icne c d a b e f)
    ∧ TwoSource anyOperands (fun w x y => if x.toInt < y.toInt then 1#w else 0#w) (fun d a b => .iclt c d a b e f)
    ∧ TwoSource anyOperands (fun w x y => if x.toInt ≤ y.toInt then 1#w else 0#w) (fun d a b => .icle c d a b e f)
    ∧ TwoSource anyOperands (fun w x y => if x.toNat < y.toNat then 1#w else 0#w) (fun d a b => .icltu c d a b e f)
    ∧ TwoSource anyOperands (fun w x y => if x.toNat ≤ y.toNat then 1#w else 0#w) (fun d a b => .icleu c d a b e f)

/-- R152, R160, R162, Table 5-4: the words with an affine destination. -/
def Obligations.IntAffine : Prop :=
  ∀ c e f m : Bool,
    Affine (fun d a b s => m = true → InRange (fun _ x y => x + y) d a b s) (fun x y => (x.1 + y.1, x.2 + y.2))
        (fun d a b => .iadd c d a b e f m)
    ∧ Affine (fun d a b s => m = true → InRange (fun _ x y => x - y) d a b s) (fun x y => (x.1 - y.1, x.2 - y.2))
        (fun d a b => .isub c d a b e f m)
    ∧ Affine (fun d a b s => m = true → InRange (fun _ x y => x * y) d a b s)
        (fun x y => (x.1 * y.1, x.2 * y.1 + y.2 * x.1)) (fun d a b => .imul c d a b e f m)
    ∧ Affine (fun d a b s => m = true → InRange (fun w x y => x * 2 ^ (y % w).toNat) d a b s)
        (fun x y => (x.1 <<< (y.1.toNat % 64), x.2 <<< (y.1.toNat % 64))) (fun d a b => .shl c d a b e f m)
    ∧ (∀ n, Affine anyOperands (fun x _ => (x.1 + n.signExtend 64, x.2)) (fun d a _ => .iaddi c d a n))
    ∧ Affine anyOperands (fun x y => (x.1, y.1)) (fun d a b => .prom c d a b e f m)

/-- R60, R140, R150, R154: a checked word whose true value overflows traps with cause 0x03 and writes nothing: for a uniform
destination with EM in TLANES, for an affine or varying one with the overflowing lanes. -/
def Obligations.CheckedOverflowTraps : Prop :=
  ∀ c e f : Bool,
    OverflowTraps (fun _ x y => x + y) (fun d a b => .iadd c d a b e f true)
    ∧ OverflowTraps (fun _ x y => x - y) (fun d a b => .isub c d a b e f true)
    ∧ OverflowTraps (fun _ x y => x * y) (fun d a b => .imul c d a b e f true)
    ∧ OverflowTraps (fun w x y => x * 2 ^ (y % w).toNat) (fun d a b => .shl c d a b e f true)
    ∧ OverflowTraps (fun _ x _ => x.natAbs) (fun d a _ => .iabs c d a e true)

/-- R154, R160, R161: the words of one source and the immediate forms. -/
def Obligations.IntOneSource : Prop :=
  ∀ (c e m : Bool) (n : BitVec 10),
    TwoSource (fun d a b s => m = true → InRange (fun _ x _ => x.natAbs) d a b s) (fun w x _ => BitVec.ofInt w x.toInt.natAbs)
        (fun d a _ => .iabs c d a e m)
    ∧ TwoSource anyOperands (fun w x _ => BitVec.ofNat w ((List.range w).filter (fun i => x.getLsbD i)).length)
        (fun d a _ => .popc c d a e)
    ∧ TwoSource anyOperands (fun w x _ => BitVec.ofNat w (((List.range w).find? (fun i => x.getLsbD (w - 1 - i))).getD w))
        (fun d a _ => .clz c d a e)
    ∧ TwoSource anyOperands (fun _ x _ => x.reverse) (fun d a _ => .brev c d a e)
    ∧ TwoSource anyOperands (fun w x _ => x + n.signExtend w) (fun d a _ => .iaddi c d a n)
    ∧ TwoSource anyOperands (fun w x _ => x &&& n.signExtend w) (fun d a _ => .andi c d a n)
    ∧ TwoSource anyOperands (fun w x _ => x ||| n.signExtend w) (fun d a _ => .ori c d a n)
    ∧ TwoSource anyOperands (fun w x _ => x ^^^ n.signExtend w) (fun d a _ => .xori c d a n)
    ∧ TwoSource anyOperands (fun w x _ => BitVec.ofNat w (x.toNat * 2 ^ n.toNat)) (fun d a _ => .shli c d a n)
    ∧ TwoSource anyOperands (fun w x _ => BitVec.ofNat w (x.toNat / 2 ^ n.toNat)) (fun d a _ => .shri c d a n)
    ∧ TwoSource anyOperands (fun w x _ => BitVec.ofInt w (x.toInt / 2 ^ n.toNat)) (fun d a _ => .sari c d a n)
    ∧ TwoSource anyOperands (fun w x _ => if x = n.signExtend w then 1#w else 0#w) (fun d a _ => .iceqi c d a n)
    ∧ TwoSource anyOperands (fun w x _ => if x.toInt < (n.signExtend w).toInt then 1#w else 0#w) (fun d a _ => .iclti c d a n)
    ∧ TwoSource anyOperands (fun w x _ => if x.toNat < (n.signExtend w).toNat then 1#w else 0#w) (fun d a _ => .icltui c d a n)

/-- R155 (IMAD), R156 (IADDMIN), R157 (CMOV), R158 (BFI), R161 (MOVKH): the words that also read their destination. -/
def Obligations.IntThreeSource : Prop :=
  ∀ c e f : Bool,
    ThreeSource anyOperands (fun _ d x y => if (x + y).toInt < d.toInt then x + y else d) (fun d a b => .iaddmin c d a b e f)
    ∧ ThreeSource anyOperands (fun _ d x y => if x.toNat ≠ 0 then y else d) (fun d a b => .cmov c d a b e f)
    ∧ (∀ k : BitVec 16, ThreeSource anyOperands (fun w d _ _ => BitVec.ofNat w (d.toNat * 2 ^ 16) ||| k.setWidth w)
        (fun d _ _ => .movkh c d k))
    ∧ ThreeSource FieldsFit (fun w d x y => BitVec.ofFnLE (fun i : Fin w =>
        if (y.extractLsb' 0 6).toNat ≤ i.val ∧ i.val < fieldEnd y then x.getLsbD (i.val - (y.extractLsb' 0 6).toNat)
        else d.getLsbD i.val)) (fun d a b => .bfi c d a b e f)
    ∧ (∀ d a b s, d.isS = true → ReadyFor (.imad c d a b e f false) s → Completes (.imad c d a b e f false) s fun t =>
        OnlyRegs [d] s t ∧ UniResult d (uval s d + uval s a * uval s b) t)
    ∧ (∀ m d a b s, d.isV = true → ReadyFor (.imad c d a b e f m) s → Completes (.imad c d a b e f m) s fun t =>
        OnlyRegs d.pair s t ∧ PairResult d (fun l => val64 s d l
          + (if m then (val32 s a l).setWidth 64 * (val32 s b l).setWidth 64
             else (val32 s a l).signExtend 64 * (val32 s b l).signExtend 64)) s t)

/-- R158 (BFX and BFI), R159 (IDIV and IREM), R140: bit-field extraction and division, and the traps of a bad field and of a zero
divisor. -/
def Obligations.FieldsAndDivision : Prop :=
  ∀ c e f m : Bool,
    TwoSource FieldsFit (fun w x y =>
        if m = true ∧ (y.extractLsb' 8 6).toNat ≠ 0 then ((x <<< (w - fieldEnd y)).sshiftRight (w - (y.extractLsb' 8 6).toNat))
        else ((x <<< (w - fieldEnd y)) >>> (w - (y.extractLsb' 8 6).toNat))) (fun d a b => .bfx c d a b e f m)
    ∧ TwoSource NonZero (fun w x y => if m then BitVec.ofNat w (x.toNat / y.toNat) else BitVec.ofInt w (x.toInt.tdiv y.toInt))
        (fun d a b => .idiv c d a b e f m)
    ∧ TwoSource NonZero (fun w x y => if m then BitVec.ofNat w (x.toNat % y.toNat) else BitVec.ofInt w (x.toInt.tmod y.toInt))
        (fun d a b => .irem c d a b e f m)
    ∧ (∀ d a b s i, i = Instr.bfx c d a b e f m ∨ i = Instr.bfi c d a b e f → ¬ FieldsFit d a b s → ReadyFor i s →
        if d.isS then UniTrap 0x12#8 (uval s b) i s
        else LaneTrap 0x12#8 (fun l => 32 < fieldEnd (val32 s b l)) (fun l => (val32 s b l).setWidth 64) i s)
    ∧ (∀ d a b s i, i = Instr.idiv c d a b e f m ∨ i = Instr.irem c d a b e f m → ¬ NonZero d a b s → ReadyFor i s →
        if d.isS then UniTrap 0x13#8 0#64 i s
        else LaneTrap 0x13#8 (fun l => val32 s b l = 0#32) (fun _ => 0#64) i s)

/-! ## Moves between the classes and register arrays -/

/-- R161 to R166: constants, moves between the classes, and full/empty control. -/
def Obligations.MovesBetweenClasses : Prop :=
  ∀ (c e f : Bool) (d a b : Opnd) (s : State),
    (∀ n, ReadyFor (.movk c d n) s → Completes (.movk c d n) s fun t => OnlyRegs [d] s t ∧ UniResult d (n.signExtend 64) t)
    ∧ (d.isA = false → ReadyFor (.prom c d a b e f false) s → Completes (.prom c d a b e f false) s fun t =>
        OnlyRegs [d] s t ∧ LaneResult d (fun l => val32 s a l) s t)
    ∧ (ReadyFor (.prom c d a b e f true) s → Completes (.prom c d a b e f true) s fun t =>
        OnlyRegs d.pair s t ∧ PairResult d (fun l => val s a l) s t)
    ∧ (∀ m, ReadyFor (.uniq c d a b e f) s →
        (∀ l, m.getLsbD l = true ↔ s.sq.em.getLsbD l = true ∧ (uval s b).getLsbD l = false) →
        (m = 0#32 → Completes (.uniq c d a b e f) s fun t => OnlyRegs [d] s t ∧ UniResult d 0#64 t)
        ∧ (∀ l k, IsLowest m l → (∀ j, j < 32 → (k.getLsbD j = true ↔ m.getLsbD j = true ∧ val32 s a j = val32 s a l)) →
            Completes (.uniq c d a b e f) s fun t => OnlyRegs [d] s t ∧ UniResult d ((k : Word) ++ val32 s a l) t))
    ∧ (∀ m, ReadyFor (.aget c d a e m) s → Completes (.aget c d a e m) s fun t =>
        OnlyRegs [d] s t ∧ UniResult d (if m then (affine s a).2 else (affine s a).1) t)
    ∧ (∀ m, (Instr.sete c d m).wf = true → (d.isS = true ∨ d.isA = true → s.sq.em = s.sq.live) → s.sq.uncorr = [] →
        s.sq.poison = [] → Completes (.sete c d m) s fun t => ∃ r, Issued s r ∧ t = { r with sq := r.sq.setFE d m }
          ∧ t.sq.isFull d = m ∧ ∀ o, o ≠ d → t.sq.isFull o = s.sq.isFull o)

/-- R163: DEMU admits v0 to v63 in A and a destination of class U or A. `X l` is lane `l`'s word read as a signed number; `x` is what the destination gives lane `l`. -/
def Obligations.DemuResult : Prop :=
  ∀ (c e m : Bool) (d a : Opnd) (s : State) (l0 : Nat), IsLowest s.sq.em l0 → ReadyFor (.demu c d a e m) s →
    let X := fun l => (val32 s a l).toInt
    ((Instr.demu c d a e m).wf = true ↔ a.isV = true ∧ (d.isS = true ∨ d.isA = true))
    ∧ (d.isS = true → (m = true → ∀ l, s.sq.em.getLsbD l = true → X l = X l0) →
      Completes (.demu c d a e m) s fun t => OnlyRegs [d] s t ∧ UniResult d (BitVec.ofInt 64 (X l0)) t)
    ∧ (d.isS = true → m = true → (∃ l, s.sq.em.getLsbD l = true ∧ X l ≠ X l0) →
      LaneTrap 0x03#8 (fun l => X l ≠ X l0) (fun _ => 0#64) (.demu c d a e m) s)
    ∧ (d.isA = true → ∀ st : Int,
        ((∀ l, s.sq.em.getLsbD l = true → l = l0) → st = 0) →
        (∀ l1, IsLowest (s.sq.em &&& ~~~(1#32 <<< l0)) l1 → st = (X l1 - X l0).tdiv (l1 - l0)) →
        let base := BitVec.ofInt 64 (X l0 - l0 * st)
        let x := fun l => base + BitVec.ofNat 64 l * BitVec.ofInt 64 st
        ((m = true → ∀ l, s.sq.em.getLsbD l = true → x l = BitVec.ofInt 64 (X l)) →
          Completes (.demu c d a e m) s fun t => OnlyRegs [d] s t ∧ AffResult d base (BitVec.ofInt 64 st) t)
        ∧ (m = true → (∃ l, s.sq.em.getLsbD l = true ∧ x l ≠ BitVec.ofInt 64 (X l)) →
          LaneTrap 0x03#8 (fun l => x l ≠ BitVec.ofInt 64 (X l)) (fun _ => 0#64) (.demu c d a e m) s))

/-- R167, R168: the register arrays. -/
def Obligations.RegisterArrays : Prop :=
  ∀ (c e f : Bool) (d b : Opnd) (n : Fin 64) (s : State),
    (ReadyFor (.rget c d (.v n) b e f) s → (∀ l, s.sq.em.getLsbD l = true → IndexFits n b s l
        ∧ s.sq.isFull (.v (Fin.ofNat 64 (n + indexOf b s l))) = true) →
      Completes (.rget c d (.v n) b e f) s fun t => OnlyRegs [d] s t
        ∧ LaneResult d (fun l => s.sq.vreg (n + indexOf b s l) l) s t)
    ∧ (ReadyFor (.rput c d (.v n) b f) s → (∀ l, s.sq.em.getLsbD l = true → IndexFits n b s l
        ∧ s.sq.isFull (.v (Fin.ofNat 64 (n + indexOf b s l))) = true) →
      Completes (.rput c d (.v n) b f) s fun t =>
        OnlyRegs ((Mask.list s.sq.em).map (fun l => .v (Fin.ofNat 64 (n + indexOf b s l)))) s t
        ∧ ∀ k l, l < 32 → val t (.v k) l =
          if s.sq.em.getLsbD l = true ∧ k.val = n + indexOf b s l then (val32 s d l).setWidth 64 else val s (.v k) l)
    ∧ (∀ i, i = Instr.rget c d (.v n) b e f ∨ i = Instr.rput c d (.v n) b f → ReadyFor i s →
        (∃ l, s.sq.em.getLsbD l = true ∧ ¬ IndexFits n b s l) →
        LaneTrap 0x12#8 (fun l => ¬ IndexFits n b s l) (fun l => (val32 s b l).setWidth 64) i s)

/-! ## Float, conversion and cross-lane words -/

/-- R172, R175, R177: float arithmetic and functions, with the trap of a new NaN. -/
def Obligations.FloatArithmetic : Prop :=
  ∀ (c e f : Bool) (d a b : Opnd),
    FloatWord (.fadd c d a b e f) d [a, b] (fun s l => roundFp32 ((num32 (val32 s a l)).add (num32 (val32 s b l))))
    ∧ FloatWord (.fsub c d a b e f) d [a, b] (fun s l => roundFp32 ((num32 (val32 s a l)).add (num32 (val32 s b l)).neg))
    ∧ FloatWord (.fmul c d a b e f) d [a, b] (fun s l => roundFp32 ((num32 (val32 s a l)).mul (num32 (val32 s b l))))
    ∧ FloatWord (.ffma c d a b e f false) d [a, b, d] (fun s l => roundFp32
        ((num32 (val32 s d l)).add ((num32 (val32 s a l)).mul (num32 (val32 s b l)))))
    ∧ FloatWord (.frcp c d a e) d [a] (fun s l => BitVec.ofNat 32 (frcp (num32 (val32 s a l))))
    ∧ FloatWord (.frsq c d a e) d [a] (fun s l => BitVec.ofNat 32 (frsq (num32 (val32 s a l))))
    ∧ FloatWord (.fsqrt c d a e) d [a] (fun s l => BitVec.ofNat 32 (fsqrt (num32 (val32 s a l))))
    ∧ FloatWord (.fexp2 c d a e) d [a] (fun s l => BitVec.ofNat 32 (fexp2 (num32 (val32 s a l))))
    ∧ FloatWord (.flog2 c d a e) d [a] (fun s l => BitVec.ofNat 32 (flog2 (num32 (val32 s a l))))

/-- R175: FFMA.h2 works on the two FP16 halves of each word; NaN traps by either half. -/
def Obligations.FloatPackedFma : Prop :=
  ∀ (c e f : Bool) (d a b : Opnd) (s : State), ReadyFor (.ffma c d a b e f true) s →
    let h := fun (o : Opnd) (k l : Nat) => ((val32 s o l).extractLsb' (16 * k) 16).toNat
    let r := fun (k l : Nat) => convert fp16 .nearest false
      ((decodeNum fp16 (h d k l)).add ((decodeNum fp16 (h a k l)).mul (decodeNum fp16 (h b k l))))
    let nan := fun (x : Nat) => (decodeNum fp16 x).isNaN = true
    let bad := fun (l : Nat) => ∃ k, k < 2 ∧ nan (r k l) ∧ ¬ nan (h d k l) ∧ ¬ nan (h a k l) ∧ ¬ nan (h b k l)
    ((fmtNT s.sq.fmt = true → ∀ l, (if d.isS then l = 0 else s.sq.em.getLsbD l = true) → ¬ bad l) →
      Completes (.ffma c d a b e f true) s (Result32 d (fun l => BitVec.ofNat 16 (r 1 l) ++ BitVec.ofNat 16 (r 0 l)) s))
    ∧ (fmtNT s.sq.fmt = true → (∃ l, (if d.isS then l = 0 else s.sq.em.getLsbD l = true) ∧ bad l) →
      if d.isS then UniTrap 0x0C#8 0#64 (.ffma c d a b e f true) s
      else LaneTrap 0x0C#8 bad (fun _ => 0#64) (.ffma c d a b e f true) s)

/-- R176, R178 to R180: comparisons, classes and rounding to integers never trap. -/
def Obligations.FloatSelection : Prop :=
  ∀ (c e f : Bool) (d a b : Opnd) (s : State),
    (ReadyFor (.fmin c d a b e f) s → Completes (.fmin c d a b e f) s (Result32 d (fun l => fmin (val32 s a l) (val32 s b l)) s))
    ∧ (ReadyFor (.fmax c d a b e f) s → Completes (.fmax c d a b e f) s (Result32 d (fun l => fmax (val32 s a l) (val32 s b l)) s))
    ∧ (ReadyFor (.fceq c d a b e f) s → Completes (.fceq c d a b e f) s (Result32 d (fun l =>
        if (num32 (val32 s a l)).lt (num32 (val32 s b l)) = some false ∧ (num32 (val32 s b l)).lt (num32 (val32 s a l)) = some false
        then 1#32 else 0#32) s))
    ∧ (ReadyFor (.fclt c d a b e f) s → Completes (.fclt c d a b e f) s (Result32 d (fun l =>
        if (num32 (val32 s a l)).lt (num32 (val32 s b l)) = some true then 1#32 else 0#32) s))
    ∧ (ReadyFor (.fcle c d a b e f) s → Completes (.fcle c d a b e f) s (Result32 d (fun l =>
        if (num32 (val32 s b l)).lt (num32 (val32 s a l)) = some false then 1#32 else 0#32) s))
    ∧ (ReadyFor (.fclass c d a e) s → Completes (.fclass c d a e) s (Result32 d (fun l =>
        BitVec.ofNat 32 (2 ^ classBit (val32 s a l))) s))
    ∧ (ReadyFor (.frnd c d a b e f) s → Completes (.frnd c d a b e f) s (Result32 d (fun l =>
        roundIntegral (modeOf (uval s b)) (val32 s a l)) s))

/-- R181 to R185: the conversions, and the format they do not support. -/
def Obligations.FloatConversions : Prop :=
  ∀ (c e f m : Bool) (d a b : Opnd) (s : State),
    (ReadyFor (.cvtfi c d a b e f m) s → Completes (.cvtfi c d a b e f m) s (Result32 d (fun l =>
        BitVec.ofInt 32 (toRange (modeOf (uval s b)) (if m then 0 else -(2 ^ 31)) (if m then 2 ^ 32 - 1 else 2 ^ 31 - 1)
          (num32 (val32 s a l)))) s))
    ∧ (ReadyFor (.cvtif c d a e m) s → Completes (.cvtif c d a e m) s (Result32 d (fun l =>
        if m then roundFp32 (.fin false (val32 s a l).toNat 0)
        else roundFp32 (.fin (val32 s a l).msb (val32 s a l).toInt.natAbs 0)) s))
    ∧ (ReadyFor (.cvtn c d a b e f) s → (isBinary8 (fmtOF s.sq.fmt) = true ∨ fmtOF s.sq.fmt = 0x18) →
        Completes (.cvtn c d a b e f) s (Result32 d (fun l =>
          patch (val32 s d l) (8 * ((uval s b).toNat % 4)) (narrow s.sq.fmt (val32 s a l))) s))
    ∧ (ReadyFor (.cvtn c d a b e f) s → isBinary8 (fmtOF s.sq.fmt) = false → fmtOF s.sq.fmt ≠ 0x18 →
        Traps (.cvtn c d a b e f) s ⟨0x14#8, s.sq.fmt.setWidth 64, 0#64, s.sq.em⟩)
    ∧ (ReadyFor (.cvtw c d a b e f) s → fmtAF s.sq.fmt ≠ 0 →
        Completes (.cvtw c d a b e f) s (Result32 d (fun l => widen s.sq.fmt (val32 s a l) (uval s b).toNat) s))
    ∧ (ReadyFor (.cvtw c d a b e f) s → fmtAF s.sq.fmt = 0 →
        Traps (.cvtw c d a b e f) s ⟨0x14#8, s.sq.fmt.setWidth 64, 0#64, s.sq.em⟩)
    ∧ (ReadyFor (.cvth c d a b e f m) s → Completes (.cvth c d a b e f m) s (Result32 d (fun l =>
        BitVec.ofNat 16 (convert (if m then bf16 else fp16) .nearest false (num32 (val32 s b l)))
          ++ BitVec.ofNat 16 (convert (if m then bf16 else fp16) .nearest false (num32 (val32 s a l)))) s))

/-- R188, R189: RAND of a seed, whose function is written out, and RAND.st of the launch's stream with its bounds (TLANES as R140
gives it for a uniform and a varying join). -/
def Obligations.RandomStreams : Prop :=
  let k := fun (seed : DWord) (i : Nat) => if i % 2 = 0 then seed.extractLsb' 0 32 else seed.extractLsb' 32 32
  let xored := fun (n : Nat) (x : Word) => x ^^^ (x >>> n)
  let round := fun (seed : DWord) (x : Word) (i : Nat) =>
    (xored 13 (xored 16 (x + k seed i + BitVec.ofNat 32 ((i + 1) * 0x6A5D39E1)) * 0x3C6EF35B#32)).rotateLeft 5
  let value := fun (seed : DWord) (counter : Word) => (List.range 8).foldl (round seed) counter ^^^ k seed 0
  ∀ (c e f : Bool) (d a b : Opnd) (s : State),
    (ReadyFor (.rand c d a b e f false) s → Completes (.rand c d a b e f false) s
      (Result32 d (fun l => value (uval s a) (val32 s b l)) s))
    ∧ (ReadyFor (.rand c d a b e f true) s →
        (∀ l, (if d.isS then l = 0 else s.sq.em.getLsbD l = true) → (val32 s b l).toNat < s.launch.lr.rcount) →
        Completes (.rand c d a b e f true) s
          (Result32 d (fun l => value s.launch.lr.rseed (BitVec.ofNat 32 s.launch.lr.rbase + val32 s b l)) s))
    ∧ (ReadyFor (.rand c d a b e f true) s →
        (∃ l, (if d.isS then l = 0 else s.sq.em.getLsbD l = true) ∧ s.launch.lr.rcount ≤ (val32 s b l).toNat) →
        if d.isS then UniTrap 0x12#8 ((val32 s b 0).setWidth 64) (.rand c d a b e f true) s
        else LaneTrap 0x12#8 (fun l => s.launch.lr.rcount ≤ (val32 s b l).toNat) (fun l => (val32 s b l).setWidth 64)
          (.rand c d a b e f true) s)

/-- R190 to R195: the words that move values between lanes; R49: RDADD.f's trap where its sum is a new NaN. -/
def Obligations.CrossLaneWords : Prop :=
  ∀ (c e f : Bool) (d a b : Opnd) (s : State),
    (ReadyFor (.shfl c d a b e f) s → Completes (.shfl c d a b e f) s (Result32 d (fun l =>
        val32 s a ((val32 s b l).extractLsb' 0 5).toNat) s))
    ∧ (ReadyFor (.shup c d a b e f) s → Completes (.shup c d a b e f) s (Result32 d (fun l =>
        if (uval s b).toNat ≤ l then val32 s a (l - (uval s b).toNat) else val32 s d l) s))
    ∧ (ReadyFor (.shdn c d a b e f) s → Completes (.shdn c d a b e f) s (Result32 d (fun l =>
        if l + (uval s b).toNat ≤ 31 then val32 s a (l + (uval s b).toNat) else val32 s d l) s))
    ∧ (ReadyFor (.bcast c d a b e f) s → Completes (.bcast c d a b e f) s (Result32 d (fun _ =>
        val32 s a ((uval s b).extractLsb' 0 5).toNat) s))
    ∧ (∀ m : Mask, (∀ l, l < 32 → (m.getLsbD l = true ↔ s.sq.em.getLsbD l = true ∧ val32 s a l ≠ 0#32)) →
        (ReadyFor (.vany c d a e) s → Completes (.vany c d a e) s (Result32 d (fun _ => if m = 0#32 then 0#32 else 1#32) s))
        ∧ (ReadyFor (.vbal c d a e) s → Completes (.vbal c d a e) s (Result32 d (fun _ => m) s)))
    ∧ (ReadyFor (.rdadd c d a e false) s → Completes (.rdadd c d a e false) s (Result32 d (fun _ =>
        BitVec.ofNat 32 ((Mask.list s.sq.em).map (fun l => (val32 s a l).toNat)).sum) s))
    ∧ (let sum := roundFp32 (exactSum ((Mask.list s.sq.em).map (fun l => num32 (val32 s a l))))
       let trap := fmtNT s.sq.fmt = true ∧ isNaN32 sum = true ∧ ∀ l, s.sq.em.getLsbD l = true → isNaN32 (val32 s a l) = false
       ReadyFor (.rdadd c d a e true) s →
        (¬ trap → Completes (.rdadd c d a e true) s (Result32 d (fun _ => sum) s))
        ∧ (trap → UniTrap 0x0C#8 0#64 (.rdadd c d a e true) s))
    ∧ (∀ m, ReadyFor (.rdmin c d a e m) s → Completes (.rdmin c d a e m) s (Result32 d (fun _ => reduceMin m a s) s))
    ∧ (s.sq.em ≠ 0#32 → (∃ l, s.sq.em.getLsbD l = true ∧ reduceMin false a s = val32 s a l)
        ∧ ∀ l, s.sq.em.getLsbD l = true → (reduceMin false a s).toInt ≤ (val32 s a l).toInt)

/-! ## Memory words -/

/-- R64, R115, R198, R202, R203, R206: a load that passes its checks begins, and under an empty EM it does nothing more;
LDSC reads scratch at its issue, behind its squad's own queued stores to scratch, or, by the model's choice, once its order
allows (log 15), and its destination never is empty; a byte may be one that the squad read ahead of loads on which its
address does not depend (R196, log 16). -/
def Obligations.LoadIssue : Prop :=
  (∀ (c : Bool) (d b : Opnd) (z : BitVec 2) (o e : Bool) (n : BitVec 6) (s : State) (i : Instr) (signed : Bool),
    (i = .ld c d b z o e n ∧ signed = false) ∨ (i = .ldsx c d b z o e n ∧ signed = true) →
    let acc := accesses b.isS (memAddr s b n z) s
    ReadyFor i s → memChecks s .read b.isS s.sq.em (memBytes z) (memBytes z) acc = none →
    (∀ l, memAddr s b n z l = (val64 s b l + n.signExtend 64 * BitVec.ofNat 64 (2 ^ z.toNat)).toNat)
    ∧ (s.sq.em = 0#32 → Completes i s (Issued s))
    ∧ (s.sq.em ≠ 0#32 → Completes i s (BegunFrom (s.sq.baseDep b) (.load false z signed o b.isS acc) (wide z d) s)))
  ∧ (∀ (c : Bool) (d b : Opnd) (z : BitVec 2) (e : Bool) (n : BitVec 6) (s : State),
    let acc := accesses b.isS (memAddr s b n z) s
    ReadyFor (.ldsc c d b z e n) s → scratchChecks s .read b.isS s.sq.em (memBytes z) acc = none →
    (s.sq.em = 0#32 → Completes (.ldsc c d b z e n) s (Issued s))
    ∧ (s.sq.em ≠ 0#32 → readHeld s.sq s.sq.seq = true → Completes (.ldsc c d b z e n) s fun t => ∃ r, Issued s r
        ∧ t = { r with sq := { r.sq with
            prods := r.sq.prods ++ [⟨s.sq.seq, .load true z false true b.isS acc, wide z d, [], s.sq.baseDep b⟩], seq := s.sq.seq + 1 } })
    ∧ (s.sq.em ≠ 0#32 → readHeld s.sq s.sq.seq = false → s.sq.status ≠ .absent → s.team.status ≠ .absent → s.team.key = s.sq.key.team →
        s.team.core = s.core.id →
        Completes (.ldsc c d b z e n) s fun t => ∃ y : Nat → Nat,
          (∀ l, ∃ bytes : List Byte, bytes.length = memBytes z ∧ y l = ofBytes bytes ∧ ∀ j, j < memBytes z →
            ScratchByteRead s s.sq.seq (s.sq.baseDep b) (memAddr s b n z l + j) bytes[j]?)
          ∧ t = { s with sq := t.sq } ∧ RegsKept (wide z d) s t ∧ BytesKept s t ∧ t.sq.storeq = s.sq.storeq
          ∧ (d.isS = true → UniResult d (BitVec.ofNat 64 (y 0)) t)
          ∧ (d.isV = true → z ≠ 3#2 → LaneResult d (fun l => BitVec.ofNat 32 (y l)) s t)
          ∧ (d.isV = true → z = 3#2 → PairResult d (fun l => BitVec.ofNat 64 (y l)) s t)))

/-- R199: an access that fails a check traps by the first check that one of its lanes fails, in the order of R199: alignment
(cause 0x0B), bits [63:56] (0x0A), lease (0x09), permission (0x0A), range lock (0x08); for scratch, alignment, the end of the
allocation (0x12), range lock. A word none of whose accesses fails one passes the model's checks. -/
def Obligations.AccessChecks : Prop :=
  (∀ (c : Bool) (d b : Opnd) (z : BitVec 2) (o e : Bool) (n m : BitVec 6) (p : BitVec 4) (g : BitVec 2) (s : State) (i : Instr)
      (k : AccKind) (uni : Bool),
    (i = .ld c d b z o e n ∧ k = .read ∧ uni = b.isS ∧ m = n) ∨ (i = .ldsx c d b z o e n ∧ k = .read ∧ uni = b.isS ∧ m = n)
      ∨ (i = .st c d b z e n ∧ k = .write ∧ uni = uJoin d b ∧ m = n)
      ∨ (i = .amo c d b z e p g ∧ k = .atomic ∧ uni = uJoin d b ∧ m = 0#6 ∧ s.launch.lr.det = false)
      ∨ (i = .amor c d b z e p g ∧ k = .atomic ∧ uni = uJoin d b ∧ m = 0#6 ∧ s.launch.lr.det = false)
      ∨ (i = .cas c d b z e g ∧ k = .atomic ∧ uni = d.isS ∧ m = 0#6 ∧ s.launch.lr.det = false) → ReadyFor i s →
    TrapsFirst i s uni (memAddr s b m z) (memoryChecks s k (memBytes z))
    ∧ (PassesAll s uni (memAddr s b m z) (memoryChecks s k (memBytes z)) →
      memChecks s k uni s.sq.em (memBytes z) (memBytes z) (accesses uni (memAddr s b m z) s) = none))
  ∧ (∀ (c : Bool) (d b : Opnd) (z : BitVec 2) (e : Bool) (n : BitVec 6) (s : State) (i : Instr) (k : AccKind) (uni : Bool),
    (i = .ldsc c d b z e n ∧ k = .read ∧ uni = b.isS) ∨ (i = .stsc c d b z e n ∧ k = .write ∧ uni = uJoin d b) → ReadyFor i s →
    TrapsFirst i s uni (memAddr s b n z) (teamScratchChecks s k (memBytes z))
    ∧ (PassesAll s uni (memAddr s b n z) (teamScratchChecks s k (memBytes z)) →
      scratchChecks s k uni s.sq.em (memBytes z) (accesses uni (memAddr s b n z) s) = none))

/-- R64, R203, R204, R205, R241: a pending load of the current squad writes its registers with the bytes it reads, in a
varying destination each lane's own, in a uniform one the one value. Each byte is the youngest on its way, the squad's own
earlier stores before the core's merged ones before the die's, and else that of memory; a load that is not coherent may take
it from an L1 line instead (a free choice, log 8), and one that is coherent from what the squad read ahead of loads on
which its address does not depend (log 16). A scratch load that its order held back reads scratch the same way. That a load
is performed as a whole, and may hold its value back while an older load is pending, is the model's choice (log 15). Here no
home slice holds earlier images of a node (log 8). -/
def Obligations.LoadPerformed : Prop :=
  ∀ (s : State) (seq dep : Nat) (z : BitVec 2) (signed co uni : Bool) (d : Opnd) (acc : List (Nat × Nat)) (lane va : Nat) (sc : Bool)
      (got : List (Nat × List DWord)),
    let core := s.core.id
    let asid := s.launch.asid
    let p : Prod := ⟨seq, .load sc z signed co uni acc, wide z d, got, dep⟩
    let w := memBytes z
    let older := ∃ r ∈ s.sq.prods, r.seq < seq ∧ r.kind.pendingLoad = true
    let kept := fun (t : State) => ∀ o, o.isReg = true → t.sq.isFull o = s.sq.isFull o ∧ ∀ l, val t o l = val s o l
    let done := fun (t : State) => (∀ o ∈ wide z d, t.sq.isFull o = true)
      ∧ (uni = false → ∀ l, l ∉ acc.map (·.1) → l < 32 → ∀ o ∈ wide z d, val t o l = val s o l)
      ∧ (∀ o, o.isReg = true → o ∉ wide z d → t.sq.isFull o = s.sq.isFull o ∧ ∀ l, val t o l = val s o l)
      ∧ (∀ q ∈ t.sq.prods, q.seq = seq → ∃ sc bs, q.kind = .done sc bs)
      ∧ (∀ a, t.mem.read a = s.mem.read a) ∧ t.sq.storeq = s.sq.storeq
    s.sq.status ≠ .absent → s.team.status ≠ .absent → s.team.key = s.sq.key.team → s.team.core = core →
    s.launch.status ≠ .absent → s.launch.lid = s.sq.key.lid → s.sq.prods.find? (·.seq == seq) = some p →
    s.part.nodeAges = [] → (acc.map (·.1)).Nodup → (∀ a ∈ acc, a.1 < 32) → (lane, va) ∈ acc → (uni = true → acc = [(lane, va)]) →
    (if uni then d.isS = true else d.isV = true ∧ (z = 3#2 → ∃ n : Fin 64, d = .v n ∧ n.val % 2 = 0)) →
    (got = [] → (if sc then readHeld s.sq seq = false ∧ signed = false else loadReady s core asid s.sq p acc = true) →
    Completes (.producerWrite s.sq.key seq) s fun t =>
      ∃ bytes : List Byte, bytes.length = w
        ∧ (if sc then
            ∀ j, j < w → ScratchByteRead s seq dep (va + j) bytes[j]?
          else ∀ pa, phys s core asid va = some pa →
            let own := queuedCells s s.sq core asid seq
            let now := fun a => (lastCell (cellsOnWay s core ++ own) a).getD (s.mem.read a)
            ∀ j, j < w → bytes[j]? = some (now (pa + j))
              ∨ (coherent s core asid co va = false ∧ lastCell own (pa + j) = none
                ∧ ∃ ln ∈ s.core.l1, ln.pa = lineOf (pa + j) ∧ bytes[j]? = ln.bytes[(pa + j) % 128]?)
              ∨ (coherent s core asid co va = true ∧ lastCell own (pa + j) = none
                ∧ ∃ a ∈ s.core.ahead, a.k = s.sq.key ∧ a.scratch = false ∧ dep ≤ a.place ∧ a.pa = lineOf (pa + j) ∧ bytes[j]? = a.bytes[(pa + j) % 128]?))
        ∧ (let x := ofBytes bytes
           let y := if signed ∧ 2 ^ (8 * w - 1) ≤ x then BitVec.ofInt 64 ((x : Int) - 2 ^ (8 * w)) else BitVec.ofNat 64 x
           (done t ∧ (if uni then uval t d = y else if z = 3#2 then val64 t d lane = y else val32 t d lane = y.setWidth 32))
           ∨ (older ∧ sc = false ∧ (∃ a ∈ acc, coherent s core asid co a.2 = true) ∧ kept t ∧ (∀ a, t.mem.read a = s.mem.read a)
              ∧ ∃ g, { p with got := g } ∈ t.sq.prods
                ∧ (lane, if uni = true ∨ z ≠ 3#2 then [y] else [(y.extractLsb' 0 32).setWidth 64, (y.extractLsb' 32 32).setWidth 64]) ∈ g)))
    ∧ (∀ g : List DWord, sc = false → (got.map (·.1)).Nodup → got.map (·.1) = acc.map (·.1) → (lane, g) ∈ got →
        (¬ older → Completes (.producerWrite s.sq.key seq) s fun t => done t
          ∧ ∀ (i : Nat) (o : Opnd) (x : DWord), (wide z d)[i]? = some o → g[i]? = some x → if uni then uval t o = x else val32 t o lane = x.setWidth 32)
        ∧ (older → Completes (.producerWrite s.sq.key seq) s fun t => kept t ∧ p ∈ t.sq.prods ∧ t.mem = s.mem))

/-- R200, R204, R206: a store joins its squad's queue with the bytes of its lanes at the addresses of R115; no byte
of memory outside the notification ring changes at its issue. -/
def Obligations.StoreIssue : Prop :=
  ∀ (c : Bool) (d b : Opnd) (z : BitVec 2) (e : Bool) (n : BitVec 6) (s : State),
    let acc := accesses (uJoin d b) (memAddr s b n z) s
    let cells := acc.flatMap (fun a => cellsAt a.2 (toBytes (2 ^ z.toNat) (datum s d z a.1).toNat))
    (ReadyFor (.st c d b z e n) s → memChecks s .write (uJoin d b) s.sq.em (memBytes z) (memBytes z) acc = none →
      (s.sq.em = 0#32 → Completes (.st c d b z e n) s (Issued s))
      ∧ (s.sq.em ≠ 0#32 → Completes (.st c d b z e n) s fun t => ∃ r u, Issued s r ∧ Counted u t
          ∧ u = { r with sq := { r.sq with storeq := r.sq.storeq ++ [⟨s.sq.seq, .store cells⟩], seq := s.sq.seq + 1 } }))
    ∧ (ReadyFor (.stsc c d b z e n) s → scratchChecks s .write (uJoin d b) s.sq.em (memBytes z) acc = none →
      (s.sq.em = 0#32 → Completes (.stsc c d b z e n) s (Issued s))
      ∧ (s.sq.em ≠ 0#32 → Completes (.stsc c d b z e n) s fun t => ∃ r, Issued s r
          ∧ t = { r with sq := { r.sq with storeq := r.sq.storeq ++ [⟨s.sq.seq, .scratch cells⟩], seq := s.sq.seq + 1 } }))

/-- R227, R231, R242: the oldest entry of a squad's queue leaves it. A scratch store writes its bytes to the team's scratch
and nothing else; a store to memory goes, line by line, to the core's merge unit, from there to its die, and to memory
where the die is its home. Each step writes the bytes that it holds and no other. That they travel line by line, and the
direct write to a home on the own die, are the model's choices (logs 17, 20). -/
def Obligations.StoreTravels : Prop :=
  (∀ (s : State) (core : Nat) (q : Squad) (tm : Team) (e : SEntry) (rest : List SEntry) (cells : List (Nat × Byte)),
    s.findSq q.key = some q → s.findTeam q.key.team = some tm → tm.core = core → q.storeq = e :: rest →
    mergeOk s core (s.getLaunch q.key.lid).asid q e = true →
    (e.kind = .scratch cells → tm.scratch.wf = true → Completes (.mergeStep core [q.key]) s fun t =>
      (t.getSq q.key).storeq = rest ∧ Stored cells tm.scratch (t.getTeam q.key.team).scratch
      ∧ (t.getTeam q.key.team).scratch.wf = true ∧ (∀ a, t.mem.read a = s.mem.read a) ∧ t.core = s.core ∧ t.dies = s.dies)
    ∧ (e.kind = .store cells → Completes (.mergeStep core [q.key]) s fun t =>
      (t.getSq q.key).storeq = rest ∧ (∀ a, t.mem.read a = s.mem.read a) ∧ t.dies = s.dies
      ∧ ∃ es, (t.getCore core).merged = (s.getCore core).merged ++ es
        ∧ es.map (·.cells) = byLine (physCells s core (s.getLaunch q.key.lid).asid cells)
        ∧ ∀ x ∈ es, x.k = q.key ∧ x.seq = e.seq))
  ∧ (∀ (s : State) (e : Pending), s.mem.wf = true →
    (∀ core, oldestOfLine (s.getCore core).merged e.stamp = some e →
      ((∀ c ∈ e.cells, homeOf s c.1 = dieOf core) → Completes (.dieL2Acceptance core e.stamp) s fun t =>
        Stored e.cells s.mem t.mem ∧ t.mem.wf = true
        ∧ (t.getCore core).merged = (s.getCore core).merged.filter (·.stamp != e.stamp))
      ∧ ((∃ c ∈ e.cells, homeOf s c.1 ≠ dieOf core) → (∃ x ∈ s.dies.toList, x.id = dieOf core) →
        (s.getDie (dieOf core)).pend.length < 524288 → Completes (.dieL2Acceptance core e.stamp) s fun t =>
        (∀ a, t.mem.read a = s.mem.read a)
        ∧ (∃ n, (t.getDie (dieOf core)).pend = (s.getDie (dieOf core)).pend ++ [⟨n, e.k, e.seq, e.cells⟩])
        ∧ (t.getCore core).merged = (s.getCore core).merged.filter (·.stamp != e.stamp)))
    ∧ (∀ die, oldestOfLine (s.getDie die).pend e.stamp = some e → Completes (.homeAcceptance die e.stamp) s fun t =>
        Stored e.cells s.mem t.mem ∧ t.mem.wf = true
        ∧ (t.getDie die).pend = (s.getDie die).pend.filter (·.stamp != e.stamp)))

/-- R198, R209 to R212, R345: an atomic that passes its checks joins the queue, one entry for each access in ascending lane
order; one that returns a value empties its destination; under an empty EM it does nothing. In a DET launch a returning
atomic beyond team scope traps with cause 0x11, and the others wait for their turn: that no counted squad of the launch, or
at team scope of the team, stands before this one in the order of lclk, tmid and sqid. That an atomic under an empty EM takes
no turn, and that the wait for the turn ends the run, are the model's choices (logs 17, 11). -/
def Obligations.AtomicIssue : Prop :=
  ∀ (c : Bool) (d b : Opnd) (z : BitVec 2) (e : Bool) (p : BitVec 4) (g : BitVec 2) (s : State),
    let det := s.launch.lr.det
    (∀ i, i = Instr.amo c d b z e p g ∨ i = Instr.amor c d b z e p g ∨ i = Instr.cas c d b z e g → ReadyFor i s →
      (s.sq.em = 0#32 → Completes i s (Issued s))
      ∧ (s.sq.em ≠ 0#32 → det = true → g ≠ 0#2 → i ≠ .amo c d b z e p g →
        ∃ w, encode i = [w] ∧ Traps i s ⟨0x11#8, w.setWidth 64, 0#64, s.sq.em⟩)
      ∧ (∀ q ∈ s.allSquads, s.sq.em ≠ 0#32 → det = true → g = 0#2 ∨ i = .amo c d b z e p g → q.key.lid = s.sq.key.lid →
        q.key ≠ s.sq.key → (g = 0#2 → q.key.team = s.sq.key.team) → q.status = .live ∨ q.status = .retiring →
        uncounted s q = false →
        (q.lclk.toNat < s.sq.lclk.toNat ∨ (q.lclk = s.sq.lclk ∧ (q.key.tmid < s.sq.key.tmid
          ∨ (q.key.tmid = s.sq.key.tmid ∧ q.key.sqid ≤ s.sq.key.sqid)))) → exec i s = .next (waitHere .turn s)))
    ∧ (s.sq.em ≠ 0#32 → turnHeld (g == 0#2) s = false →
      (∀ (acc : List (Nat × Nat)), acc = accesses (uJoin d b) (memAddr s b 0#6 z) s →
        memChecks s .atomic (uJoin d b) s.sq.em (memBytes z) (memBytes z) acc = none →
        let ks := fun (ret : Bool) => acc.map (fun a => (⟨s.sq.seq, .atomic a.1 a.2 (scopeOf g) (memBytes z) p none (datum s d z a.1) ret⟩ : SEntry))
        (ReadyFor (.amo c d b z e p g) s → Completes (.amo c d b z e p g) s fun t => ∃ r, Issued s r ∧
          Counted { r with sq := { r.sq with storeq := r.sq.storeq ++ ks false, seq := s.sq.seq + 1 } } t)
        ∧ (ReadyFor (.amor c d b z e p g) s → (det = true → g = 0#2) → Completes (.amor c d b z e p g) s fun t => ∃ r, Issued s r ∧
          Counted ((addProd (.atomic z (uJoin d b)) (wide z d) r).onSq (fun q => { q with storeq := q.storeq ++ ks true })) t
            ∧ ∀ o ∈ wide z d, t.sq.isFull o = false))
      ∧ (∀ (acc : List (Nat × Nat)), acc = accesses d.isS (memAddr s b 0#6 z) s →
        memChecks s .atomic d.isS s.sq.em (memBytes z) (memBytes z) acc = none →
        let ks := acc.map (fun a => (⟨s.sq.seq, .atomic a.1 a.2 (scopeOf g) (memBytes z) 8#4 (some (casExpected d z s a.1))
          (casNew d z s a.1) true⟩ : SEntry))
        ReadyFor (.cas c d b z e g) s → (det = true → g = 0#2) → Completes (.cas c d b z e g) s fun t => ∃ r, Issued s r ∧
          Counted ((addProd (.atomic z d.isS) (wide z d) r).onSq (fun q => { q with storeq := q.storeq ++ ks })) t
            ∧ ∀ o ∈ wide z d, t.sq.isFull o = false))

/-- R209 to R211, Table 9-7: an atomic reads the youngest value at the point of its scope and writes the result of its
operation there: at team scope into the core's merge unit, at die scope into the die, at device or system scope, and outside
HBM, into memory at its home. A compare that does not hold writes nothing. The old value goes to the producer of a word that
returns it. That each scope has this one place and order is the model's choice (log 17). Here, at die scope or beyond, no byte
is on its way. -/
def Obligations.AtomicPerformed : Prop :=
  ∀ (s : State) (core : Nat) (q : Squad) (tm : Team) (rest : List SEntry) (seq lane va pa n : Nat) (scope : Scope)
    (opn : BitVec 4) (cas : Option DWord) (x : DWord) (ret : Bool),
    s.findSq q.key = some q → s.findTeam q.key.team = some tm → tm.core = core → s.mem.wf = true →
    q.storeq = ⟨seq, .atomic lane va scope n opn cas x ret⟩ :: rest →
    mergeOk s core (s.getLaunch q.key.lid).asid q ⟨seq, .atomic lane va scope n opn cas x ret⟩ = true →
    phys s core (s.getLaunch q.key.lid).asid va = some pa → n = 4 ∨ n = 8 → pa % n = 0 → opn.toNat < 12 → (9 ≤ opn.toNat → n = 4) →
    scope ≠ .squad → (scope = .team ∧ pa < 2 ^ 40) ∨ ((s.getCore core).merged = [] ∧ (s.getDie (dieOf core)).pend = []) →
    Completes (.mergeStep core [q.key]) s fun t =>
      let old := ofBytes ((span pa n).map (fun a => (lastCell (cellsOnWay s core) a).getD (s.mem.read a)))
      let same := (∀ a, t.mem.read a = s.mem.read a) ∧ (t.getCore core).merged = (s.getCore core).merged
        ∧ (t.getDie (dieOf core)).pend = (s.getDie (dieOf core)).pend
      (t.getSq q.key).storeq = rest ∧ t.mem.wf = true
      ∧ (∀ e, cas = some e → old ≠ e.toNat % 2 ^ (8 * n) → same)
      ∧ ((∀ e, cas = some e → old = e.toNat % 2 ^ (8 * n)) → ∃ new : Nat,
        (match cas with
          | some _ => new = x.toNat
          | none => if n = 4 then ∃ y : Word, operates opn.toNat 32 (BitVec.ofNat 32 old) (x.setWidth 32) y ∧ new = y.toNat
              else ∃ y : DWord, operates opn.toNat 64 (BitVec.ofNat 64 old) x y ∧ new = y.toNat)
        ∧ (let cells := cellsAt pa (toBytes n new)
           if scope = .team ∧ pa < 2 ^ 40 then (∀ a, t.mem.read a = s.mem.read a)
              ∧ ∃ k, (t.getCore core).merged = (s.getCore core).merged ++ [⟨k, q.key, seq, cells⟩]
           else if scope = .die ∧ pa < 2 ^ 40 ∧ homeOf s pa ≠ dieOf core then
             (∃ y ∈ s.dies.toList, y.id = dieOf core) → (∀ a, a ∈ span pa n → homeOf s a = homeOf s pa) →
              (∀ a, t.mem.read a = s.mem.read a) ∧ ∃ k, (t.getDie (dieOf core)).pend = [⟨k, q.key, seq, cells⟩]
           else (∀ a, a ∈ span pa n → homeOf s a = homeOf s pa) → Stored cells s.mem t.mem))
      ∧ (ret = true → ∀ p ∈ q.prods, p.seq = seq → (∀ r ∈ q.prods, r.seq = seq → r = p) → ∀ z uni, p.kind = .atomic z uni →
        { p with got := p.got ++ [(lane, if uni = true ∨ n = 4 then [BitVec.ofNat 64 old]
          else [BitVec.ofNat 64 (old % 2 ^ 32), BitVec.ofNat 64 (old / 2 ^ 32)])] } ∈ (t.getSq q.key).prods)

/-- R213 to R216, R222: the words that order accesses, drop cached copies, prefetch or wait for two registers. When a store
is home (log 19), and that IFENCE's wait ends the run (log 11), are the model's choices; a fence that acquires also drops what
the squad read ahead (log 16). -/
def Obligations.OrderingWords : Prop :=
  ∀ (c : Bool) (s : State),
    (∀ k g, ReadyFor (.fence c k g) s → Completes (.fence c k g) s fun t => ∃ r, Issued s r
        ∧ t = settle { r with
            core := { r.core with ahead := if k = 1#2 then r.core.ahead else r.core.ahead.filter (·.k != s.sq.key) }
            sq := { r.sq with
              fences := r.sq.fences ++ [⟨s.sq.key, s.sq.seq, k != 1#2, k != 0#2, k == 2#2, false, false, fscopeOf g, none, none⟩]
              seq := s.sq.seq + 1 } } ∧ RegsKept [] s t ∧ BytesKept s t)
    ∧ (ReadyFor (.ifence c) s → storesHome s.sq.seq s = true → Completes (.ifence c) s fun t => ∃ r, Issued s r
        ∧ t = { r with core := { r.core with icache := [], deck := [] } })
    ∧ (ReadyFor (.ifence c) s → storesHome s.sq.seq s = false → exec (.ifence c) s = .next (waitHere .order s))
    ∧ (ReadyFor (.l1inv c) s → Completes (.l1inv c) s fun t => ∃ r, Issued s r ∧ t = { r with core := { r.core with l1 := [] } })
    ∧ (∀ b z o e n, ReadyFor (.pf c b z o e n) s → s.mem.wf = true → Completes (.pf c b z o e n) s fun t =>
        t.sq = { s.sq with lclk := t.sq.lclk, wait := t.sq.wait, pkt := t.sq.pkt, word := t.sq.word, running := t.sq.running, runPkts := t.sq.runPkts } ∧ Retired s t
        ∧ ∀ a, OutsideRing s a → t.mem.read a = s.mem.read a)
    ∧ (∀ a b, (Instr.waite c a b).wf = true → s.sq.settled a = true → s.sq.settled b = true → Completes (.waite c a b) s fun t =>
        t = { s with sq := t.sq } ∧ Retired s t ∧ t.sq.uncorr = s.sq.uncorr ∧ t.sq.poison = s.sq.poison
        ∧ (∀ o l, o.isReg = true → val t o l = val s o l) ∧ ∀ o, t.sq.isFull o = s.sq.isFull o)
    ∧ (∀ a b, (Instr.waite c a b).wf = true → s.sq.settled a = true → s.sq.isFull b = false → s.sq.interlocked b = false →
        exec (.waite c a b) s = .next (waitHere (s.sq.waitOn b) s))
    ∧ (∀ a b, (Instr.waite c a b).wf = true → s.sq.isFull a = false → s.sq.interlocked a = false → exec (.waite c a b) s = .next (waitHere (s.sq.waitOn a) s))

/-! ## Shoes and barriers -/

/-- R218 to R221: takes join their side's order, puts wait for their release and move slots between the counters, queries
read the counters, and misuse traps with cause 0x18: bits [63:4] of the operand, a shoe outside the team's mask or without
slots, a count of SHPUT of 0 or beyond the slots taken, and the free or fill side of a shoe that a command in flight names. A producer take is an acquire at team scope once it is
served (R234, R247, log 22); that a put's wait ends the run is the model's choice (log 11). -/
def Obligations.ShoeWords : Prop :=
  ∀ (c m : Bool) (d a b : Opnd) (n : Fin 16) (s : State),
    (namesShoe (uval s a) n s → ReadyFor (.shtake c d a m) s → (m = true → shoeBusy s s.team.key n.val = false) →
      Completes (.shtake c d a m) s fun t => Retired s t
        ∧ t.sq.isFull d = false ∧ (∀ o, o ≠ d → t.sq.isFull o = s.sq.isFull o) ∧ (∀ o, o.isReg = true → ∀ l, val t o l = val s o l)
        ∧ (∃ p ∈ t.sq.prods, p.seq = s.sq.seq ∧ p.regs = [d] ∧ p.kind = .take (BitVec.ofNat 4 n.val) m)
        ∧ (s.sq.status ≠ .absent → ∃ f ∈ t.sq.fences, f.seq = s.sq.seq + 1 ∧ f.acq = true ∧ f.scope = .team)
        ∧ t.team = { s.team with shoes := vset s.team.shoes n.val (if m
            then { vget s.team.shoes n.val with ptakes := (vget s.team.shoes n.val).ptakes ++ [(s.sq.key, s.sq.seq)] }
            else { vget s.team.shoes n.val with ctakes := (vget s.team.shoes n.val).ctakes ++ [(s.sq.key, s.sq.seq)] }) }
        ∧ BytesKept s t)
    ∧ (namesShoe (uval s a) n s → ReadyFor (.shput c a b m) s → uval s b ≠ 0#64 →
      (uval s b).toNat + putsDue n.val m s ≤ (if m then (vget s.team.shoes n.val).ptaken else (vget s.team.shoes n.val).ctaken) →
      (m = true → shoeBusy s s.team.key n.val = false) →
      (releasedBefore s.sq s.sq.seq = false → exec (.shput c a b m) s = .next (waitHere .order s)) ∧ (releasedBefore s.sq s.sq.seq = true →
      Completes (.shput c a b m) s fun t => ∃ r, Issued s r
        ∧ t = { r with team := { r.team with shoes := vset r.team.shoes n.val (
            let h := vget s.team.shoes n.val
            if m then { h with ptaken := h.ptaken - (uval s b).toNat, filled := h.filled + (uval s b).toNat }
            else { h with ctaken := h.ctaken - (uval s b).toNat, free := h.free + (uval s b).toNat }) } }))
    ∧ (namesShoe (uval s a) n s → ReadyFor (.shqry c d a) s → Completes (.shqry c d a) s fun t => OnlyRegs [d] s t
        ∧ UniResult d (let h := vget s.team.shoes n.val
            BitVec.ofNat 64 (h.filled + h.free * 2 ^ 8 + h.ctaken * 2 ^ 16 + h.ptaken * 2 ^ 24 + h.head * 2 ^ 32 + h.tail * 2 ^ 40)) t)
    ∧ (let k := (uval s a).toNat % 16
      let h := vget s.team.shoes k
      let misused := fun i => ReadyFor i s → Traps i s ⟨0x18#8, BitVec.ofNat 64 k, 0#64, s.sq.em⟩
      (16 ≤ (uval s a).toNat ∨ s.team.shoeMask.getLsbD k = false ∨ h.nslot = 0 →
        misused (.shtake c d a m) ∧ misused (.shput c a b m) ∧ misused (.shqry c d a))
      ∧ (uval s b = 0#64 ∨ (if m then h.ptaken else h.ctaken) < (uval s b).toNat + putsDue k m s → misused (.shput c a b m))
      ∧ (m = true → shoeBusy s s.team.key k = true → misused (.shtake c d a m) ∧ misused (.shput c a b m)))

/-- R217, R218: a legal write of SHOEn empties the shoe with every slot free, one that R217 refuses changes nothing; and the
oldest take of a side is served with the address of its slot while the side holds one, at its place of program order: not
before an earlier word of its chain has had its effect, or before the BAR.sync that it follows completes (R225, log 22). -/
def Obligations.ShoeEvents : Prop :=
  ∀ (s : State) (q : Squad) (tm : Team) (n : BitVec 4) (x : DWord), s.findTeam q.key.team = some tm →
    (tm.shoeMask.getLsbD n.toNat = true → ¬ RefusesShoe s tm n.toNat x →
      Completes (.shoeConfigure q.key n x) s fun t =>
        (t.getTeam q.key.team).shoes = vset tm.shoes n.toNat ⟨x, 0, (x.extractLsb' 32 8).toNat, 0, 0, 0, 0, [], []⟩
        ∧ t = { s with team := t.team, teams := t.teams })
    ∧ (RefusesShoe s tm n.toNat x → exec (.shoeConfigure q.key n x) s = .next s)
    ∧ (∀ (free : Bool) (seq dep : Nat) (d : Fin 32) (r : List (SquadKey × Nat)),
        let h := vget tm.shoes n.toNat
        let due := (∀ l ∈ q.late, seq ≤ l.1) ∧ ∀ f ∈ q.fences, f.barrier = true → seq ≤ f.seq
        s.findSq q.key = some q → (if free then h.ptakes else h.ctakes) = (q.key, seq) :: r →
        ((if free then h.free else h.filled) = 0 ∨ ¬ due → exec (.shoeTakeServe q.key.team n free) s = .next s)
        ∧ (q.prods.find? (·.seq == seq) = some ⟨seq, .take n free, [.s d], [], dep⟩ →
        (if free then h.free else h.filled) ≠ 0 → due → Completes (.shoeTakeServe q.key.team n free) s fun t =>
          vget (t.getSq q.key).s d.val = BitVec.ofNat 64 (h.base + 64 * h.slot * (if free then h.tail else h.head))
          ∧ (t.getSq q.key).isFull (.s d) = true
          ∧ (t.getTeam q.key.team).shoes = vset tm.shoes n.toNat (if free
              then { h with free := h.free - 1, ptaken := h.ptaken + 1, tail := (h.tail + 1) % h.nslot, ptakes := r }
              else { h with filled := h.filled - 1, ctaken := h.ctaken + 1, head := (h.head + 1) % h.nslot, ctakes := r })))

/-- R223 to R225: arrivals, waits and BAR.sync. An arrival is a release and waits for the squad's earlier accesses; a wait
that ends is an acquire, and so is a BAR.sync, whose acquire completes when its wait does. How the model orders by them, and
that every wait ends the run, are its choices (logs 23, 11). -/
def Obligations.BarrierWords : Prop :=
  ∀ (c : Bool) (d : Opnd) (a : BitVec 5) (n : BitVec 4) (s : State),
    let cnt := uval s (sReg a)
    let b := vget s.team.bars n.toNat
    let legal := 1 ≤ cnt.toNat ∧ cnt.toNat ≤ s.team.nsq ∧ (b.need = 0 ∨ b.need = cnt.toNat) ∧ ∀ y ∈ arrivalsDue n s, y = cnt.toNat
    let released := releasedBefore s.sq s.sq.seq
    (ReadyFor (.barArrive c d a n) s → legal → released = true → Completes (.barArrive c d a n) s fun t =>
      RegsKept [d] s t ∧ BytesKept s t ∧ UniResult d (b.phase.setWidth 64) t
      ∧ t.team.bars = vset s.team.bars n.toNat (afterArrival b cnt.toNat))
    ∧ (ReadyFor (.barSync c a n) s → legal → released = true → Completes (.barSync c a n) s fun t =>
      RegsKept [] s t ∧ BytesKept s t ∧ t.team.bars = vset s.team.bars n.toNat (afterArrival b cnt.toNat)
      ∧ (b.arr + 1 ≠ cnt.toNat → t.sq.syncw = some (b.phase, n) ∧ t.sq.running = false
        ∧ (s.sq.status ≠ .absent → ∃ f ∈ t.sq.fences, f.seq = s.sq.seq ∧ f.acq = true ∧ f.barrier = true))
      ∧ (b.arr + 1 = cnt.toNat → t.sq.syncw = s.sq.syncw))
    ∧ (∀ i, i = Instr.barArrive c d a n ∨ i = Instr.barSync c a n → ReadyFor i s →
        (¬ legal → Traps i s ⟨0x12#8, BitVec.ofNat 64 (lowest s.sq.em), cnt, s.sq.em⟩)
        ∧ (legal → released = false → exec i s = .next (waitHere .order s)))
    ∧ (ReadyFor (.barWait c a n) s → b.phase ≠ (uval s (sReg a)).setWidth 32 → Completes (.barWait c a n) s fun t =>
        ∃ r, Issued s r ∧ t = settle { r with
          core := { r.core with ahead := r.core.ahead.filter (·.k != s.sq.key) }
          sq := { r.sq with
            fences := r.sq.fences ++ [⟨s.sq.key, s.sq.seq, true, false, false, false, false, .team, none, none⟩], seq := s.sq.seq + 1 } })
    ∧ (ReadyFor (.barWait c a n) s → b.phase = (uval s (sReg a)).setWidth 32 →
        exec (.barWait c a n) s = .next (waitHere (.barWait n b.phase) s))
    ∧ (∀ (q : Squad) (tm : Team) (p : BitVec 32), s.findSq q.key = some q → s.findTeam q.key.team = some tm → q.syncw = some (p, n) →
        ((vget tm.bars n.toNat).phase ≠ p → Completes (.barSyncCompletion q.key) s fun t => ∃ u, t = settle u
          ∧ u.getSq q.key = { q with syncw := none, wait := none } ∧ u = { s with sq := u.sq, squads := u.squads })
        ∧ ((vget tm.bars n.toNat).phase = p → exec (.barSyncCompletion q.key) s = .next s))

/-! ## Tile, accumulator and matrix words -/

/-- R283, R285, R287 to R289: tile transfers with memory and with a register, and the bounds of their slices. That TLD reads
its words at issue is the model's choice (log 16). -/
def Obligations.TileWordsMove : Prop :=
  ∀ (c : Bool) (t : BitVec 3) (l : Bool) (x i : BitVec 5) (v : Opnd) (e : Bool) (s : State),
    let n := (uval s (sReg x)).toNat + i.toNat
    let limit := if l then 15 else 31
    (∀ f : BitVec 2, s.sq.em = 0#32 → ReadyFor (.tld c t l x i v e f) s → Completes (.tld c t l x i v e f) s (Issued s))
    ∧ (∀ f : BitVec 2, s.sq.em = 0#32 → ReadyFor (.tst c t l x i v e f) s → Completes (.tst c t l x i v e f) s (Issued s))
    ∧ (∀ f, s.sq.em = 0#32 → ReadyFor (.tmov c t l x i v e f) s → Completes (.tmov c t l x i v e f) s (Issued s))
    ∧ (∀ f : BitVec 2, s.sq.em ≠ 0#32 → n + f.toNat ≤ limit →
        let acc := tileAccesses s l n f.toNat v
        let vas := acc.map (·.1.2)
        (ReadyFor (.tld c t l x i v e f) s → memChecks s .read (!l) s.sq.em 4 4 (acc.map (·.1)) = none →
          tBusy s.sq t.toNat = false → readBlocked s s.sq.seq vas = false → Completes (.tld c t l x i v e f) s fun u =>
            ∃ r, Issued s r ∧ Counted (noteRead false (physBytes s vas 4) (r.onSq (·.putTile t.toNat
                (acc.map (fun a => (a.2.1, a.2.2, BitVec.ofNat 32 (readNow s s.sq.seq a.1.2 4))))))) u
              ∧ TileWords t.toNat (acc.map (fun a => (a.2.1, a.2.2, BitVec.ofNat 32 (readNow s s.sq.seq a.1.2 4)))) s.sq u.sq
              ∧ RegsKept [] s u)
        ∧ (ReadyFor (.tst c t l x i v e f) s → memChecks s .write (!l) s.sq.em 4 4 (acc.map (·.1)) = none →
          Completes (.tst c t l x i v e f) s fun u => ∃ r, Issued s r ∧ Counted { r with sq := { r.sq with
            storeq := r.sq.storeq ++ [⟨s.sq.seq, .store (acc.flatMap (fun a => cellsAt a.1.2
              (toBytes 4 (s.sq.tword t.toNat a.2.1 a.2.2).toNat)))⟩], seq := s.sq.seq + 1 } } u))
    ∧ (s.sq.em ≠ 0#32 → n ≤ limit → ReadyFor (.tmov c t l x i v e true) s → tBusy s.sq t.toNat = false →
        Completes (.tmov c t l x i v e true) s fun u => RegsKept [] s u ∧ BytesKept s u ∧ Retired s u
          ∧ TileWords t.toNat (((Mask.list s.sq.em).filter (fun k => l || decide (k ≤ 15))).map
              (fun k => ((cellOf l n k).1, (cellOf l n k).2, val32 s v k))) s.sq u.sq)
    ∧ (s.sq.em ≠ 0#32 → n ≤ limit → ReadyFor (.tmov c t l x i v e false) s →
        Completes (.tmov c t l x i v e false) s fun u => OnlyRegs [v] s u ∧ LaneResult v (fun k =>
          if l = true ∨ k ≤ 15 then s.sq.tword t.toNat (cellOf l n k).1 (cellOf l n k).2 else 0#32) s u)
    ∧ (∀ f : BitVec 2, s.sq.em ≠ 0#32 → n + f.toNat ≤ limit → ReadyFor (.tld c t l x i v e f) s →
        memChecks s .read (!l) s.sq.em 4 4 ((tileAccesses s l n f.toNat v).map (·.1)) = none → tBusy s.sq t.toNat = true →
        exec (.tld c t l x i v e f) s = .next (waitHere .tile s))
    ∧ (s.sq.em ≠ 0#32 →
        let outside := fun (f : Nat) (j : Instr) => limit < n + f → ReadyFor j s →
          Traps j s ⟨0x12#8, BitVec.ofNat 64 (lowest s.sq.em), BitVec.ofNat 64 n, s.sq.em⟩
        (∀ f, outside f.toNat (.tld c t l x i v e f)) ∧ (∀ f, outside f.toNat (.tst c t l x i v e f))
        ∧ ∀ f, outside 0 (.tmov c t l x i v e f))

/-- R268, R290 to R293: clearing, reading and moving accumulator tiles; a name that no owned tile stands behind, a column
beyond its limit and a failed access trap. That ZXF loads its rows at issue is the model's choice (log 16). -/
def Obligations.AccumulatorWords : Prop :=
  ∀ (c : Bool) (s : State), s.core.zbad = [] → s.core.zpoison = [] →
    (∀ z f, ReadyFor (.zclr c z f) s → s.sq.em ≠ 0#32 → (zPhys s (z.toNat + f.toNat)).isSome = true →
      (∀ k, k ≤ f.toNat → zBusy s.sq (k + z.toNat) = false) → Completes (.zclr c z f) s fun t =>
        (∃ r, Issued s r ∧ t = { r with core := { r.core with z := t.core.z, ovf := t.core.ovf } })
        ∧ ∀ p, p < 8 → if ∃ k, k ≤ f.toNat ∧ zPhys s (k + z.toNat) = some p
          then (∀ i, i < 32 → vget (vget t.core.z p) i = 0#2304) ∧ t.core.ovf.getLsbD p = false
          else vget t.core.z p = vget s.core.z p ∧ t.core.ovf.getLsbD p = s.core.ovf.getLsbD p)
    ∧ (∀ z f, ReadyFor (.zclr c z f) s → s.sq.em = 0#32 → Completes (.zclr c z f) s (Issued s))
    ∧ (∀ t l x i v f p, ReadyFor (.zrd c t l x i v f) s → s.sq.em ≠ 0#32 → zPhys s t.toNat = some p →
        zBusy s.sq t.toNat = false →
        let k := (uval s (sReg x)).toNat + i.toNat
        let tile := vget s.core.z p
        (f = 0#2 → k ≤ 63 → Completes (.zrd c t l x i v f) s fun u => OnlyRegs [v] s u
            ∧ LaneResult v (fun r => BitVec.ofNat 32 (readout s.sq.fmt (zElem tile r k))) s u)
        ∧ (∀ n : Fin 64, f = 1#2 → v = .v n → k ≤ outBytes s.sq.fmt - 1 → tBusy s.sq n.val = false →
            Completes (.zrd c t l x i v f) s fun u => RegsKept [] s u ∧ BytesKept s u ∧ Retired s u
              ∧ TileWords n.val ((Mask.list s.sq.em).flatMap (fun r => (List.range 16).map (fun w =>
                  (r, w, (packedRow s.sq.fmt tile r k).extractLsb' (32 * w) 32)))) s.sq u.sq)
        ∧ (f = 2#2 → Completes (.zrd c t l x i v f) s fun u => OnlyRegs [v] s u
            ∧ UniResult v (if s.core.ovf.getLsbD p then 1#64 else 0#64) u))
    ∧ (∀ z b e m p, ReadyFor (.zxf c z b e m) s → s.sq.em ≠ 0#32 → zPhys s z.toNat = some p → zBusy s.sq z.toNat = false →
        let acc := zAccesses s (uval s (sReg b))
        (m = false → memChecks s .write false s.sq.em 8 8 (acc.map (·.1)) = none → Completes (.zxf c z b e m) s fun u =>
          ∃ r, Issued s r ∧ Counted { r with sq := { r.sq with storeq := r.sq.storeq ++ [⟨s.sq.seq, .store (acc.flatMap
            (fun a => cellsAt a.1.2 (toBytes 8 (zElem (vget s.core.z p) a.2.1 a.2.2).toNat)))⟩], seq := s.sq.seq + 1 } } u)
        ∧ (m = true → memChecks s .read false s.sq.em 8 8 (acc.map (·.1)) = none → readBlocked s s.sq.seq (acc.map (·.1.2)) = false →
          Completes (.zxf c z b e m) s fun u => RegsKept [] s u ∧ Retired s u
            ∧ (∀ k, k ≠ p → vget u.core.z k = vget s.core.z k)
            ∧ ∀ i k, i < 32 → k < 64 → zElem (vget u.core.z p) i k = if s.sq.em.getLsbD i
              then BitVec.ofNat 36 (readNow s s.sq.seq (uval s (sReg b) + BitVec.ofNat 64 (512 * i + 8 * k)).toNat 8)
              else zElem (vget s.core.z p) i k))
    ∧ (∀ z f, ReadyFor (.zclr c z f) s → s.sq.em ≠ 0#32 → zPhys s (z.toNat + f.toNat) = none →
        Traps (.zclr c z f) s ⟨0x12#8, BitVec.ofNat 64 (lowest s.sq.em), BitVec.ofNat 64 (z.toNat + f.toNat), s.sq.em⟩)
    ∧ (∀ t l x i v f, ReadyFor (.zrd c t l x i v f) s → s.sq.em ≠ 0#32 →
        let k := (uval s (sReg x)).toNat + i.toNat
        (zPhys s t.toNat = none →
          Traps (.zrd c t l x i v f) s ⟨0x12#8, BitVec.ofNat 64 (lowest s.sq.em), t.setWidth 64, s.sq.em⟩)
        ∧ (zPhys s t.toNat ≠ none → zBusy s.sq t.toNat = false →
          (f = 0#2 ∧ 63 < k) ∨ (f = 1#2 ∧ outBytes s.sq.fmt ≤ k) →
          Traps (.zrd c t l x i v f) s ⟨0x12#8, BitVec.ofNat 64 (lowest s.sq.em), BitVec.ofNat 64 k, s.sq.em⟩))
    ∧ (∀ z b e m, ReadyFor (.zxf c z b e m) s → s.sq.em ≠ 0#32 →
        (zPhys s z.toNat = none →
          Traps (.zxf c z b e m) s ⟨0x12#8, BitVec.ofNat 64 (lowest s.sq.em), z.setWidth 64, s.sq.em⟩)
        ∧ (zPhys s z.toNat ≠ none → zBusy s.sq z.toNat = true → exec (.zxf c z b e m) s = .next (waitHere .tile s))
        ∧ (zPhys s z.toNat ≠ none → zBusy s.sq z.toNat = false →
          let acc := (zAccesses s (uval s (sReg b))).map (·.1)
          (∀ r, memChecks s (if m then .read else .write) false s.sq.em 8 8 acc = some r → Traps (.zxf c z b e m) s r)
          ∧ (∀ l, IsLowest s.sq.em l → (uval s (sReg b)).toNat % 8 ≠ 0 → Traps (.zxf c z b e m) s
              ⟨0x0B#8, uval s (sReg b) + BitVec.ofNat 64 (512 * l), 8#64, s.sq.em⟩)))

/-- R269, R294 to R297: a matrix word that passes its checks joins the matrix pipe, with its descriptors, format word
and mask; under an empty EM it does nothing. Its own faults are checked in R297's order: a tile that the squad does not own or
that does not exist (0x12), the formats (0x14), the descriptors' bits that are zero (0x12), the stock lines (0x1B), the range
locks of an STK in flight (0x08) and, for MMAS, the metadata (0x0E). Two clauses are the model's choice (log 24): an NCOL above
63, for which no rule states a check, raises 0x12 like a descriptor that breaks one; and of data and scale lines both outside
the stock, the data's are reported. -/
def Obligations.MatrixIssue : Prop :=
  ∀ (c : Bool) (z a : BitVec 3) (b sm : BitVec 5) (t f : BitVec 3) (e : Bool) (s : State) (i : Instr),
    i = .mma c z a b sm f e ∨ i = .mmas c z a b sm t f e → ReadyFor i s →
    let rec0 : MProg := ⟨s.sq.seq, 0, 0, false, i, uval s (sReg b), if fmtSC s.sq.fmt then uval s (sReg sm) else 0#64,
      s.sq.fmt, s.sq.em, Vector.replicate 32 0#2304, false⟩
    (s.sq.em = 0#32 → Completes i s (Issued s))
    ∧ (s.sq.em ≠ 0#32 → zPhys s z.toNat = none →
        Traps i s ⟨0x12#8, BitVec.ofNat 64 (lowest s.sq.em), z.setWidth 64, s.sq.em⟩)
    ∧ (s.sq.em ≠ 0#32 → zPhys s z.toNat ≠ none → 7 < a.toNat + f.toNat / 4 →
        Traps i s ⟨0x12#8, BitVec.ofNat 64 (lowest s.sq.em), BitVec.ofNat 64 (a.toNat + f.toNat / 4), s.sq.em⟩)
    ∧ (∀ p, s.sq.em ≠ 0#32 → zPhys s z.toNat = some p → a.toNat + f.toNat / 4 ≤ 7 → zBusy s.sq z.toNat = false →
        s.sq.mprog.length < 2 → s.sq.mkeep = none → s.core.zbad = [] → s.core.zpoison = [] →
        let sparse := i = .mmas c z a b sm t f e
        let byte := fun (x : Nat) => isBinary8 x = true
        let bounds := fun (x : DWord) => Traps i s ⟨0x12#8, BitVec.ofNat 64 (lowest s.sq.em), x, s.sq.em⟩
        let stock := fun (line : Nat) => Traps i s ⟨0x1B#8, BitVec.ofNat 64 line, 0#64, s.sq.em⟩
        let fin := s.team.sbase + s.team.slen
        let last := sdKstep rec0.sd + (if sparse then 2 * (f.toNat + 1) else f.toNat + 1) - 1
        let held := fun (ln : Nat) (k : RangeLock) => ln ∈ linesRead rec0 ∧ k ∈ stockRanges s s.core.id ∧ k.lo ≤ ln ∧ ln < k.hi
        let nib := fun (k r g : Nat) => (s.sq.tword t.toNat r k).toNat / 16 ^ g % 16
        let wrong := fun (k r g : Nat) => k ≤ f.toNat ∧ r < 32 ∧ s.sq.em.getLsbD r = true ∧ g < 8 ∧ nib k r g / 4 ≤ nib k r g % 4
        ((fmtAF s.sq.fmt = 0 ∨ (sparse ∧ ¬ (byte (fmtAF s.sq.fmt) ∧ byte (fmtBF s.sq.fmt)))) →
          Traps i s ⟨0x14#8, s.sq.fmt.setWidth 64, 0#64, s.sq.em⟩)
        ∧ (matrixFormat s rec0 = none → rec0.sd.extractLsb' 32 32 ≠ 0#32 ∨ 63 < sdNcol rec0.sd → bounds rec0.sd)
        ∧ (matrixFormat s rec0 = none → rec0.sd.extractLsb' 32 32 = 0#32 → sdNcol rec0.sd ≤ 63 → fmtSC s.sq.fmt = true →
          rec0.scd.extractLsb' 20 44 ≠ 0#44 → bounds rec0.scd)
        ∧ (matrixFormat s rec0 = none → matrixDescriptor s rec0 = none →
          let line := sdLine rec0.sd
          let scale := scLine rec0.scd
          (line < s.team.sbase → stock line)
          ∧ (s.team.sbase ≤ line → fin ≤ line + 16 * last + 15 → stock (max (line + 16 * sdKstep rec0.sd) fin))
          ∧ (s.team.sbase ≤ line → line + 16 * last + 15 < fin → fmtSC s.sq.fmt = true →
            (scale < s.team.sbase → stock scale)
            ∧ (s.team.sbase ≤ scale → fin ≤ scale + last → stock (max (scale + sdKstep rec0.sd) fin))))
        ∧ (matrixFormat s rec0 = none → matrixDescriptor s rec0 = none → matrixStock s rec0 = none →
          ∀ ln, (∃ k, held ln k) → (∀ n, n < ln → ¬ ∃ k, held n k) →
            ∃ k, held ln k ∧ Traps i s ⟨0x08#8, BitVec.ofNat 64 ln, BitVec.ofNat 64 k.entry, s.sq.em⟩)
        ∧ (matrixFormat s rec0 = none → matrixDescriptor s rec0 = none → matrixStock s rec0 = none → matrixLock s rec0 = none → sparse →
          ∀ k r g m, wrong k r g → (∀ k' r' g', wrong k' r' g' → k < k' ∨ (k = k' ∧ (r < r' ∨ (r = r' ∧ g ≤ g')))) →
            (∀ l, l < 32 → (m.getLsbD l = true ↔ ∃ k' g', wrong k' l g')) →
            Traps i s ⟨0x0E#8, BitVec.ofNat 64 (r + k * 256 + g * 65536), BitVec.ofNat 64 (nib k r g), m⟩))
    ∧ (∀ p, s.sq.em ≠ 0#32 → zPhys s z.toNat = some p → a.toNat + f.toNat / 4 ≤ 7 → zBusy s.sq z.toNat = false →
        s.sq.mprog.length < 2 → s.sq.mkeep = none → s.core.zbad = [] → s.core.zpoison = [] →
        matrixFormat s rec0 = none → matrixDescriptor s rec0 = none → matrixStock s rec0 = none →
        matrixLock s rec0 = none → matrixMeta s rec0 = none →
        let r1 := { rec0 with before := vget s.core.z p, ovf := s.core.ovf.getLsbD p }
        doomedWord s.core s.sq s.obj.arith r1 (vget s.core.z p) = false →
        Completes i s fun u => ∃ r, Issued s r ∧ u = { r with sq := { r.sq with
          mprog := r.sq.mprog ++ [r1]
          mkeep := none, seq := s.sq.seq + 1 } })

/-- R40, R43, R48: a k-step adds one step's products to every element of the tile that the word's mask and columns
name, rounding each sum once, and leaves every other element and every byte of memory; a team that is saved, and a squad at
its run boundary under a pre-emption, step no more (R279). -/
def Obligations.MatrixStep : Prop :=
  ∀ (s : State) (core : Nat) (q : Squad) (tm : Team) (r : MProg) (rest : List MProg) (p : Nat),
    s.findSq q.key = some q → s.findTeam q.key.team = some tm →
    (tm.status = .saved ∨ (tm.status = .preempting ∧ q.running = false) → exec (.matrixKStep core [q.key]) s = .next s)
    ∧ (tm.core = core → stepsStopped tm q = false → q.mprog = r :: rest →
    (ownedTiles tm.owner q.key.sqid)[(mshape r.word).z]? = some p → trickMayStart s (s.getCore core) r = true →
    let arith := ((s.findObj (s.getLaunch q.key.lid).lr.obj).map (·.arith)).getD s.obj.arith
    fmtNT r.fmt = false ∨ (stepTile (s.getCore core) q arith r (vget (s.getCore core).z p) r.done).nans = [] →
    Completes (.matrixKStep core [q.key]) s fun t =>
      (∀ i col, i < 32 → col < 64 → zElem (vget (t.getCore core).z p) i col =
        if r.em.getLsbD i = true ∧ col ≤ sdNcol r.sd
        then (elemStep (s.getCore core) q arith r (zElem (vget (s.getCore core).z p) i col) r.done i col).1
        else zElem (vget (s.getCore core).z p) i col)
      ∧ (∀ k, k ≠ p → vget (t.getCore core).z k = vget (s.getCore core).z k)
      ∧ (t.getSq q.key).mprog = (if (mshape r.word).steps ≤ r.done + 1 then rest else { r with done := r.done + 1 } :: rest)
      ∧ (∀ a, t.mem.read a = s.mem.read a) ∧ t.dies = s.dies ∧ t.part = s.part)

/-! ## Sparse words and engines -/

/-- R302, R304, R319 to R322, R325 to R327: a sparse read that passes its checks issues; its registers become empty, and its
lanes wait in order for the home slice. Under an empty EM it does nothing. A handle that is not live traps with subcode 1, a
descriptor that is not well formed with subcode 2. -/
def Obligations.SparseReadIssue : Prop :=
  ∀ (c e f m : Bool) (d a b : Opnd) (s : State) (x : Instr × Nat × Bool × List Opnd × List (Option Report)),
    let h1 : BitVec 32 := (uval s b).setWidth 32
    let h2 : BitVec 32 := (uval s b).extractLsb' 32 32
    let keys := laneKeys s a
    let least := fun p => searchOutside s h1 (fun rd d => leastFrom rd d p)
    x ∈ [(Instr.sld c d a b e f m, 0, m, (if m then d.pair else [d]), [handleError s h1 false, keyError s h1 keys,
        kittyError keys (fun k => searchOutside s h1 (fun rd d => findKey rd d k))]),
      (.scur c d a b e f, 1, false, d.pair, [handleError s h1 false, kittyError keys least]),
      (.snxt c d a b e f, 2, false, d.group4 ++ a.pair, [handleError s h1 false, kittyError keys least]),
      (.sisx c d a b e f, 3, false, d.group4 ++ a.pair, [handleError s h1 true, handleError s h2 true,
        kittyError keys (fun p => commonOutside s h1 h2 ((readDesc s s.launch.asid (handleRegion h1)).count + 1) p)])] →
    ReadyFor x.1 s →
    (s.sq.em = 0#32 → Completes x.1 s (Issued s))
    ∧ (s.sq.em ≠ 0#32 → firstOf x.2.2.2.2 = none → Completes x.1 s fun t => ∃ r u, Issued s r
        ∧ u = addProd (.sparse x.2.1 x.2.2.1 h1 h2 keys none) x.2.2.2.1 r
        ∧ t = { u with part := { u.part with nodeAges := t.part.nodeAges } } ∧ (∀ o ∈ x.2.2.2.1, t.sq.isFull o = false)
        ∧ (∀ o, o ∉ x.2.2.2.1 → t.sq.isFull o = s.sq.isFull o) ∧ (∀ o, o.isReg = true → ∀ l, val t o l = val s o l) ∧ BytesKept s t)
    ∧ (∀ y, s.sq.em ≠ 0#32 → firstOf x.2.2.2.2 = some y → Traps x.1 s y)
    ∧ (s.sq.em ≠ 0#32 → handleLive s s.launch.asid h1 = false → Traps x.1 s ⟨0x10#8, h1.setWidth 64, 1#64, s.sq.em⟩)
    ∧ (s.sq.em ≠ 0#32 → handleLive s s.launch.asid h1 = true → (readDesc s s.launch.asid (handleRegion h1)).wf s = false →
        Traps x.1 s ⟨0x10#8, h1.setWidth 64, 2#64, s.sq.em⟩)

/-- R319 to R323: a sparse store whose lanes are all accepted at its issue (as many as the model's `sstChunk` allows, log 3;
its waits for its turn and its order end the run, log 11)
retires, and changes memory by those single-key stores alone (their access counts, and the model's lists of dirty pages and
of earlier node images aside), and what its squad had read ahead of them is gone (R321, log 16); a handle, a key or an address that is no good traps with no lane stored; a kitty that runs
dry traps with cause 0x0F after the lanes before. -/
def Obligations.SparseStoreIssue : Prop :=
  ∀ (c e f m : Bool) (d a b : Opnd) (s : State), ReadyFor (.sst c d a b e f m) s →
    let i := Instr.sst c d a b e f m
    let h : BitVec 32 := (uval s b).setWidth 32
    let keys := laneKeys s a
    let todo := keys.map (fun k => (k.1, k.2, if m then (val64 s d k.1).toNat else (val32 s d k.1).toNat))
    let errors := firstOf [handleError s h false, keyError s h keys,
      outsideReport 1 (lanesOutside s.launch.asid s.launch.lr.leases h todo s)]
    let run := fun (u : State) => acceptLanes s.launch.asid s.launch.lr.leases h s.sstChunk todo (freshAges (regionOf s.launch.asid h) u)
    let accepted := fun (u : State) => dropAhead u.core.id u.sq.key (run u).1
    (s.sq.em = 0#32 → Completes i s (Issued s))
    ∧ (s.sq.em ≠ 0#32 → s.sq.sst = none → turnHeld false s = true → exec i s = .next (waitHere .turn s))
    ∧ (s.sq.em ≠ 0#32 → s.sq.sst = none → turnHeld false s = false →
      (∀ y, errors = some y → Traps i s y)
      ∧ (errors = none → storeHeld s.sq = true → exec i s = .next (waitHere .order s))
      ∧ (errors = none → storeHeld s.sq = false →
        ((run s).2.1 = [] → (run s).2.2 = .fine → Completes i s fun t => ∃ r, Issued s r ∧ t = accepted r
          ∧ (∀ x ∈ t.core.ahead, x.k ≠ s.sq.key)
          ∧ t = { r with core := { r.core with ahead := t.core.ahead }, mem := t.mem, dies := t.dies, part := { r.part with
              dirty := t.part.dirty, nodeAges := t.part.nodeAges
              held := t.part.held, nqdrop := t.part.nqdrop, nqtail := t.part.nqtail } }
          ∧ (s.mem.wf = true → t.mem.wf = true))
        ∧ (∀ l k v rest, (run s).2.1 = (l, k, v) :: rest → (run s).2.2 = .exhausted →
          exec i s = .next (takeTrap ⟨0x0F#8, BitVec.ofNat 64 l, h.setWidth 64, maskOfList (l :: rest.map (·.1))⟩
            s.sq.pkt s.sq.word 0 1 (accepted s)))))

/-- R309, R321 to R327: one single-key operation answers the first waiting lane of a sparse read, or stores the next lane of
an SST. SLD answers with the key's value; SCUR with the least key at or above the cursor, or END; SNXT with that key, its
value and the cursor past it; SISX asks its two regions in turn, answers where both have the key, and else goes on from the
later one. From END every read answers END, with no request. -/
def Obligations.SingleKeySteps : Prop :=
  ∀ (s : State) (q : Squad), s.findSq q.key = some q →
    let l := s.getLaunch q.key.lid
    let two := fun (x : Nat) => [BitVec.ofNat 64 (x % 2 ^ 32), (BitVec.ofNat 64 (x / 2 ^ 32 % 2 ^ 32) : DWord)]
    let low := fun (x : Nat) => [(BitVec.ofNat 64 (x % 2 ^ 32) : DWord)]
    let last := 2 ^ 64 - 1
    (∀ seq op m h1 h2 lane pos rest probe regs got dep,
      q.prods.find? (·.seq == seq) = some ⟨seq, .sparse op m h1 h2 ((lane, pos) :: rest) probe, regs, got, dep⟩ →
      sparseReady q seq op h1 h2 = true →
      let goes := fun (todo : List (Nat × Nat)) (pr : Option (Nat × Nat)) (new : List (Nat × List DWord)) =>
        Completes (.singleKeyOperation (.read q.key seq)) s fun t =>
          (t.getSq q.key).prods.find? (·.seq == seq) = some ⟨seq, .sparse op m h1 h2 todo pr, regs, got ++ new, dep⟩
          ∧ (s.mem.wf = true → ∀ a, OutsideRing s a → t.mem.read a = s.mem.read a) ∧ t.core = s.core ∧ t.team = s.team
      let answers := fun vals => goes rest none [(lane, vals)]
      let least := fun (h : BitVec 32) (p : Nat) => searchKey l.asid l.lr.leases h (fun rd d => leastFrom rd d p) s
      (op = 0 → ∀ x, searchKey l.asid l.lr.leases h1 (fun rd d => findKey rd d pos) s = .ok x →
        answers (if m then two (x.getD 0) else low (x.getD 0)))
      ∧ (op = 1 → (pos = last → probe = none → answers (two last)) ∧ (pos ≠ last → ∀ e, least h1 pos = .ok e →
        answers (two ((e.map (·.1)).getD last))))
      ∧ (op = 2 → (pos = last → probe = none → answers (two last ++ two 0 ++ two last))
        ∧ (pos ≠ last → least h1 pos = .ok none → answers (two last ++ two 0 ++ two last))
        ∧ (pos ≠ last → ∀ k x, least h1 pos = .ok (some (k, x)) → answers (two k ++ two x ++ two (if k = last then k else k + 1))))
      ∧ (op = 3 → probe = none → (pos = last → answers (two last ++ two 0 ++ two last))
        ∧ (pos ≠ last → least h1 pos = .ok none → answers (two last ++ two 0 ++ two last))
        ∧ (pos ≠ last → ∀ k x, least h1 pos = .ok (some (k, x)) → goes ((lane, pos) :: rest) (some (k, x)) []))
      ∧ (op = 3 → ∀ k1 x1, probe = some (k1, x1) → (least h2 k1 = .ok none → answers (two last ++ two 0 ++ two last))
        ∧ (∀ k2 x2, least h2 k1 = .ok (some (k2, x2)) →
          (k2 = k1 → answers (two k1 ++ low x1 ++ low x2 ++ two (if k1 = last then k1 else k1 + 1)))
          ∧ (k2 ≠ k1 → goes ((lane, k2) :: rest) none []))))
    ∧ (∀ w h lane k v todo u, q.sst = some ⟨w, h, (lane, k, v) :: todo⟩ → storeKey l.asid l.lr.leases h k v s = .ok u →
      Completes (.singleKeyOperation (.sst q.key)) s fun t => (t.getSq q.key).sst = some ⟨w, h, todo⟩ ∧ t.mem = u.mem
        ∧ t.core = s.core ∧ t.dies = u.dies)

/-- R236, R255, R256, R262, R263, R299, R300: an engine command whose record, handle and ranges pass the checks starts: its
ticket is empty, it stands in the commands in flight with two range-lock entries where it registers ranges, and no byte has
changed yet. A record fault or a bad field traps; with fewer than two entries free the word waits. The order of the record's
checks, and that CMB's list is read at issue, are the model's choices (log 28), and so are the numbers of the lock entries
(log 27). -/
def Obligations.EngineIssue : Prop :=
  ∀ (c : Bool) (d : Opnd) (a b : BitVec 5) (s : State) (i : Instr) (fn : Nat),
    (i, fn) ∈ [(Instr.engStk c d a b, 0), (.engCpy c d a b, 1), (.engDense c d a b, 2), (.engSpar c d a b, 3), (.engDsp c d a, 4),
      (.engCmb c d a b, 5), (.engQapp c d a b, 6), (.engGcond c d a b, 7), (.engLvlw c d a b, 8), (.engCancel c d a b, 9),
      (.engHash c d a, 10), (.engKgrow c d a b, 11)] →
    ReadyFor i s → (fn = 3 ∨ fn = 6 ∨ fn = 7 → turnHeld false s = false) →
    let x := uval s (sReg a)
    let y := uval s (sReg (if fn = 4 ∨ fn = 10 then 0#5 else b))
    let raw := recordBytes x s
    let r := TensorRec.ofBytes raw
    let started := fun (raw : List Byte) (stop : Option Nat) (t : State) => ∃ q, Issued s q ∧ t = startCommand fn d x r raw y stop q
      ∧ t.sq.isFull d = false ∧ (∀ o, o ≠ d → t.sq.isFull o = s.sq.isFull o) ∧ (∀ o, o.isReg = true → ∀ l, val t o l = val s o l)
      ∧ (∃ k ∈ t.cmds, k.id = s.part.nextCmd ∧ k.k = s.sq.key ∧ k.fn = fn ∧ k.raw = raw ∧ k.ticket = d ∧ k.seq = s.sq.seq ∧ k.units = 0
        ∧ (5 < fn → k.entries = []) ∧ (fn ≤ 5 → k.entries.length = 2 ∧ ∀ e ∈ k.entries, e < 64
          ∧ ∀ z ∈ s.cmds, z.core = s.core.id → e ∉ z.entries))
      ∧ t.part = { s.part with
          nextCmd := s.part.nextCmd + 1, nodeAges := t.part.nodeAges
          held := t.part.held, nqdrop := t.part.nqdrop, nqtail := t.part.nqtail, dirty := t.part.dirty }
      ∧ (s.mem.wf = true → ∀ a, OutsideRing s a → t.mem.read a = s.mem.read a)
    (∀ z, recordFault x s = some z → Traps i s z)
    ∧ (recordFault x s = none → recordHeld x s = false →
      (∀ off, recordBad fn raw y = some off → Traps i s ⟨0x19#8, x, BitVec.ofNat 64 off, s.sq.em⟩)
      ∧ (recordBad fn raw y = none → (∀ z, handleFault fn r x y s = some z → Traps i s z) ∧ (handleFault fn r x y s = none →
        (5 < fn → Completes i s (started raw none))
        ∧ (fn ≤ 5 → ∀ list, list = (if fn = 5 then combineList r s else some []) →
            let all := raw ++ list.getD []
            let faults := firstOf [listFault fn r x y all s, hullFault fn r y all s, if fn = 0 then stockFault r y s else none]
            (∀ z, faults = some z → Traps i s z)
            ∧ (faults = none → (fn = 0 → stockHeld s s.core.id r y = false) →
              ((freeEntries s).length < 2 → exec i s = .next (waitHere .locks s))
              ∧ (2 ≤ (freeEntries s).length →
                Completes i s (started all (if list.isNone then some (listStop r s) else none))))))))

/-- R262, Table 18-4: a command that has ended (by an error, a cancel or its completion) writes its status word, with COUNT
in 32 bits, into its ticket register and leaves; R258, R259: an STK moves one element into the stock, and a CPY to a shoe publishes a slot. -/
def Obligations.EngineProgress : Prop :=
  ∀ (s : State) (cmd : Nat) (c : Cmd), s.findCmd cmd = some c →
    (∀ (q : Squad) (d : Fin 32) (code dep : Nat),
      (c.stop = some code ∨ (c.stop = none ∧ c.cancelled = true ∧ c.fn ≠ 9 ∧ code = 1)
        ∨ (c.stop = none ∧ (c.cancelled = false ∨ c.fn = 9) ∧ cmdDone c = true ∧ code = 0)) →
      s.findSq c.k = some q → q.prods.find? (·.seq == c.seq) = some ⟨c.seq, .ticket c.id, [.s d], [], dep⟩ →
      (s.getTeam c.k.team).status ≠ .saved → Completes (.ticketFill cmd) s fun t =>
        vget (t.getSq c.k).s d.val = BitVec.ofNat 64 (code + c.fn * 2 ^ 8 + c.count % 2 ^ 32 * 2 ^ 16) ∧ (t.getSq c.k).isFull (.s d) = true
        ∧ t.findCmd cmd = none ∧ (t.getCore c.core).locks = (s.getCore c.core).locks.filter (·.cmd != cmd)
        ∧ (c.rel.scope = .squad ∨ c.rel.scope = .team
            ∨ ((s.getCore c.core).merged = [] ∧ (c.rel.scope = .die ∨ (s.getDie (dieOf c.core)).pend = [])) →
          t.mem = s.mem ∧ t.dies = s.dies))
    ∧ (∀ bs, c.fn = 0 → c.stop = none → c.cancelled = false → cmdDone c = false → cmdStarted s c = true →
      stockHeld s c.core c.tr c.sb = false → engElem s c c.units = .ok bs → Completes (.ticketFill cmd) s fun t =>
        (∀ k ∈ stockTargets s c, (s.getCore k).stock.wf = true →
          Stored (cellsAt (stockAddr c.tr c.sb c.units) bs) (s.getCore k).stock (t.getCore k).stock)
        ∧ (t.findCmd cmd).map (fun k => (k.units, k.count)) = some (c.units + 1, c.count + 1)
        ∧ (s.mem.wf = true → ∀ a, OutsideRing s a → t.mem.read a = s.mem.read a))
    ∧ (∀ (tm : Team) (bs : List Byte), c.fn = 1 → c.tr.dkind = 3 → c.stop = none → c.cancelled = false → cmdDone c = false →
      cmdStarted s c = true → s.findTeam c.k.team = some tm → tm.scratch.wf = true →
      let n := (c.sb.extractLsb' 0 4).toNat
      let h := vget tm.shoes n
      let k := min (64 * h.slot / c.tr.eb) (c.tr.count - c.units)
      tm.shoeMask.getLsbD n = true → shoeRefuses h 0 = false → shoeReady h = true → engElems s c c.units k = .ok bs →
      Completes (.engineShoePublish cmd) s fun t =>
        (t.getTeam c.k.team).shoes = vset tm.shoes n { h with free := h.free - 1, filled := h.filled + 1, tail := (h.tail + 1) % h.nslot }
        ∧ Stored (cellsAt (h.base + 64 * h.slot * h.tail) ((padTo (64 * h.slot) bs).take (64 * h.slot))) tm.scratch (t.getTeam c.k.team).scratch
        ∧ (t.findCmd cmd).map (fun k => (k.units, k.count)) = some (c.units + k, c.count + k))

/-! ## Control, mask, format and system words -/

/-- R77, R128 to R131, R135: NOP, SEG, the exits, RET and YIELD. An exit to a target that names no block traps with SUBC 1,
whose lanes are EM's, or for NXTI those that fault; an exit to fold in a frame of KIND 1 traps with SUBC 5 (of the two, the
model reports SUBC 1, log 25); RET outside a called frame traps with SUBC 3. YIELD ends the run and names the other active
squads of the core, each of which, where it is ready, is to issue a run first. -/
def Obligations.FlowWords : Prop :=
  ∀ (c : Bool) (s : State),
    (ReadyFor (.nop c) s → Completes (.nop c) s (Issued s))
    ∧ (∀ slots m, ReadyFor (.seg ⟨c, slots⟩) s →
        (∀ l, l < 32 → (m.getLsbD l = true ↔ s.sq.live.getLsbD l = true ∧ s.sq.held.getLsbD l = false
          ∧ ∃ k, k < s.sq.hent.nslot ∧ slots.getLsbD k = true ∧ s.sq.hent.slotBlock k = some (vget s.sq.br l).toNat)) →
        (m ≠ 0#32 → Completes (.seg ⟨c, slots⟩) s fun t => ∃ r, Issued s r ∧ t = { r with sq := { r.sq with
            em := m, segSlots := slots, brn := lanes fun l => if m.getLsbD l then vget s.sq.br l else vget s.sq.brn l } })
        ∧ (m = 0#32 → Completes (.seg ⟨c, slots⟩) s fun t => t.sq.em = 0#32 ∧ t.sq.pkt = s.sq.hent.nextBoundary s.sq.pkt ∧ t.sq.word = 0
            ∧ t.sq.lclk = s.sq.lclk + 1#64 ∧ RegsKept [] s t ∧ BytesKept s t))
    ∧ (∀ (p : Opnd) (bt bf : BitVec 6) (e : Bool) (x : Instr × (Nat → DWord)),
        x ∈ [(Instr.nxt c bt, fun _ => bt.setWidth 64), (.nxtc c p bt bf e, fun l => if (val s p l).getLsbD 0 then bt.setWidth 64 else bf.setWidth 64),
          (.nxti c p e, fun l => val s p l), (.fold c, fun _ => 63#64)] → ReadyFor x.1 s →
        ((∀ l, s.sq.em.getLsbD l = true → (x.2 l).toNat < (suitAt s s.sq.suit).nblk ∨ (x.2 l = 63#64)) →
          (trapFrameOnTop s = true → ∀ l, s.sq.em.getLsbD l = true → x.2 l ≠ 63#64) →
          Completes x.1 s fun t => ∃ r, Issued s r ∧ t = { r with sq := { r.sq with
            brn := lanes fun l => if s.sq.em.getLsbD l then (x.2 l).setWidth 6 else vget s.sq.brn l } })
        ∧ (let bad := fun l => s.sq.em.getLsbD l = true ∧ (suitAt s s.sq.suit).nblk ≤ (x.2 l).toNat ∧ x.2 l ≠ 63#64
          (∀ m l : _, (∃ k, k < 32 ∧ bad k) →
            (∀ k, k < 32 → (m.getLsbD k = true ↔ s.sq.em.getLsbD k = true ∧ (x.1 = .nxti c p e → bad k))) → IsLowest m l →
            Traps x.1 s ⟨0x07#8, 1#64, x.2 l, m⟩)
          ∧ (∀ l, (∀ k, k < 32 → ¬ bad k) → trapFrameOnTop s = true → s.sq.em.getLsbD l = true → x.2 l = 63#64 →
            (∀ k, k < l → s.sq.em.getLsbD k = true → x.2 k ≠ 63#64) →
            Traps x.1 s ⟨0x07#8, 5#64, BitVec.ofNat 64 l, s.sq.em⟩)))
    ∧ (ReadyFor (.ret c) s → s.sq.frames ≠ [] → trapFrameOnTop s = false → Completes (.ret c) s fun t => ∃ r, Issued s r
        ∧ t = { r with sq := { r.sq with brn := (lanes fun l => if s.sq.em.getLsbD l then 63#6 else vget s.sq.brn l)
                                         retd := s.sq.retd ||| s.sq.em } })
    ∧ (ReadyFor (.ret c) s → s.sq.frames = [] ∨ trapFrameOnTop s = true → Traps (.ret c) s ⟨0x07#8, 3#64, 0#64, s.sq.em⟩)
    ∧ (ReadyFor (.yield c) s → Completes (.yield c) s fun t => (∃ r, Issued s r ∧ t = { r with sq := { r.sq with
          running := false, runPkts := [], yieldTo := t.sq.yieldTo } }) ∧ ∀ k, k ∈ t.sq.yieldTo ↔ k ≠ s.sq.key
            ∧ ∃ q ∈ s.coreSquads s.core.id, q.key = k ∧ q.fast = true ∧ q.status = .live)

/-- R84, R85, R95, R99, R101: a DEAL moves the lanes that are not held to their next blocks, forms the called set `m`, and
runs its hand, or on a misdeal the first hand of the chosen row; with an empty called set the frame ends, or the squad
retires. At the end of a frame the lanes that returned resume at its place, and the calling lanes that did not leave every
frame; how the frame and the other callers treat those lanes is the model's choice (log 52). The core counts the deal as a
hit or as a miss of its deck cache: as a hit where the cache serves the entry (what else it has taken in, is a free choice,
log 8). A deck behind a port that is down traps, as an access of KIND 0 (R393, log 34). -/
def Obligations.DealWord : Prop :=
  ∀ (s : State) (live : Mask) (m : BitVec 64), ReadyFor .deal s →
    let q := s.sq
    let br := fun l => if q.live.getLsbD l = true ∧ q.held.getLsbD l = false then vget q.brn l else vget q.br l
    (∀ l, l < 32 → (live.getLsbD l = true ↔ q.live.getLsbD l = true ∧ br l ≠ 63#6)) →
    (∀ b, b < 64 → (m.getLsbD b = true ↔ ∃ l, l < 32 ∧ live.getLsbD l = true ∧ (br l).toNat = b)) →
    let su := suitAt s q.suit
    let dealt := fun (t : State) => (∀ l, l < 32 → vget t.sq.br l = br l) ∧ t.sq.live = live ∧ t.sq.brn = q.brn ∧ t.sq.depth = q.depth
      ∧ t.sq.lclk = q.lclk + 1#64 ∧ t.sq.sqdeal = q.sqdeal + 1#64 ∧ t.sq.running = false ∧ t.sq.frames = q.frames
    let unread := fun (off : Nat) => Traps .deal s ⟨0x07#8, 2#64, BitVec.ofNat 64 off, q.em⟩
    let counts := fun (h : Nat) (e : Hand) (t : State) =>
      ((t.core.crdhit = s.core.crdhit + 1#64 ∧ t.core.crdmiss = s.core.crdmiss)
        ∨ (t.core.crdhit = s.core.crdhit ∧ t.core.crdmiss = s.core.crdmiss + 1#64))
      ∧ (cachedHand s su e.mask = some (h, e) → stillHeld s su e.mask = true → t.core.crdhit = s.core.crdhit + 1#64)
    (∀ h e, m ≠ 0#64 → lookup s su m = .hit h e → Completes .deal s fun t => dealt t ∧ t.sq.held = 0#32 ∧ t.sq.button = q.button
        ∧ t.sq.hand = h ∧ t.sq.hent = e ∧ t.sq.pkt = e.code ∧ t.sq.word = 0 ∧ t.sq.sqmisd = q.sqmisd
        ∧ counts h e t ∧ t.core.crmisd = s.core.crmisd ∧ RegsKept [] s t ∧ BytesKept s t)
    ∧ (∀ off off' h e b, m ≠ 0#64 → lookup s su m = .miss off → b < 63 → m.getLsbD b = true →
        (∀ b', b' < 63 → m.getLsbD b' = true → (b + 63 - q.button) % 63 ≤ (b' + 63 - q.button) % 63) → q.button < 63 →
        (rowHand s su m b none 8 0 = .bad off' → unread off')
        ∧ (rowHand s su m b none 8 0 = .hit h e → Completes .deal s fun t => dealt t
          ∧ (∀ l, l < 32 → (t.sq.held.getLsbD l = true ↔ live.getLsbD l = true ∧ e.mask.getLsbD (br l).toNat = false))
          ∧ t.sq.button = (b + 1) % 63 ∧ t.sq.hand = h ∧ t.sq.hent = e ∧ t.sq.pkt = e.code ∧ t.sq.word = 0
          ∧ t.sq.sqmisd = q.sqmisd + 1#64 ∧ counts h e t ∧ t.core.crmisd = s.core.crmisd + 1#64 ∧ RegsKept [] s t ∧ BytesKept s t))
    ∧ (m = 0#64 → q.frames = [] → Completes .deal s fun t => dealt t ∧ t.sq.status = .retiring ∧ RegsKept [] s t ∧ BytesKept s t)
    ∧ (∀ f fs, m = 0#64 → q.frames = f :: fs → q.nspill = 0 →
        let folded := f.callers &&& ~~~q.retd
        let e := handEntry s (suitAt s f.suit) f.hand
        Completes .deal s fun t => t.sq.frames = fs.map (fun g =>
            { g with live := g.live &&& ~~~folded, em := g.em &&& ~~~folded, held := g.held &&& ~~~folded })
        ∧ t.sq.suit = f.suit ∧ t.sq.hand = f.hand ∧ t.sq.hent = e ∧ t.sq.button = f.button
        ∧ t.sq.held = f.held &&& ~~~folded ∧ t.sq.fmt = f.fmt ∧ t.sq.br = f.brs ∧ t.sq.brn = f.brns ∧ t.sq.live = f.live &&& ~~~folded
        ∧ t.sq.em = f.em &&& ~~~folded ∧ t.sq.retd = q.retd &&& ~~~f.callers
        ∧ (∀ l, l < 32 → vget t.sq.depth l = if f.callers.getLsbD l = true ∧ q.retd.getLsbD l = true then vget q.depth l - 1#8 else vget q.depth l)
        ∧ (t.sq.em ≠ 0#32 → t.sq.pkt = f.rpkt ∧ t.sq.word = f.rword)
        ∧ (t.sq.em = 0#32 → t.sq.word = 0 ∧ t.sq.pkt = if f.rword = 0 ∧ f.rpkt = e.nextBoundary (f.rpkt - 1) then f.rpkt else e.nextBoundary f.rpkt)
        ∧ t.sq.running = false ∧ BytesKept s t)
    ∧ (∀ off, m ≠ 0#64 → lookup s su m = .bad off → unread off)
    ∧ (∀ va, m ≠ 0#64 → lookup s su m = .down va → Traps .deal s ⟨0x0A#8, BitVec.ofNat 64 va, 0#64, q.em⟩)

/-- R89 to R91, R132: CALL and CALLP by the calling lanes push a frame that resumes at the next word and run the callee's
entry hand; with no calling lane they only end the run; a bad index, a lane at depth 255, or an entry hand that the deck does
not give, traps; the report of the last, SUBC 2 with an offset, is the model's choice (log 25), and so is KIND 0 where a port
keeps the deck from it (R393, log 34). -/
def Obligations.CallWords : Prop :=
  ∀ (c : Bool) (p : Opnd) (n : BitVec 17) (s : State) (i : Instr) (callers : Mask),
    (i = .call c n ∧ callers = s.sq.em) ∨ (i = .callp c p n ∧ s.sq.settled p = true
      ∧ ∀ l, l < 32 → (callers.getLsbD l = true ↔ s.sq.em.getLsbD l = true ∧ (val s p l).getLsbD 0 = true)) →
    ReadyFor i s →
    (s.obj.suits.length ≤ n.toNat → Traps i s ⟨0x07#8, 4#64, n.setWidth 64, s.sq.em⟩)
    ∧ (n.toNat < s.obj.suits.length → callers = 0#32 → Completes i s fun t => ∃ r, Issued s r
        ∧ t = { r with sq := { r.sq with running := false, runPkts := [] } })
    ∧ (n.toNat < s.obj.suits.length → (∃ l, l < 32 ∧ callers.getLsbD l = true ∧ vget s.sq.depth l = 255#8) →
        ∃ m, (∀ l, l < 32 → (m.getLsbD l = true ↔ callers.getLsbD l = true ∧ vget s.sq.depth l = 255#8))
          ∧ Traps i s ⟨0x06#8, n.setWidth 64, 0#64, m⟩)
    ∧ (∀ h e, n.toNat < s.obj.suits.length → callers ≠ 0#32 → (∀ l, callers.getLsbD l = true → vget s.sq.depth l ≠ 255#8) →
        s.sq.frames.length < 8 →
        let su := suitAt s n.toNat
        let entry := BitVec.ofNat 6 su.entry
        lookup s su (blockMask su.entry) = .hit h e → Completes i s fun t => ∃ r, Issued s r
          ∧ (∀ x ∈ t.core.deck, x ∈ s.core.deck ∨ x.2 = (e.mask.toNat, h, e) ∨ ∃ j ∈ su.succ,
            imageLookup s (suitAt s j) (blockMask (suitAt s j).entry) = .hit x.2.2.1 x.2.2.2)
          ∧ t = { r with core := { r.core with deck := t.core.deck }, sq := { r.sq with
              frames := (⟨s.sq.suit, s.sq.hand, s.sq.button, false, r.sq.pkt, r.sq.word, s.sq.em, s.sq.held, callers, s.sq.fmt, s.sq.br, s.sq.brn, s.sq.live⟩
                :: s.sq.frames)
              depth := (lanes fun l => if callers.getLsbD l then vget s.sq.depth l + 1#8 else vget s.sq.depth l)
              live := callers, held := 0#32, button := 0, suit := n.toNat, hand := h, hent := e, segSlots := 0#8, pkt := e.code, word := 0
              br := (lanes fun l => if callers.getLsbD l then entry else vget s.sq.br l)
              brn := (lanes fun l => if callers.getLsbD l then entry else vget s.sq.brn l)
              sqcall := s.sq.sqcall + 1#64, running := false, runPkts := [] } })
    ∧ (∀ off, n.toNat < s.obj.suits.length → callers ≠ 0#32 → (∀ l, callers.getLsbD l = true → vget s.sq.depth l ≠ 255#8) →
        let su := suitAt s n.toNat
        lookup s su (blockMask su.entry) = .bad off ∨ lookup s su (blockMask su.entry) = .miss off →
        Traps i s ⟨0x07#8, 2#64, BitVec.ofNat 64 off, s.sq.em⟩)
    ∧ (∀ va, n.toNat < s.obj.suits.length → callers ≠ 0#32 → (∀ l, callers.getLsbD l = true → vget s.sq.depth l ≠ 255#8) →
        lookup s (suitAt s n.toNat) (blockMask (suitAt s n.toNat).entry) = .down va →
        Traps i s ⟨0x0A#8, BitVec.ofNat 64 va, 0#64, s.sq.em⟩)

/-- R136, R137, R399: TRAP and BRK raise their traps with their code; BRK under an armed debugger stops the launch's teams
instead, so that none of them runs on, resumes or starts, and the stop names its tile tasks (how the model marks them is its
choice, log 45); ERET leaves a handler for the trapped chain, or past it, whatever EM is, with no lane returned (log 52);
outside a handler it traps. -/
def Obligations.TrapWords : Prop :=
  ∀ (c : Bool) (n : BitVec 17) (s : State),
    (ReadyFor (.trap c n) s → Traps (.trap c n) s ⟨0x15#8, n.setWidth 64, 0#64, s.sq.em⟩)
    ∧ (ReadyFor (.brk c n) s → s.launch.bkpt = false → Traps (.brk c n) s ⟨0x16#8, n.setWidth 64, 0#64, s.sq.em⟩)
    ∧ (ReadyFor (.brk c n) s → s.launch.bkpt = true → Completes (.brk c n) s fun t =>
        (∃ r, Issued s r ∧ t = { r with
          sq := { r.sq with running := false, runPkts := [] }, team := t.team, teams := t.teams
          launch := t.launch, launches := t.launches
          part := { r.part with stops := s.part.stops ++ (s.getLaunch s.sq.key.lid).tasks.map (fun x => ⟨x.1, x.2, 0xFFFF⟩) } })
        ∧ (s.launch.lid = s.sq.key.lid → s.launch.status ≠ .absent → t.launch = { s.launch with debugStop := true })
        ∧ (s.team.key.lid = s.sq.key.lid → s.team.status = .running → t.team = { s.team with status := .preempting, debugStop := true })
        ∧ (s.team.key.lid = s.sq.key.lid → s.team.status = .preempting ∨ s.team.status = .saved → t.team = { s.team with debugStop := true })
        ∧ (∀ tm ∈ s.teams, tm.key.lid = s.sq.key.lid →
          (tm.status = .running → { tm with status := .preempting, debugStop := true } ∈ t.teams)
          ∧ (tm.status = .preempting ∨ tm.status = .saved → { tm with debugStop := true } ∈ t.teams)))
    ∧ (∀ k, ReadyFor (.eret c k) s → (s.sq.frames.head?.any (·.trapKind)) = false → Traps (.eret c k) s ⟨0x07#8, 3#64, 0#64, s.sq.em⟩)
    ∧ (∀ k f fs, ReadyFor (.eret c k) s → s.sq.frames = f :: fs → f.trapKind = true → s.sq.nspill = 0 →
        Completes (.eret c k) s fun t =>
          let w := f.rword + (if k = 1#4 ∧ s.sq.tdeal = false then (s.sq.tpos.extractLsb' 36 2).toNat else 0)
          t.sq.frames = fs ∧ t.sq.suit = f.suit ∧ t.sq.hand = f.hand ∧ t.sq.button = f.button ∧ t.sq.held = f.held ∧ t.sq.fmt = f.fmt
          ∧ t.sq.live = f.live ∧ t.sq.br = f.brs ∧ t.sq.brn = f.brns ∧ t.sq.em = f.em ∧ t.sq.retd = s.sq.retd
          ∧ (∀ l, l < 32 → vget t.sq.depth l = if f.callers.getLsbD l then vget s.sq.depth l - 1#8 else vget s.sq.depth l)
          ∧ (t.sq.pkt, t.sq.word) = (if 3 ≤ w then (f.rpkt + 1, 0) else (f.rpkt, w))
          ∧ t.sq.running = false ∧ t.sq.lclk = s.sq.lclk + 1#64 ∧ RegsKept [] s t ∧ BytesKept s t)

/-- R129, R133, R134, R36, R186, R187: the words that read and write EM, HELD and FMT. -/
def Obligations.MaskAndFormatWords : Prop :=
  ∀ (c e : Bool) (d a : Opnd) (s : State) (seg : Mask),
    (∀ l, l < 32 → (seg.getLsbD l = true ↔ s.sq.live.getLsbD l = true ∧ s.sq.held.getLsbD l = false
      ∧ ∃ k, k < s.sq.hent.nslot ∧ s.sq.segSlots.getLsbD k = true ∧ s.sq.hent.slotBlock k = some (vget s.sq.br l).toNat)) →
    (∀ x : Mask, (a.isP = true → ∀ l, l < 32 → (x.getLsbD l = (val s a l).getLsbD 0)) → (a.isP = false → x = (uval s a).setWidth 32) →
      ReadyFor (.emset c a e) s → Completes (.emset c a e) s fun t => ∃ r, Issued s r ∧ t = { r with sq := { r.sq with em := seg &&& x } })
    ∧ (∀ m, ReadyFor (.emget c d m) s → Completes (.emget c d m) s (Result32 d (fun _ => if m then s.sq.held else seg) s))
    ∧ (ReadyFor (.setfmt c a e) s → fmtLegal ((uval s a).setWidth 32) = true →
      Completes (.setfmt c a e) s fun t => ∃ r, Issued s r ∧ t = { r with sq := { r.sq with fmt := (uval s a).setWidth 32 } })
    ∧ (ReadyFor (.setfmt c a e) s → fmtLegal ((uval s a).setWidth 32) = false →
      Traps (.setfmt c a e) s ⟨0x14#8, ((uval s a).setWidth 32).setWidth 64, 0#64, s.sq.em⟩)
    ∧ (ReadyFor (.getfmt c d) s → Completes (.getfmt c d) s (Result32 d (fun _ => s.sq.fmt) s))

/-- R23, R138, R139, R217, R281, Tables 1-8, 7-4 and 10-5: reads and writes of system registers, the numbers that name none,
their faults, and the halt. -/
def Obligations.SystemWords : Prop :=
  ∀ (c : Bool) (d : Opnd) (a b : BitVec 5) (s : State),
    let n := (a ++ b).toNat
    (∀ x, ReadyFor (.sysRdsr c d a b) s → sysRead n s = some x → Completes (.sysRdsr c d a b) s fun t => OnlyRegs [d] s t ∧ UniResult d x t)
    ∧ (ReadyFor (.sysRdsr c d a b) s → sysRead n s = none →
        Traps (.sysRdsr c d a b) s ⟨0x0A#8, BitVec.ofNat 64 n, 3#64, s.sq.em⟩)
    ∧ (∀ k x, (k, x) ∈ [(0x140, s.sq.sqdeal), (0x141, s.sq.sqmisd), (0x142, s.sq.sqheld), (0x143, s.sq.sqcall), (0x144, s.sq.sqspill),
        (0x148, s.core.crdhit), (0x149, s.core.crdmiss), (0x14A, s.core.crmisd), (0x188, s.sq.tscr0), (0x189, s.sq.tscr1),
        (0x1D0, s.part.mxgate)] → sysRead k s = some x)
    ∧ (let caps := s.part.caps
      sysRead 0x100 s = some (BitVec.ofNat 64 (0x00020000_4B027E1D + caps.step.toNat * 2 ^ 32))
      ∧ (∀ i, i < 4 → sysRead (0x101 + i) s = some (BitVec.ofNat 64 ((vget caps.cores i).toNat + popCount (vget caps.cores i) * 2 ^ 48)))
      ∧ (∀ i, i < 12 → sysRead (0x105 + i) s = some (BitVec.ofNat 64
          ((vget caps.channels i).toNat + 2 * popCount (vget caps.channels i) * 2 ^ 32 + popCount (vget caps.channels i) * 2 ^ 56)))
      ∧ sysRead 0x111 s = some (BitVec.ofNat 64 (caps.ports.toNat + popCount caps.ports * 2 ^ 48))
      ∧ sysRead 0x112 s = some (caps.wake.setWidth 64))
    ∧ (∀ k : Fin 16, sysRead (0x1C0 + k.val) s =
        if s.team.shoeMask.getLsbD k.val then some (vget s.team.shoes k.val).conf else none)
    ∧ (∀ k, k < 0x100 ∨ (0x112 < k ∧ k < 0x140) ∨ (0x144 < k ∧ k < 0x148) ∨ (0x14A < k ∧ k < 0x180) ∨ k = 0x187
        ∨ (0x189 < k ∧ k < 0x1C0) ∨ 0x1D0 < k → sysRead k s = none)
    ∧ (∀ k x, (k, x) ∈ [(0x180, s.sq.th), (0x181, s.sq.tpos), (0x182, s.sq.tem), (0x183, s.sq.tcause), (0x184, s.sq.tinfo0),
        (0x185, s.sq.tinfo1), (0x186, s.sq.tlanes)] → sysRead k s = if inHandler s then some x else none)
    ∧ (ReadyFor (.sysWrsr c d a b) s → n = 0x188 → Completes (.sysWrsr c d a b) s fun t => ∃ r, Issued s r
        ∧ t = { r with sq := { r.sq with tscr0 := uval s d } })
    ∧ (ReadyFor (.sysWrsr c d a b) s → n = 0x189 → Completes (.sysWrsr c d a b) s fun t => ∃ r, Issued s r
        ∧ t = { r with sq := { r.sq with tscr1 := uval s d } })
    ∧ (∀ k : Fin 16, ReadyFor (.sysWrsr c d a b) s → n = 0x1C0 + k.val → s.team.shoeMask.getLsbD k.val = true →
        s.team.status ≠ .absent →
        (¬ RefusesShoe s s.team k.val (uval s d) → Completes (.sysWrsr c d a b) s fun t => ∃ r, Issued s r
          ∧ t = { r with team := { r.team with shoes :=
              (vset r.team.shoes k.val ⟨uval s d, 0, ((uval s d).extractLsb' 32 8).toNat, 0, 0, 0, 0, [], []⟩) } })
        ∧ (RefusesShoe s s.team k.val (uval s d) →
          Traps (.sysWrsr c d a b) s ⟨0x18#8, BitVec.ofNat 64 k.val, 0#64, s.sq.em⟩))
    ∧ (ReadyFor (.sysWrsr c d a b) s → n ≠ 0x188 → n ≠ 0x189 → (∀ k : Fin 16, n = 0x1C0 + k.val → s.team.shoeMask.getLsbD k.val = false) →
        Traps (.sysWrsr c d a b) s ⟨0x0A#8, BitVec.ofNat 64 n, 3#64, s.sq.em⟩)
    ∧ (ReadyFor (.sysHalt c) s → s.sq.em = 0#32 → Completes (.sysHalt c) s (Issued s))
    ∧ (ReadyFor (.sysHalt c) s → s.sq.em ≠ 0#32 → s.launch.lid = s.sq.key.lid → s.launch.status = .running →
        Completes (.sysHalt c) s fun t => ∃ r, Issued s r ∧ t = { r with
          sq := { r.sq with status := .stopped, running := false, runPkts := [], wait := none, sst := none, syncw := none, late := [] }
          launch := { s.launch with status := .stopping, ending := ⟨4, 0, BitVec.ofNat 64 (s.sq.key.tmid * s.launch.lr.nsq + s.sq.key.sqid),
            BitVec.ofNat 64 (s.sq.pkt % 2 ^ 32 + s.sq.word * 2 ^ 32)⟩ }
          cmds := s.cmds.map (fun k => if k.k.lid = s.sq.key.lid then { k with cancelled := true } else k) })

/-! ## The scheduler, the graph walker and pre-emption -/

/-- R15, R70, R96, R97, R135, R342, R343: a core gives its slot to a squad in the fast file that is ready, in turn, and a
squad that yielded waits for the others; a context moves between the files with everything it holds, and the slow file holds
twelve. A run ends after word 2 of a packet whose bit 31 is set, in the eighth packet, and where a word waits (log 11). The
choice of the squads that change files is the model's (log 44): the longest-waiting one goes with a squad that is demoted; a
ready pending squad takes a free place of the fast file, else that of a squad that is not ready, and else, once four runs
have passed it by, that of the ready squad that fewest runs have passed by. -/
def Obligations.SchedulerMoves : Prop :=
  (∀ (s : State) (core : Nat) (k : SquadKey), (s.allSquads.map (·.key)).Nodup →
    let moved := fun (q : Squad) (fast : Bool) (slot : Nat) =>
      { q with fast := fast, slot := slot, age := s.free, pended := 0, poison := q.uncorr ++ q.poison, uncorr := [] }
    let onlyMoves := fun (t : State) => t = { s with sq := t.sq, squads := t.squads, part := { s.part with
      lifetime := t.part.lifetime, hour := t.part.hour } }
    (midRun s core = some k → exec (.runIssue core) s = .next (s.focus k))
    ∧ (∀ q, midRun s core = none → let r := promoteDue core s
        winner r core = some k → r.findSq k = some q → onlyMoves r ∧
        Completes (.runIssue core) s fun t =>
          t.sq = { q with running := true, runPkts := [], wait := none, yieldTo := [], passed := 0, age := s.free }
          ∧ (t.getCore core).served = some k ∧ (t.getCore core).turn = q.slot
          ∧ (∀ x ∈ r.coreSquads core, x.key ≠ k → (t.getSq x.key).passed = (if readyHere r x then x.passed + 1 else 0)
            ∧ (t.getSq x.key).pended = if readyHere r x = true ∧ x.fast = false then x.pended + 1 else 0)
          ∧ t.mem = s.mem ∧ t.dies = s.dies ∧ t.part = r.part ∧ t.cmds = s.cmds)
    ∧ (winner s core = some k → (∃ q ∈ s.coreSquads core, q.key = k ∧ q.fast = true ∧ q.status = .live ∧ ready s q = true)
        ∧ ∀ y ∈ (s.getSq k).yieldTo, ∀ x ∈ s.coreSquads core, x.key = y → active s x = true → ready s x = false)
    ∧ (pendingReady s core = [] → promoteDue core s = s)
    ∧ (∀ q, pendingReady s core = [q] →
        promoteDue core s = if 4 ≤ q.pended then rotateIn core q (promote core q s) else promote core q s)
    ∧ (∀ q, s.findSq q.key = some q → q.fast = false →
        (∀ i, freePlace s core = some i → (promote core q s).getSq q.key = moved q true i)
        ∧ (∀ out, freePlace s core = none → placeTaken s core = some out →
          let gives := active s out = false ∨ ready s out = false
          (gives → (promote core q s).getSq q.key = moved q true out.slot ∧ (promote core q s).getSq out.key = moved out false 0)
          ∧ (¬ gives → promote core q s = s)
          ∧ (rotateIn core q s).getSq q.key = moved q true out.slot ∧ (rotateIn core q s).getSq out.key = moved out false 0))
    ∧ (∀ out, placeTaken s core = some out → out ∈ s.coreSquads core ∧ out.fast = true ∧ out.running = false
        ∧ ∀ x ∈ s.coreSquads core, x.fast = true → x.running = false → standing s out ≤ standing s x)
    ∧ (∀ q, s.findSq k = some q → q.fast = true → q.status = .live → q.running = false → waitsLong s q = true →
        let c := (s.getTeam k.team).core
        ((slowSquads s c).length < 11 → Completes (.squadDemotion k) s fun t => t.getSq k = moved q false 0 ∧ onlyMoves t
          ∧ ∀ o, oldest ((fastSquads s c).filter (fun x => x.key != k && demotable s x)) = some o →
            t.getSq o.key = moved o false 0)
        ∧ (12 ≤ (slowSquads s c).length → (∀ x ∈ fastSquads s c, x.key ≠ k → demotable s x = false) →
          (pendingReady s c = [] → exec (.squadDemotion k) s = .next s)
          ∧ (∀ o, oldest (pendingReady s c) = some o → Completes (.squadDemotion k) s fun t =>
            t.getSq k = moved q false 0 ∧ t.getSq o.key = moved o true q.slot ∧ onlyMoves t)))
    ∧ (∀ q i, s.findSq k = some q → (s.getTeam k.team).core = core → freePlace s core = some i → oldest (pendingReady s core) = some q →
        Completes (.squadPromotion k) s fun t => t.getSq k = moved q true i ∧ onlyMoves t))
  ∧ (∀ (i : Instr) (s : State), isWord i = true → ReadyFor i s →
    (∀ u, ownOf i s = .done u → ∃ r w, Issued s r ∧ exec i s = .next (u r) ∧ encode i = [w]
      ∧ (let pkts := if s.sq.runPkts.head? = some s.sq.pkt then s.sq.runPkts else s.sq.pkt :: s.sq.runPkts
         let ends := 2 ≤ s.sq.word ∧ (w.getLsbD 31 = true ∨ 8 ≤ pkts.length)
         (ends → r.sq.running = false ∧ r.sq.runPkts = [])
         ∧ (¬ ends → r.sq.running = s.sq.running ∧ r.sq.runPkts = pkts)))
    ∧ (∀ x, ownOf i s = .wait x →
      exec i s = .next { s with sq := { s.sq with wait := some x, running := false, runPkts := [] } }))

/-- R96, R139, R141, R339, R340: a retiring squad whose producers and stores have drained gives up its context and its tiles,
and the last one of a team completes it; a squad of a launch that ends stops, and its producers still write, its takes where
a slot stands ready for them (which takes are withdrawn, log 22, and what else a stopped squad keeps, log 31, are the model's
choices). R280, R281: power tokens, passed to the next cluster that waits (log 31), and gates. -/
def Obligations.SquadEndsAndPower : Prop :=
  ∀ (s : State) (q : Squad) (tm : Team), s.findSq q.key = some q → s.findTeam q.key.team = some tm →
    (q.status = .retiring → drained q = true → Completes (.squadRetirement q.key) s fun t =>
        (t.getSq q.key).status = .retired ∧ (t.getSq q.key).prods = [] ∧ t.mem = s.mem ∧ t.dies = s.dies
        ∧ (t.getTeam q.key.team).owner = tm.owner.map (fun o => if o.toNat = q.key.sqid then 0xFF#8 else o)
        ∧ (∀ l, (s.allSquads.map (·.key)).Nodup → (∀ x ∈ s.teamSquads q.key.team, x.key = q.key ∨ x.status = .retired) → s.findLaunch q.key.lid = some l →
            (t.getTeam q.key.team).status = .done
            ∧ (t.getLaunch q.key.lid).retired = if l.status = .running then l.retired + 1 else l.retired))
    ∧ ((s.getLaunch q.key.lid).status = .stopping → ((q.status = .live ∧ q.running = false) ∨ q.status = .retiring) →
        q.late = [] ∨ q.syncw ≠ none → Completes (.squadStop q.key) s fun t => (t.getSq q.key).status = .stopped ∧ (t.getSq q.key).mprog = []
          ∧ (t.getSq q.key).sst = none ∧ (t.getSq q.key).storeq = q.storeq ∧ t.mem = s.mem
          ∧ (∀ p ∈ q.prods, (∀ n free, p.kind = .take n free →
              (if free then (vget tm.shoes n.toNat).free else (vget tm.shoes n.toNat).filled) ≠ 0) → p ∈ (t.getSq q.key).prods))
    ∧ ((s.getLaunch q.key.lid).status = .stopping → q.status = .stopped → drained ((withdraw q.key s).getSq q.key) = true →
        Completes (.squadStop q.key) s fun t => (t.getSq q.key).status = .retired ∧ t.mem = s.mem)
    ∧ (∀ die cluster d j, s.dies.toList.find? (·.id == die) = some d → d.tokens.contains cluster = true → 1 ≤ j → j ≤ 5 →
        let next := fun i => (cluster + i) % 6
        d.tokens.contains (next j) = false → clusterWaits s die (next j) = true →
        (∀ i, 1 ≤ i → i < j → d.tokens.contains (next i) = true ∨ clusterWaits s die (next i) = false) →
        Completes (.powerTokenPass die cluster) s fun t =>
          (t.getDie die).tokens = next j :: d.tokens.erase cluster ∧ t = { s with dies := t.dies })
    ∧ (∀ core sub, failed s = true → exec (.subarrayPowerGate core sub) s = .next s ∧ exec (.subarrayWake core sub) s = .next s)
    ∧ (∀ core sub, failed s = false → s.part.mxgate ≠ 0#64 → Completes (.subarrayPowerGate core sub) s fun t =>
        (t.getCore core).gated = (s.getCore core).gated ||| (1#4 <<< sub) ∧ t = { s with core := t.core, cores := t.cores })
    ∧ (∀ core sub, s.part.mxgate = 0#64 → exec (.subarrayPowerGate core sub) s = .next s)
    ∧ (∀ core sub, failed s = false → Completes (.subarrayWake core sub) s fun t =>
        (t.getCore core).gated = (s.getCore core).gated &&& ~~~(1#4 <<< sub) ∧ t = { s with core := t.core, cores := t.cores })

/-- R329 to R333: a record leaves its queue and waits under a new job; kernel and record nodes submit launches, with the tile
tasks they come from (R399); a conditional node ends and fires one successor; a while node fires its body and goes on, or
ends and fires its exit. A record that a job of the graph appends to an entry node starts a job of its own (R330). A completion
that arrives at a record node has no effect, and a record at another node belongs to its producer's job (the model's choices,
log 54); the order of a while node's counters is its choice too (log 36). A record stays in its queue while the page that holds
HEAD is write-blocked by a migration (R361), or, by the model's choice, behind a port that is down (log 36). -/
def Obligations.GraphNodes : Prop :=
  ∀ (s : State) (graph node : Nat) (g : Graph), s.findGraph graph = some g → g.cancelled = false → node < g.count →
    let x := gnode s g node
    let here := g.waiting.filter (·.node == node)
    let submits := fun (jobs : List Nat) (args : Option (List DWord)) (records : List (List Byte)) (tasks : List (Nat × Nat)) (t : State) =>
      t.part.submitted = s.part.submitted ++ [⟨s.part.nextPid, graph, node, jobs, args, records, tasks⟩]
      ∧ t = { s with part := { s.part with submitted := t.part.submitted, nextPid := s.part.nextPid + 1, graphs := t.part.graphs } }
    let fires := fun (n : Nat) (jobs : List Nat) => List.replicate (needs (gnode s g n)) (n, jobs)
    (∀ q, x.queue ≠ 0 → queueHead s g.asid x.queue = some q → q.clean = true →
      let n := (q.tail + 2 ^ 64 - q.head) % 2 ^ 64
      let u := walkerWrite g.asid (x.queue + 8) (toBytes 8 (q.head + 1))
        (s.updGraph graph (fun g => { g with badQueues := g.badQueues.filter (· != node) }))
      let bs := (walkerRead s g.asid (q.slots + 64 * (q.head % q.nslot)) 64).getD []
      1 ≤ n → n ≤ q.nslot → g.appended = [] → s.findJob s.part.nextJob = none → malformed u g node = false →
      walkerHeld s g.asid [x.queue + 8, x.queue + 15] = false → Completes (.queueRecordTake graph node) s fun t =>
        t.mem = u.mem ∧ (t.findGraph graph).map (·.waiting) = some (g.waiting ++ [⟨node, [s.part.nextJob], bs, [], (x.queue, q.head)⟩])
        ∧ t.part.nextJob = s.part.nextJob + 1
        ∧ t.part.jobs = s.part.jobs ++ [⟨s.part.nextJob, g.idx, BitVec.ofNat 64 (field bs 0 8), field bs 8 8, 0, ⟨0, 0, 0#64, 0#64⟩, false, (x.queue, q.head)⟩])
    ∧ (∀ q js order, x.queue ≠ 0 → queueHead s g.asid x.queue = some q → q.clean = true →
      let n := (q.tail + 2 ^ 64 - q.head) % 2 ^ 64
      let u := walkerWrite g.asid (x.queue + 8) (toBytes 8 (q.head + 1))
        (s.updGraph graph (fun g => { g with badQueues := g.badQueues.filter (· != node) }))
      let bs := (walkerRead s g.asid (q.slots + 64 * (q.head % q.nslot)) 64).getD []
      let inner := ∃ j ∈ js, ∃ y, u.findJob j = some y ∧ y.graph = g.idx
      let entry := ∀ m, m < g.count → node ∉ successors u g (gnode u g m)
      1 ≤ n → n ≤ q.nslot → g.appended = [(node, q.head, js, order)] → js ≠ [] → s.findJob s.part.nextJob = none →
      malformed u g node = false → walkerHeld s g.asid [x.queue + 8, x.queue + 15] = false → Completes (.queueRecordTake graph node) s fun t =>
        t.mem = u.mem ∧ (t.findGraph graph).map (·.appended) = some []
        ∧ (entry ∨ ¬ inner → (t.findGraph graph).map (·.waiting) = some (g.waiting ++ [⟨node, s.part.nextJob :: js, bs, order, (x.queue, q.head)⟩])
          ∧ t.part.jobs = s.part.jobs ++ [⟨s.part.nextJob, g.idx, BitVec.ofNat 64 (field bs 0 8), field bs 8 8, 0, ⟨0, 0, 0#64, 0#64⟩, false, (x.queue, q.head)⟩])
        ∧ (¬ entry → inner → (t.findGraph graph).map (·.waiting) = some (g.waiting ++ [⟨node, js, bs, order, (x.queue, q.head)⟩])
          ∧ t.part.jobs = s.part.jobs))
    ∧ (∀ q, x.queue ≠ 0 → queueHead s g.asid x.queue = some q → q.clean = true → (q.tail + 2 ^ 64 - q.head) % 2 ^ 64 ≤ q.nslot →
      walkerHeld s g.asid [x.queue + 8, x.queue + 15] = true → exec (.queueRecordTake graph node) s =
        .next (s.updGraph graph (fun g => { g with badQueues := g.badQueues.filter (· != node) })))
    ∧ (∀ w rest, x.kind = 0 → here = w :: rest → Completes (.kernelNodeFire graph node) s fun t =>
        submits w.jobs (some (argsOf w.bytes)) [] [w.task] t
        ∧ (t.findGraph graph).map (·.waiting) = some (g.waiting.erase w))
    ∧ (∀ jobs rest, x.kind = 0 → here = [] → arrivals g node (needs x) = some (jobs, rest) →
        Completes (.kernelNodeFire graph node) s fun t => submits jobs none [] (tasksOf s jobs) t ∧ (t.findGraph graph).map (·.arrived) = some rest)
    ∧ (x.kind = 1 → here ≠ [] →
        let l := (orderedRecords s g node).take x.thresh
        let taken := submits (dedup (l.flatMap (·.jobs))) none (l.map (·.bytes)) (l.map (·.task))
        (x.thresh ≤ here.length → Completes (.recordNodeFire graph node) s taken)
        ∧ (x.tmo ≠ 0 → nodeDet s g x = false → Completes (.recordNodeTimeout graph node) s taken))
    ∧ (∀ jobs rest, x.kind = 2 → here = [] → arrivals g node (needs x) = some (jobs, rest) → g.loops = [] →
        Completes (.conditionalNodeFire graph node) s fun t => (t.findGraph graph).map (·.counter) = some (g.counter + 1)
          ∧ ∀ n, (successors s g x)[min (condValue s g x) (x.nsucc - 1)]? = some n → (gnode s g n).kind ≠ 1 →
            (t.findGraph graph).map (fun y => y.arrived.filter (·.1 == n)) = some (rest.filter (·.1 == n) ++ fires n jobs))
    ∧ (∀ jobs rest n, x.kind = 3 → here = [] → arrivals g node (needs x) = some (jobs, rest) → g.loops = [] →
        (successors s g x)[if condValue s g x ≠ 0 then 0 else 1]? = some n →
        Completes (.whileNodeFire graph node) s fun t =>
          (t.findGraph graph).map (·.counter) = some (if condValue s g x ≠ 0 then g.counter else g.counter + 1)
          ∧ (t.findGraph graph).map (·.loops) = some (if condValue s g x ≠ 0 then [(n, node, jobs)] else [])
          ∧ ((gnode s g n).kind ≠ 1 →
            (t.findGraph graph).map (fun y => y.arrived.filter (·.1 == n)) = some (rest.filter (·.1 == n) ++ fires n jobs)))

/-- R333, R335 to R339, R341, R330: a graph is registered under the least free index; a launch that is not refused starts with
the next number, once every page of its lease is resident, and is held back before; a team starts with fresh squads, unless a
debugger has stopped its launch (R399); a launch, and then its job, completes. In which parameter words handles arrive (log 5),
and that frames for missing pages come with the request (log 54), are the model's choices. -/
def Obligations.LaunchLife : Prop :=
  ∀ s : State,
    (∀ asid base count form i, s.part.bootst = 3#4 → i < 4096 → s.findGraph i = none → (∀ j, j < i → s.findGraph j ≠ none) →
      Completes (.graphRegistration asid base count form) s fun t =>
        t.part.graphs = s.part.graphs ++ [⟨i, asid, base, count, form, 0, false, [], [], [], [], []⟩] ∧ t.mem = s.mem)
    ∧ (∀ pid pages tables u g teamAreas squadAreas pool, s.part.submitted.find? (·.pid == pid) = some u → s.findGraph u.graph = some g →
        let x := gnode s g u.node
        let b := (walkerRead s g.asid x.lrec 256).getD []
        let leases := leaseList s g.asid b
        let r0 := LaunchRec.ofBytes b (leases.getD [])
        let r := { r0 with parms := withHandles g u.node s.part.nextLaunch u.jobs (launchParms u x.kind r0.parms) }
        let req : LaunchRequest := ⟨pid, pages, tables⟩
        let started := fun (m : State) => ({ m with
          launches := m.launches.filter (fun (y : Launch) => y.lid != s.part.nextLaunch) ++ [{ Launch.empty with
            lid := s.part.nextLaunch, status := .running, asid := g.asid, lr := r, jobs := u.jobs, graph := u.graph, node := u.node
            records := u.records, stream := false, teamAreas := teamAreas, squadAreas := squadAreas, tasks := u.tasks }]
          part := { m.part with
            nextLaunch := (s.part.nextLaunch + 1) % 2 ^ 32, ctxPool := pool, submitted := m.part.submitted.filter (·.pid != pid) } } : State)
        launchRefused s g.asid x.lrec b leases = false → takeContexts r s.part.ctxPool = some (teamAreas, squadAreas, pool) →
        numberHeld s = false →
        (lowestMissing s g.asid r.leases = none → resident g.asid r.leases req s = some s)
        ∧ (resident g.asid r.leases req s = none → exec (.launchStart req) s = .next s)
        ∧ (∀ m, resident g.asid r.leases req s = some m → lowestMissing m g.asid r.leases = none
          ∧ (r.det = false → r.rcount = 0 → (placeFor (started m) r).isSome = true → exec (.launchStart req) s = .next (started m))))
    ∧ (∀ pid pages tables u g j x, s.part.submitted.find? (·.pid == pid) = some u → s.findGraph u.graph = some g → u.jobs = [j] →
        s.findJob j = some x → x.done = false → x.ending.code = 0 →
        launchRefused s g.asid (gnode s g u.node).lrec ((walkerRead s g.asid (gnode s g u.node).lrec 256).getD [])
          (leaseList s g.asid ((walkerRead s g.asid (gnode s g u.node).lrec 256).getD [])) = true →
        Completes (.launchStart ⟨pid, pages, tables⟩) s fun t => (t.findJob j).map (·.ending.code) = some 2 ∧ t.mem = s.mem)
    ∧ (∀ lid l, s.findLaunch lid = some l → l.debugStop = true → exec (.teamStart lid) s = .next s)
    ∧ (∀ lid l c, s.findLaunch lid = some l → l.lid = lid → l.status = .running → l.debugStop = false → l.nextTeam < l.lr.teams → l.lr.det = false →
        placeFor s l.lr = some c → Completes (.teamStart lid) s fun t =>
          t.teams = s.teams ++ [newTeam l l.nextTeam c] ∧ (t.getLaunch lid).nextTeam = l.nextTeam + 1 ∧ t.mem = s.mem
          ∧ (∀ a, 64 * l.lr.sbase ≤ a → a < 64 * l.lr.sbase + 64 * l.lr.slen → (t.getCore c).stock.read a = 0#8)
          ∧ ∃ qs : List Squad, t.squads = s.squads ++ qs ∧ qs.map (·.key) = (List.range l.lr.nsq).map (fun i => ⟨lid, l.nextTeam, i⟩)
            ∧ ∀ q ∈ qs, q.lclk = 0#64 ∧ q.live = BitVec.allOnes 32 ∧ q.depth = Vector.replicate 32 0#8 ∧ q.suit = l.lr.suit ∧ q.frames = []
              ∧ ∀ i, i < l.lr.nparm → i < 32 → i < l.lr.parms.length → vget q.s i = l.lr.parms.getD i 0#64)
    ∧ (∀ lid l j x, s.findLaunch lid = some l → l.lid = lid → launchOver s l = true → l.jobs = [j] → s.findJob j = some x →
        x.ending.code = 0 → l.ending.code = 0 → Completes (.launchCompletion ⟨lid, none⟩) s fun t =>
          (t.findLaunch lid).map (·.status) = some .done ∧ (∀ q ∈ t.allSquads, q.key.lid ≠ lid) ∧ (∀ m ∈ t.allTeams, m.key.lid ≠ lid)
          ∧ (t.findJob j).map (·.counter) = some (x.counter + 1) ∧ t.mem = s.mem)
    ∧ (∀ job x g, s.findJob job = some x → x.done = false → jobBusy s job = false → s.findGraph x.graph = some g →
        (x.cq ≠ 0 → walkerHeld s g.asid [x.cq, x.cq + 63] = true → exec (.jobCompletion job) s = .next s)
        ∧ (x.cq = 0 ∨ walkerHeld s g.asid [x.cq, x.cq + 63] = false → Completes (.jobCompletion job) s fun t => (t.findJob job).map (·.done) = some true
          ∧ (x.cq = 0 → t.mem = s.mem)
          ∧ ∀ pa, x.cq ≠ 0 → s.mem.wf = true → (∀ b, b < 64 → walkerAddr s g.asid (x.cq + b) = some (pa + b)) →
            Stored (cellsAt pa (completionSlot x)) s.mem t.mem))

/-- R347 to R353: a request marks the teams it names; the drain limit cancels their commands; a settled team's context is
written to its areas; a resumed team reads its context back, on another core if need be. -/
def Obligations.PreemptionEvents : Prop :=
  ∀ (s : State) (k : TeamKey) (tm : Team), s.findTeam k = some tm →
    let cancels := s.cmds.map (fun c => if c.k.team = k ∧ ¬ (6 ≤ c.fn ∧ c.fn ≤ 9) then { c with cancelled := true } else c)
    (∀ teams : Option (List Nat), tm.status = .running → (∀ l, teams = some l → k.tmid ∈ l) → s.part.drain ≠ 0#64 →
      Completes (.preemptionRequest k.lid teams) s fun t => (t.getTeam k).status = .preempting ∧ t = { s with team := t.team, teams := t.teams })
    ∧ (tm.status = .running → s.part.drain = 0#64 → Completes (.preemptionRequest k.lid (some [k.tmid])) s fun t =>
        (t.getTeam k).status = .preempting ∧ t.cmds = cancels)
    ∧ (tm.status = .preempting → exec (.drainLimitExpiry k) s = .next { s with cmds := cancels })
    ∧ (∀ copy, tm.status = .preempting → teamSettled s k = true → Completes (.teamContextSave ⟨k, copy⟩) s fun t =>
        (t.getTeam k).status = .saved ∧ (t.getTeam k).copied = copy ∧ (t.getTeam k).scratch = tm.scratch
        ∧ t.mem = (saveTeam k copy s).mem ∧ (s.mem.wf = true → t.mem.wf = true)
        ∧ (∀ h ∈ (t.getTeam k).shoes.toList, h.ctakes = [] ∧ h.ptakes = [])
        ∧ ∀ q ∈ s.teamSquads k, (t.getSq q.key).fast = false ∧ (t.getSq q.key).uncorr = [])
    ∧ (∀ core, tm.status = .saved → (s.getLaunch k.lid).status = .running → storesAway s tm core = false → mayResume s tm core = true →
        Completes (.teamResume k core) s fun t =>
          (t.getTeam k).status = .running ∧ (t.getTeam k).core = core ∧ t.mem = s.mem
          ∧ (tm.copied = false → (t.getTeam k).scratch = tm.scratch ∧ (t.getCore core).stock = (s.getCore core).stock)
          ∧ (∀ n, n < 16 → vget (t.getTeam k).bars n = ⟨BitVec.ofNat 32 (s.mem.value (tm.ctx + 8 * n) 4),
              s.mem.value (tm.ctx + 8 * n + 4) 1, s.mem.value (tm.ctx + 8 * n + 5) 1⟩)
          ∧ ∀ q, q.key.team = k → s.findSq q.key = some q →
            let r := t.getSq q.key
            r.pkt = s.mem.value (q.ctx + 8) 4 ∧ r.em = BitVec.ofNat 32 (s.mem.value (q.ctx + 0x0C) 4)
            ∧ r.fmt = BitVec.ofNat 32 (s.mem.value (q.ctx + 0x1C) 4) ∧ r.lclk = BitVec.ofNat 64 (s.mem.value (q.ctx + 0x70) 8)
            ∧ (∀ n, n < 32 → vget r.s n = BitVec.ofNat 64 (s.mem.value (q.ctx + 0x200 + 8 * n) 8))
            ∧ (∀ n l, n < 64 → l < 32 → r.vreg n l = BitVec.ofNat 32 (s.mem.value (q.ctx + 0xC00 + 128 * n + 4 * l) 4)))

/-! ## Translation, the outside, management and debug -/

/-- R355 to R361: a walk's leaf is held and serves the core; a shoot-down leaves no entry that it names; a migration sets
WBLK, then copies the frame and names the new one; a promotion replaces 1,024 entries, whose frames lie in the HBM of one die, by
one: it keeps frames that form one aligned 64 MiB frame in order, and else copies the pages into a frame of the pool, where the
pool has one. Which TLBs hold a walk's leaf (log 30), that one die stands for R359's one HBM channel, and when the copies take
place (log 39) are the model's choices, and so is that a copy waits for a port that is down (log 34); where STATE is 0xF nothing
runs (R396). -/
def Obligations.MemoryEvents : Prop :=
  ∀ (s : State) (asid va : Nat),
    (∀ core, walk s (dieOf core) asid va = none → exec (.pageWalk core asid va) s = .next s)
    ∧ (∀ core l, walk s (dieOf core) asid va = some l → Completes (.pageWalk core asid va) s fun t =>
        (t.getCore core).tlb.head? = some ⟨asid, l.2, va, l.1, (asidEnt s asid).gen⟩ ∧ translate t core asid va = some l
        ∧ t = { s with core := t.core, cores := t.cores, dies := t.dies }
        ∧ ((∃ d ∈ s.dies.toList, d.id = dieOf core) → ∀ n ∈ enginesFor s (dieOf core) asid,
            (n, ⟨asid, l.2, va, l.1, (asidEnt s asid).gen⟩) ∈ (t.getDie (dieOf core)).walkAhead))
    ∧ (s.part.bootst = 0xF#4 → ∀ asids lo hi, exec (.shootDown asids lo hi) s = .next s)
    ∧ (s.part.bootst ≠ 0xF#4 → ∀ (asids : Option (List Nat)) (lo hi : Nat), Completes (.shootDown asids lo hi) s fun t =>
        let gone := fun (e : TlbEntry) => ∀ l, asids = some l → e.asid ∈ l ∧ leafG e.leaf = false
          ∧ e.va / e.size * e.size < hi ∧ lo < (e.va / e.size + 1) * e.size
        (∀ core e, e ∈ (t.getCore core).tlb ↔ e ∈ (s.getCore core).tlb ∧ ¬ gone e)
        ∧ (∀ d e, (e ∈ (t.getDie d).tlb ↔ e ∈ (s.getDie d).tlb ∧ ¬ gone e)
          ∧ ∀ n, (n, e) ∈ (t.getDie d).walkAhead ↔ (n, e) ∈ (s.getDie d).walkAhead ∧ ¬ gone e)
        ∧ (∀ n, n < 1024 → (∀ l, asids = some l → n ∈ l) → (asidEnt t n).gen = (asidEnt s n).gen + 1#32)
        ∧ (∀ n, 1024 ≤ n ∨ (∃ l, asids = some l ∧ n ∉ l) → asidEnt t n = asidEnt s n)
        ∧ t = { s with core := t.core, cores := t.cores, dies := t.dies, part := { s.part with asids := t.part.asids } })
    ∧ (∀ l a frame, walk s 0 asid va = some l → entryAddr s asid va = some a → leafWBLK l.1 = false → frame % l.2 = 0 →
        served s frame l.2 = true → frame + l.2 ≤ 2 ^ 52 →
        let page := va / l.2 * l.2
        (∀ m ∈ s.part.migrations, m.asid = asid → m.va / l.2 ≠ va / l.2) →
        Completes (.migrationRequest asid va frame) s fun t =>
          t.part.migrations = s.part.migrations ++ [⟨asid, page, leafAddr l.1, frame⟩]
          ∧ (s.mem.wf = true → Stored (namedCells s a (toBytes 8 (l.1 ||| 0x80#64).toNat)) s.mem t.mem)
          ∧ ∀ core, ∀ e ∈ (t.getCore core).tlb, (e.asid = asid ∧ leafG e.leaf = false) ∨ leafG l.1 = true →
              page + l.2 ≤ e.va / e.size * e.size ∨ (e.va / e.size + 1) * e.size ≤ page)
    ∧ (∀ l a m, walk s 0 asid va = some l → entryAddr s asid va = some a →
        s.part.migrations.find? (fun m => m.asid == asid && m.va == va / l.2 * l.2) = some m →
        ((∃ p ∈ portsOf s m.old l.2 ++ portsOf s m.new l.2, portUp s p = false) → exec (.migrationCompletion asid va) s = .next s) ∧
        ((∀ p ∈ portsOf s m.old l.2 ++ portsOf s m.new l.2, portUp s p = true) →
        (∀ c, (s.getCore c).merged = []) → (∀ d, (s.getDie d).pend = []) → s.mem.wf = true →
        Completes (.migrationCompletion asid va) s fun t =>
          t.part.migrations = s.part.migrations.erase m
          ∧ (∀ x, OutsideRing s x → t.mem.read x =
              (lastCell ((List.range l.2).map (fun i => (canon s (m.new + i), s.mem.read (canon s (m.old + i))))
                ++ namedCells s a (toBytes 8 (setBit (setBit (reframe l.1 m.new) 5 (outside m.new && (peerPort s m.new).isNone)) 7 false).toNat)) x).getD (s.mem.read x))
          ∧ (s.part.nqsize = 0#64 → s.part.held.length < 64 →
              t.part.held = s.part.held ++ [pageNote 2 (homeOf s m.old) asid 0 m.va m.old])))
    ∧ (∀ die a tab f, tableEntry s asid va = some (a, tab) → (asidEnt s asid).promo = true → s.part.promoPaused = false →
        let e := fun i => BitVec.ofNat 64 (dieValue s 0 (tab + 8 * i) 8)
        let old := fun i => leafAddr (e i)
        let leaf := namedCells s a (toBytes 8 (reframe (e 0 &&& 0x1FF#64) f).toNat)
        let shot := fun (t : State) => ∀ core, ∀ x ∈ (t.getCore core).tlb, (x.asid = asid ∧ leafG x.leaf = false) ∨ leafG (e 0) = true →
          va / 2 ^ 26 * 2 ^ 26 + 2 ^ 26 ≤ x.va / x.size * x.size ∨ (x.va / x.size + 1) * x.size ≤ va / 2 ^ 26 * 2 ^ 26
        let inOrder := old 0 % 2 ^ 26 = 0 ∧ ∀ i, i < 1024 → old i = old 0 + 65536 * i
        (∀ i, i < 1024 → entryKind s 1 (e i) = .leaf ∧ leafCO (e i) = false ∧ leafWBLK (e i) = false
          ∧ (e i).extractLsb' 1 8 = (e 0).extractLsb' 1 8 ∧ inHbm s (old i) 65536 = true ∧ homeOf s (old i) = die) → s.mem.wf = true →
        (inOrder → f = old 0 → Completes (.promotion die asid va) s fun t =>
          (∀ x, OutsideRing s x → t.mem.read x = (lastCell leaf x).getD (s.mem.read x)) ∧ shot t)
        ∧ (¬ inOrder → s.part.promoPool.find? (fun p => homeOf s p == die) = none → exec (.promotion die asid va) s = .next s)
        ∧ (¬ inOrder → s.part.promoPool.find? (fun p => homeOf s p == die) = some f →
          (∀ k i b, k < 2 ^ 26 → i < 1024 → b < 65536 → canon s (f + k) ≠ canon s (old i + b)) →
          (∀ c, (s.getCore c).merged = []) → (∀ d, (s.getDie d).pend = []) → Completes (.promotion die asid va) s fun t =>
            (∀ x, OutsideRing s x → t.mem.read x = (lastCell ((List.range 1024).flatMap (fun i => (List.range 65536).map
              (fun b => (canon s (f + 65536 * i + b), s.mem.read (canon s (old i + b))))) ++ leaf) x).getD (s.mem.read x))
            ∧ t.part.promoPool = s.part.promoPool.erase f ∧ shot t))
    ∧ (∀ die a tab i, tableEntry s asid va = some (a, tab) → i < 1024 →
        inHbm s (leafAddr (BitVec.ofNat 64 (dieValue s 0 (tab + 8 * i) 8))) 65536 = false → exec (.promotion die asid va) s = .next s)

/-- R238, R260, R387, R391 to R394: an access from outside is performed at the home of memory that exists, and stops by
name at an address that R404 leaves unbacked (the stop, and what counts as unbacked, are the model's choices, log 12); link
ports go down and come back (log 34); a throttle lowers tokens and clocks (its arguments, log 31). Where STATE is 0xF nothing
runs (R396). -/
def Obligations.OutsideEvents : Prop :=
  ∀ s : State,
    let performed := fun (pa : Nat) (op : OuterOp) (t : State) => match op with
      | .read n => t.part.outerRead = s.mem.bytes pa n ∧ t.mem = s.mem
      | .write bs => s.mem.wf = true → Stored (cellsAt pa bs) s.mem t.mem
      | .atomic opn n x => t.part.outerRead = s.mem.bytes pa n ∧ (s.mem.wf = true → Stored (cellsAt pa
          (toBytes n (atomicNew opn n none (BitVec.ofNat 64 (s.mem.value pa n)) x).toNat)) s.mem t.mem)
      | .row _ _ _ => t.mem = s.mem
    (s.part.bootst = 0xF#4 → ∀ port pa op, exec (.hostMemoryAccess pa op) s = .next s ∧ exec (.peerAccess port pa op) s = .next s)
    ∧ (s.part.bootst ≠ 0xF#4 →
    (∀ pa op, inHbm s pa (outerSize op) = true ∨ inHostWindow s pa (outerSize op) = true →
      Completes (.hostMemoryAccess pa op) s (performed pa op))
    ∧ (∀ pa op, inHbm s pa (outerSize op) = false → inHostWindow s pa (outerSize op) = false →
      exec (.hostMemoryAccess pa op) s = .fault (.unbackedAddress pa))
    ∧ (∀ port pa op, portUp s port = false → exec (.peerAccess port pa op) s = .next s)
    ∧ (∀ port pa op, portUp s port = true → (∀ core shoe bs, op ≠ .row core shoe bs) →
      (inHbm s pa (outerSize op) = true → Completes (.peerAccess port pa op) s (performed pa op))
      ∧ (inHbm s pa (outerSize op) = false → exec (.peerAccess port pa op) s = .fault (.unbackedAddress pa)))
    ∧ (∀ port pa core shoe bs (tm : Team), portUp s port = true → s.allTeams = [tm] → tm.core = core → tm.status = .running →
      let h := vget tm.shoes shoe
      let bound := (s.part.portAsids.find? (·.1 == port)).map (·.2) = some (s.getLaunch tm.key.lid).asid
        ∧ tm.shoeMask.getLsbD shoe = true ∧ h.nslot ≠ 0 ∧ bs.length ≤ 64 * h.slot
      (¬ bound → Completes (.peerAccess port pa (.row core shoe bs)) s fun t => t.part.outerRead = [0#8] ∧ t.allTeams = [tm] ∧ t.mem = s.mem)
      ∧ (bound → 0 < h.free → h.ptakes = [] → Completes (.peerAccess port pa (.row core shoe bs)) s fun t =>
          t.part.outerRead = [1#8] ∧ t.mem = s.mem
          ∧ (t.getTeam tm.key).shoes = vset tm.shoes shoe { h with free := h.free - 1, filled := h.filled + 1, tail := (h.tail + 1) % h.nslot }
          ∧ (tm.scratch.wf = true → Stored (cellsAt (h.base + 64 * h.slot * h.tail) (padTo (64 * h.slot) bs)) tm.scratch (t.getTeam tm.key).scratch))))
    ∧ (∀ port, port < 16 → s.part.caps.ports.getLsbD port = true → s.part.bootst ≠ 0xF#4 → Completes (.linkPortDown port) s fun t =>
        vget t.part.lifetime 5 = vget s.part.lifetime 5 + 1 ∧
        t.part.portsDown = s.part.portsDown ||| (1#16 <<< port) ∧ portUp t port = false
        ∧ (s.mem.wf = true → ∀ a, OutsideRing s a → t.mem.read a = s.mem.read a))
    ∧ (∀ port, port < 16 → s.part.bootst ≠ 0xF#4 → Completes (.linkRetrainComplete port) s fun t =>
        portUp t port = s.part.caps.ports.getLsbD port
        ∧ t = { s with part := { s.part with portsDown := s.part.portsDown &&& ~~~(1#16 <<< port) } })
    ∧ (∀ ntok watts plate clocks, s.part.bootst ≠ 3#4 ∨ (plate = false ∧ watts < s.part.pcap.toNat)
          ∨ (ntok = s.part.ntok ∧ ntok ≠ 0x1111#16) →
        exec (.throttle ntok ⟨watts, plate⟩ clocks) s = .next s)
    ∧ (∀ ntok watts plate clocks, s.part.bootst = 3#4 → (plate = true ∨ s.part.pcap.toNat ≤ watts) →
        (∀ d, d < 4 → 1 ≤ ntokOf ntok d ∧ ntokOf ntok d ≤ ntokOf s.part.ntok d ∧ ntokOf ntok d ≤ 6) →
        (ntok ≠ s.part.ntok ∨ ntok = 0x1111#16) →
        Completes (.throttle ntok ⟨watts, plate⟩ clocks) s fun t => t.part.ntok = ntok
          ∧ vget t.part.lifetime 4 = vget s.part.lifetime 4 + 1
          ∧ (∀ d ∈ t.dies.toList, d.id < 4 → d.tokens.length ≤ ntokOf ntok d.id)
          ∧ (∀ d ∈ t.dies.toList, ∃ d0 ∈ s.dies.toList, d.id = d0.id ∧ d.clocks.length = d0.clocks.length
              ∧ ∀ k, d.clocks.getD k 0 ≤ d0.clocks.getD k 0)
          ∧ (s.mem.wf = true → ∀ a, OutsideRing s a → t.mem.read a = s.mem.read a))

/-- R388, R389, R396, R397, R200: reset, boot, reports and the registers of the management window: a legal write takes
effect, and another one changes nothing and sets bit 63 of BOOTST. The model's choices: that RESET keeps memory (log 32); the
layout of an attestation report and when a report can no longer be made (log 14); that NQBASE and NQSIZE change only while no
record stands in the ring and only to a ring that memory backs, that a write to a read-only register is ignored, and the
registers for ASID entries, windows, pools, promotion and port bindings, which Table 29-1 does not place (log 43); and what
STATE 0xF stops (log 33). -/
def Obligations.ManagementEvents : Prop :=
  ∀ s : State,
    let refused := { s with part := { s.part with badWrite := true } }
    let writes := fun (r : MgmtReg) (x : DWord) (p : Part) => exec (.mgmtRegisterWrite r x) s = .next { s with part := p }
    (Completes .reset s fun t => t.sq = State.reset.sq ∧ t.squads = [] ∧ t.teams = [] ∧ t.launches = [] ∧ t.cmds = []
        ∧ t.part.nqsize = 0#64 ∧ t.part.ntok = 0x3333#16 ∧ t.part.lcopol = 0#2 ∧ t.part.asids = [] ∧ t.part.objs = []
        ∧ t.part.lifetime = s.part.lifetime ∧ t.part.histograms = s.part.histograms ∧ t.part.hour = s.part.hour
        ∧ t.part.identityLeft = s.part.identityLeft ∧ t.part.attestLeft = s.part.attestLeft
        ∧ (t.part.bootst = 2#4 ∨ t.part.bootst = 0xF#4) ∧ t.mem = s.mem)
    ∧ (s.part.bootst = 2#4 → Completes .firmwareReady s fun t =>
        t = { s with part := { s.part with bootst := 3#4, caps := Caps.fused } })
    ∧ (s.part.bootst ≠ 2#4 → exec .firmwareReady s = .next s)
    ∧ (∀ nonce, s.part.bootst = 3#4 → nonce.length = 32 → (s.part.attestLeft ≠ 0 ∨ s.part.identityLeft ≠ 0) → Completes (.attestationReport nonce) s fun t =>
        t.part.attestLeft = (if s.part.attestLeft = 0 then 1024 else s.part.attestLeft) - 1
        ∧ t.part.identityLeft = (if s.part.attestLeft = 0 then s.part.identityLeft - 1 else s.part.identityLeft)
        ∧ (∃ sig, sig.length = 8 ∧ t.part.attestation =
            toBytes 32 Config.firmwareDigest.toNat ++ toBytes 4 s.part.fwver.toNat ++ capBytes s.part.caps ++ nonce ++ sig)
        ∧ t = { s with part := { s.part with
            attestLeft := t.part.attestLeft, identityLeft := t.part.identityLeft, attestation := t.part.attestation } })
    ∧ (Completes .bootstRead s fun t => t.part.bootRead.getLsbD 63 = s.part.badWrite
        ∧ t.part.bootRead.extractLsb' 0 4 = s.part.bootst ∧ t.part.bootRead.extractLsb' 16 32 = s.part.fwver
        ∧ t = { s with part := { s.part with bootRead := t.part.bootRead, badWrite := false } })
    ∧ (∀ n x, capValue s.part.caps (0x100 + n) = some x → windowValue s.part (0x800 + 8 * n) = x)
    ∧ (s.part.bootst = 0xF#4 → ∀ r x, exec (.mgmtRegisterWrite r x) s = .next s)
    ∧ (s.part.bootst ≠ 0xF#4 → ∀ base size : DWord, let b : DWord := BitVec.ofNat 64 (base.toNat % 2 ^ 52)
        let ok := b.toNat % 4096 = 0 ∧ placed s b.toNat 4096 = true ∧ placed s b.toNat (32 * size.toNat) = true ∧ (∃ i, i ≤ 10 ∧ size.toNat = 64 * 2 ^ i)
          ∧ (s.part.nqsize = 0#64 ∨ s.part.nqtail = s.part.nqhead)
        (ok → Completes (.notificationRingSetup base size) s fun t => t.part.nqbase = b ∧ windowValue t.part 0x100 = b ∧ t.part.nqsize = size ∧ t.part.held = []
          ∧ (s.part.held = [] → t.mem = s.mem)
          ∧ (∀ r, s.part.held = [r] → s.part.nqtail = s.part.nqhead → s.mem.wf = true →
              (∀ p ∈ portsOf s (b.toNat + 32 * (s.part.nqtail.toNat % size.toNat)) 32, portUp s p = true) → t.part.nqtail = s.part.nqtail + 1#64
              ∧ Stored (namedCells s (b.toNat + 32 * (s.part.nqtail.toNat % size.toNat)) r) s.mem t.mem))
        ∧ (¬ ok → exec (.notificationRingSetup base size) s = .next refused))
    ∧ (s.part.bootst ≠ 0xF#4 → ∀ x : DWord,
        (x.toNat % 2 ^ 21 ≤ 2 ^ 20 → writes .drain x { s.part with drain := BitVec.ofNat 64 (x.toNat % 2 ^ 21) })
        ∧ (¬ x.toNat % 2 ^ 21 ≤ 2 ^ 20 → exec (.mgmtRegisterWrite .drain x) s = .next refused)
        ∧ writes .mxgate x { s.part with mxgate := BitVec.ofNat 64 (x.toNat % 2 ^ 16) }
        ∧ (600 ≤ x.toNat → x.toNat ≤ 2400 → writes .pcap x { s.part with pcap := x })
        ∧ (x.toNat < 600 ∨ 2400 < x.toNat → exec (.mgmtRegisterWrite .pcap x) s = .next refused)
        ∧ (s.part.lcopol.getLsbD 1 = false → writes .lcopol x { s.part with lcopol := x.setWidth 2 })
        ∧ (s.part.lcopol.getLsbD 1 = true → exec (.mgmtRegisterWrite .lcopol x) s = .next refused)
        ∧ ((s.part.nqtail - x).toNat ≤ (s.part.nqtail - s.part.nqhead).toNat → writes .nqhead x { s.part with nqhead := x })
        ∧ (¬ (s.part.nqtail - x).toNat ≤ (s.part.nqtail - s.part.nqhead).toNat → exec (.mgmtRegisterWrite .nqhead x) s = .next refused)
        ∧ ((∀ d, d < 4 → 1 ≤ ntokOf (x.setWidth 16) d ∧ ntokOf (x.setWidth 16) d ≤ 6) →
            Completes (.mgmtRegisterWrite .ntok x) s fun t => t.part.ntok = x.setWidth 16
              ∧ t.part = { s.part with ntok := x.setWidth 16 } ∧ ∀ d ∈ t.dies.toList, d.id < 4 → d.tokens.length ≤ ntokOf (x.setWidth 16) d.id)
        ∧ (∀ d, d < 4 → ntokOf (x.setWidth 16) d < 1 ∨ 6 < ntokOf (x.setWidth 16) d → exec (.mgmtRegisterWrite .ntok x) s = .next refused)
        ∧ (∀ n d, s.part.lcopol.getLsbD 1 = false → writes (.lcokey n d) x
            { s.part with lcokeys := vset s.part.lcokeys n.val (vset (vget s.part.lcokeys n.val) d.val x) })
        ∧ (∀ n d, s.part.lcopol.getLsbD 1 = true → exec (.mgmtRegisterWrite (.lcokey n d) x) s = .next refused)
        ∧ (∀ off, exec (.mgmtRegisterWrite (.readOnly off) x) s = .next s)
        ∧ (let b : DWord := BitVec.ofNat 64 (x.toNat % 2 ^ 52)
          let ok := b.toNat % 4096 = 0 ∧ placed s b.toNat 4096 = true ∧ placed s b.toNat (32 * s.part.nqsize.toNat) = true
            ∧ (s.part.nqsize = 0#64 ∨ s.part.nqtail = s.part.nqhead)
          (ok → writes .nqbase x { s.part with nqbase := b }) ∧ (¬ ok → exec (.mgmtRegisterWrite .nqbase x) s = .next refused))
        ∧ (s.part.nqbase.toNat < 2 ^ 52 → s.part.nqbase.toNat % 4096 = 0 → placed s s.part.nqbase.toNat 4096 = true →
            exec (.mgmtRegisterWrite .nqsize x) s = exec (.notificationRingSetup s.part.nqbase x) s)
        ∧ (∀ n (d : Fin 4), let e := asidEnt s n
          let entry := fun e => { s.part with asids := s.part.asids.filter (·.n != n) ++ [e] }
          let ok := n < 1024 ∧ match d with
            | 0 => (∀ i, 1 ≤ i → i < 13 → x.getLsbD i = false) ∧ x.toNat < 2 ^ 52
            | 1 => x.toNat / 2 ^ 32 % 2 ^ 16 ≠ 0 ∧ x.toNat < 2 ^ 49
            | 2 => x.toNat % 64 = 0 ∧ x.toNat < 2 ^ 52
            | 3 => x.toNat ≤ 65536
          (ok → writes (.asid n d) x (entry (match d with
            | 0 => { e with root := x }
            | 1 => { e with acthr := BitVec.ofNat 16 (x.toNat / 2 ^ 32), promo := x.getLsbD 48 }
            | 2 => { e with rtab := x }
            | 3 => { e with rtabn := BitVec.ofNat 32 x.toNat })))
          ∧ (¬ ok → exec (.mgmtRegisterWrite (.asid n d) x) s = .next refused))
        ∧ (∀ base len port peer, let ok := 2 ^ 40 ≤ base ∧ base + len ≤ 2 ^ 52 ∧ peer + len ≤ 2 ^ 52
          (ok → writes (.window base len port peer) x { s.part with
            windows := s.part.windows.filter (·.base != base) ++ (if len = 0 then [] else [⟨base, len, port, peer⟩]) })
          ∧ (¬ ok → exec (.mgmtRegisterWrite (.window base len port peer) x) s = .next refused))
        ∧ (∀ base len, (base + len ≤ hbmBytes s.part.caps → writes (.contextPool base len) x { s.part with ctxPool := s.part.ctxPool ++ [(base, len)] })
          ∧ (hbmBytes s.part.caps < base + len → exec (.mgmtRegisterWrite (.contextPool base len) x) s = .next refused))
        ∧ (∀ pa, let ok := pa % 2 ^ 26 = 0 ∧ inHbm s pa (2 ^ 26) = true
          (ok → writes (.promotionFrame pa) x { s.part with promoPool := s.part.promoPool ++ [pa] })
          ∧ (¬ ok → exec (.mgmtRegisterWrite (.promotionFrame pa) x) s = .next refused))
        ∧ writes .promotionPause x { s.part with promoPaused := x.getLsbD 0 }
        ∧ (∀ port, let ok := port < 16 ∧ x.toNat < 1024
          (ok → writes (.portAsid port) x { s.part with portAsids := (port, x.toNat) :: s.part.portAsids.filter (·.1 != port) })
          ∧ (¬ ok → exec (.mgmtRegisterWrite (.portAsid port) x) s = .next refused)))
    ∧ (s.part.bootst = 0xF#4 → ∀ core base size, exec (.coreCounterClear core) s = .next s ∧ exec (.notificationRingSetup base size) s = .next s)
    ∧ (s.part.bootst ≠ 0xF#4 → ∀ core, Completes (.coreCounterClear core) s fun t =>
        t.getCore core = { s.getCore core with crdhit := 0#64, crdmiss := 0#64, crmisd := 0#64 }
        ∧ t = { s with core := t.core, cores := t.cores })

/-- R68, R372 to R377, R399 to R402: objects, debugger stops, experiments, wait-for samples and parity failures. The
model's choices: the load address and the frames are given (log 41), a symbol without an address is a free value (log 40), what
a stop marks and that disarming lifts it (log 45), which samples fall on an hour and the histograms' bins (log 35), the deadlock
report's layout (log 14), how a parity failure is corrected (log 46) and what STATE 0xF stops (log 33). -/
def Obligations.ObjectAndDebugEvents : Prop :=
  ∀ s : State,
    (∀ req, s.part.bootst ≠ 3#4 → exec (.objectLoad req) s = .next s)
    ∧ (∀ req r, s.part.bootst = 3#4 → refusedEarly s req.bytes = some r →
        exec (.objectLoad req) s = .next { s with part := { s.part with loadReport := [r.1, r.2] } })
    ∧ (∀ req u, let b := relocate req.va (handlesOf req) (Config.freeAddress s.free) req.bytes
        s.part.bootst = 3#4 → refusedEarly s req.bytes = none → regionCount b ≤ regionsFree s req.asid →
        firstFlaw (badRegions s b) = none → requestGood s req b = true → mapObject req b (req.frames.headD 0) s = some u →
        firstFlaw (badLaunches u req.asid b) = none → firstFlaw (badSignature s req.bytes) = none →
        Completes (.objectLoad req) s fun t =>
          t.findObj (req.frames.headD 0) = some (loadedObj req b (req.frames.headD 0))
          ∧ (∀ a, a ≠ req.frames.headD 0 → t.findObj a = s.findObj a)
          ∧ t.part.loadReport = (loadedObj req b (req.frames.headD 0)).report ∧ (req.regions = [] → t.mem = u.mem))
    ∧ (∀ addr o, s.findObj addr = some o → objInUse s o = true → exec (.objectUnload addr) s = .next s)
    ∧ (∀ addr o, s.findObj addr = some o → objInUse s o = false → (∀ r ∈ o.regions, unloadWaits s o.asid r.1 = false) →
        Completes (.objectUnload addr) s fun t => t.findObj addr = none
        ∧ (∀ r, o.regions = [r] → o.maps = [] → s.mem.wf = true → descBacked s o.asid r.1 = true →
            let d := readDesc s o.asid r.1
            Stored (namedCells s (descAddr s o.asid r.1 + 5) (toBytes 1 (d.flags / 2 * 2) ++ toBytes 2 ((d.gen + 1) % 65536))) s.mem t.mem)
        ∧ (o.regions = [] → ∀ m a, o.maps = [m] → m.2 = 1 → s.mem.wf = true → entryAddr s o.asid m.1 = some a →
            (∃ e, walk s 0 o.asid m.1 = some (e, 65536)) →
            Stored (namedCells s a (toBytes 8 0)) s.mem t.mem))
    ∧ (s.part.bootst = 0xF#4 → ∀ target op what, exec (.debugStop target) s = .next s ∧ exec (.causalExperiment op) s = .next s
        ∧ exec (.registerParityFailure what) s = .next s)
    ∧ (s.part.bootst ≠ 0xF#4 →
    (∀ lid l, s.findLaunch lid = some l → Completes (.debugStop (.launch lid)) s fun t =>
        t = { s with team := t.team, teams := t.teams, launch := t.launch, launches := t.launches, part := { s.part with
          stops := s.part.stops ++ l.tasks.map (fun x => ⟨x.1, x.2, 0xFFFF⟩) } }
        ∧ t.findLaunch lid = some { l with debugStop := true }
        ∧ (∀ k, k ≠ lid → t.findLaunch k = s.findLaunch k)
        ∧ ∀ tm : Team, s.findTeam tm.key = some tm → t.findTeam tm.key = some (
            if tm.key.lid = lid ∧ (tm.status = .running ∨ tm.status = .preempting ∨ tm.status = .saved)
            then { tm with status := if tm.status = .running then .preempting else tm.status, debugStop := true } else tm))
    ∧ (∀ c, s.findCmd c = none → exec (.debugStop (.command c)) s = .next s)
    ∧ (∀ c x, s.findCmd c = some x → exec (.debugStop (.command c)) s = .next { s with part := { s.part with
        stops := s.part.stops ++ (s.getLaunch x.k.lid).tasks.map (fun y => ⟨y.1, y.2, x.engine⟩) } })
    ∧ (∀ lid l b, s.findLaunch lid = some l → Completes (.debugStop (.arm lid b)) s fun t =>
        t.findLaunch lid = some { l with bkpt := b, debugStop := if b then l.debugStop else false } ∧ t = { s with launch := t.launch, launches := t.launches, team := t.team, teams := t.teams }
        ∧ ∀ tm : Team, s.findTeam tm.key = some tm → t.findTeam tm.key = some (
            if b = false ∧ tm.key.lid = lid then { tm with debugStop := false } else tm))
    ∧ (∀ e : Experiment, 1 ≤ e.delay → e.delay ≤ 4096 → e.points.length ≤ 4 →
        exec (.causalExperiment (.start e)) s = .next { s with part := { s.part with
          experiments := s.part.experiments ++ [(s.part.nextExperiment, e)]
          progress := s.part.progress ++ e.points.map (fun x => (s.part.nextExperiment, x.1, x.2, 0))
          nextExperiment := s.part.nextExperiment + 1 } })
    ∧ (∀ e : Experiment, e.delay < 1 ∨ 4096 < e.delay ∨ 4 < e.points.length → exec (.causalExperiment (.start e)) s = .next s)
    ∧ (∀ id, exec (.causalExperiment (.stop id)) s = .next { s with part := { s.part with
        experiments := s.part.experiments.filter (·.1 != id) } }))
    ∧ (s.part.bootst ≠ 3#4 → exec .waitForGraphSample s = .next s)
    ∧ (s.part.bootst = 3#4 → Completes .waitForGraphSample s fun t =>
        let hour := Config.freeBit s.free .hour
        (hour = false → Counted s t)
        ∧ (∀ q o, s.allSquads = [q] → q.status = .live → waitNow s q = some (.reg o) → q.isFull o = false → q.pendingOn o = none →
            s.part.nqsize = 0#64 → s.part.held = [] → t.part.held = [waitNote s [q.key]])
        ∧ (hour = true → ∀ i, i < 6 → let n := vget s.part.hour i
            vget t.part.hour i = 0 ∧ (n = 0 → vget t.part.histograms i = vget s.part.histograms i)
            ∧ ∀ b, b ≤ 15 → 2 ^ b ≤ n → b = 15 ∨ n < 2 ^ (b + 1) →
                vget (vget t.part.histograms i) b = vget (vget s.part.histograms i) b + 1))
    ∧ (s.part.bootst ≠ 0xF#4 →
    (∀ (k : SquadKey) (w : WordRef) (q : Squad), s.findSq k = some q → Completes (.registerParityFailure (.reg k w)) s fun t =>
        t = s.countLife 0 ∨ (w ∈ (t.getSq k).uncorr ∧ t = { s with sq := t.sq, squads := t.squads }))
    ∧ (∀ core tile row col, Completes (.registerParityFailure (.acc core tile row col)) s fun t =>
        (t.getCore core).zbad = (tile, row, col) :: (s.getCore core).zbad ∧ t = { s with core := t.core, cores := t.cores })
    ∧ (∀ pa, inHbm s pa 1 = true → exec (.registerParityFailure (.hbm pa)) s = .next (s.countLife 2)))
end

