-- ==== Sys2Proof/Laws/State.lean ====
section
/-! SUPPORT. What the named updates of the state do to each field. -/

namespace Sys2Proof.Machine

/-! ## s.onSq f -/

@[simp] theorem State.onSq_sq (s : State) (f : Squad → Squad) : (s.onSq f).sq = f s.sq := rfl
@[simp] theorem State.onSq_team (s : State) (f : Squad → Squad) : (s.onSq f).team = s.team := rfl
@[simp] theorem State.onSq_core (s : State) (f : Squad → Squad) : (s.onSq f).core = s.core := rfl
@[simp] theorem State.onSq_launch (s : State) (f : Squad → Squad) : (s.onSq f).launch = s.launch := rfl
@[simp] theorem State.onSq_obj (s : State) (f : Squad → Squad) : (s.onSq f).obj = s.obj := rfl
@[simp] theorem State.onSq_squads (s : State) (f : Squad → Squad) : (s.onSq f).squads = s.squads := rfl
@[simp] theorem State.onSq_teams (s : State) (f : Squad → Squad) : (s.onSq f).teams = s.teams := rfl
@[simp] theorem State.onSq_cores (s : State) (f : Squad → Squad) : (s.onSq f).cores = s.cores := rfl
@[simp] theorem State.onSq_launches (s : State) (f : Squad → Squad) : (s.onSq f).launches = s.launches := rfl
@[simp] theorem State.onSq_dies (s : State) (f : Squad → Squad) : (s.onSq f).dies = s.dies := rfl
@[simp] theorem State.onSq_cmds (s : State) (f : Squad → Squad) : (s.onSq f).cmds = s.cmds := rfl
@[simp] theorem State.onSq_mem (s : State) (f : Squad → Squad) : (s.onSq f).mem = s.mem := rfl
@[simp] theorem State.onSq_part (s : State) (f : Squad → Squad) : (s.onSq f).part = s.part := rfl
@[simp] theorem State.onSq_agenda (s : State) (f : Squad → Squad) : (s.onSq f).agenda = s.agenda := rfl
@[simp] theorem State.onSq_free (s : State) (f : Squad → Squad) : (s.onSq f).free = s.free := rfl
@[simp] theorem State.onSq_sstChunk (s : State) (f : Squad → Squad) : (s.onSq f).sstChunk = s.sstChunk := rfl

/-! ## s.updPart f -/

@[simp] theorem State.updPart_sq (s : State) (f : Part → Part) : (s.updPart f).sq = s.sq := rfl
@[simp] theorem State.updPart_team (s : State) (f : Part → Part) : (s.updPart f).team = s.team := rfl
@[simp] theorem State.updPart_core (s : State) (f : Part → Part) : (s.updPart f).core = s.core := rfl
@[simp] theorem State.updPart_launch (s : State) (f : Part → Part) : (s.updPart f).launch = s.launch := rfl
@[simp] theorem State.updPart_obj (s : State) (f : Part → Part) : (s.updPart f).obj = s.obj := rfl
@[simp] theorem State.updPart_squads (s : State) (f : Part → Part) : (s.updPart f).squads = s.squads := rfl
@[simp] theorem State.updPart_teams (s : State) (f : Part → Part) : (s.updPart f).teams = s.teams := rfl
@[simp] theorem State.updPart_cores (s : State) (f : Part → Part) : (s.updPart f).cores = s.cores := rfl
@[simp] theorem State.updPart_launches (s : State) (f : Part → Part) : (s.updPart f).launches = s.launches := rfl
@[simp] theorem State.updPart_dies (s : State) (f : Part → Part) : (s.updPart f).dies = s.dies := rfl
@[simp] theorem State.updPart_cmds (s : State) (f : Part → Part) : (s.updPart f).cmds = s.cmds := rfl
@[simp] theorem State.updPart_mem (s : State) (f : Part → Part) : (s.updPart f).mem = s.mem := rfl
@[simp] theorem State.updPart_part (s : State) (f : Part → Part) : (s.updPart f).part = f s.part := rfl
@[simp] theorem State.updPart_agenda (s : State) (f : Part → Part) : (s.updPart f).agenda = s.agenda := rfl
@[simp] theorem State.updPart_free (s : State) (f : Part → Part) : (s.updPart f).free = s.free := rfl
@[simp] theorem State.updPart_sstChunk (s : State) (f : Part → Part) : (s.updPart f).sstChunk = s.sstChunk := rfl

/-! ## endRun s -/

@[simp] theorem endRun_sq (s : State) : (endRun s).sq = { s.sq with running := false, runPkts := [] } := rfl
@[simp] theorem endRun_team (s : State) : (endRun s).team = s.team := rfl
@[simp] theorem endRun_core (s : State) : (endRun s).core = s.core := rfl
@[simp] theorem endRun_launch (s : State) : (endRun s).launch = s.launch := rfl
@[simp] theorem endRun_obj (s : State) : (endRun s).obj = s.obj := rfl
@[simp] theorem endRun_squads (s : State) : (endRun s).squads = s.squads := rfl
@[simp] theorem endRun_teams (s : State) : (endRun s).teams = s.teams := rfl
@[simp] theorem endRun_cores (s : State) : (endRun s).cores = s.cores := rfl
@[simp] theorem endRun_launches (s : State) : (endRun s).launches = s.launches := rfl
@[simp] theorem endRun_dies (s : State) : (endRun s).dies = s.dies := rfl
@[simp] theorem endRun_cmds (s : State) : (endRun s).cmds = s.cmds := rfl
@[simp] theorem endRun_mem (s : State) : (endRun s).mem = s.mem := rfl
@[simp] theorem endRun_part (s : State) : (endRun s).part = s.part := rfl
@[simp] theorem endRun_agenda (s : State) : (endRun s).agenda = s.agenda := rfl
@[simp] theorem endRun_free (s : State) : (endRun s).free = s.free := rfl
@[simp] theorem endRun_sstChunk (s : State) : (endRun s).sstChunk = s.sstChunk := rfl

/-! ## waitHere w s -/

@[simp] theorem waitHere_sq (w : Wait) (s : State) : (waitHere w s).sq = { s.sq with wait := some w, running := false, runPkts := [] } := rfl
@[simp] theorem waitHere_team (w : Wait) (s : State) : (waitHere w s).team = s.team := rfl
@[simp] theorem waitHere_core (w : Wait) (s : State) : (waitHere w s).core = s.core := rfl
@[simp] theorem waitHere_launch (w : Wait) (s : State) : (waitHere w s).launch = s.launch := rfl
@[simp] theorem waitHere_obj (w : Wait) (s : State) : (waitHere w s).obj = s.obj := rfl
@[simp] theorem waitHere_squads (w : Wait) (s : State) : (waitHere w s).squads = s.squads := rfl
@[simp] theorem waitHere_teams (w : Wait) (s : State) : (waitHere w s).teams = s.teams := rfl
@[simp] theorem waitHere_cores (w : Wait) (s : State) : (waitHere w s).cores = s.cores := rfl
@[simp] theorem waitHere_launches (w : Wait) (s : State) : (waitHere w s).launches = s.launches := rfl
@[simp] theorem waitHere_dies (w : Wait) (s : State) : (waitHere w s).dies = s.dies := rfl
@[simp] theorem waitHere_cmds (w : Wait) (s : State) : (waitHere w s).cmds = s.cmds := rfl
@[simp] theorem waitHere_mem (w : Wait) (s : State) : (waitHere w s).mem = s.mem := rfl
@[simp] theorem waitHere_part (w : Wait) (s : State) : (waitHere w s).part = s.part := rfl
@[simp] theorem waitHere_agenda (w : Wait) (s : State) : (waitHere w s).agenda = s.agenda := rfl
@[simp] theorem waitHere_free (w : Wait) (s : State) : (waitHere w s).free = s.free := rfl
@[simp] theorem waitHere_sstChunk (w : Wait) (s : State) : (waitHere w s).sstChunk = s.sstChunk := rfl

/-! ## setShoeState n f s -/

@[simp] theorem setShoeState_sq (n : Nat) (f : Shoe → Shoe) (s : State) : (setShoeState n f s).sq = s.sq := rfl
@[simp] theorem setShoeState_team (n : Nat) (f : Shoe → Shoe) (s : State) : (setShoeState n f s).team = { s.team with shoes := vset s.team.shoes n (f (vget s.team.shoes n)) } := rfl
@[simp] theorem setShoeState_core (n : Nat) (f : Shoe → Shoe) (s : State) : (setShoeState n f s).core = s.core := rfl
@[simp] theorem setShoeState_launch (n : Nat) (f : Shoe → Shoe) (s : State) : (setShoeState n f s).launch = s.launch := rfl
@[simp] theorem setShoeState_obj (n : Nat) (f : Shoe → Shoe) (s : State) : (setShoeState n f s).obj = s.obj := rfl
@[simp] theorem setShoeState_squads (n : Nat) (f : Shoe → Shoe) (s : State) : (setShoeState n f s).squads = s.squads := rfl
@[simp] theorem setShoeState_teams (n : Nat) (f : Shoe → Shoe) (s : State) : (setShoeState n f s).teams = s.teams := rfl
@[simp] theorem setShoeState_cores (n : Nat) (f : Shoe → Shoe) (s : State) : (setShoeState n f s).cores = s.cores := rfl
@[simp] theorem setShoeState_launches (n : Nat) (f : Shoe → Shoe) (s : State) : (setShoeState n f s).launches = s.launches := rfl
@[simp] theorem setShoeState_dies (n : Nat) (f : Shoe → Shoe) (s : State) : (setShoeState n f s).dies = s.dies := rfl
@[simp] theorem setShoeState_cmds (n : Nat) (f : Shoe → Shoe) (s : State) : (setShoeState n f s).cmds = s.cmds := rfl
@[simp] theorem setShoeState_mem (n : Nat) (f : Shoe → Shoe) (s : State) : (setShoeState n f s).mem = s.mem := rfl
@[simp] theorem setShoeState_part (n : Nat) (f : Shoe → Shoe) (s : State) : (setShoeState n f s).part = s.part := rfl
@[simp] theorem setShoeState_agenda (n : Nat) (f : Shoe → Shoe) (s : State) : (setShoeState n f s).agenda = s.agenda := rfl
@[simp] theorem setShoeState_free (n : Nat) (f : Shoe → Shoe) (s : State) : (setShoeState n f s).free = s.free := rfl
@[simp] theorem setShoeState_sstChunk (n : Nat) (f : Shoe → Shoe) (s : State) : (setShoeState n f s).sstChunk = s.sstChunk := rfl

/-! ## countDeal -/

@[simp] theorem countDeal_sq (h m : Bool) (s : State) : (countDeal h m s).sq = s.sq := rfl
@[simp] theorem countDeal_team (h m : Bool) (s : State) : (countDeal h m s).team = s.team := rfl
@[simp] theorem countDeal_core (h m : Bool) (s : State) : (countDeal h m s).core = { s.core with
    crdhit := if h then s.core.crdhit + 1#64 else s.core.crdhit
    crdmiss := if h then s.core.crdmiss else s.core.crdmiss + 1#64
    crmisd := if m then s.core.crmisd + 1#64 else s.core.crmisd } := rfl
@[simp] theorem countDeal_launch (h m : Bool) (s : State) : (countDeal h m s).launch = s.launch := rfl
@[simp] theorem countDeal_obj (h m : Bool) (s : State) : (countDeal h m s).obj = s.obj := rfl
@[simp] theorem countDeal_squads (h m : Bool) (s : State) : (countDeal h m s).squads = s.squads := rfl
@[simp] theorem countDeal_teams (h m : Bool) (s : State) : (countDeal h m s).teams = s.teams := rfl
@[simp] theorem countDeal_cores (h m : Bool) (s : State) : (countDeal h m s).cores = s.cores := rfl
@[simp] theorem countDeal_launches (h m : Bool) (s : State) : (countDeal h m s).launches = s.launches := rfl
@[simp] theorem countDeal_dies (h m : Bool) (s : State) : (countDeal h m s).dies = s.dies := rfl
@[simp] theorem countDeal_cmds (h m : Bool) (s : State) : (countDeal h m s).cmds = s.cmds := rfl
@[simp] theorem countDeal_mem (h m : Bool) (s : State) : (countDeal h m s).mem = s.mem := rfl
@[simp] theorem countDeal_part (h m : Bool) (s : State) : (countDeal h m s).part = s.part := rfl
@[simp] theorem countDeal_agenda (h m : Bool) (s : State) : (countDeal h m s).agenda = s.agenda := rfl
@[simp] theorem countDeal_free (h m : Bool) (s : State) : (countDeal h m s).free = s.free := rfl
@[simp] theorem countDeal_sstChunk (h m : Bool) (s : State) : (countDeal h m s).sstChunk = s.sstChunk := rfl



/-! ## retire -/

@[simp] theorem retire_team (n : Nat) (rb : Bool) (s : State) : (retire n rb s).team = s.team := rfl
@[simp] theorem retire_core (n : Nat) (rb : Bool) (s : State) : (retire n rb s).core = s.core := rfl
@[simp] theorem retire_launch (n : Nat) (rb : Bool) (s : State) : (retire n rb s).launch = s.launch := rfl
@[simp] theorem retire_obj (n : Nat) (rb : Bool) (s : State) : (retire n rb s).obj = s.obj := rfl
@[simp] theorem retire_squads (n : Nat) (rb : Bool) (s : State) : (retire n rb s).squads = s.squads := rfl
@[simp] theorem retire_teams (n : Nat) (rb : Bool) (s : State) : (retire n rb s).teams = s.teams := rfl
@[simp] theorem retire_cores (n : Nat) (rb : Bool) (s : State) : (retire n rb s).cores = s.cores := rfl
@[simp] theorem retire_launches (n : Nat) (rb : Bool) (s : State) : (retire n rb s).launches = s.launches := rfl
@[simp] theorem retire_dies (n : Nat) (rb : Bool) (s : State) : (retire n rb s).dies = s.dies := rfl
@[simp] theorem retire_cmds (n : Nat) (rb : Bool) (s : State) : (retire n rb s).cmds = s.cmds := rfl
@[simp] theorem retire_mem (n : Nat) (rb : Bool) (s : State) : (retire n rb s).mem = s.mem := rfl
@[simp] theorem retire_part (n : Nat) (rb : Bool) (s : State) : (retire n rb s).part = s.part := rfl
@[simp] theorem retire_agenda (n : Nat) (rb : Bool) (s : State) : (retire n rb s).agenda = s.agenda := rfl
@[simp] theorem retire_free (n : Nat) (rb : Bool) (s : State) : (retire n rb s).free = s.free := rfl
@[simp] theorem retire_sstChunk (n : Nat) (rb : Bool) (s : State) : (retire n rb s).sstChunk = s.sstChunk := rfl

end Sys2Proof.Machine
end

