-- ==== Sys2Proof/Laws/Access.lean ====
section
/-! SUPPORT. Finding a squad, a team, a core or a die after an update of one: the one updated, and every other. -/

namespace Sys2Proof.Machine

/-! ## Lists with one entry mapped -/

theorem find_map_same {α : Type} (p : α → Bool) (f : α → α) (l : List α) (h : ∀ x, p x = true → p (f x) = true) :
    (l.map (fun x => if p x = true then f x else x)).find? p = (l.find? p).map f := by
  induction l with
  | nil => rfl
  | cons x r ih =>
    by_cases hx : p x = true
    · rw [List.map_cons, if_pos hx, List.find?_cons_of_pos (h x hx), List.find?_cons_of_pos hx]; rfl
    · rw [List.map_cons, if_neg hx, List.find?_cons_of_neg hx, List.find?_cons_of_neg hx, ih]

theorem find_map_other {α : Type} (p q : α → Bool) (f : α → α) (l : List α) (h : ∀ x, p x = true → q x = false ∧ q (f x) = false) :
    (l.map (fun x => if p x = true then f x else x)).find? q = l.find? q := by
  induction l with
  | nil => rfl
  | cons x r ih =>
    by_cases hx : p x = true
    · simp [hx, h x hx, ih]
    · rw [List.map_cons, if_neg hx, List.find?_cons, List.find?_cons, ih]

/-! ## Squads -/

theorem findSq_updSq (s : State) (k : SquadKey) (f : Squad → Squad) (hk : ∀ q, (f q).key = q.key)
    (hs : ∀ q, q.status ≠ .absent → (f q).status ≠ .absent) : (s.updSq k f).findSq k = (s.findSq k).map f := by
  unfold State.updSq State.findSq State.allSquads State.isCur
  by_cases hc : (s.sq.status != .absent && s.sq.key == k) = true
  · rw [if_pos hc]
    simp only [Bool.and_eq_true, bne_iff_ne, beq_iff_eq] at hc
    simp [hc.1, hs _ hc.1, hc.2, hk]
  · rw [if_neg hc]
    have hmap : (s.squads.map (fun q => if q.key = k then f q else q)).find? (·.key == k) = (s.squads.find? (·.key == k)).map f := by
      have := find_map_same (fun q : Squad => q.key == k) f s.squads (fun q h => by simp only [hk]; exact h)
      simpa using this
    by_cases ha : s.sq.status = .absent
    · simp [ha, hmap]
    · have hne : (s.sq.key == k) = false := by simpa [ha] using hc
      simp [ha, hne, hmap]

theorem findSq_updSq_other (s : State) (k j : SquadKey) (f : Squad → Squad) (hj : j ≠ k) (hk : ∀ q, (f q).key = q.key)
    (hs : ∀ q, q.status ≠ .absent → (f q).status ≠ .absent) : (s.updSq k f).findSq j = s.findSq j := by
  unfold State.updSq State.findSq State.allSquads State.isCur
  by_cases hc : (s.sq.status != .absent && s.sq.key == k) = true
  · rw [if_pos hc]
    simp only [Bool.and_eq_true, bne_iff_ne, beq_iff_eq] at hc
    have : (s.sq.key == j) = false := by rw [hc.2]; simpa using hj.symm
    simp [hc.1, hs _ hc.1, hk, this]
  · rw [if_neg hc]
    have hmap : (s.squads.map (fun q => if q.key = k then f q else q)).find? (·.key == j) = s.squads.find? (·.key == j) := by
      have := find_map_other (fun q : Squad => q.key == k) (fun q : Squad => q.key == j) f s.squads (fun q h => by
        simp only [beq_iff_eq] at h; simp only [hk, h]; simpa using hj.symm)
      simpa using this
    by_cases ha : s.sq.status = .absent
    · simp [ha, hmap]
    · simp [ha, List.find?_cons, hmap]

theorem getSq_updSq {s : State} {k : SquadKey} {f : Squad → Squad} {q : Squad} (h : s.findSq k = some q)
    (hk : ∀ q, (f q).key = q.key) (hs : ∀ q, q.status ≠ .absent → (f q).status ≠ .absent) : (s.updSq k f).getSq k = f q := by
  rw [State.getSq, findSq_updSq s k f hk hs, h]; rfl

theorem getSq_of_find {s : State} {k : SquadKey} {q : Squad} (h : s.findSq k = some q) : s.getSq k = q := by
  rw [State.getSq, h]; rfl

/-- What an update of a squad leaves outside the squads. -/
theorem updSq_outside (s : State) (k : SquadKey) (f : Squad → Squad) :
    s.updSq k f = { s with sq := (s.updSq k f).sq, squads := (s.updSq k f).squads } := by
  unfold State.updSq; split <;> rfl

/-! ## Teams -/

theorem findTeam_updTeam (s : State) (k : TeamKey) (f : Team → Team) (hk : ∀ q, (f q).key = q.key)
    (hs : ∀ q, q.status ≠ .absent → (f q).status ≠ .absent) : (s.updTeam k f).findTeam k = (s.findTeam k).map f := by
  unfold State.updTeam State.findTeam State.allTeams State.isCurTeam
  by_cases hc : (s.team.status != .absent && s.team.key == k) = true
  · rw [if_pos hc]
    simp only [Bool.and_eq_true, bne_iff_ne, beq_iff_eq] at hc
    simp [hc.1, hs _ hc.1, hc.2, hk]
  · rw [if_neg hc]
    have hmap : (s.teams.map (fun q => if q.key = k then f q else q)).find? (·.key == k) = (s.teams.find? (·.key == k)).map f := by
      have := find_map_same (fun q : Team => q.key == k) f s.teams (fun q h => by simp only [hk]; exact h)
      simpa using this
    by_cases ha : s.team.status = .absent
    · simp [ha, hmap]
    · have hne : (s.team.key == k) = false := by simpa [ha] using hc
      simp [ha, hne, hmap]

theorem getTeam_updTeam {s : State} {k : TeamKey} {f : Team → Team} {q : Team} (h : s.findTeam k = some q)
    (hk : ∀ q, (f q).key = q.key) (hs : ∀ q, q.status ≠ .absent → (f q).status ≠ .absent) : (s.updTeam k f).getTeam k = f q := by
  rw [State.getTeam, findTeam_updTeam s k f hk hs, h]; rfl

theorem updTeam_outside (s : State) (k : TeamKey) (f : Team → Team) :
    s.updTeam k f = { s with team := (s.updTeam k f).team, teams := (s.updTeam k f).teams } := by
  unfold State.updTeam; split <;> rfl

/-! ## Cores -/

theorem getCore_updCore (s : State) (i : Nat) (f : Core → Core) (hf : ∀ c, (f c).id = c.id) :
    (s.updCore i f).getCore i = f (s.getCore i) := by
  unfold State.updCore State.getCore
  by_cases hc : s.core.id = i
  · rw [if_pos hc]; simp [hf, hc]
  · rw [if_neg hc]
    by_cases ha : s.cores.any (·.id == i) = true
    · rw [if_pos ha]
      have := find_map_same (fun q : Core => q.id == i) f s.cores (fun q h => by simp only [hf]; exact h)
      have hmap : (s.cores.map (fun q => if q.id = i then f q else q)).find? (·.id == i) = (s.cores.find? (·.id == i)).map f := by
        simpa using this
      simp only [hc, if_false, hmap]
      cases h : s.cores.find? (·.id == i) with
      | some c => rfl
      | none =>
        rw [List.find?_eq_none] at h
        rw [List.any_eq_true] at ha
        obtain ⟨x, hx, hx'⟩ := ha
        exact absurd hx' (h x hx)
    · rw [if_neg ha]
      have h : s.cores.find? (·.id == i) = none := by
        rw [List.find?_eq_none]
        intro x hx hx'
        exact ha (List.any_eq_true.2 ⟨x, hx, hx'⟩)
      have hid : (f (Core.fresh i)).id = i := by rw [hf]; rfl
      simp [hc, hid, h]

theorem updCore_outside (s : State) (i : Nat) (f : Core → Core) :
    s.updCore i f = { s with core := (s.updCore i f).core, cores := (s.updCore i f).cores } := by
  unfold State.updCore; split
  · rfl
  · split <;> rfl

/-! ## Dies -/

theorem updDie_outside (s : State) (d : Nat) (f : Die → Die) : s.updDie d f = { s with dies := (s.updDie d f).dies } := rfl

/-! ## Commands -/

theorem findCmd_updCmd (s : State) (c : Nat) (f : Cmd → Cmd) (hf : ∀ x, (f x).id = x.id) :
    (s.updCmd c f).findCmd c = (s.findCmd c).map f := by
  have := find_map_same (fun q : Cmd => q.id == c) f s.cmds (fun q h => by simp only [hf]; exact h)
  unfold State.updCmd State.findCmd
  simpa using this

end Sys2Proof.Machine
end

