-- ==== Sys2Proof/Laws/Caches.lean ====
section
/-! SUPPORT. What dealing, prefetching and issuing leave in a core's caches, and that they change nothing else. -/

namespace Sys2Proof.Machine

/-! ## The deck cache (R99) -/

/-- A dealt hand changes the deck cache alone. -/
theorem noteHand_only (su : Suit) (h : Nat) (e : Hand) (s : State) :
    ∃ d, noteHand su h e s = { s with core := { s.core with deck := d } } := by
  unfold noteHand
  split
  · exact ⟨s.core.deck, rfl⟩
  · exact ⟨_, rfl⟩

/-- A hand that stands in the deck cache after a deal stood there before or is the one that was dealt. -/
theorem mem_noteHand {su : Suit} {h : Nat} {e : Hand} {s : State} {x : Nat × Nat × Nat × Hand}
    (hx : x ∈ (noteHand su h e s).core.deck) : x ∈ s.core.deck ∨ x.2 = (e.mask.toNat, h, e) := by
  unfold noteHand at hx
  split at hx
  · exact .inl hx
  · rcases List.mem_cons.1 hx with rfl | hx
    · exact .inr rfl
    · exact .inl (List.mem_of_mem_filter (List.mem_of_mem_take hx))

theorem foldl_deck_only {α : Type} (f : State → α → State)
    (hf : ∀ s x, ∃ d, f s x = { s with core := { s.core with deck := d } }) (l : List α) (s : State) :
    ∃ d, l.foldl f s = { s with core := { s.core with deck := d } } := by
  induction l generalizing s with
  | nil => exact ⟨s.core.deck, rfl⟩
  | cons x r ih =>
    obtain ⟨d, hd⟩ := hf s x
    obtain ⟨d', hd'⟩ := ih (f s x)
    exact ⟨d', by rw [List.foldl_cons, hd', hd]⟩

/-- The prefetcher changes the deck cache alone. -/
theorem prefetchHands_only (su : Suit) (s : State) : ∃ d, prefetchHands su s = { s with core := { s.core with deck := d } } := by
  refine foldl_deck_only _ (fun t i => ?_) su.succ s
  dsimp only
  split
  · split
    · exact noteHand_only _ _ _ _
    · exact ⟨t.core.deck, rfl⟩
  · exact ⟨t.core.deck, rfl⟩

/-! ## What an issued chain notes (R196, R235) -/

theorem foldl_setDep_only (em : Mask) (n : List (Nat × Mask)) (l : List Opnd) (q : Squad) :
    ∃ d, l.foldl (setDep em n) q = { q with deps := d } := by
  induction l generalizing q with
  | nil => exact ⟨q.deps, rfl⟩
  | cons x r ih =>
    obtain ⟨d, hd⟩ := ih (setDep em n q x)
    exact ⟨d, by rw [List.foldl_cons, hd]; rfl⟩

/-- The dependencies that the words of a chain leave stand in two fields of the squad. -/
theorem noteDeps_only (is : List Instr) (q t : Squad) : ∃ d c, noteDeps is q t = { t with deps := d, control := c } := by
  unfold noteDeps
  generalize is.foldl (fun n i => max n (controlDep q i)) q.control = c
  have h : ∀ (l : List Instr) (u : Squad), ∃ d, l.foldl (fun t i =>
      (chainWrites q.fmt i).foldl (setDep (lanesWritten q i) (resultDeps q i)) t) u = { u with deps := d } := fun l => by
    induction l with
    | nil => exact fun u => ⟨u.deps, rfl⟩
    | cons i r ih =>
      intro u
      obtain ⟨d, hd⟩ := foldl_setDep_only (lanesWritten q i) (resultDeps q i) (chainWrites q.fmt i) u
      obtain ⟨d', hd'⟩ := ih { u with deps := d }
      exact ⟨d', by rw [List.foldl_cons, hd, hd']⟩
  obtain ⟨d, hd⟩ := h is { t with control := c }
  exact ⟨d, c, hd⟩

/-- Reading ahead changes the lines read ahead alone. -/
theorem readAhead_only (is : List Instr) (t : State) : ∃ a, readAhead is t = { t with core := { t.core with ahead := a } } := by
  unfold readAhead
  split
  · exact ⟨t.core.ahead, rfl⟩
  · split
    · exact ⟨_, rfl⟩
    · exact ⟨t.core.ahead, rfl⟩

/-- An issued chain notes dependencies and lines read ahead, and nothing else. -/
theorem noteIssue_noted (is : List Instr) (s t : State) : Noted t (noteIssue is s t) := by
  unfold noteIssue
  split
  · exact ⟨t.sq.deps, t.sq.control, t.core.ahead, rfl⟩
  · obtain ⟨d, c, hd⟩ := noteDeps_only is s.sq t.sq
    obtain ⟨a, ha⟩ := readAhead_only is (t.onSq (noteDeps is s.sq))
    exact ⟨d, c, a, by rw [ha]; simp only [State.onSq, hd]⟩

end Sys2Proof.Machine
end

