-- ==== Sys2Proof/Laws/Registers.lean ====
section
/-! SUPPORT. What writing a register file does to every register: its value in each lane and its F/E bit. -/

namespace Sys2Proof

variable {α : Type} [Inhabited α] {n : Nat}

theorem vget_vset (v : Vector α n) (i j : Nat) (x : α) :
    vget (vset v i x) j = if i = j ∧ i < n then x else vget v j := by
  rcases v with ⟨a, rfl⟩
  simp only [vget, vset, Vector.setIfInBounds, Array.getD_eq_getD_getElem?, Array.getElem?_setIfInBounds]
  by_cases h : i = j
  · subst h
    by_cases h' : i < a.size <;> simp [h']
  · simp [h]

theorem vget_lanes (f : Nat → α) {l : Nat} (h : l < 32) : vget (lanes f) l = f l := by
  have : ∀ l : Fin 32, vget (lanes f) l = f l := by intro l; fin_cases l <;> rfl
  exact this ⟨l, h⟩

theorem vget_lanes_out (f : Nat → α) {l : Nat} (h : 32 ≤ l) : vget (lanes f) l = default := by
  simp only [vget, lanes, Array.getD_eq_getD_getElem?]
  rw [Array.getElem?_eq_none (by simpa using h)]; rfl

theorem vget_out (v : Vector α n) {l : Nat} (h : n ≤ l) : vget v l = default := by
  rcases v with ⟨a, rfl⟩
  simp only [vget, Array.getD_eq_getD_getElem?]
  rw [Array.getElem?_eq_none h]; rfl

/-- Lanes rewritten under a condition, at any lane number. -/
theorem vget_lanes_ite (v : Lanes α) (m : Nat → Bool) (f : Nat → α) (l : Nat) :
    vget (lanes fun l => if m l then f l else vget v l) l = if m l && decide (l < 32) then f l else vget v l := by
  by_cases h : l < 32
  · simp [vget_lanes _ h, h]
  · simp [vget_lanes_out _ (Nat.le_of_not_lt h), vget_out v (Nat.le_of_not_lt h), h]

end Sys2Proof

namespace Sys2Proof

/-- A fold that sets one bit for each listed position. -/
theorem getLsbD_foldl_or (f : Nat → Bool) (ls : List Nat) (m : Mask) (l : Nat) (h : l < 32) :
    (ls.foldl (fun m l => if f l then m ||| (1#32 <<< l) else m) m).getLsbD l = (m.getLsbD l || (f l && ls.contains l)) := by
  induction ls generalizing m with
  | nil => simp
  | cons a r ih =>
    rw [List.foldl_cons, ih]
    by_cases hl : l = a
    · subst hl
      by_cases hf : f l <;> simp [hf, h]
    · by_cases hf : f a
      · have : (1#32 <<< a).getLsbD l = false := by
          simp only [BitVec.getLsbD_shiftLeft, BitVec.getLsbD_one]
          by_cases hla : l < a
          · simp [hla]
          · have : l - a ≠ 0 := by omega
            simp [this]
        simp [hf, this, hl]
      · simp [hf, hl]

theorem getLsbD_maskOf (f : Nat → Bool) {l : Nat} (h : l < 32) : (maskOf f).getLsbD l = f l := by
  have hc : laneList.contains l = true := by
    have : ∀ l : Fin 32, laneList.contains l.val = true := by decide
    exact this ⟨l, h⟩
  rw [maskOf, getLsbD_foldl_or f _ _ _ h, hc]; simp

theorem mem_maskList {m : Mask} {l : Nat} : l ∈ Mask.list m ↔ m.getLsbD l = true := by
  have hlist : ∀ l, l ∈ laneList ↔ l < 32 := by
    intro l
    constructor
    · have : ∀ x ∈ laneList, x < 32 := by decide
      exact this l
    · intro h
      have : ∀ l : Fin 32, l.val ∈ laneList := by decide
      exact this ⟨l, h⟩
  simp only [Mask.list, List.mem_filter, hlist]
  constructor
  · exact fun h => h.2
  · exact fun h => ⟨BitVec.lt_of_getLsbD h, h⟩

end Sys2Proof

namespace Sys2Proof.Machine

/-! ## F/E bits -/

/-- One bit set or cleared in a row of F/E bits. -/
theorem getLsbD_mark {w : Nat} (x : BitVec w) (n k : Nat) (b : Bool) (h : k < w) :
    (if b then x ||| (1#w <<< n) else x &&& ~~~(1#w <<< n)).getLsbD k = if k = n then b else x.getLsbD k := by
  have hw : 0 < w := by omega
  have hbit : (1#w <<< n).getLsbD k = decide (k = n) := by
    simp only [BitVec.getLsbD_shiftLeft, BitVec.getLsbD_one, h]
    by_cases hk : k < n
    · have : k ≠ n := by omega
      simp [hk, this]
    · by_cases hkn : k = n
      · subst hkn; simp [hw]
      · have : k - n ≠ 0 := by omega
        simp [hkn, this]
  cases b
  · rw [if_neg (by simp), BitVec.getLsbD_and, BitVec.getLsbD_not, hbit]
    by_cases hkn : k = n <;> simp [hkn, h]
  · rw [if_pos rfl, BitVec.getLsbD_or, hbit]
    by_cases hkn : k = n <;> simp [hkn]

/-- Setting the F/E bit of a register changes that bit and no other. -/
theorem isFull_setFE (q : Squad) (o r : Opnd) (b : Bool) (ho : o.isReg = true) :
    (q.setFE o b).isFull r = if r = o then b else q.isFull r := by
  cases o <;> simp only [Opnd.isReg] at ho <;> try contradiction
  all_goals
    cases r <;> simp only [Squad.setFE, Squad.isFull, reduceCtorEq, if_false]
  all_goals
    rw [getLsbD_mark _ _ _ _ (Fin.isLt _)]
    simp only [Fin.val_inj, Opnd.v.injEq, Opnd.s.injEq, Opnd.a.injEq, Opnd.p.injEq]


/-! ## What each write leaves in the squad -/

/-- The fields that a write of a register may change. -/
theorem setFE_eq (q : Squad) (o : Opnd) (b : Bool) :
    q.setFE o b = { q with fev := (q.setFE o b).fev, fes := (q.setFE o b).fes, fea := (q.setFE o b).fea, fep := (q.setFE o b).fep } := by
  cases o <;> rfl

theorem isFull_heal (q : Squad) (bad : WordRef → Bool) (r : Opnd) : (q.heal bad).isFull r = q.isFull r := by
  cases r <;> rfl

theorem isFull_putV (q : Squad) (n : Fin 64) (m : Mask) (f : Nat → Word) (r : Opnd) :
    (q.putV n m f).isFull r = if r = .v n then true else q.isFull r := by
  have hn : (Fin.ofNat 64 n.val) = n := by apply Fin.ext; simp
  rw [Squad.putV, isFull_heal, isFull_setFE _ _ _ _ rfl, hn]
  cases r <;> rfl

theorem isFull_putP (q : Squad) (n : Fin 8) (m : Mask) (f : Nat → Bool) (r : Opnd) :
    (q.putP n m f).isFull r = if r = .p n then true else q.isFull r := by
  have hn : (Fin.ofNat 8 n.val) = n := by apply Fin.ext; simp
  rw [Squad.putP, isFull_heal, isFull_setFE _ _ _ _ rfl, hn]
  cases r <;> rfl

theorem isFull_putS (q : Squad) (n : Fin 32) (x : DWord) (r : Opnd) :
    (q.putS n x).isFull r = if r = .s n then true else q.isFull r := by
  have hn : (Fin.ofNat 32 n.val) = n := by apply Fin.ext; simp
  rw [Squad.putS, isFull_heal, isFull_setFE _ _ _ _ rfl, hn]
  cases r <;> rfl

theorem isFull_putA (q : Squad) (n : Fin 16) (b st : DWord) (r : Opnd) :
    (q.putA n b st).isFull r = if r = .a n then true else q.isFull r := by
  have hn : (Fin.ofNat 16 n.val) = n := by apply Fin.ext; simp
  rw [Squad.putA, isFull_heal, isFull_setFE _ _ _ _ rfl, hn]
  cases r <;> rfl

/-! ## Values -/

theorem vreg_putV (q : Squad) (n : Nat) (m : Mask) (f : Nat → Word) (k l : Nat) (hn : n < 64) :
    (q.putV n m f).vreg k l = if k = n ∧ m.getLsbD l then f l else q.vreg k l := by
  have : (q.putV n m f).v = vset q.v n (lanes fun l => if m.getLsbD l then f l else q.vreg n l) := rfl
  simp only [Squad.vreg, this, vget_vset, hn, and_true]
  by_cases hk : n = k
  · subst hk
    simp only [if_true, vget_lanes_ite]
    by_cases hl : l < 32
    · simp [hl]
    · have : m.getLsbD l = false := BitVec.getLsbD_of_ge m l (by omega)
      simp [this]
  · have : ¬ k = n := fun h => hk h.symm
    simp [hk, this]

theorem preg_putP (q : Squad) (n : Nat) (m : Mask) (f : Nat → Bool) (k l : Nat) (hn : n < 8) :
    (vget (q.putP n m f).p k).getLsbD l = if k = n ∧ m.getLsbD l then f l else (vget q.p k).getLsbD l := by
  have : (q.putP n m f).p = vset q.p n ((vget q.p n &&& ~~~m) ||| (maskOf f &&& m)) := rfl
  simp only [this, vget_vset, hn, and_true]
  by_cases hk : n = k
  · subst hk
    by_cases hl : l < 32
    · simp only [if_true, BitVec.getLsbD_or, BitVec.getLsbD_and, BitVec.getLsbD_not, getLsbD_maskOf f hl, hl, decide_true, true_and]
      cases m.getLsbD l <;> simp
    · have : m.getLsbD l = false := BitVec.getLsbD_of_ge m l (by omega)
      simp only [if_true, this]
      rw [BitVec.getLsbD_of_ge _ l (by omega), BitVec.getLsbD_of_ge _ l (by omega)]; simp
  · have : ¬ k = n := fun h => hk h.symm
    simp [hk, this]

/-- A write of class V changes the lanes of its mask in its destination and nothing else that a register reads as. -/
theorem val_putLanes (s : State) (d o : Opnd) (m : Mask) (f : Nat → Word) (l : Nat) (hd : d.isV = true ∨ d.isP = true) :
    val (s.onSq (·.putLanes d m f)) o l = if o = d ∧ m.getLsbD l then held32 d (f l) else val s o l := by
  by_cases hm : m = 0#32
  · subst hm; simp [Squad.putLanes, State.onSq]
  · cases d <;> simp [Opnd.isV, Opnd.isP] at hd
    · rename_i n
      cases o <;> simp [val, Squad.putLanes, hm, held32, Opnd.isP, Squad.areg]
      case v k =>
        rw [vreg_putV _ _ _ _ _ _ n.isLt]
        by_cases hk : k = n
        · subst hk; by_cases hl : m.getLsbD l <;> simp [hl]
        · have : ¬ k.val = n.val := fun h => hk (Fin.ext h)
          simp [hk, this]
      all_goals rfl
    · rename_i n
      cases o <;> simp [val, Squad.putLanes, hm, held32, Opnd.isP, Squad.areg]
      case p k =>
        rw [preg_putP _ _ _ _ _ _ n.isLt]
        by_cases hk : k = n
        · subst hk; by_cases hl : m.getLsbD l <;> simp [hl]
          congr 1
          apply BitVec.eq_of_getLsbD_eq
          intro i hi
          have : i = 0 := by omega
          subst this; simp
        · have : ¬ k.val = n.val := fun h => hk (Fin.ext h)
          simp [hk, this]
      all_goals rfl

theorem isFull_putLanes (q : Squad) (d r : Opnd) (m : Mask) (f : Nat → Word) (hd : d.isV = true ∨ d.isP = true) :
    (q.putLanes d m f).isFull r = if r = d ∧ m ≠ 0#32 then true else q.isFull r := by
  by_cases hm : m = 0#32
  · subst hm; simp [Squad.putLanes]
  · cases d <;> simp [Opnd.isV, Opnd.isP] at hd
    · simp [Squad.putLanes, hm, isFull_putV]
    · simp [Squad.putLanes, hm, isFull_putP]

/-- A write of class U changes its destination and nothing else that a register reads as. -/
theorem val_putU (s : State) (d o : Opnd) (x : DWord) (l : Nat) (hd : d.isS = true) :
    val (s.onSq (·.putU d x)) o l = if o = d then x else val s o l := by
  cases d <;> simp [Opnd.isS] at hd
  rename_i n
  cases o <;> simp [val, Squad.putU, Squad.areg, Squad.vreg]
  case s k =>
    have : (s.sq.putS n.val x).s = vset s.sq.s n.val x := rfl
    rw [this, vget_vset]
    by_cases hk : k = n
    · subst hk; simp
    · have : ¬ n.val = k.val := fun h => hk (Fin.ext h.symm)
      simp [hk, this]
  all_goals rfl

theorem isFull_putU (q : Squad) (d r : Opnd) (x : DWord) (hd : d.isS = true) :
    (q.putU d x).isFull r = if r = d then true else q.isFull r := by
  cases d <;> simp [Opnd.isS] at hd
  simp [Squad.putU, isFull_putS]

/-- A write of class A changes its destination and nothing else that a register reads as. -/
theorem val_putAff (s : State) (d o : Opnd) (b st : DWord) (l : Nat) (hd : d.isA = true) :
    val (s.onSq (·.putAff d b st)) o l = if o = d then b + BitVec.ofNat 64 l * st else val s o l := by
  cases d <;> simp [Opnd.isA] at hd
  rename_i n
  cases o <;> simp [val, Squad.putAff, Squad.areg, Squad.vreg]
  case a k =>
    have hb : (s.sq.putA n.val b st).abase = vset s.sq.abase n.val b := rfl
    have hs : (s.sq.putA n.val b st).astride = vset s.sq.astride n.val st := rfl
    rw [hb, hs, vget_vset, vget_vset]
    by_cases hk : k = n
    · subst hk; simp
    · have : ¬ n.val = k.val := fun h => hk (Fin.ext h.symm)
      simp [hk, this]
  all_goals rfl

theorem isFull_putAff (q : Squad) (d r : Opnd) (b st : DWord) (hd : d.isA = true) :
    (q.putAff d b st).isFull r = if r = d then true else q.isFull r := by
  cases d <;> simp [Opnd.isA] at hd
  simp [Squad.putAff, isFull_putA]

end Sys2Proof.Machine
end

