-- ==== Sys2Proof/Laws/Issue.lean ====
section
/-! SUPPORT. What the issue of a word comes to: the checks of a ready word pass, and its outcome is its own. -/

namespace Sys2Proof.Machine

/-! ## The checks of R63 -/

theorem markPoison_of_clean (i : Instr) {s : State} (h : s.sq.uncorr = []) : markPoison i s = s := by
  simp [markPoison, h]

theorem interlocked_of_free {q : Squad} {o : Opnd} (h : q.pendingOn o = none) : q.interlocked o = false := by
  simp only [Squad.pendingOn, List.find?_eq_none] at h
  simp only [Squad.interlocked, List.any_eq_false]
  intro p hp
  have := h p hp
  simp_all

theorem settled_iff {q : Squad} {o : Opnd} : q.settled o = true ↔ q.isFull o = true ∧ q.interlocked o = false := by
  simp [Squad.settled]

theorem sourceBlock_of_full {s : State} {l : List (Opnd × Bool)} (h : ∀ x ∈ l, s.sq.settled x.1 = true) :
    sourceBlock s l = none := by
  induction l with
  | nil => rfl
  | cons x r ih =>
    obtain ⟨o, e⟩ := x
    have ho := settled_iff.1 (h (o, e) (by simp))
    simp [sourceBlock, ho.1, ho.2, ih (fun y hy => h y (List.mem_cons_of_mem _ hy))]

theorem destBlock_of_free {s : State} {l : List Opnd}
    (h : ∀ o ∈ l, s.sq.settled o = true ∨ s.sq.pendingOn o = none) : destBlock s l = none := by
  induction l with
  | nil => rfl
  | cons o r ih =>
    rw [destBlock, ih (fun y hy => h y (List.mem_cons_of_mem _ hy))]
    rcases h o (by simp) with h | h
    · simp [(settled_iff.1 h).1, (settled_iff.1 h).2]
    · simp [h, interlocked_of_free h]

theorem poisonCheck_of_clean (i : Instr) {s : State} (l : List (Opnd × Bool)) (hu : s.sq.uncorr = []) (hp : s.sq.poison = []) :
    poisonCheck i s l = none := by
  unfold poisonCheck
  split
  · cases l <;> simp [hu, hp]
  · simp [poisonBlock, hu, hp]

theorem partBlock_of_uniform {s : State} {p : Option Nat} (h : p = none ∨ s.sq.em = s.sq.live) : partBlock s p = none := by
  cases p with
  | none => rfl
  | some c => simp at h; simp [partBlock, h]

theorem prelude_of_ready {i : Instr} {s : State} (h : ReadyFor i s) : prelude i s = none := by
  simp only [prelude, partBlock_of_uniform h.uniform, sourceBlock_of_full h.sources, destBlock_of_free h.dests,
    poisonCheck_of_clean i _ h.parity h.poison, ite_self]

/-! ## Outcomes -/

theorem issueWord_done {i : Instr} {own : State → WordOut} {s : State} {u : State → State} (h : ReadyFor i s)
    (ho : own s = .done u) : issueWord i own s = .next (u (retire 1 (bit31 i) s)) := by
  simp only [issueWord, h.wf, if_true, wordOut, prelude_of_ready h, ho, markPoison_of_clean i h.parity]

theorem issueWord_trap {i : Instr} {own : State → WordOut} {s : State} {r : Report} (h : ReadyFor i s)
    (ho : own s = .trap r) : issueWord i own s = .next (takeTrap r s.sq.pkt s.sq.word 0 1 s) := by
  simp only [issueWord, h.wf, if_true, wordOut, prelude_of_ready h, ho]

theorem issueWord_wait {i : Instr} {own : State → WordOut} {s : State} {w : Wait} (h : ReadyFor i s)
    (ho : own s = .wait w) : issueWord i own s = .next (waitHere w s) := by
  simp only [issueWord, h.wf, if_true, wordOut, prelude_of_ready h, ho]

theorem issueWord_illFormed {i : Instr} {own : State → WordOut} {s : State} (h : i.wf = false) :
    issueWord i own s = .next (takeTrap (undefinedReport ((encode i).headD 0#32) s) s.sq.pkt s.sq.word 0 1 s) := by
  simp [issueWord, h]

/-- A word never faults or is refused. -/
theorem issueWord_next (i : Instr) (own : State → WordOut) (s : State) : ∃ t, issueWord i own s = .next t := by
  unfold issueWord
  split
  · split <;> exact ⟨_, rfl⟩
  · exact ⟨_, rfl⟩

/-! ## Retirement -/

theorem retired_retire (rb : Bool) (s : State) : Retired s (retire 1 rb s) := by
  constructor
  · simp [retire]
  · by_cases h : 2 ≤ s.sq.word
    · simp [retire, h]
    · simp [retire, h]

@[simp] theorem val_retire (n : Nat) (rb : Bool) (s : State) (o : Opnd) (l : Nat) (h : o.isReg = true) :
    val (retire n rb s) o l = val s o l := by
  cases o <;> simp [Opnd.isReg] at h <;> rfl

@[simp] theorem isFull_retire (n : Nat) (rb : Bool) (s : State) (o : Opnd) : (retire n rb s).sq.isFull o = s.sq.isFull o := by
  cases o <;> rfl

/-- The fields of a squad that a register write may change. -/
structure SameButRegs (q r : Squad) : Prop where
  eq : r = { q with
    v := r.v, s := r.s, abase := r.abase, astride := r.astride, p := r.p
    fev := r.fev, fes := r.fes, fea := r.fea, fep := r.fep }

theorem sameButRegs_heal {q r : Squad} (h : SameButRegs q r) (hu : q.uncorr = []) (hp : q.poison = []) (bad : WordRef → Bool) :
    SameButRegs q (r.heal bad) := by
  have h1 : r.uncorr = [] := by rw [h.eq]; exact hu
  have h2 : r.poison = [] := by rw [h.eq]; exact hp
  refine ⟨?_⟩
  have : r.heal bad = r := by cases r; simp_all [Squad.heal]
  rw [this]; exact h.eq

theorem sameButRegs_putLanes {q : Squad} (hu : q.uncorr = []) (hp : q.poison = []) (d : Opnd) (m : Mask) (f : Nat → Word) :
    SameButRegs q (q.putLanes d m f) := by
  unfold Squad.putLanes
  split
  · exact ⟨rfl⟩
  · split
    · exact sameButRegs_heal ⟨rfl⟩ hu hp _
    · exact sameButRegs_heal ⟨rfl⟩ hu hp _
    · exact ⟨rfl⟩

theorem sameButRegs_putU {q : Squad} (hu : q.uncorr = []) (hp : q.poison = []) (d : Opnd) (x : DWord) :
    SameButRegs q (q.putU d x) := by
  unfold Squad.putU
  split
  · exact sameButRegs_heal ⟨rfl⟩ hu hp _
  · exact ⟨rfl⟩

theorem sameButRegs_putAff {q : Squad} (hu : q.uncorr = []) (hp : q.poison = []) (d : Opnd) (b st : DWord) :
    SameButRegs q (q.putAff d b st) := by
  unfold Squad.putAff
  split
  · exact sameButRegs_heal ⟨rfl⟩ hu hp _
  · exact ⟨rfl⟩

theorem sameButRegs_setFE (q : Squad) (o : Opnd) (b : Bool) : SameButRegs q (q.setFE o b) := by
  cases o <;> exact ⟨rfl⟩

theorem SameButRegs.trans {q r u : Squad} (h : SameButRegs q r) (h' : SameButRegs r u) : SameButRegs q u := by
  refine ⟨?_⟩
  rw [h'.eq, h.eq]

/-- A register write after the retirement of a word: what `OnlyRegs` asks, from what the write does to registers. -/
theorem onlyRegs_of_write {s : State} {ds : List Opnd} {rb : Bool} {f : Squad → Squad}
    (hf : SameButRegs (retire 1 rb s).sq (f (retire 1 rb s).sq))
    (hr : RegsKept ds s ((retire 1 rb s).onSq f)) : OnlyRegs ds s ((retire 1 rb s).onSq f) where
  outside := by simp only [State.onSq]; rfl
  squad := by
    simp only [State.onSq]
    rw [hf.eq]
    rfl
  retired := by
    have h := retired_retire rb s
    refine ⟨?_, ?_⟩
    · simp only [State.onSq]; rw [hf.eq]; exact h.lclk
    · simp only [State.onSq]; rw [hf.eq]; exact h.next
  regs := hr
  bytes := ⟨fun _ => rfl, fun _ => rfl, fun _ => rfl⟩

/-- A 32-bit result of class V. -/
theorem lanes_write {s : State} (hu : s.sq.uncorr = []) (hp : s.sq.poison = []) (rb : Bool) {d : Opnd}
    (hd : d.isV = true ∨ d.isP = true) (f : Nat → Word) :
    OnlyRegs [d] s ((retire 1 rb s).onSq (·.putLanes d s.sq.em f))
      ∧ LaneResult d f s ((retire 1 rb s).onSq (·.putLanes d s.sq.em f)) := by
  have hreg : d.isReg = true := by cases d <;> simp [Opnd.isV, Opnd.isP] at hd <;> rfl
  refine ⟨onlyRegs_of_write (sameButRegs_putLanes (q := (retire 1 rb s).sq) hu hp _ _ _) ?_, ?_, ?_⟩
  · intro o ho hne
    simp only [List.mem_singleton] at hne
    refine ⟨fun l => ?_, ?_⟩
    · rw [val_putLanes _ _ _ _ _ _ hd]; simp [hne, ho]
    · simp only [State.onSq]; rw [isFull_putLanes _ _ _ _ _ hd]; simp [hne]
  · intro l _
    rw [val_putLanes _ _ _ _ _ _ hd]; simp [hreg]
  · simp only [State.onSq]; rw [isFull_putLanes _ _ _ _ _ hd]
    by_cases h : s.sq.em = 0#32 <;> simp [h]

/-- A result of class U. -/
theorem uniform_write {s : State} (hu : s.sq.uncorr = []) (hp : s.sq.poison = []) (rb : Bool) {d : Opnd}
    (hd : d.isS = true) (x : DWord) :
    OnlyRegs [d] s ((retire 1 rb s).onSq (·.putU d x)) ∧ UniResult d x ((retire 1 rb s).onSq (·.putU d x)) := by
  refine ⟨onlyRegs_of_write (sameButRegs_putU (q := (retire 1 rb s).sq) hu hp _ _) ?_, ?_, ?_⟩
  · intro o ho hne
    simp only [List.mem_singleton] at hne
    refine ⟨fun l => ?_, ?_⟩
    · rw [val_putU _ _ _ _ _ hd]; simp [hne, ho]
    · simp only [State.onSq]; rw [isFull_putU _ _ _ _ hd]; simp [hne]
  · rw [uval, val_putU _ _ _ _ _ hd]; simp
  · simp only [State.onSq]; rw [isFull_putU _ _ _ _ hd]; simp

/-- A result of class A. -/
theorem affine_write {s : State} (hu : s.sq.uncorr = []) (hp : s.sq.poison = []) (rb : Bool) {d : Opnd}
    (hd : d.isA = true) (b st : DWord) :
    OnlyRegs [d] s ((retire 1 rb s).onSq (·.putAff d b st)) ∧ AffResult d b st ((retire 1 rb s).onSq (·.putAff d b st)) := by
  refine ⟨onlyRegs_of_write (sameButRegs_putAff (q := (retire 1 rb s).sq) hu hp _ _ _) ?_, ?_, ?_⟩
  · intro o ho hne
    simp only [List.mem_singleton] at hne
    refine ⟨fun l => ?_, ?_⟩
    · rw [val_putAff _ _ _ _ _ _ hd]; simp [hne, ho]
    · simp only [State.onSq]; rw [isFull_putAff _ _ _ _ _ hd]; simp [hne]
  · cases d <;> simp [Opnd.isA] at hd
    rename_i n
    have hb : (((retire 1 rb s).onSq (·.putAff (.a n) b st))).sq.abase = vset s.sq.abase n.val b := rfl
    have hs : (((retire 1 rb s).onSq (·.putAff (.a n) b st))).sq.astride = vset s.sq.astride n.val st := rfl
    simp only [affine, hb, hs, vget_vset]
    simp
  · simp only [State.onSq]; rw [isFull_putAff _ _ _ _ _ hd]; simp

end Sys2Proof.Machine
end

