-- ==== Sys2Proof/Laws/Shapes.lean ====
section
/-! SUPPORT. The shared shapes of register words: what each of them does when the word is ready. -/

namespace Sys2Proof.Machine

/-- A destination that an integer form admits and that is not affine. -/
theorem intForm_dst {d : Opnd} {j : Cls} {aff : Bool} (h : intForm aff d j = true) (hd : d.isA = false) :
    d.isS = true ∨ d.isV = true ∨ d.isP = true := by
  unfold intForm dstOk at h
  cases j <;> simp_all

theorem fpForm_dst {d : Opnd} {j : Cls} (h : fpForm d j = true) : d.isA = false ∧ (d.isS = true ∨ d.isV = true ∨ d.isP = true) := by
  unfold fpForm at h
  cases d <;> cases j <;> simp_all [Opnd.isS, Opnd.isV, Opnd.isA, Opnd.isP]

/-- A result of class U or V after retirement. -/
theorem result_write {s : State} (hu : s.sq.uncorr = []) (hp : s.sq.poison = []) (rb : Bool) {d : Opnd}
    (hd : d.isS = true ∨ d.isV = true ∨ d.isP = true) (x : DWord) (f : Nat → Word) (u : State → State)
    (hS : d.isS = true → u = fun t => t.onSq (·.putU d x))
    (hV : d.isS = false → u = fun t => t.onSq (·.putLanes d s.sq.em f)) :
    OnlyRegs [d] s (u (retire 1 rb s)) ∧ Result d x f s (u (retire 1 rb s)) := by
  by_cases h : d.isS = true
  · rw [hS h]; simp only [Result, h, if_true]; exact uniform_write hu hp rb h x
  · have h' : d.isS = false := by simpa using h
    rw [hV h']; simp only [Result, h', Bool.false_eq_true, if_false]
    exact lanes_write hu hp rb (hd.resolve_left h) f

variable {i : Instr} {own : State → WordOut} {d a b : Opnd} {s : State}

theorem alu2_completes (op : (w : Nat) → BitVec w → BitVec w → BitVec w)
    (hd : d.isS = true ∨ d.isV = true ∨ d.isP = true) (h : ReadyFor i s) (he : exec i s = issueWord i own s)
    (ho : own s = .done (alu2 op d a b s)) :
    Completes i s fun t => OnlyRegs [d] s t
      ∧ Result d (op 64 (uval s a) (uval s b)) (fun l => op 32 (val32 s a l) (val32 s b l)) s t :=
  ⟨_, he.trans (issueWord_done h ho), result_write h.parity h.poison _ hd _ _ _
    (fun hS => by simp [alu2, hS]) (fun hS => by simp [alu2, hS])⟩

theorem alu1_completes (op : (w : Nat) → BitVec w → BitVec w)
    (hd : d.isS = true ∨ d.isV = true ∨ d.isP = true) (h : ReadyFor i s) (he : exec i s = issueWord i own s)
    (ho : own s = .done (alu1 op d a s)) :
    Completes i s fun t => OnlyRegs [d] s t ∧ Result d (op 64 (uval s a)) (fun l => op 32 (val32 s a l)) s t :=
  ⟨_, he.trans (issueWord_done h ho), result_write h.parity h.poison _ hd _ _ _
    (fun hS => by simp [alu1, hS]) (fun hS => by simp [alu1, hS])⟩

theorem alu3_completes (op : (w : Nat) → BitVec w → BitVec w → BitVec w → BitVec w)
    (hd : d.isS = true ∨ d.isV = true ∨ d.isP = true) (h : ReadyFor i s) (he : exec i s = issueWord i own s)
    (ho : own s = .done (alu3 op d a b s)) :
    Completes i s fun t => OnlyRegs [d] s t
      ∧ Result d (op 64 (uval s d) (uval s a) (uval s b)) (fun l => op 32 (val32 s d l) (val32 s a l) (val32 s b l)) s t :=
  ⟨_, he.trans (issueWord_done h ho), result_write h.parity h.poison _ hd _ _ _
    (fun hS => by simp [alu3, hS]) (fun hS => by simp [alu3, hS])⟩

theorem putF_completes (f : Nat → Word)
    (hd : d.isS = true ∨ d.isV = true ∨ d.isP = true) (h : ReadyFor i s) (he : exec i s = issueWord i own s)
    (ho : own s = .done (putF d f s)) : Completes i s (Result32 d f s) :=
  ⟨_, he.trans (issueWord_done h ho), result_write h.parity h.poison _ hd _ _ _
    (fun hS => by simp [putF, hS]) (fun hS => by simp [putF, hS])⟩

theorem affine_completes (r : DWord × DWord) (hd : d.isA = true) (h : ReadyFor i s) (he : exec i s = issueWord i own s)
    (ho : own s = .done (fun t => t.onSq (·.putAff d r.1 r.2))) :
    Completes i s fun t => OnlyRegs [d] s t ∧ AffResult d r.1 r.2 t :=
  ⟨_, he.trans (issueWord_done h ho), affine_write h.parity h.poison _ hd _ _⟩

theorem trap_completes {r : Report} (h : ReadyFor i s) (he : exec i s = issueWord i own s) (ho : own s = .trap r) :
    Traps i s r := he.trans (issueWord_trap h ho)

/-! ## The shapes, from a word's own effect -/

theorem alu2_congr {op op' : (w : Nat) → BitVec w → BitVec w → BitVec w} (h : ∀ w x y, op w x y = op' w x y) (d a b : Opnd)
    (s : State) : alu2 op d a b s = alu2 op' d a b s := by
  have : op = op' := by funext w x y; exact h w x y
  rw [this]

theorem twoSource_of {ok : Opnd → Opnd → Opnd → State → Prop} {op : (w : Nat) → BitVec w → BitVec w → BitVec w}
    {i : Opnd → Opnd → Opnd → Instr} (own : Opnd → Opnd → Opnd → State → WordOut)
    (he : ∀ d a b s, exec (i d a b) s = issueWord (i d a b) (own d a b) s)
    (hw : ∀ d a b, (i d a b).wf = true → d.isA = false → d.isS = true ∨ d.isV = true ∨ d.isP = true)
    (ho : ∀ d a b s, d.isA = false → ok d a b s → ReadyFor (i d a b) s →
      ∃ op', (∀ w x y, op' w x y = op w x y) ∧ own d a b s = .done (alu2 op' d a b s)) : TwoSource ok op i := by
  intro d a b s hA hok h
  obtain ⟨op', h1, h2⟩ := ho d a b s hA hok h
  rw [alu2_congr h1] at h2
  exact alu2_completes op (hw d a b h.wf hA) h (he d a b s) h2

theorem threeSource_of {ok : Opnd → Opnd → Opnd → State → Prop}
    {op : (w : Nat) → BitVec w → BitVec w → BitVec w → BitVec w}
    {i : Opnd → Opnd → Opnd → Instr} (own : Opnd → Opnd → Opnd → State → WordOut)
    (he : ∀ d a b s, exec (i d a b) s = issueWord (i d a b) (own d a b) s)
    (hw : ∀ d a b, (i d a b).wf = true → d.isA = false → d.isS = true ∨ d.isV = true ∨ d.isP = true)
    (ho : ∀ d a b s, d.isA = false → ok d a b s → ReadyFor (i d a b) s →
      ∃ op', (∀ w d x y, op' w d x y = op w d x y) ∧ own d a b s = .done (alu3 op' d a b s)) : ThreeSource ok op i := by
  intro d a b s hA hok h
  obtain ⟨op', h1, h2⟩ := ho d a b s hA hok h
  have : op' = op := by funext w d x y; exact h1 w d x y
  rw [this] at h2
  exact alu3_completes op (hw d a b h.wf hA) h (he d a b s) h2

theorem affine_of {ok : Opnd → Opnd → Opnd → State → Prop} {f : DWord × DWord → DWord × DWord → DWord × DWord}
    {i : Opnd → Opnd → Opnd → Instr} (own : Opnd → Opnd → Opnd → State → WordOut)
    (he : ∀ d a b s, exec (i d a b) s = issueWord (i d a b) (own d a b) s)
    (ho : ∀ d a b s, d.isA = true → ok d a b s → ReadyFor (i d a b) s →
      own d a b s = .done (fun t => t.onSq (·.putAff d (f (affine s a) (affine s b)).1 (f (affine s a) (affine s b)).2))) :
    Affine ok f i := by
  intro d a b s hA hok h
  exact affine_completes _ hA h (he d a b s) (ho d a b s hA hok h)

end Sys2Proof.Machine
end

