-- ==== Sys2Proof/Laws/Checks.lean ====
section
/-! SUPPORT. What the checks of a word report: when they pass, and which lanes they name when they do not. -/

namespace Sys2Proof.Machine

/-! ## Lanes -/

theorem laneList_sorted : laneList.Pairwise (· < ·) := by decide

theorem maskList_sorted (m : Mask) : (Mask.list m).Pairwise (· < ·) := laneList_sorted.filter _

theorem getLsbD_foldl_mask (ls : List Nat) (m : Mask) (l : Nat) (h : l < 32) :
    (ls.foldl (fun m i => m ||| (1#32 <<< i)) m).getLsbD l = (m.getLsbD l || ls.contains l) := by
  have := getLsbD_foldl_or (fun _ => true) ls m l h
  simpa using this

theorem getLsbD_maskOfList (ls : List Nat) {l : Nat} (h : l < 32) : (maskOfList ls).getLsbD l = ls.contains l := by
  rw [maskOfList, getLsbD_foldl_mask _ _ _ h]; simp

/-- The faulting lanes of EM, as a report names them: the lowest, and the mask of all of them. -/
theorem faulting_lanes (em : Mask) (p : Nat → Bool) (h : ∃ l, em.getLsbD l = true ∧ p l = true) :
    ∃ l r, (Mask.list em).filter p = l :: r ∧ em.getLsbD l = true ∧ p l = true
      ∧ (∀ k, k < l → ¬ (em.getLsbD k = true ∧ p k = true))
      ∧ (∀ k, k < 32 → ((maskOfList (l :: r)).getLsbD k = true ↔ em.getLsbD k = true ∧ p k = true)) := by
  have hmem : ∀ k, k ∈ (Mask.list em).filter p ↔ em.getLsbD k = true ∧ p k = true := by
    intro k; simp [List.mem_filter, mem_maskList]
  have hs := (maskList_sorted em).filter p
  obtain ⟨l0, h0⟩ := h
  cases hl : (Mask.list em).filter p with
  | nil => have := (hmem l0).2 h0; rw [hl] at this; cases this
  | cons l r =>
    rw [hl] at hs
    have hl' := (hmem l).1 (by rw [hl]; simp)
    refine ⟨l, r, rfl, hl'.1, hl'.2, ?_, ?_⟩
    · intro k hk hbad
      have := (hmem k).2 hbad
      rw [hl] at this
      rcases List.mem_cons.1 this with h | h
      · omega
      · have := (List.pairwise_cons.1 hs).1 k h; omega
    · intro k hk
      rw [getLsbD_maskOfList _ hk, ← hl, List.contains_iff_mem]
      exact hmem k

theorem no_faulting_lanes (em : Mask) (p : Nat → Bool) (h : ∀ l, em.getLsbD l = true → p l = false) :
    (Mask.list em).filter p = [] := by
  rw [List.filter_eq_nil_iff]
  intro l hl
  simp [h l (mem_maskList.1 hl)]

/-- A report by lanes, as `LaneTrap` says it. -/
theorem laneTrap_of {i : Instr} {own : State → WordOut} {s : State} {c : BitVec 8} {p : Nat → Bool} {bad : Nat → Prop}
    {f : Nat → DWord} (hr : ReadyFor i s) (he : exec i s = issueWord i own s) (hp : ∀ l, p l = true ↔ bad l)
    (hex : ∃ l, s.sq.em.getLsbD l = true ∧ bad l)
    (ho : ∀ l r, (Mask.list s.sq.em).filter p = l :: r → own s = .trap ⟨c, BitVec.ofNat 64 l, f l, maskOfList (l :: r)⟩) :
    LaneTrap c bad f i s := by
  obtain ⟨l, r, h1, h2, h3, h4, h5⟩ := faulting_lanes s.sq.em p (by simpa [hp] using hex)
  refine ⟨l, maskOfList (l :: r), h2, (hp l).1 h3, ?_, ?_, trap_completes hr he (ho l r h1)⟩
  · intro k hk h; exact h4 k hk ⟨h.1, (hp k).2 h.2⟩
  · intro k hk; rw [h5 k hk, hp]

/-! ## Checked overflow (R60, R150) -/

theorem not_fits_iff (w : Nat) (x : Int) :
    (!(decide (-(2 ^ (w - 1)) ≤ x) && decide (x < 2 ^ (w - 1)))) = true ↔ ¬ Fits w x := by
  rw [Bool.not_eq_true', ← Bool.not_eq_true, Bool.and_eq_true, decide_eq_true_iff, decide_eq_true_iff, Fits]

theorem checkOverflow_uniform {s : State} {w : Nat} {f : Nat → Int} (h : Fits w (f 0)) : checkOverflow s true w f = none := by
  unfold checkOverflow
  rw [if_pos rfl, if_pos]
  exact h

theorem checkOverflow_uniform_out {s : State} {w : Nat} {f : Nat → Int} (h : ¬ Fits w (f 0)) :
    checkOverflow s true w f = some ⟨0x03#8, BitVec.ofNat 64 (lowest s.sq.em), 0#64, s.sq.em⟩ := by
  unfold checkOverflow
  rw [if_pos rfl, if_neg]
  exact h

theorem checkOverflow_lanes {s : State} {w : Nat} {f : Nat → Int} (h : ∀ l, s.sq.em.getLsbD l = true → Fits w (f l)) :
    checkOverflow s false w f = none := by
  unfold checkOverflow
  rw [if_neg (by simp), overflowLanes, no_faulting_lanes]
  · rfl
  · intro l hl
    have := (not_fits_iff w (f l)).not.2 (by simpa using h l hl)
    simpa using this

theorem checkOverflow_lanes_out {s : State} {w : Nat} {f : Nat → Int} {l : Nat} {r : List Nat}
    (h : overflowLanes s.sq.em w f = l :: r) :
    checkOverflow s false w f = some ⟨0x03#8, BitVec.ofNat 64 l, 0#64, maskOfList (l :: r)⟩ := by
  unfold checkOverflow
  rw [if_neg (by simp), h]; rfl

theorem checked2_none {m : Bool} {tv : Int → Int → Int} {d a b : Opnd} {s : State}
    (h : m = true → InRange (fun _ => tv) d a b s) : checked2 m tv d a b s = none := by
  cases m
  · rfl
  · have h := h rfl
    unfold checked2
    rw [if_neg (by simp)]
    unfold InRange FitsIn at h
    by_cases hS : d.isS = true
    · rw [if_pos hS] at h ⊢; exact checkOverflow_uniform h
    · rw [if_neg hS] at h ⊢
      by_cases hA : d.isA = true
      · rw [if_pos hA]; simp only [if_pos hA] at h; exact checkOverflow_lanes h
      · rw [if_neg hA]; simp only [if_neg hA] at h; exact checkOverflow_lanes h

/-- A checked word whose first check is that of its true values traps where one does not fit. -/
theorem overflow_traps {i : Instr} {own : State → WordOut} {tv : Nat → Int → Int → Int} {d a b : Opnd} {s : State}
    (hr : ReadyFor i s) (he : exec i s = issueWord i own s) (hn : ¬ InRange tv d a b s)
    (ho : ∀ r, (if d.isS then checkOverflow s true 64 (fun _ => tv 64 (uval s a).toInt (uval s b).toInt)
      else if d.isA then checkOverflow s false 64 (fun l => tv 64 (val s a l).toInt (val s b l).toInt)
      else checkOverflow s false 32 (fun l => tv 32 (val32 s a l).toInt (val32 s b l).toInt)) = some r → own s = .trap r) :
    if d.isS then UniTrap 0x03#8 0#64 i s else LaneTrap 0x03#8 (fun l => ¬ FitsIn tv d a b s l) (fun _ => 0#64) i s := by
  unfold InRange at hn
  by_cases hS : d.isS = true
  · rw [if_pos hS] at hn ⊢
    rw [if_pos hS] at ho
    exact trap_completes hr he (ho _ (checkOverflow_uniform_out hn))
  · rw [if_neg hS] at hn ⊢
    rw [if_neg hS] at ho
    simp only [not_forall] at hn
    obtain ⟨l0, h0, h1⟩ := hn
    by_cases hA : d.isA = true
    · simp only [FitsIn, if_pos hA] at h1 ⊢
      rw [if_pos hA] at ho
      exact laneTrap_of hr he (fun l => not_fits_iff 64 _) ⟨l0, h0, h1⟩ (fun l r h => ho _ (checkOverflow_lanes_out h))
    · simp only [FitsIn, if_neg hA] at h1 ⊢
      rw [if_neg hA] at ho
      exact laneTrap_of hr he (fun l => not_fits_iff 32 _) ⟨l0, h0, h1⟩ (fun l r h => ho _ (checkOverflow_lanes_out h))

/-! ## Bit fields and division (R158, R159) -/

theorem fieldBounds_none {d a b : Opnd} {s : State} (h : FieldsFit d a b s) : fieldBounds d b s = none := by
  unfold FieldsFit at h
  unfold fieldBounds
  by_cases hS : d.isS = true
  · rw [if_pos hS] at h ⊢
    rw [if_neg]
    simp only [fieldPos, fieldLen, fieldEnd] at h ⊢; omega
  · rw [if_neg hS] at h ⊢
    rw [no_faulting_lanes]
    intro l hl
    have := h l hl
    rw [decide_eq_false_iff_not]
    simp only [fieldPos, fieldLen, fieldEnd] at this ⊢; omega

theorem divideCheck_none {d a b : Opnd} {s : State} (h : NonZero d a b s) : divideCheck d b s = none := by
  unfold NonZero at h
  unfold divideCheck
  by_cases hS : d.isS = true
  · rw [if_pos hS] at h ⊢; rw [if_neg h]
  · rw [if_neg hS] at h ⊢
    rw [no_faulting_lanes]
    · rfl
    · intro l hl; simpa using h l hl

end Sys2Proof.Machine
end

