-- ==== Sys2Proof/Laws/Fields.lean ====
section
/-! SUPPORT. What each field of the nine formats reads (Table 9-3), and the operand codes (Table 9-2). -/

namespace Sys2Proof

theorem Opnd.ofCode_code (o : Opnd) : Opnd.ofCode o.code = o := by
  cases o with
  | v n => revert n; decide
  | s n => revert n; decide
  | a n => revert n; decide
  | p n => revert n; decide
  | _ => rfl

theorem Opnd.code_ofCode (c : BitVec 7) : (Opnd.ofCode c).code = c := by revert c; decide

theorem fmtW3_field_24_7 (c : Bool) (op : BitVec 7) (d : BitVec 7) (a : BitVec 7) (b : BitVec 7) (e : Bool) (f : Bool) (m : Bool) :
    (fmtW3 c op d a b e f m).extractLsb' 24 7 = op := by
  apply BitVec.eq_of_getLsbD_eq
  intro i hi
  simp only [fmtW3, BitVec.getLsbD_extractLsb', BitVec.getLsbD_append, BitVec.getLsbD_ofBool]
  interval_cases i <;> simp

theorem fmtW3_bit_31 (c : Bool) (op : BitVec 7) (d : BitVec 7) (a : BitVec 7) (b : BitVec 7) (e : Bool) (f : Bool) (m : Bool) :
    (fmtW3 c op d a b e f m).getLsbD 31 = c := by
  simp only [fmtW3, BitVec.getLsbD_append, BitVec.getLsbD_ofBool]
  simp

theorem fmtW3_field_17_7 (c : Bool) (op : BitVec 7) (d : BitVec 7) (a : BitVec 7) (b : BitVec 7) (e : Bool) (f : Bool) (m : Bool) :
    (fmtW3 c op d a b e f m).extractLsb' 17 7 = d := by
  apply BitVec.eq_of_getLsbD_eq
  intro i hi
  simp only [fmtW3, BitVec.getLsbD_extractLsb', BitVec.getLsbD_append, BitVec.getLsbD_ofBool]
  interval_cases i <;> simp

theorem fmtW3_field_10_7 (c : Bool) (op : BitVec 7) (d : BitVec 7) (a : BitVec 7) (b : BitVec 7) (e : Bool) (f : Bool) (m : Bool) :
    (fmtW3 c op d a b e f m).extractLsb' 10 7 = a := by
  apply BitVec.eq_of_getLsbD_eq
  intro i hi
  simp only [fmtW3, BitVec.getLsbD_extractLsb', BitVec.getLsbD_append, BitVec.getLsbD_ofBool]
  interval_cases i <;> simp

theorem fmtW3_field_3_7 (c : Bool) (op : BitVec 7) (d : BitVec 7) (a : BitVec 7) (b : BitVec 7) (e : Bool) (f : Bool) (m : Bool) :
    (fmtW3 c op d a b e f m).extractLsb' 3 7 = b := by
  apply BitVec.eq_of_getLsbD_eq
  intro i hi
  simp only [fmtW3, BitVec.getLsbD_extractLsb', BitVec.getLsbD_append, BitVec.getLsbD_ofBool]
  interval_cases i <;> simp

theorem fmtW3_bit_2 (c : Bool) (op : BitVec 7) (d : BitVec 7) (a : BitVec 7) (b : BitVec 7) (e : Bool) (f : Bool) (m : Bool) :
    (fmtW3 c op d a b e f m).getLsbD 2 = e := by
  simp only [fmtW3, BitVec.getLsbD_append, BitVec.getLsbD_ofBool]
  simp

theorem fmtW3_bit_1 (c : Bool) (op : BitVec 7) (d : BitVec 7) (a : BitVec 7) (b : BitVec 7) (e : Bool) (f : Bool) (m : Bool) :
    (fmtW3 c op d a b e f m).getLsbD 1 = f := by
  simp only [fmtW3, BitVec.getLsbD_append, BitVec.getLsbD_ofBool]
  simp

theorem fmtW3_bit_0 (c : Bool) (op : BitVec 7) (d : BitVec 7) (a : BitVec 7) (b : BitVec 7) (e : Bool) (f : Bool) (m : Bool) :
    (fmtW3 c op d a b e f m).getLsbD 0 = m := by
  simp only [fmtW3, BitVec.getLsbD_append, BitVec.getLsbD_ofBool]
  simp

theorem fmtWI_field_24_7 (c : Bool) (op : BitVec 7) (d : BitVec 7) (a : BitVec 7) (i : BitVec 10) :
    (fmtWI c op d a i).extractLsb' 24 7 = op := by
  apply BitVec.eq_of_getLsbD_eq
  intro i hi
  simp only [fmtWI, BitVec.getLsbD_extractLsb', BitVec.getLsbD_append, BitVec.getLsbD_ofBool]
  interval_cases i <;> simp

theorem fmtWI_bit_31 (c : Bool) (op : BitVec 7) (d : BitVec 7) (a : BitVec 7) (i : BitVec 10) :
    (fmtWI c op d a i).getLsbD 31 = c := by
  simp only [fmtWI, BitVec.getLsbD_append, BitVec.getLsbD_ofBool]
  simp

theorem fmtWI_field_17_7 (c : Bool) (op : BitVec 7) (d : BitVec 7) (a : BitVec 7) (i : BitVec 10) :
    (fmtWI c op d a i).extractLsb' 17 7 = d := by
  apply BitVec.eq_of_getLsbD_eq
  intro i hi
  simp only [fmtWI, BitVec.getLsbD_extractLsb', BitVec.getLsbD_append, BitVec.getLsbD_ofBool]
  interval_cases i <;> simp

theorem fmtWI_field_10_7 (c : Bool) (op : BitVec 7) (d : BitVec 7) (a : BitVec 7) (i : BitVec 10) :
    (fmtWI c op d a i).extractLsb' 10 7 = a := by
  apply BitVec.eq_of_getLsbD_eq
  intro i hi
  simp only [fmtWI, BitVec.getLsbD_extractLsb', BitVec.getLsbD_append, BitVec.getLsbD_ofBool]
  interval_cases i <;> simp

theorem fmtWI_field_0_10 (c : Bool) (op : BitVec 7) (d : BitVec 7) (a : BitVec 7) (i : BitVec 10) :
    (fmtWI c op d a i).extractLsb' 0 10 = i := by
  apply BitVec.eq_of_getLsbD_eq
  intro i hi
  simp only [fmtWI, BitVec.getLsbD_extractLsb', BitVec.getLsbD_append, BitVec.getLsbD_ofBool]
  interval_cases i <;> simp

theorem fmtWK_field_24_7 (c : Bool) (op : BitVec 7) (d : BitVec 7) (i : BitVec 17) :
    (fmtWK c op d i).extractLsb' 24 7 = op := by
  apply BitVec.eq_of_getLsbD_eq
  intro i hi
  simp only [fmtWK, BitVec.getLsbD_extractLsb', BitVec.getLsbD_append, BitVec.getLsbD_ofBool]
  interval_cases i <;> simp

theorem fmtWK_bit_31 (c : Bool) (op : BitVec 7) (d : BitVec 7) (i : BitVec 17) :
    (fmtWK c op d i).getLsbD 31 = c := by
  simp only [fmtWK, BitVec.getLsbD_append, BitVec.getLsbD_ofBool]
  simp

theorem fmtWK_field_17_7 (c : Bool) (op : BitVec 7) (d : BitVec 7) (i : BitVec 17) :
    (fmtWK c op d i).extractLsb' 17 7 = d := by
  apply BitVec.eq_of_getLsbD_eq
  intro i hi
  simp only [fmtWK, BitVec.getLsbD_extractLsb', BitVec.getLsbD_append, BitVec.getLsbD_ofBool]
  interval_cases i <;> simp

theorem fmtWK_bit_16 (c : Bool) (op : BitVec 7) (d : BitVec 7) (i : BitVec 17) :
    (fmtWK c op d i).getLsbD 16 = i.getLsbD 16 := by
  simp only [fmtWK, BitVec.getLsbD_append, BitVec.getLsbD_ofBool]
  simp

theorem fmtWK_field_0_16 (c : Bool) (op : BitVec 7) (d : BitVec 7) (i : BitVec 17) :
    (fmtWK c op d i).extractLsb' 0 16 = i.extractLsb' 0 16 := by
  apply BitVec.eq_of_getLsbD_eq
  intro i hi
  simp only [fmtWK, BitVec.getLsbD_extractLsb', BitVec.getLsbD_append, BitVec.getLsbD_ofBool]
  interval_cases i <;> simp

theorem fmtWK_field_0_17 (c : Bool) (op : BitVec 7) (d : BitVec 7) (i : BitVec 17) :
    (fmtWK c op d i).extractLsb' 0 17 = i := by
  apply BitVec.eq_of_getLsbD_eq
  intro i hi
  simp only [fmtWK, BitVec.getLsbD_extractLsb', BitVec.getLsbD_append, BitVec.getLsbD_ofBool]
  interval_cases i <;> simp

theorem fmtWM_field_24_7 (c : Bool) (op : BitVec 7) (d : BitVec 7) (b : BitVec 7) (z : BitVec 2) (o : Bool) (e : Bool) (n : BitVec 6) :
    (fmtWM c op d b z o e n).extractLsb' 24 7 = op := by
  apply BitVec.eq_of_getLsbD_eq
  intro i hi
  simp only [fmtWM, BitVec.getLsbD_extractLsb', BitVec.getLsbD_append, BitVec.getLsbD_ofBool]
  interval_cases i <;> simp

theorem fmtWM_bit_31 (c : Bool) (op : BitVec 7) (d : BitVec 7) (b : BitVec 7) (z : BitVec 2) (o : Bool) (e : Bool) (n : BitVec 6) :
    (fmtWM c op d b z o e n).getLsbD 31 = c := by
  simp only [fmtWM, BitVec.getLsbD_append, BitVec.getLsbD_ofBool]
  simp

theorem fmtWM_field_17_7 (c : Bool) (op : BitVec 7) (d : BitVec 7) (b : BitVec 7) (z : BitVec 2) (o : Bool) (e : Bool) (n : BitVec 6) :
    (fmtWM c op d b z o e n).extractLsb' 17 7 = d := by
  apply BitVec.eq_of_getLsbD_eq
  intro i hi
  simp only [fmtWM, BitVec.getLsbD_extractLsb', BitVec.getLsbD_append, BitVec.getLsbD_ofBool]
  interval_cases i <;> simp

theorem fmtWM_field_10_7 (c : Bool) (op : BitVec 7) (d : BitVec 7) (b : BitVec 7) (z : BitVec 2) (o : Bool) (e : Bool) (n : BitVec 6) :
    (fmtWM c op d b z o e n).extractLsb' 10 7 = b := by
  apply BitVec.eq_of_getLsbD_eq
  intro i hi
  simp only [fmtWM, BitVec.getLsbD_extractLsb', BitVec.getLsbD_append, BitVec.getLsbD_ofBool]
  interval_cases i <;> simp

theorem fmtWM_field_8_2 (c : Bool) (op : BitVec 7) (d : BitVec 7) (b : BitVec 7) (z : BitVec 2) (o : Bool) (e : Bool) (n : BitVec 6) :
    (fmtWM c op d b z o e n).extractLsb' 8 2 = z := by
  apply BitVec.eq_of_getLsbD_eq
  intro i hi
  simp only [fmtWM, BitVec.getLsbD_extractLsb', BitVec.getLsbD_append, BitVec.getLsbD_ofBool]
  interval_cases i <;> simp

theorem fmtWM_bit_7 (c : Bool) (op : BitVec 7) (d : BitVec 7) (b : BitVec 7) (z : BitVec 2) (o : Bool) (e : Bool) (n : BitVec 6) :
    (fmtWM c op d b z o e n).getLsbD 7 = o := by
  simp only [fmtWM, BitVec.getLsbD_append, BitVec.getLsbD_ofBool]
  simp

theorem fmtWM_bit_6 (c : Bool) (op : BitVec 7) (d : BitVec 7) (b : BitVec 7) (z : BitVec 2) (o : Bool) (e : Bool) (n : BitVec 6) :
    (fmtWM c op d b z o e n).getLsbD 6 = e := by
  simp only [fmtWM, BitVec.getLsbD_append, BitVec.getLsbD_ofBool]
  simp

theorem fmtWM_bit_5 (c : Bool) (op : BitVec 7) (d : BitVec 7) (b : BitVec 7) (z : BitVec 2) (o : Bool) (e : Bool) (n : BitVec 6) :
    (fmtWM c op d b z o e n).getLsbD 5 = n.getLsbD 5 := by
  simp only [fmtWM, BitVec.getLsbD_append, BitVec.getLsbD_ofBool]
  simp

theorem fmtWM_field_3_2 (c : Bool) (op : BitVec 7) (d : BitVec 7) (b : BitVec 7) (z : BitVec 2) (o : Bool) (e : Bool) (n : BitVec 6) :
    (fmtWM c op d b z o e n).extractLsb' 3 2 = n.extractLsb' 3 2 := by
  apply BitVec.eq_of_getLsbD_eq
  intro i hi
  simp only [fmtWM, BitVec.getLsbD_extractLsb', BitVec.getLsbD_append, BitVec.getLsbD_ofBool]
  interval_cases i <;> simp

theorem fmtWM_field_2_4 (c : Bool) (op : BitVec 7) (d : BitVec 7) (b : BitVec 7) (z : BitVec 2) (o : Bool) (e : Bool) (n : BitVec 6) :
    (fmtWM c op d b z o e n).extractLsb' 2 4 = n.extractLsb' 2 4 := by
  apply BitVec.eq_of_getLsbD_eq
  intro i hi
  simp only [fmtWM, BitVec.getLsbD_extractLsb', BitVec.getLsbD_append, BitVec.getLsbD_ofBool]
  interval_cases i <;> simp

theorem fmtWM_field_0_2 (c : Bool) (op : BitVec 7) (d : BitVec 7) (b : BitVec 7) (z : BitVec 2) (o : Bool) (e : Bool) (n : BitVec 6) :
    (fmtWM c op d b z o e n).extractLsb' 0 2 = n.extractLsb' 0 2 := by
  apply BitVec.eq_of_getLsbD_eq
  intro i hi
  simp only [fmtWM, BitVec.getLsbD_extractLsb', BitVec.getLsbD_append, BitVec.getLsbD_ofBool]
  interval_cases i <;> simp

theorem fmtWM_field_0_3 (c : Bool) (op : BitVec 7) (d : BitVec 7) (b : BitVec 7) (z : BitVec 2) (o : Bool) (e : Bool) (n : BitVec 6) :
    (fmtWM c op d b z o e n).extractLsb' 0 3 = n.extractLsb' 0 3 := by
  apply BitVec.eq_of_getLsbD_eq
  intro i hi
  simp only [fmtWM, BitVec.getLsbD_extractLsb', BitVec.getLsbD_append, BitVec.getLsbD_ofBool]
  interval_cases i <;> simp

theorem fmtWM_field_0_6 (c : Bool) (op : BitVec 7) (d : BitVec 7) (b : BitVec 7) (z : BitVec 2) (o : Bool) (e : Bool) (n : BitVec 6) :
    (fmtWM c op d b z o e n).extractLsb' 0 6 = n := by
  apply BitVec.eq_of_getLsbD_eq
  intro i hi
  simp only [fmtWM, BitVec.getLsbD_extractLsb', BitVec.getLsbD_append, BitVec.getLsbD_ofBool]
  interval_cases i <;> simp

theorem fmtWT_field_24_7 (c : Bool) (op : BitVec 7) (t : BitVec 3) (l : Bool) (x : BitVec 5) (i : BitVec 5) (v : BitVec 7) (e : Bool) (f : BitVec 2) :
    (fmtWT c op t l x i v e f).extractLsb' 24 7 = op := by
  apply BitVec.eq_of_getLsbD_eq
  intro i hi
  simp only [fmtWT, BitVec.getLsbD_extractLsb', BitVec.getLsbD_append, BitVec.getLsbD_ofBool]
  interval_cases i <;> simp

theorem fmtWT_bit_31 (c : Bool) (op : BitVec 7) (t : BitVec 3) (l : Bool) (x : BitVec 5) (i : BitVec 5) (v : BitVec 7) (e : Bool) (f : BitVec 2) :
    (fmtWT c op t l x i v e f).getLsbD 31 = c := by
  simp only [fmtWT, BitVec.getLsbD_append, BitVec.getLsbD_ofBool]
  simp

theorem fmtWT_field_21_3 (c : Bool) (op : BitVec 7) (t : BitVec 3) (l : Bool) (x : BitVec 5) (i : BitVec 5) (v : BitVec 7) (e : Bool) (f : BitVec 2) :
    (fmtWT c op t l x i v e f).extractLsb' 21 3 = t := by
  apply BitVec.eq_of_getLsbD_eq
  intro i hi
  simp only [fmtWT, BitVec.getLsbD_extractLsb', BitVec.getLsbD_append, BitVec.getLsbD_ofBool]
  interval_cases i <;> simp

theorem fmtWT_bit_20 (c : Bool) (op : BitVec 7) (t : BitVec 3) (l : Bool) (x : BitVec 5) (i : BitVec 5) (v : BitVec 7) (e : Bool) (f : BitVec 2) :
    (fmtWT c op t l x i v e f).getLsbD 20 = l := by
  simp only [fmtWT, BitVec.getLsbD_append, BitVec.getLsbD_ofBool]
  simp

theorem fmtWT_field_15_5 (c : Bool) (op : BitVec 7) (t : BitVec 3) (l : Bool) (x : BitVec 5) (i : BitVec 5) (v : BitVec 7) (e : Bool) (f : BitVec 2) :
    (fmtWT c op t l x i v e f).extractLsb' 15 5 = x := by
  apply BitVec.eq_of_getLsbD_eq
  intro i hi
  simp only [fmtWT, BitVec.getLsbD_extractLsb', BitVec.getLsbD_append, BitVec.getLsbD_ofBool]
  interval_cases i <;> simp

theorem fmtWT_field_10_5 (c : Bool) (op : BitVec 7) (t : BitVec 3) (l : Bool) (x : BitVec 5) (i : BitVec 5) (v : BitVec 7) (e : Bool) (f : BitVec 2) :
    (fmtWT c op t l x i v e f).extractLsb' 10 5 = i := by
  apply BitVec.eq_of_getLsbD_eq
  intro i hi
  simp only [fmtWT, BitVec.getLsbD_extractLsb', BitVec.getLsbD_append, BitVec.getLsbD_ofBool]
  interval_cases i <;> simp

theorem fmtWT_field_3_7 (c : Bool) (op : BitVec 7) (t : BitVec 3) (l : Bool) (x : BitVec 5) (i : BitVec 5) (v : BitVec 7) (e : Bool) (f : BitVec 2) :
    (fmtWT c op t l x i v e f).extractLsb' 3 7 = v := by
  apply BitVec.eq_of_getLsbD_eq
  intro i hi
  simp only [fmtWT, BitVec.getLsbD_extractLsb', BitVec.getLsbD_append, BitVec.getLsbD_ofBool]
  interval_cases i <;> simp

theorem fmtWT_bit_2 (c : Bool) (op : BitVec 7) (t : BitVec 3) (l : Bool) (x : BitVec 5) (i : BitVec 5) (v : BitVec 7) (e : Bool) (f : BitVec 2) :
    (fmtWT c op t l x i v e f).getLsbD 2 = e := by
  simp only [fmtWT, BitVec.getLsbD_append, BitVec.getLsbD_ofBool]
  simp

theorem fmtWT_bit_1 (c : Bool) (op : BitVec 7) (t : BitVec 3) (l : Bool) (x : BitVec 5) (i : BitVec 5) (v : BitVec 7) (e : Bool) (f : BitVec 2) :
    (fmtWT c op t l x i v e f).getLsbD 1 = f.getLsbD 1 := by
  simp only [fmtWT, BitVec.getLsbD_append, BitVec.getLsbD_ofBool]
  simp

theorem fmtWT_field_0_2 (c : Bool) (op : BitVec 7) (t : BitVec 3) (l : Bool) (x : BitVec 5) (i : BitVec 5) (v : BitVec 7) (e : Bool) (f : BitVec 2) :
    (fmtWT c op t l x i v e f).extractLsb' 0 2 = f := by
  apply BitVec.eq_of_getLsbD_eq
  intro i hi
  simp only [fmtWT, BitVec.getLsbD_extractLsb', BitVec.getLsbD_append, BitVec.getLsbD_ofBool]
  interval_cases i <;> simp

theorem fmtWT_bit_0 (c : Bool) (op : BitVec 7) (t : BitVec 3) (l : Bool) (x : BitVec 5) (i : BitVec 5) (v : BitVec 7) (e : Bool) (f : BitVec 2) :
    (fmtWT c op t l x i v e f).getLsbD 0 = f.getLsbD 0 := by
  simp only [fmtWT, BitVec.getLsbD_append, BitVec.getLsbD_ofBool]
  simp

theorem fmtWX_field_24_7 (c : Bool) (op : BitVec 7) (z : BitVec 3) (a : BitVec 3) (b : BitVec 5) (s : BitVec 5) (t : BitVec 3) (f : BitVec 3) (e : Bool) (m : Bool) :
    (fmtWX c op z a b s t f e m).extractLsb' 24 7 = op := by
  apply BitVec.eq_of_getLsbD_eq
  intro i hi
  simp only [fmtWX, BitVec.getLsbD_extractLsb', BitVec.getLsbD_append, BitVec.getLsbD_ofBool]
  interval_cases i <;> simp

theorem fmtWX_bit_31 (c : Bool) (op : BitVec 7) (z : BitVec 3) (a : BitVec 3) (b : BitVec 5) (s : BitVec 5) (t : BitVec 3) (f : BitVec 3) (e : Bool) (m : Bool) :
    (fmtWX c op z a b s t f e m).getLsbD 31 = c := by
  simp only [fmtWX, BitVec.getLsbD_append, BitVec.getLsbD_ofBool]
  simp

theorem fmtWX_field_21_3 (c : Bool) (op : BitVec 7) (z : BitVec 3) (a : BitVec 3) (b : BitVec 5) (s : BitVec 5) (t : BitVec 3) (f : BitVec 3) (e : Bool) (m : Bool) :
    (fmtWX c op z a b s t f e m).extractLsb' 21 3 = z := by
  apply BitVec.eq_of_getLsbD_eq
  intro i hi
  simp only [fmtWX, BitVec.getLsbD_extractLsb', BitVec.getLsbD_append, BitVec.getLsbD_ofBool]
  interval_cases i <;> simp

theorem fmtWX_field_18_3 (c : Bool) (op : BitVec 7) (z : BitVec 3) (a : BitVec 3) (b : BitVec 5) (s : BitVec 5) (t : BitVec 3) (f : BitVec 3) (e : Bool) (m : Bool) :
    (fmtWX c op z a b s t f e m).extractLsb' 18 3 = a := by
  apply BitVec.eq_of_getLsbD_eq
  intro i hi
  simp only [fmtWX, BitVec.getLsbD_extractLsb', BitVec.getLsbD_append, BitVec.getLsbD_ofBool]
  interval_cases i <;> simp

theorem fmtWX_field_13_5 (c : Bool) (op : BitVec 7) (z : BitVec 3) (a : BitVec 3) (b : BitVec 5) (s : BitVec 5) (t : BitVec 3) (f : BitVec 3) (e : Bool) (m : Bool) :
    (fmtWX c op z a b s t f e m).extractLsb' 13 5 = b := by
  apply BitVec.eq_of_getLsbD_eq
  intro i hi
  simp only [fmtWX, BitVec.getLsbD_extractLsb', BitVec.getLsbD_append, BitVec.getLsbD_ofBool]
  interval_cases i <;> simp

theorem fmtWX_field_8_5 (c : Bool) (op : BitVec 7) (z : BitVec 3) (a : BitVec 3) (b : BitVec 5) (s : BitVec 5) (t : BitVec 3) (f : BitVec 3) (e : Bool) (m : Bool) :
    (fmtWX c op z a b s t f e m).extractLsb' 8 5 = s := by
  apply BitVec.eq_of_getLsbD_eq
  intro i hi
  simp only [fmtWX, BitVec.getLsbD_extractLsb', BitVec.getLsbD_append, BitVec.getLsbD_ofBool]
  interval_cases i <;> simp

theorem fmtWX_field_5_3 (c : Bool) (op : BitVec 7) (z : BitVec 3) (a : BitVec 3) (b : BitVec 5) (s : BitVec 5) (t : BitVec 3) (f : BitVec 3) (e : Bool) (m : Bool) :
    (fmtWX c op z a b s t f e m).extractLsb' 5 3 = t := by
  apply BitVec.eq_of_getLsbD_eq
  intro i hi
  simp only [fmtWX, BitVec.getLsbD_extractLsb', BitVec.getLsbD_append, BitVec.getLsbD_ofBool]
  interval_cases i <;> simp

theorem fmtWX_field_2_3 (c : Bool) (op : BitVec 7) (z : BitVec 3) (a : BitVec 3) (b : BitVec 5) (s : BitVec 5) (t : BitVec 3) (f : BitVec 3) (e : Bool) (m : Bool) :
    (fmtWX c op z a b s t f e m).extractLsb' 2 3 = f := by
  apply BitVec.eq_of_getLsbD_eq
  intro i hi
  simp only [fmtWX, BitVec.getLsbD_extractLsb', BitVec.getLsbD_append, BitVec.getLsbD_ofBool]
  interval_cases i <;> simp

theorem fmtWX_bit_1 (c : Bool) (op : BitVec 7) (z : BitVec 3) (a : BitVec 3) (b : BitVec 5) (s : BitVec 5) (t : BitVec 3) (f : BitVec 3) (e : Bool) (m : Bool) :
    (fmtWX c op z a b s t f e m).getLsbD 1 = e := by
  simp only [fmtWX, BitVec.getLsbD_append, BitVec.getLsbD_ofBool]
  simp

theorem fmtWX_bit_0 (c : Bool) (op : BitVec 7) (z : BitVec 3) (a : BitVec 3) (b : BitVec 5) (s : BitVec 5) (t : BitVec 3) (f : BitVec 3) (e : Bool) (m : Bool) :
    (fmtWX c op z a b s t f e m).getLsbD 0 = m := by
  simp only [fmtWX, BitVec.getLsbD_append, BitVec.getLsbD_ofBool]
  simp

theorem fmtWB_field_24_7 (c : Bool) (op : BitVec 7) (p : BitVec 7) (t : BitVec 6) (f : BitVec 6) (k : BitVec 4) (e : Bool) :
    (fmtWB c op p t f k e).extractLsb' 24 7 = op := by
  apply BitVec.eq_of_getLsbD_eq
  intro i hi
  simp only [fmtWB, BitVec.getLsbD_extractLsb', BitVec.getLsbD_append, BitVec.getLsbD_ofBool]
  interval_cases i <;> simp

theorem fmtWB_bit_31 (c : Bool) (op : BitVec 7) (p : BitVec 7) (t : BitVec 6) (f : BitVec 6) (k : BitVec 4) (e : Bool) :
    (fmtWB c op p t f k e).getLsbD 31 = c := by
  simp only [fmtWB, BitVec.getLsbD_append, BitVec.getLsbD_ofBool]
  simp

theorem fmtWB_field_17_7 (c : Bool) (op : BitVec 7) (p : BitVec 7) (t : BitVec 6) (f : BitVec 6) (k : BitVec 4) (e : Bool) :
    (fmtWB c op p t f k e).extractLsb' 17 7 = p := by
  apply BitVec.eq_of_getLsbD_eq
  intro i hi
  simp only [fmtWB, BitVec.getLsbD_extractLsb', BitVec.getLsbD_append, BitVec.getLsbD_ofBool]
  interval_cases i <;> simp

theorem fmtWB_field_11_6 (c : Bool) (op : BitVec 7) (p : BitVec 7) (t : BitVec 6) (f : BitVec 6) (k : BitVec 4) (e : Bool) :
    (fmtWB c op p t f k e).extractLsb' 11 6 = t := by
  apply BitVec.eq_of_getLsbD_eq
  intro i hi
  simp only [fmtWB, BitVec.getLsbD_extractLsb', BitVec.getLsbD_append, BitVec.getLsbD_ofBool]
  interval_cases i <;> simp

theorem fmtWB_field_5_6 (c : Bool) (op : BitVec 7) (p : BitVec 7) (t : BitVec 6) (f : BitVec 6) (k : BitVec 4) (e : Bool) :
    (fmtWB c op p t f k e).extractLsb' 5 6 = f := by
  apply BitVec.eq_of_getLsbD_eq
  intro i hi
  simp only [fmtWB, BitVec.getLsbD_extractLsb', BitVec.getLsbD_append, BitVec.getLsbD_ofBool]
  interval_cases i <;> simp

theorem fmtWB_field_1_4 (c : Bool) (op : BitVec 7) (p : BitVec 7) (t : BitVec 6) (f : BitVec 6) (k : BitVec 4) (e : Bool) :
    (fmtWB c op p t f k e).extractLsb' 1 4 = k := by
  apply BitVec.eq_of_getLsbD_eq
  intro i hi
  simp only [fmtWB, BitVec.getLsbD_extractLsb', BitVec.getLsbD_append, BitVec.getLsbD_ofBool]
  interval_cases i <;> simp

theorem fmtWB_bit_0 (c : Bool) (op : BitVec 7) (p : BitVec 7) (t : BitVec 6) (f : BitVec 6) (k : BitVec 4) (e : Bool) :
    (fmtWB c op p t f k e).getLsbD 0 = e := by
  simp only [fmtWB, BitVec.getLsbD_append, BitVec.getLsbD_ofBool]
  simp

theorem fmtWS_field_24_7 (c : Bool) (op : BitVec 7) (s : BitVec 8) (z : BitVec 16) :
    (fmtWS c op s z).extractLsb' 24 7 = op := by
  apply BitVec.eq_of_getLsbD_eq
  intro i hi
  simp only [fmtWS, BitVec.getLsbD_extractLsb', BitVec.getLsbD_append, BitVec.getLsbD_ofBool]
  interval_cases i <;> simp

theorem fmtWS_bit_31 (c : Bool) (op : BitVec 7) (s : BitVec 8) (z : BitVec 16) :
    (fmtWS c op s z).getLsbD 31 = c := by
  simp only [fmtWS, BitVec.getLsbD_append, BitVec.getLsbD_ofBool]
  simp

theorem fmtWS_field_16_8 (c : Bool) (op : BitVec 7) (s : BitVec 8) (z : BitVec 16) :
    (fmtWS c op s z).extractLsb' 16 8 = s := by
  apply BitVec.eq_of_getLsbD_eq
  intro i hi
  simp only [fmtWS, BitVec.getLsbD_extractLsb', BitVec.getLsbD_append, BitVec.getLsbD_ofBool]
  interval_cases i <;> simp

theorem fmtWS_field_0_16 (c : Bool) (op : BitVec 7) (s : BitVec 8) (z : BitVec 16) :
    (fmtWS c op s z).extractLsb' 0 16 = z := by
  apply BitVec.eq_of_getLsbD_eq
  intro i hi
  simp only [fmtWS, BitVec.getLsbD_extractLsb', BitVec.getLsbD_append, BitVec.getLsbD_ofBool]
  interval_cases i <;> simp

theorem fmtWE_field_24_7 (c : Bool) (op : BitVec 7) (d : BitVec 7) (a : BitVec 5) (b : BitVec 5) (n : BitVec 7) :
    (fmtWE c op d a b n).extractLsb' 24 7 = op := by
  apply BitVec.eq_of_getLsbD_eq
  intro i hi
  simp only [fmtWE, BitVec.getLsbD_extractLsb', BitVec.getLsbD_append, BitVec.getLsbD_ofBool]
  interval_cases i <;> simp

theorem fmtWE_bit_31 (c : Bool) (op : BitVec 7) (d : BitVec 7) (a : BitVec 5) (b : BitVec 5) (n : BitVec 7) :
    (fmtWE c op d a b n).getLsbD 31 = c := by
  simp only [fmtWE, BitVec.getLsbD_append, BitVec.getLsbD_ofBool]
  simp

theorem fmtWE_field_17_7 (c : Bool) (op : BitVec 7) (d : BitVec 7) (a : BitVec 5) (b : BitVec 5) (n : BitVec 7) :
    (fmtWE c op d a b n).extractLsb' 17 7 = d := by
  apply BitVec.eq_of_getLsbD_eq
  intro i hi
  simp only [fmtWE, BitVec.getLsbD_extractLsb', BitVec.getLsbD_append, BitVec.getLsbD_ofBool]
  interval_cases i <;> simp

theorem fmtWE_field_12_5 (c : Bool) (op : BitVec 7) (d : BitVec 7) (a : BitVec 5) (b : BitVec 5) (n : BitVec 7) :
    (fmtWE c op d a b n).extractLsb' 12 5 = a := by
  apply BitVec.eq_of_getLsbD_eq
  intro i hi
  simp only [fmtWE, BitVec.getLsbD_extractLsb', BitVec.getLsbD_append, BitVec.getLsbD_ofBool]
  interval_cases i <;> simp

theorem fmtWE_field_7_5 (c : Bool) (op : BitVec 7) (d : BitVec 7) (a : BitVec 5) (b : BitVec 5) (n : BitVec 7) :
    (fmtWE c op d a b n).extractLsb' 7 5 = b := by
  apply BitVec.eq_of_getLsbD_eq
  intro i hi
  simp only [fmtWE, BitVec.getLsbD_extractLsb', BitVec.getLsbD_append, BitVec.getLsbD_ofBool]
  interval_cases i <;> simp

theorem fmtWE_bit_6 (c : Bool) (op : BitVec 7) (d : BitVec 7) (a : BitVec 5) (b : BitVec 5) (n : BitVec 7) :
    (fmtWE c op d a b n).getLsbD 6 = n.getLsbD 6 := by
  simp only [fmtWE, BitVec.getLsbD_append, BitVec.getLsbD_ofBool]
  simp

theorem fmtWE_field_2_4 (c : Bool) (op : BitVec 7) (d : BitVec 7) (a : BitVec 5) (b : BitVec 5) (n : BitVec 7) :
    (fmtWE c op d a b n).extractLsb' 2 4 = n.extractLsb' 2 4 := by
  apply BitVec.eq_of_getLsbD_eq
  intro i hi
  simp only [fmtWE, BitVec.getLsbD_extractLsb', BitVec.getLsbD_append, BitVec.getLsbD_ofBool]
  interval_cases i <;> simp

theorem fmtWE_field_0_2 (c : Bool) (op : BitVec 7) (d : BitVec 7) (a : BitVec 5) (b : BitVec 5) (n : BitVec 7) :
    (fmtWE c op d a b n).extractLsb' 0 2 = n.extractLsb' 0 2 := by
  apply BitVec.eq_of_getLsbD_eq
  intro i hi
  simp only [fmtWE, BitVec.getLsbD_extractLsb', BitVec.getLsbD_append, BitVec.getLsbD_ofBool]
  interval_cases i <;> simp

theorem fmtWE_field_0_7 (c : Bool) (op : BitVec 7) (d : BitVec 7) (a : BitVec 5) (b : BitVec 5) (n : BitVec 7) :
    (fmtWE c op d a b n).extractLsb' 0 7 = n := by
  apply BitVec.eq_of_getLsbD_eq
  intro i hi
  simp only [fmtWE, BitVec.getLsbD_extractLsb', BitVec.getLsbD_append, BitVec.getLsbD_ofBool]
  interval_cases i <;> simp

end Sys2Proof
end

