-- ==== Sys2Proof/Laws/Memory.lean ====
section
/-! SUPPORT. Bytes of memory: every write keeps the canonical form, changes what it writes and nothing else. -/

namespace Sys2Proof.Machine

/-! ## The canonical form -/

/-- The canonical form of a list of cells, as a proposition. -/
def Canonical (l : List Host.Cell) : Prop := l.Pairwise (fun a b => a.1 < b.1) ∧ ∀ c ∈ l, c.2 ≠ Memory.unlisted

theorem Memory.wf_iff (m : Memory) : m.wf = true ↔ Canonical m.cells := by
  simp [Memory.wf, Canonical, List.all_eq_true]

theorem mem_cellWrite {l : List Host.Cell} {a : Nat} {b : Byte} {c : Host.Cell} (h : c ∈ cellWrite l a b) :
    c ∈ l ∨ (c = (a, b) ∧ b ≠ Memory.unlisted) := by
  induction l with
  | nil =>
    simp only [cellWrite] at h
    split at h
    · cases h
    · simp at h; exact .inr ⟨h, by assumption⟩
  | cons x r ih =>
    obtain ⟨k, v⟩ := x
    simp only [cellWrite] at h
    split at h
    · split at h
      · exact .inl h
      · rcases List.mem_cons.1 h with rfl | h
        · exact .inr ⟨rfl, by assumption⟩
        · exact .inl h
    · split at h
      · split at h
        · exact .inl (List.mem_cons_of_mem _ h)
        · rcases List.mem_cons.1 h with rfl | h
          · exact .inr ⟨rfl, by assumption⟩
          · exact .inl (List.mem_cons_of_mem _ h)
      · rcases List.mem_cons.1 h with rfl | h
        · exact .inl (by simp)
        · rcases ih h with h | h
          · exact .inl (List.mem_cons_of_mem _ h)
          · exact .inr h

theorem cellWrite_canonical {l : List Host.Cell} (h : Canonical l) (a : Nat) (b : Byte) : Canonical (cellWrite l a b) := by
  refine ⟨?_, fun c hc => ?_⟩
  · obtain ⟨hs, -⟩ := h
    induction l with
    | nil => simp only [cellWrite]; split <;> simp
    | cons x r ih =>
      obtain ⟨k, v⟩ := x
      have ⟨h1, h2⟩ := List.pairwise_cons.1 hs
      simp only [cellWrite]
      split
      · split
        · exact hs
        · refine List.pairwise_cons.2 ⟨fun c hc => ?_, hs⟩
          rcases List.mem_cons.1 hc with rfl | hc
          · assumption
          · have := h1 c hc; simp only at this ⊢; omega
      · split
        · subst_vars
          split
          · exact h2
          · exact List.pairwise_cons.2 ⟨h1, h2⟩
        · refine List.pairwise_cons.2 ⟨fun c hc => ?_, ih h2⟩
          rcases mem_cellWrite hc with hc | ⟨rfl, -⟩
          · exact h1 c hc
          · simp only; omega
  · rcases mem_cellWrite hc with hc | ⟨rfl, hb⟩
    · exact h.2 c hc
    · exact hb

theorem Memory.write_wf {m : Memory} (h : m.wf = true) (a : Nat) (b : Byte) : (m.write a b).wf = true := by
  rw [Memory.wf_iff] at h ⊢; exact cellWrite_canonical h a b

theorem Memory.writeCells_wf {m : Memory} (h : m.wf = true) (l : List (Nat × Byte)) : (m.writeCells l).wf = true := by
  induction l generalizing m with
  | nil => exact h
  | cons c r ih => obtain ⟨a, b⟩ := c; exact ih (Memory.write_wf h a b)

theorem Memory.writeBytes_wf {m : Memory} (h : m.wf = true) (a : Nat) (bs : List Byte) : (m.writeBytes a bs).wf = true :=
  Memory.writeCells_wf h _

theorem Memory.put_wf {m : Memory} (h : m.wf = true) (a n x : Nat) : (m.put a n x).wf = true := Memory.writeBytes_wf h _ _

theorem Memory.clear_wf {m : Memory} (h : m.wf = true) (a n : Nat) : (m.clear a n).wf = true := by
  rw [Memory.wf_iff] at h ⊢
  exact ⟨h.1.filter _, fun c hc => h.2 c (List.mem_filter.1 hc).1⟩

theorem Memory.empty_wf : (Memory.mk []).wf = true := rfl

/-! ## Reading after writing -/

theorem cellRead_of_lt {l : List Host.Cell} {x : Nat} (h : ∀ c ∈ l, x < c.1) : cellRead l x = Memory.unlisted := by
  induction l with
  | nil => rfl
  | cons c r ih =>
    obtain ⟨k, v⟩ := c
    have hk := h (k, v) (by simp)
    simp only [cellRead]
    rw [if_neg (by simp only at hk; omega), ih (fun c hc => h c (List.mem_cons_of_mem _ hc))]

theorem cellRead_cellWrite {l : List Host.Cell} (h : Canonical l) (a x : Nat) (b : Byte) :
    cellRead (cellWrite l a b) x = if x = a then b else cellRead l x := by
  obtain ⟨hs, -⟩ := h
  induction l with
  | nil =>
    simp only [cellWrite]
    by_cases hb : b = Memory.unlisted
    · rw [if_pos hb]; by_cases hx : x = a <;> simp [cellRead, hx, hb]
    · rw [if_neg hb]; by_cases hx : x = a
      · simp [cellRead, hx]
      · simp [cellRead, hx, Ne.symm hx]
  | cons c r ih =>
    obtain ⟨k, v⟩ := c
    have ⟨h1, h2⟩ := List.pairwise_cons.1 hs
    simp only [cellWrite]
    by_cases hak : a < k
    · have hlow : cellRead ((k, v) :: r) a = Memory.unlisted := by
        apply cellRead_of_lt
        intro c hc
        rcases List.mem_cons.1 hc with rfl | hc
        · exact hak
        · have := h1 c hc; simp only at this ⊢; omega
      rw [if_pos hak]
      by_cases hb : b = Memory.unlisted
      · rw [if_pos hb]
        by_cases hx : x = a
        · rw [if_pos hx, hx, hlow, hb]
        · rw [if_neg hx]
      · rw [if_neg hb]
        by_cases hx : x = a
        · simp [cellRead, hx]
        · rw [if_neg hx, cellRead, if_neg (Ne.symm hx)]
    · rw [if_neg hak]
      by_cases hk : a = k
      · subst hk
        rw [if_pos rfl]
        have hlow : cellRead r a = Memory.unlisted := cellRead_of_lt (fun c hc => h1 c hc)
        by_cases hb : b = Memory.unlisted
        · rw [if_pos hb]
          by_cases hx : x = a
          · rw [if_pos hx, hx, hlow, hb]
          · rw [if_neg hx, cellRead, if_neg (Ne.symm hx)]
        · rw [if_neg hb]
          by_cases hx : x = a
          · simp [cellRead, hx]
          · rw [if_neg hx, cellRead, cellRead, if_neg (Ne.symm hx), if_neg (Ne.symm hx)]
      · rw [if_neg hk, cellRead]
        by_cases hx : k = x
        · subst hx
          rw [if_pos rfl, if_neg (fun h => hk h.symm), cellRead, if_pos rfl]
        · rw [if_neg hx, ih h2, cellRead, if_neg hx]

theorem Memory.read_write {m : Memory} (h : m.wf = true) (a x : Nat) (b : Byte) :
    (m.write a b).read x = if x = a then b else m.read x := by
  rw [Memory.wf_iff] at h; exact cellRead_cellWrite h a x b

/-- A write of cells changes the bytes it names, the last cell of an address deciding, and no other. -/
theorem Memory.read_writeCells {m : Memory} (h : m.wf = true) (l : List (Nat × Byte)) (a : Nat) :
    (m.writeCells l).read a = (lastCell l a).getD (m.read a) := by
  induction l generalizing m with
  | nil => rfl
  | cons c r ih =>
    obtain ⟨k, b⟩ := c
    simp only [Memory.writeCells, lastCell]
    rw [ih (Memory.write_wf h k b), Memory.read_write h]
    cases lastCell r a <;> by_cases hk : k = a <;> simp [hk, Ne.symm]

theorem lastCell_none {l : List (Nat × Byte)} {a : Nat} (h : ∀ c ∈ l, c.1 ≠ a) : lastCell l a = none := by
  induction l with
  | nil => rfl
  | cons c r ih =>
    obtain ⟨k, b⟩ := c
    have := h (k, b) (by simp)
    simp [lastCell, ih (fun c hc => h c (List.mem_cons_of_mem _ hc))]
    exact this

theorem Memory.read_writeCells_out {m : Memory} (h : m.wf = true) {l : List (Nat × Byte)} {a : Nat}
    (ha : ∀ c ∈ l, c.1 ≠ a) : (m.writeCells l).read a = m.read a := by
  rw [Memory.read_writeCells h, lastCell_none ha]; rfl

end Sys2Proof.Machine
end

