-- ==== Sys2Proof/Laws/Notify.lean ====
section
/-! SUPPORT. Notification records and the counting of accesses: what they change, and that no byte outside the ring
is among it; and the settling of fences. -/

namespace Sys2Proof.Machine

/-! ## Notification records -/

theorem length_toBytes (n x : Nat) : (toBytes n x).length = n := by
  induction n generalizing x with
  | zero => rfl
  | succ n ih => simp [toBytes, ih]

theorem length_pageNote (type die asid count va pa : Nat) : (pageNote type die asid count va pa).length = 32 := by
  simp [pageNote, length_toBytes]

theorem length_eventNote (type die asid x : Nat) : (eventNote type die asid x).length = 32 := by
  simp [eventNote, length_toBytes]

theorem mem_cellsAt {a : Nat} {bs : List Byte} {c : Nat × Byte} (h : c ∈ cellsAt a bs) : a ≤ c.1 ∧ c.1 < a + bs.length := by
  induction bs generalizing a with
  | nil => cases h
  | cons b r ih =>
    rcases List.mem_cons.1 h with rfl | h
    · simp
    · have := ih h; simp only [List.length_cons]; omega

theorem Counted.refl (s : State) : Counted s s := ⟨rfl, rfl, fun _ _ _ => rfl, id⟩

/-- The names of bytes rest on the windows alone, which the counting of accesses leaves. -/
theorem canon_counted {r t : State} (h : Counted r t) (a : Nat) : canon t a = canon r a := by
  unfold canon windowAt
  rw [h.part]

/-- Below 2^40 there is no window: every address is its own name (R404). -/
theorem canon_low {s : State} {a : Nat} (h : a < 2 ^ 40) : canon s a = a := by
  have o : outside a = false := by simp only [outside, decide_eq_false_iff_not]; omega
  simp [canon, o]

theorem namedCells_low {s : State} {a : Nat} {bs : List Byte} (h : a + bs.length ≤ 2 ^ 40) : namedCells s a bs = cellsAt a bs := by
  unfold namedCells
  refine (List.map_congr_left fun c hc => ?_).trans (List.map_id _)
  have := mem_cellsAt hc
  rw [canon_low (by omega)]
  rfl

theorem Counted.trans {r t u : State} (h : Counted r t) (h' : Counted t u) : Counted r u := by
  have hring : ∀ a, OutsideRing r a → OutsideRing t a := by
    intro a ha p hl hu
    rw [canon_counted h]
    rw [h.part] at hl hu
    exact ha p hl hu
  refine ⟨?_, ?_, ?_, fun hw => h'.canonical (h.canonical hw)⟩
  · rw [h'.outside, h.outside]
  · rw [h'.part, h.part]
  · intro hw a ha
    rw [h'.memory (h.canonical hw) a (hring a ha), h.memory hw a ha]

theorem post_counted {bs : List Byte} (hb : bs.length = 32) (s : State) : Counted s (post bs s) := by
  unfold post
  by_cases h0 : s.part.nqsize = 0#64
  · simp only [h0, if_true]
    split
    · exact ⟨rfl, rfl, fun _ _ _ => rfl, id⟩
    · exact ⟨rfl, rfl, fun _ _ _ => rfl, id⟩
  · simp only [h0, if_false]
    split
    · exact ⟨rfl, rfl, fun _ _ _ => rfl, id⟩
    · refine ⟨rfl, rfl, ?_, fun hw => Memory.writeCells_wf hw _⟩
      intro hw a ha
      refine Memory.read_writeCells_out hw ?_
      intro c hc hca
      obtain ⟨k, hk, rfl⟩ := List.mem_map.1 hc
      have hk := mem_cellsAt hk
      rw [hb] at hk
      have hpos : 0 < s.part.nqsize.toNat := by
        rcases Nat.eq_zero_or_pos s.part.nqsize.toNat with h | h
        · exact absurd (BitVec.eq_of_toNat_eq (by simpa using h)) h0
        · exact h
      have := Nat.mod_lt s.part.nqtail.toNat hpos
      exact ha k.1 (by omega) (by omega) hca

theorem updDie_counted (s : State) (d : Nat) (f : Die → Die) : Counted s (s.updDie d f) :=
  ⟨rfl, rfl, fun _ _ _ => rfl, id⟩

theorem countPage_counted (d asid page : Nat) (leaf : DWord × Nat) (s : State) : Counted s (countPage d asid page leaf s) := by
  unfold countPage
  extract_lets die old rest lim
  split
  · exact (updDie_counted s _ _).trans (post_counted (length_pageNote _ _ _ _ _ _) _)
  · exact updDie_counted s _ _

theorem foldl_counted {α : Type} (f : State → α → State) (h : ∀ s x, Counted s (f s x)) (l : List α) (s : State) :
    Counted s (l.foldl f s) := by
  induction l generalizing s with
  | nil => exact Counted.refl s
  | cons x r ih => exact (h s x).trans (ih _)

theorem countSegment_counted (d asid va : Nat) (leaf : Option (DWord × Nat)) (s : State) :
    Counted s (countSegment d asid va leaf s) := by
  unfold countSegment
  split
  · split
    · exact countPage_counted _ _ _ _ _
    · exact Counted.refl s
  · exact Counted.refl s

/-- The counting of accesses (R360). -/
theorem countAccesses_counted (core asid : Nat) (vas : List Nat) (s : State) : Counted s (countAccesses core asid vas s) :=
  foldl_counted _ (fun _ _ => countSegment_counted _ _ _ _ _) _ _

/-! ## Settling (R213, R244) -/

/-- Settling changes fences, the guards of early loads and the release stamps of commands, and nothing else. -/
theorem settle_outside (s : State) :
    settle s = { s with sq := settleSq s s.sq, squads := s.squads.map (settleSq s), cmds := (settle s).cmds } := rfl

theorem settleSq_eq (s : State) (q : Squad) :
    settleSq s q = { q with fences := (settleSq s q).fences, prods := (settleSq s q).prods } := rfl

theorem allSquads_settle (s : State) : (settle s).allSquads = s.allSquads.map (settleSq s) := by
  unfold State.allSquads
  show (if (settleSq s s.sq).status = .absent then _ else _) = _
  have : (settleSq s s.sq).status = s.sq.status := rfl
  rw [this]
  split <;> rfl

theorem findSq_settle (s : State) (k : SquadKey) : (settle s).findSq k = (s.findSq k).map (settleSq s) := by
  unfold State.findSq
  rw [allSquads_settle, List.find?_map]
  rfl

theorem getSq_settle {s : State} {k : SquadKey} {q : Squad} (h : s.findSq k = some q) : (settle s).getSq k = settleSq s q := by
  rw [State.getSq, findSq_settle, h]; rfl

end Sys2Proof.Machine
end

