-- ==== Sys2Proof/Laws/PerInstr.lean ====
section
/-! SUPPORT. Encoding loses nothing, instruction by instruction (R111 to R122). -/

namespace Sys2Proof

/-- A word instruction is one word, which decodes to it. -/
def Laws.Encoding.Statement (i : Instr) : Prop := Machine.isWord i = true → ∃ w, encode i = [w] ∧ decode w = .ok i

theorem field_split2 (n : BitVec 4) (k : BitVec 2) :
    (BitVec.ofBool false ++ n ++ k).extractLsb' 2 4 = n ∧ (BitVec.ofBool false ++ n ++ k).extractLsb' 0 2 = k
      ∧ (BitVec.ofBool false ++ n ++ k).getLsbD 6 = false := by revert n k; decide

theorem field_amo (p : BitVec 4) (g : BitVec 2) :
    (p ++ g).extractLsb' 2 4 = p ∧ (p ++ g).extractLsb' 0 2 = g := by revert p g; decide

theorem field_fence (k : BitVec 2) (g : BitVec 3) :
    (BitVec.ofBool false ++ k ++ g).extractLsb' 3 2 = k ∧ (BitVec.ofBool false ++ k ++ g).extractLsb' 0 3 = g
      ∧ (BitVec.ofBool false ++ k ++ g).getLsbD 5 = false := by revert k g; decide

theorem field_tmov (f : Bool) :
    (BitVec.ofBool false ++ BitVec.ofBool f).getLsbD 0 = f ∧ (BitVec.ofBool false ++ BitVec.ofBool f).getLsbD 1 = false := by
  revert f; decide

theorem field_movkh (i : BitVec 16) :
    (BitVec.ofBool false ++ i).extractLsb' 0 16 = i ∧ (BitVec.ofBool false ++ i).getLsbD 16 = false := by
  constructor
  · apply BitVec.eq_of_getLsbD_eq
    intro k hk
    simp only [BitVec.getLsbD_extractLsb', BitVec.getLsbD_append, BitVec.getLsbD_ofBool]
    interval_cases k <;> simp
  · rw [BitVec.getLsbD_append]
    simp

namespace Laws.Encoding

theorem nop (x0) : Statement (.nop x0) := fun _ => ⟨_, rfl, by
  unfold decode
  rw [fmtWS_field_24_7]
  show (if _ then _ else _) = _
  simp only [fmtWS_field_16_8, fmtWS_field_0_16, fmtWS_bit_31, and_self, if_true]⟩
theorem seg (x0) : Statement (.seg x0) := fun _ => ⟨_, rfl, by
  unfold decode
  rw [fmtWS_field_24_7]
  show (if _ then _ else _) = _
  simp only [fmtWS_field_0_16, fmtWS_field_16_8, fmtWS_bit_31, if_true]⟩
theorem nxt (x0 x1) : Statement (.nxt x0 x1) := fun _ => ⟨_, rfl, by
  unfold decode
  rw [fmtWB_field_24_7]
  show (if _ then _ else _) = _
  simp only [fmtWB_field_17_7, fmtWB_field_5_6, fmtWB_field_1_4, fmtWB_field_11_6, fmtWB_bit_0, fmtWB_bit_31, and_self, if_true]⟩
theorem nxtc (x0 x1 x2 x3 x4) : Statement (.nxtc x0 x1 x2 x3 x4) := fun _ => ⟨_, rfl, by
  unfold decode
  rw [fmtWB_field_24_7]
  show (if _ then _ else _) = _
  simp only [fmtWB_field_1_4, fmtWB_field_17_7, fmtWB_field_11_6, fmtWB_field_5_6, fmtWB_bit_31, fmtWB_bit_0, Opnd.ofCode_code, if_true]⟩
theorem nxti (x0 x1 x2) : Statement (.nxti x0 x1 x2) := fun _ => ⟨_, rfl, by
  unfold decode
  rw [fmtWB_field_24_7]
  show (if _ then _ else _) = _
  simp only [fmtWB_field_11_6, fmtWB_field_5_6, fmtWB_field_1_4, fmtWB_field_17_7, fmtWB_bit_31, fmtWB_bit_0, Opnd.ofCode_code, and_self, if_true]⟩
theorem deal : Statement .deal := fun _ => ⟨_, rfl, by
  unfold decode
  rw [fmtWS_field_24_7]
  show (if _ then _ else _) = _
  simp only [fmtWS_field_16_8, fmtWS_field_0_16, and_self, if_true]⟩
theorem fold (x0) : Statement (.fold x0) := fun _ => ⟨_, rfl, by
  unfold decode
  rw [fmtWS_field_24_7]
  show (if _ then _ else _) = _
  simp only [fmtWS_field_16_8, fmtWS_field_0_16, fmtWS_bit_31, and_self, if_true]⟩
theorem call (x0 x1) : Statement (.call x0 x1) := fun _ => ⟨_, rfl, by
  unfold decode
  rw [fmtWK_field_24_7]
  show (if _ then _ else _) = _
  simp only [fmtWK_field_17_7, fmtWK_field_0_17, fmtWK_bit_31, if_true]⟩
theorem callp (x0 x1 x2) : Statement (.callp x0 x1 x2) := fun _ => ⟨_, rfl, by
  unfold decode
  rw [fmtWK_field_24_7]
  show Except.ok _ = _
  simp only [fmtWK_field_17_7, fmtWK_field_0_17, fmtWK_bit_31, Opnd.ofCode_code]⟩
theorem ret (x0) : Statement (.ret x0) := fun _ => ⟨_, rfl, by
  unfold decode
  rw [fmtWS_field_24_7]
  show (if _ then _ else _) = _
  simp only [fmtWS_field_16_8, fmtWS_field_0_16, fmtWS_bit_31, and_self, if_true]⟩
theorem trap (x0 x1) : Statement (.trap x0 x1) := fun _ => ⟨_, rfl, by
  unfold decode
  rw [fmtWK_field_24_7]
  show (if _ then _ else _) = _
  simp only [fmtWK_field_17_7, fmtWK_field_0_17, fmtWK_bit_31, if_true]⟩
theorem eret (x0 x1) : Statement (.eret x0 x1) := fun _ => ⟨_, rfl, by
  unfold decode
  rw [fmtWB_field_24_7]
  show (if _ then _ else _) = _
  simp only [fmtWB_field_17_7, fmtWB_field_11_6, fmtWB_field_5_6, fmtWB_field_1_4, fmtWB_bit_0, fmtWB_bit_31, and_self, if_true]⟩
theorem brk (x0 x1) : Statement (.brk x0 x1) := fun _ => ⟨_, rfl, by
  unfold decode
  rw [fmtWK_field_24_7]
  show (if _ then _ else _) = _
  simp only [fmtWK_field_17_7, fmtWK_field_0_17, fmtWK_bit_31, if_true]⟩
theorem emset (x0 x1 x2) : Statement (.emset x0 x1 x2) := fun _ => ⟨_, rfl, by
  unfold decode
  rw [fmtW3_field_24_7]
  show (if _ then _ else _) = _
  simp only [fmtW3_field_17_7, fmtW3_field_3_7, fmtW3_field_10_7, fmtW3_bit_1, fmtW3_bit_0, fmtW3_bit_31, fmtW3_bit_2, Opnd.ofCode_code, and_self, if_true]⟩
theorem emget (x0 x1 x2) : Statement (.emget x0 x1 x2) := fun _ => ⟨_, rfl, by
  unfold decode
  rw [fmtW3_field_24_7]
  show (if _ then _ else _) = _
  simp only [fmtW3_field_10_7, fmtW3_field_3_7, fmtW3_field_17_7, fmtW3_bit_2, fmtW3_bit_1, fmtW3_bit_31, fmtW3_bit_0, Opnd.ofCode_code, and_self, if_true]⟩
theorem yield (x0) : Statement (.yield x0) := fun _ => ⟨_, rfl, by
  unfold decode
  rw [fmtWS_field_24_7]
  show (if _ then _ else _) = _
  simp only [fmtWS_field_16_8, fmtWS_field_0_16, fmtWS_bit_31, and_self, if_true]⟩
theorem iadd (x0 x1 x2 x3 x4 x5 x6) : Statement (.iadd x0 x1 x2 x3 x4 x5 x6) := fun _ => ⟨_, rfl, by
  unfold decode
  rw [fmtW3_field_24_7]
  show Except.ok _ = _
  simp only [fmtW3_field_17_7, fmtW3_field_10_7, fmtW3_field_3_7, fmtW3_bit_31, fmtW3_bit_2, fmtW3_bit_1, fmtW3_bit_0, Opnd.ofCode_code]⟩
theorem isub (x0 x1 x2 x3 x4 x5 x6) : Statement (.isub x0 x1 x2 x3 x4 x5 x6) := fun _ => ⟨_, rfl, by
  unfold decode
  rw [fmtW3_field_24_7]
  show Except.ok _ = _
  simp only [fmtW3_field_17_7, fmtW3_field_10_7, fmtW3_field_3_7, fmtW3_bit_31, fmtW3_bit_2, fmtW3_bit_1, fmtW3_bit_0, Opnd.ofCode_code]⟩
theorem imul (x0 x1 x2 x3 x4 x5 x6) : Statement (.imul x0 x1 x2 x3 x4 x5 x6) := fun _ => ⟨_, rfl, by
  unfold decode
  rw [fmtW3_field_24_7]
  show Except.ok _ = _
  simp only [fmtW3_field_17_7, fmtW3_field_10_7, fmtW3_field_3_7, fmtW3_bit_31, fmtW3_bit_2, fmtW3_bit_1, fmtW3_bit_0, Opnd.ofCode_code]⟩
theorem imulh (x0 x1 x2 x3 x4 x5 x6) : Statement (.imulh x0 x1 x2 x3 x4 x5 x6) := fun _ => ⟨_, rfl, by
  unfold decode
  rw [fmtW3_field_24_7]
  show Except.ok _ = _
  simp only [fmtW3_field_17_7, fmtW3_field_10_7, fmtW3_field_3_7, fmtW3_bit_31, fmtW3_bit_2, fmtW3_bit_1, fmtW3_bit_0, Opnd.ofCode_code]⟩
theorem imad (x0 x1 x2 x3 x4 x5 x6) : Statement (.imad x0 x1 x2 x3 x4 x5 x6) := fun _ => ⟨_, rfl, by
  unfold decode
  rw [fmtW3_field_24_7]
  show Except.ok _ = _
  simp only [fmtW3_field_17_7, fmtW3_field_10_7, fmtW3_field_3_7, fmtW3_bit_31, fmtW3_bit_2, fmtW3_bit_1, fmtW3_bit_0, Opnd.ofCode_code]⟩
theorem imin (x0 x1 x2 x3 x4 x5 x6) : Statement (.imin x0 x1 x2 x3 x4 x5 x6) := fun _ => ⟨_, rfl, by
  unfold decode
  rw [fmtW3_field_24_7]
  show Except.ok _ = _
  simp only [fmtW3_field_17_7, fmtW3_field_10_7, fmtW3_field_3_7, fmtW3_bit_31, fmtW3_bit_2, fmtW3_bit_1, fmtW3_bit_0, Opnd.ofCode_code]⟩
theorem imax (x0 x1 x2 x3 x4 x5 x6) : Statement (.imax x0 x1 x2 x3 x4 x5 x6) := fun _ => ⟨_, rfl, by
  unfold decode
  rw [fmtW3_field_24_7]
  show Except.ok _ = _
  simp only [fmtW3_field_17_7, fmtW3_field_10_7, fmtW3_field_3_7, fmtW3_bit_31, fmtW3_bit_2, fmtW3_bit_1, fmtW3_bit_0, Opnd.ofCode_code]⟩
theorem iabs (x0 x1 x2 x3 x4) : Statement (.iabs x0 x1 x2 x3 x4) := fun _ => ⟨_, rfl, by
  unfold decode
  rw [fmtW3_field_24_7]
  show (if _ then _ else _) = _
  simp only [fmtW3_field_3_7, fmtW3_field_17_7, fmtW3_field_10_7, fmtW3_bit_1, fmtW3_bit_31, fmtW3_bit_2, fmtW3_bit_0, Opnd.ofCode_code, and_self, if_true]⟩
theorem and (x0 x1 x2 x3 x4 x5) : Statement (.and x0 x1 x2 x3 x4 x5) := fun _ => ⟨_, rfl, by
  unfold decode
  rw [fmtW3_field_24_7]
  show (if _ then _ else _) = _
  simp only [fmtW3_field_17_7, fmtW3_field_10_7, fmtW3_field_3_7, fmtW3_bit_0, fmtW3_bit_31, fmtW3_bit_2, fmtW3_bit_1, Opnd.ofCode_code, if_true]⟩
theorem or (x0 x1 x2 x3 x4 x5) : Statement (.or x0 x1 x2 x3 x4 x5) := fun _ => ⟨_, rfl, by
  unfold decode
  rw [fmtW3_field_24_7]
  show (if _ then _ else _) = _
  simp only [fmtW3_field_17_7, fmtW3_field_10_7, fmtW3_field_3_7, fmtW3_bit_0, fmtW3_bit_31, fmtW3_bit_2, fmtW3_bit_1, Opnd.ofCode_code, if_true]⟩
theorem xor (x0 x1 x2 x3 x4 x5) : Statement (.xor x0 x1 x2 x3 x4 x5) := fun _ => ⟨_, rfl, by
  unfold decode
  rw [fmtW3_field_24_7]
  show (if _ then _ else _) = _
  simp only [fmtW3_field_17_7, fmtW3_field_10_7, fmtW3_field_3_7, fmtW3_bit_0, fmtW3_bit_31, fmtW3_bit_2, fmtW3_bit_1, Opnd.ofCode_code, if_true]⟩
theorem shl (x0 x1 x2 x3 x4 x5 x6) : Statement (.shl x0 x1 x2 x3 x4 x5 x6) := fun _ => ⟨_, rfl, by
  unfold decode
  rw [fmtW3_field_24_7]
  show Except.ok _ = _
  simp only [fmtW3_field_17_7, fmtW3_field_10_7, fmtW3_field_3_7, fmtW3_bit_31, fmtW3_bit_2, fmtW3_bit_1, fmtW3_bit_0, Opnd.ofCode_code]⟩
theorem shr (x0 x1 x2 x3 x4 x5) : Statement (.shr x0 x1 x2 x3 x4 x5) := fun _ => ⟨_, rfl, by
  unfold decode
  rw [fmtW3_field_24_7]
  show (if _ then _ else _) = _
  simp only [fmtW3_field_17_7, fmtW3_field_10_7, fmtW3_field_3_7, fmtW3_bit_0, fmtW3_bit_31, fmtW3_bit_2, fmtW3_bit_1, Opnd.ofCode_code, if_true]⟩
theorem sar (x0 x1 x2 x3 x4 x5) : Statement (.sar x0 x1 x2 x3 x4 x5) := fun _ => ⟨_, rfl, by
  unfold decode
  rw [fmtW3_field_24_7]
  show (if _ then _ else _) = _
  simp only [fmtW3_field_17_7, fmtW3_field_10_7, fmtW3_field_3_7, fmtW3_bit_0, fmtW3_bit_31, fmtW3_bit_2, fmtW3_bit_1, Opnd.ofCode_code, if_true]⟩
theorem iaddmin (x0 x1 x2 x3 x4 x5) : Statement (.iaddmin x0 x1 x2 x3 x4 x5) := fun _ => ⟨_, rfl, by
  unfold decode
  rw [fmtW3_field_24_7]
  show (if _ then _ else _) = _
  simp only [fmtW3_field_17_7, fmtW3_field_10_7, fmtW3_field_3_7, fmtW3_bit_0, fmtW3_bit_31, fmtW3_bit_2, fmtW3_bit_1, Opnd.ofCode_code, if_true]⟩
theorem cmov (x0 x1 x2 x3 x4 x5) : Statement (.cmov x0 x1 x2 x3 x4 x5) := fun _ => ⟨_, rfl, by
  unfold decode
  rw [fmtW3_field_24_7]
  show (if _ then _ else _) = _
  simp only [fmtW3_field_17_7, fmtW3_field_10_7, fmtW3_field_3_7, fmtW3_bit_0, fmtW3_bit_31, fmtW3_bit_2, fmtW3_bit_1, Opnd.ofCode_code, if_true]⟩
theorem iceq (x0 x1 x2 x3 x4 x5) : Statement (.iceq x0 x1 x2 x3 x4 x5) := fun _ => ⟨_, rfl, by
  unfold decode
  rw [fmtW3_field_24_7]
  show (if _ then _ else _) = _
  simp only [fmtW3_field_17_7, fmtW3_field_10_7, fmtW3_field_3_7, fmtW3_bit_0, fmtW3_bit_31, fmtW3_bit_2, fmtW3_bit_1, Opnd.ofCode_code, if_true]⟩
theorem icne (x0 x1 x2 x3 x4 x5) : Statement (.icne x0 x1 x2 x3 x4 x5) := fun _ => ⟨_, rfl, by
  unfold decode
  rw [fmtW3_field_24_7]
  show (if _ then _ else _) = _
  simp only [fmtW3_field_17_7, fmtW3_field_10_7, fmtW3_field_3_7, fmtW3_bit_0, fmtW3_bit_31, fmtW3_bit_2, fmtW3_bit_1, Opnd.ofCode_code, if_true]⟩
theorem iclt (x0 x1 x2 x3 x4 x5) : Statement (.iclt x0 x1 x2 x3 x4 x5) := fun _ => ⟨_, rfl, by
  unfold decode
  rw [fmtW3_field_24_7]
  show (if _ then _ else _) = _
  simp only [fmtW3_field_17_7, fmtW3_field_10_7, fmtW3_field_3_7, fmtW3_bit_0, fmtW3_bit_31, fmtW3_bit_2, fmtW3_bit_1, Opnd.ofCode_code, if_true]⟩
theorem icle (x0 x1 x2 x3 x4 x5) : Statement (.icle x0 x1 x2 x3 x4 x5) := fun _ => ⟨_, rfl, by
  unfold decode
  rw [fmtW3_field_24_7]
  show (if _ then _ else _) = _
  simp only [fmtW3_field_17_7, fmtW3_field_10_7, fmtW3_field_3_7, fmtW3_bit_0, fmtW3_bit_31, fmtW3_bit_2, fmtW3_bit_1, Opnd.ofCode_code, if_true]⟩
theorem icltu (x0 x1 x2 x3 x4 x5) : Statement (.icltu x0 x1 x2 x3 x4 x5) := fun _ => ⟨_, rfl, by
  unfold decode
  rw [fmtW3_field_24_7]
  show (if _ then _ else _) = _
  simp only [fmtW3_field_17_7, fmtW3_field_10_7, fmtW3_field_3_7, fmtW3_bit_0, fmtW3_bit_31, fmtW3_bit_2, fmtW3_bit_1, Opnd.ofCode_code, if_true]⟩
theorem icleu (x0 x1 x2 x3 x4 x5) : Statement (.icleu x0 x1 x2 x3 x4 x5) := fun _ => ⟨_, rfl, by
  unfold decode
  rw [fmtW3_field_24_7]
  show (if _ then _ else _) = _
  simp only [fmtW3_field_17_7, fmtW3_field_10_7, fmtW3_field_3_7, fmtW3_bit_0, fmtW3_bit_31, fmtW3_bit_2, fmtW3_bit_1, Opnd.ofCode_code, if_true]⟩
theorem popc (x0 x1 x2 x3) : Statement (.popc x0 x1 x2 x3) := fun _ => ⟨_, rfl, by
  unfold decode
  rw [fmtW3_field_24_7]
  show (if _ then _ else _) = _
  simp only [fmtW3_field_3_7, fmtW3_field_17_7, fmtW3_field_10_7, fmtW3_bit_1, fmtW3_bit_0, fmtW3_bit_31, fmtW3_bit_2, Opnd.ofCode_code, and_self, if_true]⟩
theorem clz (x0 x1 x2 x3) : Statement (.clz x0 x1 x2 x3) := fun _ => ⟨_, rfl, by
  unfold decode
  rw [fmtW3_field_24_7]
  show (if _ then _ else _) = _
  simp only [fmtW3_field_3_7, fmtW3_field_17_7, fmtW3_field_10_7, fmtW3_bit_1, fmtW3_bit_0, fmtW3_bit_31, fmtW3_bit_2, Opnd.ofCode_code, and_self, if_true]⟩
theorem brev (x0 x1 x2 x3) : Statement (.brev x0 x1 x2 x3) := fun _ => ⟨_, rfl, by
  unfold decode
  rw [fmtW3_field_24_7]
  show (if _ then _ else _) = _
  simp only [fmtW3_field_3_7, fmtW3_field_17_7, fmtW3_field_10_7, fmtW3_bit_1, fmtW3_bit_0, fmtW3_bit_31, fmtW3_bit_2, Opnd.ofCode_code, and_self, if_true]⟩
theorem bfx (x0 x1 x2 x3 x4 x5 x6) : Statement (.bfx x0 x1 x2 x3 x4 x5 x6) := fun _ => ⟨_, rfl, by
  unfold decode
  rw [fmtW3_field_24_7]
  show Except.ok _ = _
  simp only [fmtW3_field_17_7, fmtW3_field_10_7, fmtW3_field_3_7, fmtW3_bit_31, fmtW3_bit_2, fmtW3_bit_1, fmtW3_bit_0, Opnd.ofCode_code]⟩
theorem bfi (x0 x1 x2 x3 x4 x5) : Statement (.bfi x0 x1 x2 x3 x4 x5) := fun _ => ⟨_, rfl, by
  unfold decode
  rw [fmtW3_field_24_7]
  show (if _ then _ else _) = _
  simp only [fmtW3_field_17_7, fmtW3_field_10_7, fmtW3_field_3_7, fmtW3_bit_0, fmtW3_bit_31, fmtW3_bit_2, fmtW3_bit_1, Opnd.ofCode_code, if_true]⟩
theorem idiv (x0 x1 x2 x3 x4 x5 x6) : Statement (.idiv x0 x1 x2 x3 x4 x5 x6) := fun _ => ⟨_, rfl, by
  unfold decode
  rw [fmtW3_field_24_7]
  show Except.ok _ = _
  simp only [fmtW3_field_17_7, fmtW3_field_10_7, fmtW3_field_3_7, fmtW3_bit_31, fmtW3_bit_2, fmtW3_bit_1, fmtW3_bit_0, Opnd.ofCode_code]⟩
theorem irem (x0 x1 x2 x3 x4 x5 x6) : Statement (.irem x0 x1 x2 x3 x4 x5 x6) := fun _ => ⟨_, rfl, by
  unfold decode
  rw [fmtW3_field_24_7]
  show Except.ok _ = _
  simp only [fmtW3_field_17_7, fmtW3_field_10_7, fmtW3_field_3_7, fmtW3_bit_31, fmtW3_bit_2, fmtW3_bit_1, fmtW3_bit_0, Opnd.ofCode_code]⟩
theorem aget (x0 x1 x2 x3 x4) : Statement (.aget x0 x1 x2 x3 x4) := fun _ => ⟨_, rfl, by
  unfold decode
  rw [fmtW3_field_24_7]
  show (if _ then _ else _) = _
  simp only [fmtW3_field_3_7, fmtW3_field_17_7, fmtW3_field_10_7, fmtW3_bit_1, fmtW3_bit_31, fmtW3_bit_2, fmtW3_bit_0, Opnd.ofCode_code, and_self, if_true]⟩
theorem rget (x0 x1 x2 x3 x4 x5) : Statement (.rget x0 x1 x2 x3 x4 x5) := fun _ => ⟨_, rfl, by
  unfold decode
  rw [fmtW3_field_24_7]
  show (if _ then _ else _) = _
  simp only [fmtW3_field_17_7, fmtW3_field_10_7, fmtW3_field_3_7, fmtW3_bit_0, fmtW3_bit_31, fmtW3_bit_2, fmtW3_bit_1, Opnd.ofCode_code, if_true]⟩
theorem rput (x0 x1 x2 x3 x4) : Statement (.rput x0 x1 x2 x3 x4) := fun _ => ⟨_, rfl, by
  unfold decode
  rw [fmtW3_field_24_7]
  show (if _ then _ else _) = _
  simp only [fmtW3_field_17_7, fmtW3_field_10_7, fmtW3_field_3_7, fmtW3_bit_2, fmtW3_bit_0, fmtW3_bit_31, fmtW3_bit_1, Opnd.ofCode_code, and_self, if_true]⟩
theorem iaddi (x0 x1 x2 x3) : Statement (.iaddi x0 x1 x2 x3) := fun _ => ⟨_, rfl, by
  unfold decode
  rw [fmtWI_field_24_7]
  show Except.ok _ = _
  simp only [fmtWI_field_17_7, fmtWI_field_10_7, fmtWI_field_0_10, fmtWI_bit_31, Opnd.ofCode_code]⟩
theorem andi (x0 x1 x2 x3) : Statement (.andi x0 x1 x2 x3) := fun _ => ⟨_, rfl, by
  unfold decode
  rw [fmtWI_field_24_7]
  show Except.ok _ = _
  simp only [fmtWI_field_17_7, fmtWI_field_10_7, fmtWI_field_0_10, fmtWI_bit_31, Opnd.ofCode_code]⟩
theorem ori (x0 x1 x2 x3) : Statement (.ori x0 x1 x2 x3) := fun _ => ⟨_, rfl, by
  unfold decode
  rw [fmtWI_field_24_7]
  show Except.ok _ = _
  simp only [fmtWI_field_17_7, fmtWI_field_10_7, fmtWI_field_0_10, fmtWI_bit_31, Opnd.ofCode_code]⟩
theorem xori (x0 x1 x2 x3) : Statement (.xori x0 x1 x2 x3) := fun _ => ⟨_, rfl, by
  unfold decode
  rw [fmtWI_field_24_7]
  show Except.ok _ = _
  simp only [fmtWI_field_17_7, fmtWI_field_10_7, fmtWI_field_0_10, fmtWI_bit_31, Opnd.ofCode_code]⟩
theorem shli (x0 x1 x2 x3) : Statement (.shli x0 x1 x2 x3) := fun _ => ⟨_, rfl, by
  unfold decode
  rw [fmtWI_field_24_7]
  show Except.ok _ = _
  simp only [fmtWI_field_17_7, fmtWI_field_10_7, fmtWI_field_0_10, fmtWI_bit_31, Opnd.ofCode_code]⟩
theorem shri (x0 x1 x2 x3) : Statement (.shri x0 x1 x2 x3) := fun _ => ⟨_, rfl, by
  unfold decode
  rw [fmtWI_field_24_7]
  show Except.ok _ = _
  simp only [fmtWI_field_17_7, fmtWI_field_10_7, fmtWI_field_0_10, fmtWI_bit_31, Opnd.ofCode_code]⟩
theorem sari (x0 x1 x2 x3) : Statement (.sari x0 x1 x2 x3) := fun _ => ⟨_, rfl, by
  unfold decode
  rw [fmtWI_field_24_7]
  show Except.ok _ = _
  simp only [fmtWI_field_17_7, fmtWI_field_10_7, fmtWI_field_0_10, fmtWI_bit_31, Opnd.ofCode_code]⟩
theorem iceqi (x0 x1 x2 x3) : Statement (.iceqi x0 x1 x2 x3) := fun _ => ⟨_, rfl, by
  unfold decode
  rw [fmtWI_field_24_7]
  show Except.ok _ = _
  simp only [fmtWI_field_17_7, fmtWI_field_10_7, fmtWI_field_0_10, fmtWI_bit_31, Opnd.ofCode_code]⟩
theorem iclti (x0 x1 x2 x3) : Statement (.iclti x0 x1 x2 x3) := fun _ => ⟨_, rfl, by
  unfold decode
  rw [fmtWI_field_24_7]
  show Except.ok _ = _
  simp only [fmtWI_field_17_7, fmtWI_field_10_7, fmtWI_field_0_10, fmtWI_bit_31, Opnd.ofCode_code]⟩
theorem icltui (x0 x1 x2 x3) : Statement (.icltui x0 x1 x2 x3) := fun _ => ⟨_, rfl, by
  unfold decode
  rw [fmtWI_field_24_7]
  show Except.ok _ = _
  simp only [fmtWI_field_17_7, fmtWI_field_10_7, fmtWI_field_0_10, fmtWI_bit_31, Opnd.ofCode_code]⟩
theorem movk (x0 x1 x2) : Statement (.movk x0 x1 x2) := fun _ => ⟨_, rfl, by
  unfold decode
  rw [fmtWK_field_24_7]
  show Except.ok _ = _
  simp only [fmtWK_field_17_7, fmtWK_field_0_17, fmtWK_bit_31, Opnd.ofCode_code]⟩
theorem movkh (x0 x1 x2) : Statement (.movkh x0 x1 x2) := fun _ => ⟨_, rfl, by
  unfold decode
  rw [fmtWK_field_24_7]
  show (if _ then _ else _) = _
  simp only [fmtWK_field_17_7, fmtWK_field_0_16, fmtWK_bit_16, fmtWK_bit_31, Opnd.ofCode_code, field_movkh, if_true]⟩
theorem prom (x0 x1 x2 x3 x4 x5 x6) : Statement (.prom x0 x1 x2 x3 x4 x5 x6) := fun _ => ⟨_, rfl, by
  unfold decode
  rw [fmtW3_field_24_7]
  show Except.ok _ = _
  simp only [fmtW3_field_17_7, fmtW3_field_10_7, fmtW3_field_3_7, fmtW3_bit_31, fmtW3_bit_2, fmtW3_bit_1, fmtW3_bit_0, Opnd.ofCode_code]⟩
theorem demu (x0 x1 x2 x3 x4) : Statement (.demu x0 x1 x2 x3 x4) := fun _ => ⟨_, rfl, by
  unfold decode
  rw [fmtW3_field_24_7]
  show (if _ then _ else _) = _
  simp only [fmtW3_field_3_7, fmtW3_field_17_7, fmtW3_field_10_7, fmtW3_bit_1, fmtW3_bit_31, fmtW3_bit_2, fmtW3_bit_0, Opnd.ofCode_code, and_self, if_true]⟩
theorem uniq (x0 x1 x2 x3 x4 x5) : Statement (.uniq x0 x1 x2 x3 x4 x5) := fun _ => ⟨_, rfl, by
  unfold decode
  rw [fmtW3_field_24_7]
  show (if _ then _ else _) = _
  simp only [fmtW3_field_17_7, fmtW3_field_10_7, fmtW3_field_3_7, fmtW3_bit_0, fmtW3_bit_31, fmtW3_bit_2, fmtW3_bit_1, Opnd.ofCode_code, if_true]⟩
theorem sete (x0 x1 x2) : Statement (.sete x0 x1 x2) := fun _ => ⟨_, rfl, by
  unfold decode
  rw [fmtW3_field_24_7]
  show (if _ then _ else _) = _
  simp only [fmtW3_field_10_7, fmtW3_field_3_7, fmtW3_field_17_7, fmtW3_bit_2, fmtW3_bit_1, fmtW3_bit_31, fmtW3_bit_0, Opnd.ofCode_code, and_self, if_true]⟩
theorem fadd (x0 x1 x2 x3 x4 x5) : Statement (.fadd x0 x1 x2 x3 x4 x5) := fun _ => ⟨_, rfl, by
  unfold decode
  rw [fmtW3_field_24_7]
  show (if _ then _ else _) = _
  simp only [fmtW3_field_17_7, fmtW3_field_10_7, fmtW3_field_3_7, fmtW3_bit_0, fmtW3_bit_31, fmtW3_bit_2, fmtW3_bit_1, Opnd.ofCode_code, if_true]⟩
theorem fsub (x0 x1 x2 x3 x4 x5) : Statement (.fsub x0 x1 x2 x3 x4 x5) := fun _ => ⟨_, rfl, by
  unfold decode
  rw [fmtW3_field_24_7]
  show (if _ then _ else _) = _
  simp only [fmtW3_field_17_7, fmtW3_field_10_7, fmtW3_field_3_7, fmtW3_bit_0, fmtW3_bit_31, fmtW3_bit_2, fmtW3_bit_1, Opnd.ofCode_code, if_true]⟩
theorem fmul (x0 x1 x2 x3 x4 x5) : Statement (.fmul x0 x1 x2 x3 x4 x5) := fun _ => ⟨_, rfl, by
  unfold decode
  rw [fmtW3_field_24_7]
  show (if _ then _ else _) = _
  simp only [fmtW3_field_17_7, fmtW3_field_10_7, fmtW3_field_3_7, fmtW3_bit_0, fmtW3_bit_31, fmtW3_bit_2, fmtW3_bit_1, Opnd.ofCode_code, if_true]⟩
theorem ffma (x0 x1 x2 x3 x4 x5 x6) : Statement (.ffma x0 x1 x2 x3 x4 x5 x6) := fun _ => ⟨_, rfl, by
  unfold decode
  rw [fmtW3_field_24_7]
  show Except.ok _ = _
  simp only [fmtW3_field_17_7, fmtW3_field_10_7, fmtW3_field_3_7, fmtW3_bit_31, fmtW3_bit_2, fmtW3_bit_1, fmtW3_bit_0, Opnd.ofCode_code]⟩
theorem fmin (x0 x1 x2 x3 x4 x5) : Statement (.fmin x0 x1 x2 x3 x4 x5) := fun _ => ⟨_, rfl, by
  unfold decode
  rw [fmtW3_field_24_7]
  show (if _ then _ else _) = _
  simp only [fmtW3_field_17_7, fmtW3_field_10_7, fmtW3_field_3_7, fmtW3_bit_0, fmtW3_bit_31, fmtW3_bit_2, fmtW3_bit_1, Opnd.ofCode_code, if_true]⟩
theorem fmax (x0 x1 x2 x3 x4 x5) : Statement (.fmax x0 x1 x2 x3 x4 x5) := fun _ => ⟨_, rfl, by
  unfold decode
  rw [fmtW3_field_24_7]
  show (if _ then _ else _) = _
  simp only [fmtW3_field_17_7, fmtW3_field_10_7, fmtW3_field_3_7, fmtW3_bit_0, fmtW3_bit_31, fmtW3_bit_2, fmtW3_bit_1, Opnd.ofCode_code, if_true]⟩
theorem frcp (x0 x1 x2 x3) : Statement (.frcp x0 x1 x2 x3) := fun _ => ⟨_, rfl, by
  unfold decode
  rw [fmtW3_field_24_7]
  show (if _ then _ else _) = _
  simp only [fmtW3_field_3_7, fmtW3_field_17_7, fmtW3_field_10_7, fmtW3_bit_1, fmtW3_bit_0, fmtW3_bit_31, fmtW3_bit_2, Opnd.ofCode_code, and_self, if_true]⟩
theorem frsq (x0 x1 x2 x3) : Statement (.frsq x0 x1 x2 x3) := fun _ => ⟨_, rfl, by
  unfold decode
  rw [fmtW3_field_24_7]
  show (if _ then _ else _) = _
  simp only [fmtW3_field_3_7, fmtW3_field_17_7, fmtW3_field_10_7, fmtW3_bit_1, fmtW3_bit_0, fmtW3_bit_31, fmtW3_bit_2, Opnd.ofCode_code, and_self, if_true]⟩
theorem fsqrt (x0 x1 x2 x3) : Statement (.fsqrt x0 x1 x2 x3) := fun _ => ⟨_, rfl, by
  unfold decode
  rw [fmtW3_field_24_7]
  show (if _ then _ else _) = _
  simp only [fmtW3_field_3_7, fmtW3_field_17_7, fmtW3_field_10_7, fmtW3_bit_1, fmtW3_bit_0, fmtW3_bit_31, fmtW3_bit_2, Opnd.ofCode_code, and_self, if_true]⟩
theorem fexp2 (x0 x1 x2 x3) : Statement (.fexp2 x0 x1 x2 x3) := fun _ => ⟨_, rfl, by
  unfold decode
  rw [fmtW3_field_24_7]
  show (if _ then _ else _) = _
  simp only [fmtW3_field_3_7, fmtW3_field_17_7, fmtW3_field_10_7, fmtW3_bit_1, fmtW3_bit_0, fmtW3_bit_31, fmtW3_bit_2, Opnd.ofCode_code, and_self, if_true]⟩
theorem flog2 (x0 x1 x2 x3) : Statement (.flog2 x0 x1 x2 x3) := fun _ => ⟨_, rfl, by
  unfold decode
  rw [fmtW3_field_24_7]
  show (if _ then _ else _) = _
  simp only [fmtW3_field_3_7, fmtW3_field_17_7, fmtW3_field_10_7, fmtW3_bit_1, fmtW3_bit_0, fmtW3_bit_31, fmtW3_bit_2, Opnd.ofCode_code, and_self, if_true]⟩
theorem fceq (x0 x1 x2 x3 x4 x5) : Statement (.fceq x0 x1 x2 x3 x4 x5) := fun _ => ⟨_, rfl, by
  unfold decode
  rw [fmtW3_field_24_7]
  show (if _ then _ else _) = _
  simp only [fmtW3_field_17_7, fmtW3_field_10_7, fmtW3_field_3_7, fmtW3_bit_0, fmtW3_bit_31, fmtW3_bit_2, fmtW3_bit_1, Opnd.ofCode_code, if_true]⟩
theorem fclt (x0 x1 x2 x3 x4 x5) : Statement (.fclt x0 x1 x2 x3 x4 x5) := fun _ => ⟨_, rfl, by
  unfold decode
  rw [fmtW3_field_24_7]
  show (if _ then _ else _) = _
  simp only [fmtW3_field_17_7, fmtW3_field_10_7, fmtW3_field_3_7, fmtW3_bit_0, fmtW3_bit_31, fmtW3_bit_2, fmtW3_bit_1, Opnd.ofCode_code, if_true]⟩
theorem fcle (x0 x1 x2 x3 x4 x5) : Statement (.fcle x0 x1 x2 x3 x4 x5) := fun _ => ⟨_, rfl, by
  unfold decode
  rw [fmtW3_field_24_7]
  show (if _ then _ else _) = _
  simp only [fmtW3_field_17_7, fmtW3_field_10_7, fmtW3_field_3_7, fmtW3_bit_0, fmtW3_bit_31, fmtW3_bit_2, fmtW3_bit_1, Opnd.ofCode_code, if_true]⟩
theorem fclass (x0 x1 x2 x3) : Statement (.fclass x0 x1 x2 x3) := fun _ => ⟨_, rfl, by
  unfold decode
  rw [fmtW3_field_24_7]
  show (if _ then _ else _) = _
  simp only [fmtW3_field_3_7, fmtW3_field_17_7, fmtW3_field_10_7, fmtW3_bit_1, fmtW3_bit_0, fmtW3_bit_31, fmtW3_bit_2, Opnd.ofCode_code, and_self, if_true]⟩
theorem frnd (x0 x1 x2 x3 x4 x5) : Statement (.frnd x0 x1 x2 x3 x4 x5) := fun _ => ⟨_, rfl, by
  unfold decode
  rw [fmtW3_field_24_7]
  show (if _ then _ else _) = _
  simp only [fmtW3_field_17_7, fmtW3_field_10_7, fmtW3_field_3_7, fmtW3_bit_0, fmtW3_bit_31, fmtW3_bit_2, fmtW3_bit_1, Opnd.ofCode_code, if_true]⟩
theorem cvtfi (x0 x1 x2 x3 x4 x5 x6) : Statement (.cvtfi x0 x1 x2 x3 x4 x5 x6) := fun _ => ⟨_, rfl, by
  unfold decode
  rw [fmtW3_field_24_7]
  show Except.ok _ = _
  simp only [fmtW3_field_17_7, fmtW3_field_10_7, fmtW3_field_3_7, fmtW3_bit_31, fmtW3_bit_2, fmtW3_bit_1, fmtW3_bit_0, Opnd.ofCode_code]⟩
theorem cvtif (x0 x1 x2 x3 x4) : Statement (.cvtif x0 x1 x2 x3 x4) := fun _ => ⟨_, rfl, by
  unfold decode
  rw [fmtW3_field_24_7]
  show (if _ then _ else _) = _
  simp only [fmtW3_field_3_7, fmtW3_field_17_7, fmtW3_field_10_7, fmtW3_bit_1, fmtW3_bit_31, fmtW3_bit_2, fmtW3_bit_0, Opnd.ofCode_code, and_self, if_true]⟩
theorem cvtn (x0 x1 x2 x3 x4 x5) : Statement (.cvtn x0 x1 x2 x3 x4 x5) := fun _ => ⟨_, rfl, by
  unfold decode
  rw [fmtW3_field_24_7]
  show (if _ then _ else _) = _
  simp only [fmtW3_field_17_7, fmtW3_field_10_7, fmtW3_field_3_7, fmtW3_bit_0, fmtW3_bit_31, fmtW3_bit_2, fmtW3_bit_1, Opnd.ofCode_code, if_true]⟩
theorem cvtw (x0 x1 x2 x3 x4 x5) : Statement (.cvtw x0 x1 x2 x3 x4 x5) := fun _ => ⟨_, rfl, by
  unfold decode
  rw [fmtW3_field_24_7]
  show (if _ then _ else _) = _
  simp only [fmtW3_field_17_7, fmtW3_field_10_7, fmtW3_field_3_7, fmtW3_bit_0, fmtW3_bit_31, fmtW3_bit_2, fmtW3_bit_1, Opnd.ofCode_code, if_true]⟩
theorem cvth (x0 x1 x2 x3 x4 x5 x6) : Statement (.cvth x0 x1 x2 x3 x4 x5 x6) := fun _ => ⟨_, rfl, by
  unfold decode
  rw [fmtW3_field_24_7]
  show Except.ok _ = _
  simp only [fmtW3_field_17_7, fmtW3_field_10_7, fmtW3_field_3_7, fmtW3_bit_31, fmtW3_bit_2, fmtW3_bit_1, fmtW3_bit_0, Opnd.ofCode_code]⟩
theorem setfmt (x0 x1 x2) : Statement (.setfmt x0 x1 x2) := fun _ => ⟨_, rfl, by
  unfold decode
  rw [fmtW3_field_24_7]
  show (if _ then _ else _) = _
  simp only [fmtW3_field_17_7, fmtW3_field_3_7, fmtW3_field_10_7, fmtW3_bit_1, fmtW3_bit_0, fmtW3_bit_31, fmtW3_bit_2, Opnd.ofCode_code, and_self, if_true]⟩
theorem getfmt (x0 x1) : Statement (.getfmt x0 x1) := fun _ => ⟨_, rfl, by
  unfold decode
  rw [fmtW3_field_24_7]
  show (if _ then _ else _) = _
  simp only [fmtW3_field_10_7, fmtW3_field_3_7, fmtW3_field_17_7, fmtW3_bit_2, fmtW3_bit_1, fmtW3_bit_0, fmtW3_bit_31, Opnd.ofCode_code, and_self, if_true]⟩
theorem rand (x0 x1 x2 x3 x4 x5 x6) : Statement (.rand x0 x1 x2 x3 x4 x5 x6) := fun _ => ⟨_, rfl, by
  unfold decode
  rw [fmtW3_field_24_7]
  show Except.ok _ = _
  simp only [fmtW3_field_17_7, fmtW3_field_10_7, fmtW3_field_3_7, fmtW3_bit_31, fmtW3_bit_2, fmtW3_bit_1, fmtW3_bit_0, Opnd.ofCode_code]⟩
theorem shfl (x0 x1 x2 x3 x4 x5) : Statement (.shfl x0 x1 x2 x3 x4 x5) := fun _ => ⟨_, rfl, by
  unfold decode
  rw [fmtW3_field_24_7]
  show (if _ then _ else _) = _
  simp only [fmtW3_field_17_7, fmtW3_field_10_7, fmtW3_field_3_7, fmtW3_bit_0, fmtW3_bit_31, fmtW3_bit_2, fmtW3_bit_1, Opnd.ofCode_code, if_true]⟩
theorem shup (x0 x1 x2 x3 x4 x5) : Statement (.shup x0 x1 x2 x3 x4 x5) := fun _ => ⟨_, rfl, by
  unfold decode
  rw [fmtW3_field_24_7]
  show (if _ then _ else _) = _
  simp only [fmtW3_field_17_7, fmtW3_field_10_7, fmtW3_field_3_7, fmtW3_bit_0, fmtW3_bit_31, fmtW3_bit_2, fmtW3_bit_1, Opnd.ofCode_code, if_true]⟩
theorem shdn (x0 x1 x2 x3 x4 x5) : Statement (.shdn x0 x1 x2 x3 x4 x5) := fun _ => ⟨_, rfl, by
  unfold decode
  rw [fmtW3_field_24_7]
  show (if _ then _ else _) = _
  simp only [fmtW3_field_17_7, fmtW3_field_10_7, fmtW3_field_3_7, fmtW3_bit_0, fmtW3_bit_31, fmtW3_bit_2, fmtW3_bit_1, Opnd.ofCode_code, if_true]⟩
theorem bcast (x0 x1 x2 x3 x4 x5) : Statement (.bcast x0 x1 x2 x3 x4 x5) := fun _ => ⟨_, rfl, by
  unfold decode
  rw [fmtW3_field_24_7]
  show (if _ then _ else _) = _
  simp only [fmtW3_field_17_7, fmtW3_field_10_7, fmtW3_field_3_7, fmtW3_bit_0, fmtW3_bit_31, fmtW3_bit_2, fmtW3_bit_1, Opnd.ofCode_code, if_true]⟩
theorem vany (x0 x1 x2 x3) : Statement (.vany x0 x1 x2 x3) := fun _ => ⟨_, rfl, by
  unfold decode
  rw [fmtW3_field_24_7]
  show (if _ then _ else _) = _
  simp only [fmtW3_field_3_7, fmtW3_field_17_7, fmtW3_field_10_7, fmtW3_bit_1, fmtW3_bit_0, fmtW3_bit_31, fmtW3_bit_2, Opnd.ofCode_code, and_self, if_true]⟩
theorem vbal (x0 x1 x2 x3) : Statement (.vbal x0 x1 x2 x3) := fun _ => ⟨_, rfl, by
  unfold decode
  rw [fmtW3_field_24_7]
  show (if _ then _ else _) = _
  simp only [fmtW3_field_3_7, fmtW3_field_17_7, fmtW3_field_10_7, fmtW3_bit_1, fmtW3_bit_0, fmtW3_bit_31, fmtW3_bit_2, Opnd.ofCode_code, and_self, if_true]⟩
theorem rdadd (x0 x1 x2 x3 x4) : Statement (.rdadd x0 x1 x2 x3 x4) := fun _ => ⟨_, rfl, by
  unfold decode
  rw [fmtW3_field_24_7]
  show (if _ then _ else _) = _
  simp only [fmtW3_field_3_7, fmtW3_field_17_7, fmtW3_field_10_7, fmtW3_bit_1, fmtW3_bit_31, fmtW3_bit_2, fmtW3_bit_0, Opnd.ofCode_code, and_self, if_true]⟩
theorem rdmin (x0 x1 x2 x3 x4) : Statement (.rdmin x0 x1 x2 x3 x4) := fun _ => ⟨_, rfl, by
  unfold decode
  rw [fmtW3_field_24_7]
  show (if _ then _ else _) = _
  simp only [fmtW3_field_3_7, fmtW3_field_17_7, fmtW3_field_10_7, fmtW3_bit_1, fmtW3_bit_31, fmtW3_bit_2, fmtW3_bit_0, Opnd.ofCode_code, and_self, if_true]⟩
theorem ld (x0 x1 x2 x3 x4 x5 x6) : Statement (.ld x0 x1 x2 x3 x4 x5 x6) := fun _ => ⟨_, rfl, by
  unfold decode
  rw [fmtWM_field_24_7]
  show Except.ok _ = _
  simp only [fmtWM_field_17_7, fmtWM_field_10_7, fmtWM_field_8_2, fmtWM_field_0_6, fmtWM_bit_31, fmtWM_bit_7, fmtWM_bit_6, Opnd.ofCode_code]⟩
theorem ldsx (x0 x1 x2 x3 x4 x5 x6) : Statement (.ldsx x0 x1 x2 x3 x4 x5 x6) := fun _ => ⟨_, rfl, by
  unfold decode
  rw [fmtWM_field_24_7]
  show Except.ok _ = _
  simp only [fmtWM_field_17_7, fmtWM_field_10_7, fmtWM_field_8_2, fmtWM_field_0_6, fmtWM_bit_31, fmtWM_bit_7, fmtWM_bit_6, Opnd.ofCode_code]⟩
theorem st (x0 x1 x2 x3 x4 x5) : Statement (.st x0 x1 x2 x3 x4 x5) := fun _ => ⟨_, rfl, by
  unfold decode
  rw [fmtWM_field_24_7]
  show (if _ then _ else _) = _
  simp only [fmtWM_field_17_7, fmtWM_field_10_7, fmtWM_field_8_2, fmtWM_field_0_6, fmtWM_bit_7, fmtWM_bit_31, fmtWM_bit_6, Opnd.ofCode_code, if_true]⟩
theorem ldsc (x0 x1 x2 x3 x4 x5) : Statement (.ldsc x0 x1 x2 x3 x4 x5) := fun _ => ⟨_, rfl, by
  unfold decode
  rw [fmtWM_field_24_7]
  show (if _ then _ else _) = _
  simp only [fmtWM_field_17_7, fmtWM_field_10_7, fmtWM_field_8_2, fmtWM_field_0_6, fmtWM_bit_7, fmtWM_bit_31, fmtWM_bit_6, Opnd.ofCode_code, if_true]⟩
theorem stsc (x0 x1 x2 x3 x4 x5) : Statement (.stsc x0 x1 x2 x3 x4 x5) := fun _ => ⟨_, rfl, by
  unfold decode
  rw [fmtWM_field_24_7]
  show (if _ then _ else _) = _
  simp only [fmtWM_field_17_7, fmtWM_field_10_7, fmtWM_field_8_2, fmtWM_field_0_6, fmtWM_bit_7, fmtWM_bit_31, fmtWM_bit_6, Opnd.ofCode_code, if_true]⟩
theorem amo (x0 x1 x2 x3 x4 x5 x6) : Statement (.amo x0 x1 x2 x3 x4 x5 x6) := fun _ => ⟨_, rfl, by
  unfold decode
  rw [fmtWM_field_24_7]
  show (if _ then _ else _) = _
  simp only [fmtWM_field_17_7, fmtWM_field_10_7, fmtWM_field_8_2, fmtWM_field_2_4, fmtWM_field_0_2, fmtWM_bit_7, fmtWM_bit_31, fmtWM_bit_6, Opnd.ofCode_code, field_amo, if_true]⟩
theorem amor (x0 x1 x2 x3 x4 x5 x6) : Statement (.amor x0 x1 x2 x3 x4 x5 x6) := fun _ => ⟨_, rfl, by
  unfold decode
  rw [fmtWM_field_24_7]
  show (if _ then _ else _) = _
  simp only [fmtWM_field_17_7, fmtWM_field_10_7, fmtWM_field_8_2, fmtWM_field_2_4, fmtWM_field_0_2, fmtWM_bit_7, fmtWM_bit_31, fmtWM_bit_6, Opnd.ofCode_code, field_amo, if_true]⟩
theorem cas (x0 x1 x2 x3 x4 x5) : Statement (.cas x0 x1 x2 x3 x4 x5) := fun _ => ⟨_, rfl, by
  unfold decode
  rw [fmtWM_field_24_7]
  show (if _ then _ else _) = _
  simp only [fmtWM_field_2_4, fmtWM_field_17_7, fmtWM_field_10_7, fmtWM_field_8_2, fmtWM_field_0_2, fmtWM_bit_7, fmtWM_bit_31, fmtWM_bit_6, Opnd.ofCode_code, field_amo, and_self, if_true]⟩
theorem fence (x0 x1 x2) : Statement (.fence x0 x1 x2) := fun _ => ⟨_, rfl, by
  unfold decode
  rw [fmtWM_field_24_7]
  show (if _ then _ else _) = _
  simp only [fmtWM_field_17_7, fmtWM_field_10_7, fmtWM_field_8_2, fmtWM_field_3_2, fmtWM_field_0_3, fmtWM_bit_7, fmtWM_bit_6, fmtWM_bit_5, fmtWM_bit_31, field_fence, and_self, if_true]⟩
theorem ifence (x0) : Statement (.ifence x0) := fun _ => ⟨_, rfl, by
  unfold decode
  rw [fmtWS_field_24_7]
  show (if _ then _ else _) = _
  simp only [fmtWS_field_16_8, fmtWS_field_0_16, fmtWS_bit_31, and_self, if_true]⟩
theorem pf (x0 x1 x2 x3 x4 x5) : Statement (.pf x0 x1 x2 x3 x4 x5) := fun _ => ⟨_, rfl, by
  unfold decode
  rw [fmtWM_field_24_7]
  show (if _ then _ else _) = _
  simp only [fmtWM_field_17_7, fmtWM_field_10_7, fmtWM_field_8_2, fmtWM_field_0_6, fmtWM_bit_31, fmtWM_bit_7, fmtWM_bit_6, Opnd.ofCode_code, if_true]⟩
theorem l1inv (x0) : Statement (.l1inv x0) := fun _ => ⟨_, rfl, by
  unfold decode
  rw [fmtWS_field_24_7]
  show (if _ then _ else _) = _
  simp only [fmtWS_field_16_8, fmtWS_field_0_16, fmtWS_bit_31, and_self, if_true]⟩
theorem shtake (x0 x1 x2 x3) : Statement (.shtake x0 x1 x2 x3) := fun _ => ⟨_, rfl, by
  unfold decode
  rw [fmtW3_field_24_7]
  show (if _ then _ else _) = _
  simp only [fmtW3_field_3_7, fmtW3_field_17_7, fmtW3_field_10_7, fmtW3_bit_2, fmtW3_bit_1, fmtW3_bit_31, fmtW3_bit_0, Opnd.ofCode_code, and_self, if_true]⟩
theorem shput (x0 x1 x2 x3) : Statement (.shput x0 x1 x2 x3) := fun _ => ⟨_, rfl, by
  unfold decode
  rw [fmtW3_field_24_7]
  show (if _ then _ else _) = _
  simp only [fmtW3_field_17_7, fmtW3_field_10_7, fmtW3_field_3_7, fmtW3_bit_2, fmtW3_bit_1, fmtW3_bit_31, fmtW3_bit_0, Opnd.ofCode_code, and_self, if_true]⟩
theorem shqry (x0 x1 x2) : Statement (.shqry x0 x1 x2) := fun _ => ⟨_, rfl, by
  unfold decode
  rw [fmtW3_field_24_7]
  show (if _ then _ else _) = _
  simp only [fmtW3_field_3_7, fmtW3_field_17_7, fmtW3_field_10_7, fmtW3_bit_2, fmtW3_bit_1, fmtW3_bit_0, fmtW3_bit_31, Opnd.ofCode_code, and_self, if_true]⟩
theorem waite (x0 x1 x2) : Statement (.waite x0 x1 x2) := fun _ => ⟨_, rfl, by
  unfold decode
  rw [fmtW3_field_24_7]
  show (if _ then _ else _) = _
  simp only [fmtW3_field_17_7, fmtW3_field_10_7, fmtW3_field_3_7, fmtW3_bit_2, fmtW3_bit_1, fmtW3_bit_0, fmtW3_bit_31, Opnd.ofCode_code, and_self, if_true]⟩
theorem tld (x0 x1 x2 x3 x4 x5 x6 x7) : Statement (.tld x0 x1 x2 x3 x4 x5 x6 x7) := fun _ => ⟨_, rfl, by
  unfold decode
  rw [fmtWT_field_24_7]
  show Except.ok _ = _
  simp only [fmtWT_field_21_3, fmtWT_field_15_5, fmtWT_field_10_5, fmtWT_field_3_7, fmtWT_field_0_2, fmtWT_bit_31, fmtWT_bit_20, fmtWT_bit_2, Opnd.ofCode_code]⟩
theorem tst (x0 x1 x2 x3 x4 x5 x6 x7) : Statement (.tst x0 x1 x2 x3 x4 x5 x6 x7) := fun _ => ⟨_, rfl, by
  unfold decode
  rw [fmtWT_field_24_7]
  show Except.ok _ = _
  simp only [fmtWT_field_21_3, fmtWT_field_15_5, fmtWT_field_10_5, fmtWT_field_3_7, fmtWT_field_0_2, fmtWT_bit_31, fmtWT_bit_20, fmtWT_bit_2, Opnd.ofCode_code]⟩
theorem tmov (x0 x1 x2 x3 x4 x5 x6 x7) : Statement (.tmov x0 x1 x2 x3 x4 x5 x6 x7) := fun _ => ⟨_, rfl, by
  unfold decode
  rw [fmtWT_field_24_7]
  show (if _ then _ else _) = _
  simp only [fmtWT_field_21_3, fmtWT_field_15_5, fmtWT_field_10_5, fmtWT_field_3_7, fmtWT_bit_1, fmtWT_bit_31, fmtWT_bit_20, fmtWT_bit_2, fmtWT_bit_0, Opnd.ofCode_code, field_tmov, if_true]⟩
theorem zclr (x0 x1 x2) : Statement (.zclr x0 x1 x2) := fun _ => ⟨_, rfl, by
  unfold decode
  rw [fmtWX_field_24_7]
  show (if _ then _ else _) = _
  simp only [fmtWX_field_18_3, fmtWX_field_13_5, fmtWX_field_8_5, fmtWX_field_5_3, fmtWX_field_21_3, fmtWX_field_2_3, fmtWX_bit_1, fmtWX_bit_0, fmtWX_bit_31, and_self, if_true]⟩
theorem zrd (x0 x1 x2 x3 x4 x5 x6) : Statement (.zrd x0 x1 x2 x3 x4 x5 x6) := fun _ => ⟨_, rfl, by
  unfold decode
  rw [fmtWT_field_24_7]
  show (if _ then _ else _) = _
  simp only [fmtWT_field_21_3, fmtWT_field_15_5, fmtWT_field_10_5, fmtWT_field_3_7, fmtWT_field_0_2, fmtWT_bit_2, fmtWT_bit_31, fmtWT_bit_20, Opnd.ofCode_code, if_true]⟩
theorem zxf (x0 x1 x2 x3 x4) : Statement (.zxf x0 x1 x2 x3 x4) := fun _ => ⟨_, rfl, by
  unfold decode
  rw [fmtWX_field_24_7]
  show (if _ then _ else _) = _
  simp only [fmtWX_field_18_3, fmtWX_field_8_5, fmtWX_field_5_3, fmtWX_field_2_3, fmtWX_field_21_3, fmtWX_field_13_5, fmtWX_bit_31, fmtWX_bit_1, fmtWX_bit_0, and_self, if_true]⟩
theorem mma (x0 x1 x2 x3 x4 x5 x6) : Statement (.mma x0 x1 x2 x3 x4 x5 x6) := fun _ => ⟨_, rfl, by
  unfold decode
  rw [fmtWX_field_24_7]
  show (if _ then _ else _) = _
  simp only [fmtWX_field_5_3, fmtWX_field_21_3, fmtWX_field_18_3, fmtWX_field_13_5, fmtWX_field_8_5, fmtWX_field_2_3, fmtWX_bit_0, fmtWX_bit_31, fmtWX_bit_1, and_self, if_true]⟩
theorem mmas (x0 x1 x2 x3 x4 x5 x6 x7) : Statement (.mmas x0 x1 x2 x3 x4 x5 x6 x7) := fun _ => ⟨_, rfl, by
  unfold decode
  rw [fmtWX_field_24_7]
  show (if _ then _ else _) = _
  simp only [fmtWX_field_21_3, fmtWX_field_18_3, fmtWX_field_13_5, fmtWX_field_8_5, fmtWX_field_5_3, fmtWX_field_2_3, fmtWX_bit_0, fmtWX_bit_31, fmtWX_bit_1, if_true]⟩
theorem matrixKStep (x0 x1) : Statement (.matrixKStep x0 x1) := fun h => by cases h
theorem sld (x0 x1 x2 x3 x4 x5 x6) : Statement (.sld x0 x1 x2 x3 x4 x5 x6) := fun _ => ⟨_, rfl, by
  unfold decode
  rw [fmtW3_field_24_7]
  show Except.ok _ = _
  simp only [fmtW3_field_17_7, fmtW3_field_10_7, fmtW3_field_3_7, fmtW3_bit_31, fmtW3_bit_2, fmtW3_bit_1, fmtW3_bit_0, Opnd.ofCode_code]⟩
theorem sst (x0 x1 x2 x3 x4 x5 x6) : Statement (.sst x0 x1 x2 x3 x4 x5 x6) := fun _ => ⟨_, rfl, by
  unfold decode
  rw [fmtW3_field_24_7]
  show Except.ok _ = _
  simp only [fmtW3_field_17_7, fmtW3_field_10_7, fmtW3_field_3_7, fmtW3_bit_31, fmtW3_bit_2, fmtW3_bit_1, fmtW3_bit_0, Opnd.ofCode_code]⟩
theorem scur (x0 x1 x2 x3 x4 x5) : Statement (.scur x0 x1 x2 x3 x4 x5) := fun _ => ⟨_, rfl, by
  unfold decode
  rw [fmtW3_field_24_7]
  show (if _ then _ else _) = _
  simp only [fmtW3_field_17_7, fmtW3_field_10_7, fmtW3_field_3_7, fmtW3_bit_0, fmtW3_bit_31, fmtW3_bit_2, fmtW3_bit_1, Opnd.ofCode_code, if_true]⟩
theorem snxt (x0 x1 x2 x3 x4 x5) : Statement (.snxt x0 x1 x2 x3 x4 x5) := fun _ => ⟨_, rfl, by
  unfold decode
  rw [fmtW3_field_24_7]
  show (if _ then _ else _) = _
  simp only [fmtW3_field_17_7, fmtW3_field_10_7, fmtW3_field_3_7, fmtW3_bit_0, fmtW3_bit_31, fmtW3_bit_2, fmtW3_bit_1, Opnd.ofCode_code, if_true]⟩
theorem sisx (x0 x1 x2 x3 x4 x5) : Statement (.sisx x0 x1 x2 x3 x4 x5) := fun _ => ⟨_, rfl, by
  unfold decode
  rw [fmtW3_field_24_7]
  show (if _ then _ else _) = _
  simp only [fmtW3_field_17_7, fmtW3_field_10_7, fmtW3_field_3_7, fmtW3_bit_0, fmtW3_bit_31, fmtW3_bit_2, fmtW3_bit_1, Opnd.ofCode_code, if_true]⟩
theorem singleKeyOperation (x0) : Statement (.singleKeyOperation x0) := fun h => by cases h
theorem engStk (x0 x1 x2 x3) : Statement (.engStk x0 x1 x2 x3) := fun _ => ⟨_, rfl, by
  unfold decode
  rw [fmtWE_field_24_7, fmtWE_field_0_7]
  show Except.ok _ = _
  simp only [fmtWE_field_17_7, fmtWE_field_12_5, fmtWE_field_7_5, fmtWE_bit_31, Opnd.ofCode_code]⟩
theorem engCpy (x0 x1 x2 x3) : Statement (.engCpy x0 x1 x2 x3) := fun _ => ⟨_, rfl, by
  unfold decode
  rw [fmtWE_field_24_7, fmtWE_field_0_7]
  show Except.ok _ = _
  simp only [fmtWE_field_17_7, fmtWE_field_12_5, fmtWE_field_7_5, fmtWE_bit_31, Opnd.ofCode_code]⟩
theorem engDense (x0 x1 x2 x3) : Statement (.engDense x0 x1 x2 x3) := fun _ => ⟨_, rfl, by
  unfold decode
  rw [fmtWE_field_24_7, fmtWE_field_0_7]
  show Except.ok _ = _
  simp only [fmtWE_field_17_7, fmtWE_field_12_5, fmtWE_field_7_5, fmtWE_bit_31, Opnd.ofCode_code]⟩
theorem engSpar (x0 x1 x2 x3) : Statement (.engSpar x0 x1 x2 x3) := fun _ => ⟨_, rfl, by
  unfold decode
  rw [fmtWE_field_24_7, fmtWE_field_0_7]
  show Except.ok _ = _
  simp only [fmtWE_field_17_7, fmtWE_field_12_5, fmtWE_field_7_5, fmtWE_bit_31, Opnd.ofCode_code]⟩
theorem engDsp (x0 x1 x2) : Statement (.engDsp x0 x1 x2) := fun _ => ⟨_, rfl, by
  unfold decode
  rw [fmtWE_field_24_7, fmtWE_field_0_7]
  show (if _ then _ else _) = _
  simp only [fmtWE_field_7_5, fmtWE_field_17_7, fmtWE_field_12_5, fmtWE_bit_31, Opnd.ofCode_code, if_true]⟩
theorem engCmb (x0 x1 x2 x3) : Statement (.engCmb x0 x1 x2 x3) := fun _ => ⟨_, rfl, by
  unfold decode
  rw [fmtWE_field_24_7, fmtWE_field_0_7]
  show Except.ok _ = _
  simp only [fmtWE_field_17_7, fmtWE_field_12_5, fmtWE_field_7_5, fmtWE_bit_31, Opnd.ofCode_code]⟩
theorem engQapp (x0 x1 x2 x3) : Statement (.engQapp x0 x1 x2 x3) := fun _ => ⟨_, rfl, by
  unfold decode
  rw [fmtWE_field_24_7, fmtWE_field_0_7]
  show Except.ok _ = _
  simp only [fmtWE_field_17_7, fmtWE_field_12_5, fmtWE_field_7_5, fmtWE_bit_31, Opnd.ofCode_code]⟩
theorem engGcond (x0 x1 x2 x3) : Statement (.engGcond x0 x1 x2 x3) := fun _ => ⟨_, rfl, by
  unfold decode
  rw [fmtWE_field_24_7, fmtWE_field_0_7]
  show Except.ok _ = _
  simp only [fmtWE_field_17_7, fmtWE_field_12_5, fmtWE_field_7_5, fmtWE_bit_31, Opnd.ofCode_code]⟩
theorem engLvlw (x0 x1 x2 x3) : Statement (.engLvlw x0 x1 x2 x3) := fun _ => ⟨_, rfl, by
  unfold decode
  rw [fmtWE_field_24_7, fmtWE_field_0_7]
  show Except.ok _ = _
  simp only [fmtWE_field_17_7, fmtWE_field_12_5, fmtWE_field_7_5, fmtWE_bit_31, Opnd.ofCode_code]⟩
theorem engCancel (x0 x1 x2 x3) : Statement (.engCancel x0 x1 x2 x3) := fun _ => ⟨_, rfl, by
  unfold decode
  rw [fmtWE_field_24_7, fmtWE_field_0_7]
  show Except.ok _ = _
  simp only [fmtWE_field_17_7, fmtWE_field_12_5, fmtWE_field_7_5, fmtWE_bit_31, Opnd.ofCode_code]⟩
theorem engHash (x0 x1 x2) : Statement (.engHash x0 x1 x2) := fun _ => ⟨_, rfl, by
  unfold decode
  rw [fmtWE_field_24_7, fmtWE_field_0_7]
  show (if _ then _ else _) = _
  simp only [fmtWE_field_7_5, fmtWE_field_17_7, fmtWE_field_12_5, fmtWE_bit_31, Opnd.ofCode_code, if_true]⟩
theorem engKgrow (x0 x1 x2 x3) : Statement (.engKgrow x0 x1 x2 x3) := fun _ => ⟨_, rfl, by
  unfold decode
  rw [fmtWE_field_24_7, fmtWE_field_0_7]
  show Except.ok _ = _
  simp only [fmtWE_field_17_7, fmtWE_field_12_5, fmtWE_field_7_5, fmtWE_bit_31, Opnd.ofCode_code]⟩
theorem engineShoePublish (x0) : Statement (.engineShoePublish x0) := fun h => by cases h
theorem ticketFill (x0) : Statement (.ticketFill x0) := fun h => by cases h
theorem barArrive (x0 x1 x2 x3) : Statement (.barArrive x0 x1 x2 x3) := fun _ => ⟨_, rfl, by
  unfold decode
  rw [fmtWE_field_24_7]
  show (if _ then _ else _) = _
  rw [fmtWE_bit_6, fmtWE_field_0_2, (field_split2 _ _).2.2, (field_split2 _ _).2.1, if_neg (by decide)]
  show (if _ then _ else _) = _
  simp only [fmtWE_field_7_5, fmtWE_field_17_7, fmtWE_field_12_5, fmtWE_field_2_4, fmtWE_bit_31, Opnd.ofCode_code, field_split2, if_true]⟩
theorem barWait (x0 x1 x2) : Statement (.barWait x0 x1 x2) := fun _ => ⟨_, rfl, by
  unfold decode
  rw [fmtWE_field_24_7]
  show (if _ then _ else _) = _
  rw [fmtWE_bit_6, fmtWE_field_0_2, (field_split2 _ _).2.2, (field_split2 _ _).2.1, if_neg (by decide)]
  show (if _ then _ else _) = _
  simp only [fmtWE_field_17_7, fmtWE_field_12_5, fmtWE_field_7_5, fmtWE_field_2_4, fmtWE_bit_31, field_split2, and_self, if_true]⟩
theorem barSync (x0 x1 x2) : Statement (.barSync x0 x1 x2) := fun _ => ⟨_, rfl, by
  unfold decode
  rw [fmtWE_field_24_7]
  show (if _ then _ else _) = _
  rw [fmtWE_bit_6, fmtWE_field_0_2, (field_split2 _ _).2.2, (field_split2 _ _).2.1, if_neg (by decide)]
  show (if _ then _ else _) = _
  simp only [fmtWE_field_17_7, fmtWE_field_7_5, fmtWE_field_12_5, fmtWE_field_2_4, fmtWE_bit_31, field_split2, and_self, if_true]⟩
theorem barSyncCompletion (x0) : Statement (.barSyncCompletion x0) := fun h => by cases h
theorem sysRdsr (x0 x1 x2 x3) : Statement (.sysRdsr x0 x1 x2 x3) := fun _ => ⟨_, rfl, by
  unfold decode
  rw [fmtWE_field_24_7, fmtWE_field_0_7]
  show Except.ok _ = _
  simp only [fmtWE_field_17_7, fmtWE_field_12_5, fmtWE_field_7_5, fmtWE_bit_31, Opnd.ofCode_code]⟩
theorem sysWrsr (x0 x1 x2 x3) : Statement (.sysWrsr x0 x1 x2 x3) := fun _ => ⟨_, rfl, by
  unfold decode
  rw [fmtWE_field_24_7, fmtWE_field_0_7]
  show Except.ok _ = _
  simp only [fmtWE_field_17_7, fmtWE_field_12_5, fmtWE_field_7_5, fmtWE_bit_31, Opnd.ofCode_code]⟩
theorem shoeConfigure (x0 x1 x2) : Statement (.shoeConfigure x0 x1 x2) := fun h => by cases h
theorem sysHalt (x0) : Statement (.sysHalt x0) := fun _ => ⟨_, rfl, by
  unfold decode
  rw [fmtWE_field_24_7, fmtWE_field_0_7]
  show (if _ then _ else _) = _
  simp only [fmtWE_field_17_7, fmtWE_field_12_5, fmtWE_field_7_5, fmtWE_bit_31, and_self, if_true]⟩
theorem producerWrite (x0 x1) : Statement (.producerWrite x0 x1) := fun h => by cases h
theorem mergeStep (x0 x1) : Statement (.mergeStep x0 x1) := fun h => by cases h
theorem shoeTakeServe (x0 x1 x2) : Statement (.shoeTakeServe x0 x1 x2) := fun h => by cases h
theorem runIssue (x0) : Statement (.runIssue x0) := fun h => by cases h
theorem squadDemotion (x0) : Statement (.squadDemotion x0) := fun h => by cases h
theorem squadPromotion (x0) : Statement (.squadPromotion x0) := fun h => by cases h
theorem squadRetirement (x0) : Statement (.squadRetirement x0) := fun h => by cases h
theorem squadStop (x0) : Statement (.squadStop x0) := fun h => by cases h
theorem powerTokenPass (x0 x1) : Statement (.powerTokenPass x0 x1) := fun h => by cases h
theorem subarrayPowerGate (x0 x1) : Statement (.subarrayPowerGate x0 x1) := fun h => by cases h
theorem subarrayWake (x0 x1) : Statement (.subarrayWake x0 x1) := fun h => by cases h
theorem queueRecordTake (x0 x1) : Statement (.queueRecordTake x0 x1) := fun h => by cases h
theorem kernelNodeFire (x0 x1) : Statement (.kernelNodeFire x0 x1) := fun h => by cases h
theorem recordNodeFire (x0 x1) : Statement (.recordNodeFire x0 x1) := fun h => by cases h
theorem recordNodeTimeout (x0 x1) : Statement (.recordNodeTimeout x0 x1) := fun h => by cases h
theorem conditionalNodeFire (x0 x1) : Statement (.conditionalNodeFire x0 x1) := fun h => by cases h
theorem whileNodeFire (x0 x1) : Statement (.whileNodeFire x0 x1) := fun h => by cases h
theorem launchStart (x0) : Statement (.launchStart x0) := fun h => by cases h
theorem teamStart (x0) : Statement (.teamStart x0) := fun h => by cases h
theorem launchCompletion (x0) : Statement (.launchCompletion x0) := fun h => by cases h
theorem jobCompletion (x0) : Statement (.jobCompletion x0) := fun h => by cases h
theorem graphRegistration (x0 x1 x2 x3) : Statement (.graphRegistration x0 x1 x2 x3) := fun h => by cases h
theorem preemptionRequest (x0 x1) : Statement (.preemptionRequest x0 x1) := fun h => by cases h
theorem drainLimitExpiry (x0) : Statement (.drainLimitExpiry x0) := fun h => by cases h
theorem teamContextSave (x0) : Statement (.teamContextSave x0) := fun h => by cases h
theorem teamResume (x0 x1) : Statement (.teamResume x0 x1) := fun h => by cases h
theorem pageWalk (x0 x1 x2) : Statement (.pageWalk x0 x1 x2) := fun h => by cases h
theorem shootDown (x0 x1 x2) : Statement (.shootDown x0 x1 x2) := fun h => by cases h
theorem promotion (x0 x1 x2) : Statement (.promotion x0 x1 x2) := fun h => by cases h
theorem migrationRequest (x0 x1 x2) : Statement (.migrationRequest x0 x1 x2) := fun h => by cases h
theorem migrationCompletion (x0 x1) : Statement (.migrationCompletion x0 x1) := fun h => by cases h
theorem hostMemoryAccess (x0 x1) : Statement (.hostMemoryAccess x0 x1) := fun h => by cases h
theorem peerAccess (x0 x1 x2) : Statement (.peerAccess x0 x1 x2) := fun h => by cases h
theorem linkPortDown (x0) : Statement (.linkPortDown x0) := fun h => by cases h
theorem throttle (x0 x1 x2) : Statement (.throttle x0 x1 x2) := fun h => by cases h
theorem reset : Statement (.reset) := fun h => by cases h
theorem firmwareReady : Statement (.firmwareReady) := fun h => by cases h
theorem attestationReport (x0) : Statement (.attestationReport x0) := fun h => by cases h
theorem bootstRead : Statement (.bootstRead) := fun h => by cases h
theorem notificationRingSetup (x0 x1) : Statement (.notificationRingSetup x0 x1) := fun h => by cases h
theorem mgmtRegisterWrite (x0 x1) : Statement (.mgmtRegisterWrite x0 x1) := fun h => by cases h
theorem coreCounterClear (x0) : Statement (.coreCounterClear x0) := fun h => by cases h
theorem objectLoad (x0) : Statement (.objectLoad x0) := fun h => by cases h
theorem objectUnload (x0) : Statement (.objectUnload x0) := fun h => by cases h
theorem debugStop (x0) : Statement (.debugStop x0) := fun h => by cases h
theorem causalExperiment (x0) : Statement (.causalExperiment x0) := fun h => by cases h
theorem waitForGraphSample : Statement .waitForGraphSample := fun h => by cases h
theorem registerParityFailure (x0) : Statement (.registerParityFailure x0) := fun h => by cases h
theorem dieL2Acceptance (x0 x1) : Statement (.dieL2Acceptance x0 x1) := fun h => by cases h
theorem homeAcceptance (x0 x1) : Statement (.homeAcceptance x0 x1) := fun h => by cases h
theorem linkRetrainComplete (x0) : Statement (.linkRetrainComplete x0) := fun h => by cases h

end Laws.Encoding
end Sys2Proof
end

