-- ==== Sys2Proof/Tests/Slice0.lean ====
section
/-! SUPPORT. Tests: ill-formed words, words written out from the spec's encodings, single steps, and for every statement
with hypotheses a state that meets them. -/

namespace Sys2Proof.Tests

open Sys2Proof Sys2Proof.Machine

set_option Elab.async false

/-! ## Small states -/

/-- Page tables: one leaf of 64 GiB that maps each address to itself, with R, W and X (R355). At 1 MiB a deck of two
hands for the blocks 0 and 1 (Tables 7-1 and 7-2), at 0x110000 no code: words of zeros are NOP. -/
def mem0 : Memory := ⟨[(0x2000, 1#8), (0x2001, 0x40#8), (0x4000, 0x0F#8), (0x4001, 1#8),
  (0x100000, 2#8), (0x100002, 2#8), (0x100003, 4#8), (0x100008, 0x20#8), (0x10000C, 0x80#8), (0x100010, 0x80#8), (0x100011, 4#8),
  (0x100020, 1#8), (0x10002C, 1#8), (0x10003E, 1#8),
  (0x100040, 2#8), (0x100048, 2#8), (0x10004C, 1#8), (0x10005E, 1#8),
  (0x100488, 0xFF#8), (0x100489, 0xFF#8), (0x10049A, 1#8)]⟩

def sq0 : Squad := { Squad.empty with
  key := ⟨1, 0, 0⟩, status := .live, running := true, fast := true, em := BitVec.allOnes 32, live := BitVec.allOnes 32
  hent := ⟨1#64, 0, 1, [0, 0, 0, 0, 0, 0, 0], 1⟩, segSlots := 1#8 }

def team0 : Team := { Team.empty with
  key := ⟨1, 0⟩, status := .running, nsq := 2, scr := 4096, shoeMask := 0xFFFF#16, owner := List.replicate 8 0#8, slen := 64 }

def launch0 : Launch := { Launch.empty with
  lid := 1, status := .running, asid := 1, jobs := [1]
  lr := { LaunchRec.empty with nsq := 2, gx := 1, gy := 1, gz := 1, leases := [(0, 0x1000000)], rcount := 8, obj := 64 } }

def obj0 : Obj := { Obj.empty with
  addr := 64, asid := 1, code := 0x110000, suits := [⟨0x100000, 2, 0, 0, 4, []⟩, ⟨0x100000, 2, 0, 0, 4, []⟩], trapSuit := some 1 }

/-- A live squad of a running launch on core 0, in an address space that maps every page to itself. -/
def st0 : State := { State.reset with
  sq := sq0, team := team0, launch := launch0, obj := obj0, mem := mem0
  part := { Part.reset with
    caps := fullCaps, bootst := 3#4, objs := [obj0]
    asids := [⟨1, 0x2001#64, 0#32, 1#16, true, 0x200000#64, 4#32⟩] } }

/-- The same under another EM. -/
def withEm (m : Mask) : State := { st0 with sq := { sq0 with em := m } }
/-- With s registers set. -/
def withS (l : List (Nat × DWord)) (s : State) : State :=
  s.onSq (fun q => { q with s := l.foldl (fun v x => vset v x.1 x.2) q.s })
/-- With v registers set, the same word in every lane. -/
def withV (l : List (Nat × Word)) (s : State) : State :=
  s.onSq (fun q => { q with v := l.foldl (fun v x => vset v x.1 (Vector.replicate 32 x.2)) q.v })

/-- The decidable form of `ReadyFor`. -/
def ready (i : Instr) (s : State) : Bool :=
  i.wf && ((usage s.sq.fmt i).part == none || s.sq.em == s.sq.live)
    && (usage s.sq.fmt i).srcs.all (fun x => s.sq.settled x.1)
    && (usage s.sq.fmt i).dst.all (fun o => s.sq.settled o || s.sq.pendingOn o == none) && s.sq.uncorr == [] && s.sq.poison == []

theorem readyFor_of {i : Instr} {s : State} (h : ready i s = true) : ReadyFor i s := by
  simp only [ready, Bool.and_eq_true, Bool.or_eq_true, beq_iff_eq, List.all_eq_true] at h
  exact ⟨h.1.1.1.1.1, h.1.1.1.1.2, h.1.1.1.2, h.1.1.2, h.1.2, h.2⟩

theorem readyAll_of {l : List Instr} {s : State} (h : l.all (ready · s) = true) : ∀ i ∈ l, ReadyFor i s := fun i hi =>
  readyFor_of (List.all_eq_true.1 h i hi)

/-! ## Ill-formed words: a term for each check of `Instr.wf`, which the check refuses (R123) -/

theorem test_illFormed_control : [Instr.nxtc false (.v 0) 0#6 0#6 false, .nxti false .em false, .callp false (.s 0) 0#17, .eret false 2#4,
    .emset false (.v 0) false, .emget false (.p 0) false].all (fun i => !i.wf) = true := by decide

theorem test_illFormed_integer : [Instr.iadd false (.s 0) (.v 1) (.v 2) false false false, .imul false (.a 0) (.a 1) (.a 2) false false false,
    .and false (.a 0) (.a 1) (.s 2) false false, .shl false (.a 0) (.s 1) (.a 2) false false false, .imad false (.s 0) (.s 1) (.s 2) false false true,
    .imad false (.v 1) (.v 2) (.v 4) false false false, .iabs false (.s 0) (.p 1) false false, .shli false (.v 0) (.v 1) 32#10,
    .shli false (.s 0) (.s 1) 0x200#10, .aget false (.s 0) (.v 1) false false, .rget false (.p 0) (.v 1) (.v 2) false false,
    .rput false (.v 0) (.s 1) (.v 2) false, .movk false (.v 0) 0#17, .movkh false (.p 0) 0#16, .prom false (.v 0) (.v 1) (.v 0) false false false,
    .prom false (.a 0) (.s 1) (.v 2) false false false, .prom false (.v 1) (.s 1) (.v 0) false false true,
    .demu false (.v 0) (.v 1) false false, .uniq false (.s 0) (.v 1) (.v 2) false false, .sete false .em true].all (fun i => !i.wf) = true := by decide

theorem test_illFormed_float : [Instr.fadd false (.p 0) (.v 1) (.v 2) false false, .fadd false (.a 0) (.a 1) (.s 2) false false,
    .frnd false (.v 0) (.v 1) (.v 2) false false, .cvtfi false (.v 0) (.v 1) (.a 2) false false false, .setfmt false (.v 0) false,
    .getfmt false (.a 0), .rand false (.v 0) (.v 1) (.v 2) false false true, .rand false (.v 0) (.v 1) (.v 2) false false false,
    .shfl false (.v 0) (.s 1) (.v 2) false false, .shup false (.v 0) (.v 1) (.v 2) false false, .vany false (.s 0) (.v 1) false,
    .vbal false (.p 0) (.v 1) false, .rdadd false (.s 0) (.v 1) false false].all (fun i => !i.wf) = true := by decide

theorem test_illFormed_memory : [Instr.ld false (.v 0) (.v 1) 2#2 false false 0#6, .ld false (.v 0) (.s 1) 2#2 false false 0#6,
    .ld false (.v 1) (.a 0) 3#2 false false 0#6, .ldsx false (.v 0) (.a 0) 3#2 false false 0#6, .st false (.v 1) (.a 0) 3#2 false 0#6,
    .amo false (.v 0) (.a 0) 1#2 false 0#4 0#2, .amo false (.v 0) (.a 0) 2#2 false 12#4 0#2, .amo false (.v 0) (.a 0) 3#2 false 9#4 0#2,
    .amor false (.s 0) (.a 0) 2#2 false 0#4 0#2, .cas false (.s 1) (.s 4) 2#2 false 0#2, .cas false (.v 1) (.a 0) 2#2 false 0#2,
    .cas false (.v 2) (.a 0) 3#2 false 0#2, .cas false (.a 0) (.a 1) 2#2 false 0#2, .fence false 3#2 0#3, .fence false 0#2 5#3,
    .pf false .lid 0#2 false false 0#6].all (fun i => !i.wf) = true := by decide

theorem test_illFormed_units : [Instr.shtake false (.v 0) (.s 1) false, .shput false (.v 0) (.s 1) false, .shqry false (.s 0) (.v 1),
    .tld false 0#3 true 0#5 0#5 (.v 1) false 0#2, .tst false 0#3 false 0#5 0#5 (.v 0) false 0#2, .tmov false 0#3 true 0#5 0#5 (.v 0) true false,
    .zrd false 0#3 false 0#5 0#5 (.v 0) 0#2, .zrd false 0#3 false 0#5 0#5 (.v 8) 1#2, .zrd false 0#3 false 1#5 0#5 (.s 0) 2#2,
    .zrd false 0#3 true 0#5 0#5 (.v 0) 3#2, .sld false (.v 1) (.v 2) (.s 0) false false true, .sld false (.v 0) (.v 2) (.v 4) false false false,
    .sst false (.v 1) (.v 2) (.s 0) false false true, .scur false (.v 1) (.v 2) (.s 0) false false, .snxt false (.v 2) (.v 4) (.s 0) false false,
    .sisx false (.v 4) (.v 6) (.s 0) false false, .engStk false (.v 0) 0#5 0#5, .engDsp false (.a 0) 0#5, .barArrive false (.v 0) 0#5 0#4,
    .sysRdsr false (.v 0) 0#5 0#5, .sysWrsr false (.v 0) 0#5 0#5].all (fun i => !i.wf) = true := by decide

/-! ## Words written out from the spec's encodings -/

/-- Table 9-8 and R119: row 0x00. -/
theorem test_decode_control :
    decode 0x01010000#32 = .ok (.seg ⟨false, 1#8⟩) ∧ decode 0x81030000#32 = .ok (.seg ⟨true, 3#8⟩) ∧ decode 0x02001000#32 = .ok (.nxt false 2#6) ∧ decode 0x03E00800#32 = .ok (.nxtc false (.p 0) 1#6 0#6 false)
    ∧ decode 0x040A0000#32 = .ok (.nxti false (.v 5) false) ∧ decode 0x05000000#32 = .ok .deal ∧ decode 0x85000000#32 = .ok .deal ∧ decode 0x06000000#32 = .ok (.fold false)
    ∧ decode 0x09000000#32 = .ok (.ret false) ∧ decode 0x0A001234#32 = .ok (.trap false 0x1234#17) ∧ decode 0x0B000002#32 = .ok (.eret false 1#4)
    ∧ decode 0x0C000005#32 = .ok (.brk false 5#17) ∧ decode 0x0D01CC00#32 = .ok (.emset false (.p 3) false)
    ∧ decode 0x0E840001#32 = .ok (.emget false (.s 2) true) ∧ decode 0x0F000000#32 = .ok (.yield false) := by decide +kernel

/-- Format W3, the integer rows. -/
theorem test_decode_integer :
    decode 0x10081434#32 = .ok (.iadd false (.v 4) (.v 5) (.v 6) true false false)
    ∧ decode 0x10C58A21#32 = .ok (.iadd false (.a 2) (.a 2) (.s 4) false false true)
    ∧ decode 0x1113E023#32 = .ok (.isub false (.v 9) .zero (.v 4) false true true)
    ∧ decode 0x12C3E619#32 = .ok (.imul false (.a 1) .lid (.s 3) false false true)
    ∧ decode 0x20E00630#32 = .ok (.iceq false (.p 0) (.v 1) (.s 6) false false)
    ∧ decode 0x3F000001#32 = .ok (.sete false (.v 0) true) := by decide +kernel

/-- Formats WI and WK. -/
theorem test_decode_immediate :
    decode 0x30020401#32 = .ok (.iaddi false (.v 1) (.v 1) 1#10) ∧ decode 0x300A1401#32 = .ok (.iaddi false (.v 5) (.v 5) 1#10)
    ∧ decode 0x3A87FFFB#32 = .ok (.movk false (.s 3) (BitVec.ofInt 17 (-5))) ∧ decode 0x3B861234#32 = .ok (.movkh false (.s 3) 0x1234#16) := by
  decide +kernel

/-- Bit 31, and the float rows. -/
theorem test_decode_float : decode 0xC0060410#32 = .ok (.fadd true (.v 3) (.v 1) (.v 2) false false) := by decide +kernel

/-- Format WM, and the words of row 0x60 without operands. -/
theorem test_decode_memory :
    decode 0x60118E3F#32 = .ok (.ld false (.v 8) (.a 3) 2#2 false false 63#6) ∧ decode 0x6800000B#32 = .ok (.fence false 1#2 3#3)
    ∧ decode 0x6B000000#32 = .ok (.l1inv false) := by decide +kernel

/-- Format WE. -/
theorem test_decode_engine :
    decode 0x7D8C2180#32 = .ok (.engStk false (.s 6) 2#5 3#5) ∧ decode 0x7F88A080#32 = .ok (.sysRdsr false (.s 4) 10#5 1#5)
    ∧ decode 0x7F000002#32 = .ok (.sysHalt false) := by decide +kernel

/-- Formats WT and WX: op, then the fields of Table 9-3 from bit 23 down. -/
theorem test_decode_tile :
    decode (0#1 ++ 0x70#7 ++ 2#3 ++ 1#1 ++ 3#5 ++ 4#5 ++ 0x61#7 ++ 0#1 ++ 1#2) = .ok (.tld false 2#3 true 3#5 4#5 (.a 1) false 1#2)
    ∧ decode (0#1 ++ 0x76#7 ++ 1#3 ++ 2#3 ++ 5#5 ++ 6#5 ++ 0#3 ++ 7#3 ++ 1#1 ++ 0#1) = .ok (.mma false 1#3 2#3 5#5 6#5 7#3 true)
    ∧ decode (0#1 ++ 0x77#7 ++ 1#3 ++ 2#3 ++ 5#5 ++ 6#5 ++ 3#3 ++ 7#3 ++ 1#1 ++ 0#1) = .ok (.mmas false 1#3 2#3 5#5 6#5 3#3 7#3 true) := by
  decide +kernel

/-- Sparse words, shoe words and barriers. -/
theorem test_decode_units :
    decode (0#1 ++ 0x78#7 ++ 8#7 ++ 2#7 ++ 0x44#7 ++ 0#1 ++ 1#1 ++ 1#1) = .ok (.sld false (.v 8) (.v 2) (.s 4) false true true)
    ∧ decode (0#1 ++ 0x6C#7 ++ 0x45#7 ++ 0x46#7 ++ 0#7 ++ 0#1 ++ 0#1 ++ 1#1) = .ok (.shtake false (.s 5) (.s 6) true)
    ∧ decode (0#1 ++ 0x7E#7 ++ 0x42#7 ++ 3#5 ++ 0#5 ++ 0#1 ++ 5#4 ++ 0#2) = .ok (.barArrive false (.s 2) 3#5 5#4) := by decide +kernel

/-- A zero field that is not zero, and a reserved function, are refused (R112, R120). -/
theorem test_decode_refuses :
    decode 0x00000001#32 = .error .zeroField ∧ decode 0x81010001#32 = .error .zeroField
    ∧ decode 0x7D00000C#32 = .error .reservedFunction ∧ decode 0x7E000003#32 = .error .reservedFunction
    ∧ decode 0x7F000003#32 = .error .reservedFunction := by decide +kernel

/-! ## Single steps: each expected value is worked out by hand from the rule named -/

/-- The state after an instruction. -/
def after (i : Instr) (s : State) : State :=
  match exec i s with
  | .next t => t
  | _ => s

/-- A sum wraps at 32 bits in a lane (R146). -/
theorem test_iadd_wraps : val (after (.iadd false (.v 0) (.v 1) (.v 2) false false false) (withV [(1, 0xFFFFFFFF#32), (2, 2#32)] st0)) (.v 0) 31 = 1#64 := by
  decide +kernel

/-- MOVK sign-extends its immediate to 64 bits (R161). -/
theorem test_movk_negative : uval (after (.movk false (.s 3) (BitVec.ofInt 17 (-5))) st0) (.s 3) = 0xFFFFFFFFFFFFFFFB#64 := by decide +kernel

/-- The source is the destination: v1 - v1 (R8). -/
theorem test_isub_same : val (after (.isub false (.v 1) (.v 1) (.v 1) false false false) (withV [(1, 7#32)] st0)) (.v 1) 0 = 0#64 := by decide +kernel

/-- A lane outside EM keeps its word (R146). -/
theorem test_inactive_kept : val (after (.iadd false (.v 0) (.v 1) (.v 1) false false false)
    ((withV [(0, 9#32), (1, 1#32)] st0).onSq (fun q => { q with em := 1#32 }))) (.v 0) 1 = 9#64 := by decide +kernel

/-- 1.5 + 1.5 = 3 (R172). -/
theorem test_fadd : val (after (.fadd false (.v 0) (.v 1) (.v 1) false false) (withV [(1, 0x3FC00000#32)] st0)) (.v 0) 5 = 0x40400000#64 := by decide +kernel

/-- Half of the least subnormal rounds to zero, to even (R172). -/
theorem test_fmul_subnormal : val (after (.fmul false (.v 0) (.v 1) (.v 2) false false) (withV [(1, 1#32), (2, 0x3F000000#32)] st0)) (.v 0) 5 = 0#64 := by
  decide +kernel

/-- One word retires: lclk counts it, and the position moves to the next word (R56). -/
theorem test_nop_retires : (after (.nop false) st0).sq.lclk = 1#64 ∧ (after (.nop false) st0).sq.word = 1 := by decide +kernel

/-- TRAP #5 enters the trap suit with cause 0x15, and its handler frame is on top (R140). -/
theorem test_trap_enters : let t := after (.trap false 5#17) st0
    t.sq.tcause.extractLsb' 0 8 = 0x15#8 ∧ t.sq.tinfo0 = 5#64 ∧ t.sq.suit = 1 ∧ inHandler t = true := by decide +kernel

/-! ## Witnesses: encoding, issue and traps -/

/-- An outcome is a next state. -/
def goesOn : Host.Outcome State Fault Refusal → Bool
  | .next _ => true
  | _ => false

theorem next_of {o : Host.Outcome State Fault Refusal} (h : goesOn o = true) : ∃ t, o = .next t := by
  cases o with
  | next t => exact ⟨t, rfl⟩
  | _ => cases h

theorem witness_EncodeThenDecode : isWord (.iadd true (.v 63) (.a 15) .lclk true true true) = true := by decide

theorem witness_DecodeThenEncode : decode 0xFF80007F#32 = .error .reservedFunction ∧ decode 0xFFFFFF81#32 = .ok (.sysWrsr true .lclk 31#5 31#5) := by
  decide +kernel

/-- The position at each word of a packet; a word that decodes. -/
theorem witness_StepRunsTheWord (k : Nat) (hk : k < 3) : let s : State := { st0 with sq := { sq0 with word := k } }
    (s.agenda = [] ∧ s.sq.status = .live ∧ s.sq.running = true ∧ s.sq.sst = none ∧ s.sq.syncw = none ∧ s.sq.mprog = [] ∧ s.sq.late = [])
    ∧ fetchFault s = none ∧ s.sq.word < 3 ∧ (packetWords s).getD s.sq.word 0#32 = 0#32 ∧ (0#32).getLsbD 31 = false
    ∧ decode 0#32 = .ok (.nop false) ∧ s.core.icache = [] ∧ s.core.merged = [] ∧ (s.getDie (dieOf s.core.id)).pend = []
    ∧ ∀ b, b < 12 → phys s s.core.id s.launch.asid (packetVa s s.sq.pkt + b) = some (0x110000 + b) := by
  interval_cases k <;> decide +kernel

/-- A word that does not decode: it stands at the last word of the packet. -/
theorem witness_StepRunsTheWord_reject : let s : State := { st0 with sq := { sq0 with word := 2 }, mem := mem0.write 0x110008 1#8 }
    fetchFault s = none ∧ (packetWords s).getD s.sq.word 0#32 = 1#32 ∧ decode 1#32 = .error .zeroField := by decide +kernel

/-- Packets of NOP words: a chain of two, and one of three. -/
def stChain (three : Bool) : State := { st0 with mem := let m := mem0.write 0x110003 0x80#8; if three then m.write 0x110007 0x80#8 else m }

theorem witness_StepRunsTheWord_chain : (fetchFault (stChain false) = none ∧ fetchFault (stChain true) = none)
    ∧ (packetWords (stChain false) = [0x80000000#32, 0#32, 0#32] ∧ packetWords (stChain true) = [0x80000000#32, 0x80000000#32, 0#32])
    ∧ (∃ t, issueMany [0x80000000#32, 0#32] (stChain false) = .next t) ∧ ∃ t, issueMany [0x80000000#32, 0x80000000#32, 0#32] (stChain true) = .next t :=
  ⟨by decide +kernel, by decide +kernel, next_of (by decide +kernel), next_of (by decide +kernel)⟩

/-- s5 is empty and awaits a take; lane 3 of v1, the upper word of s1, a word of a1 and p1 are poisoned. -/
def stPending : State := st0.onSq (fun q => { q.setFE (.s 5) false with seq := 1, prods := [⟨0, .take 15#4 false, [.s 5], [], 0⟩] })
def stPoison : State := st0.onSq (fun q => { q with poison := [.v 1 3, .s 1 1, .a 1 2, .p 1] })

theorem witness_IssueChecks : (isWord (.cvtn false (.v 0) (.v 1) (.v 2) false false) = true ∧ (Instr.cvtn false (.v 0) (.v 1) (.v 2) false false).wf = false)
    ∧ (let i := Instr.iadd false (.s 0) (.s 1) (.s 2) true false false
      i.wf = true ∧ (usage 0#32 i).part = some 64 ∧ (withEm 1#32).sq.em ≠ (withEm 1#32).sq.live ∧ (usage 0#32 i).srcs = [(.s 1, true)] ++ (.s 2, false) :: []
      ∧ (let s := st0.onSq (fun q => q.setFE (.s 2) false)
        s.sq.settled (.s 1) = true ∧ s.sq.isFull (.s 2) = false ∧ s.sq.interlocked (.s 2) = false ∧ s.sq.em = s.sq.live)
      ∧ (st0.onSq (fun q => q.setFE (.s 1) false)).sq.isFull (.s 1) = false)
    ∧ (let i := Instr.iaddi false (.s 5) (.s 1) 1#10
      i.wf = true ∧ destElsewhere i = false ∧ (usage 0#32 i).dst = [] ++ .s 5 :: [] ∧ (∀ x ∈ (usage 0#32 i).srcs, stPending.sq.settled x.1 = true)
      ∧ stPending.sq.isFull (.s 5) = false ∧ stPending.sq.interlocked (.s 5) = false ∧ (stPending.sq.pendingOn (.s 5)).isSome = true ∧ (Opnd.s 5).cls ≠ .v) := by
  decide +kernel

/-- The first bad word of each file. -/
theorem witness_IssueChecks_poison : (∀ x ∈ [(Instr.iadd false (.v 0) (.v 1) (.v 2) false false false, Opnd.v 1, (List.range 3).map (WordRef.v 1 ·), WordRef.v 1 3),
      (.movkh false (.s 1) 0#16, .s 1, [.s 1 0], .s 1 1), (.iaddi false (.a 0) (.a 1) 0#10, .a 1, [.a 1 0, .a 1 1], .a 1 2),
      (.vany false (.v 0) (.p 1) false, .p 1, [], .p 1)],
    x.1.wf = true ∧ crossLane x.1 = false ∧ poisonElsewhere x.1 = false ∧ ((usage 0#32 x.1).srcs.map (·.1)).head? = some x.2.1
      ∧ (∀ y ∈ (usage 0#32 x.1).srcs, stPoison.sq.settled y.1 = true) ∧ (∀ y ∈ (usage 0#32 x.1).dst, stPoison.sq.settled y = true)
      ∧ (wordsOf x.2.1 stPoison.sq.em).take x.2.2.1.length = x.2.2.1 ∧ (wordsOf x.2.1 stPoison.sq.em)[x.2.2.1.length]? = some x.2.2.2
      ∧ (∀ y ∈ x.2.2.1, stPoison.sq.isBad y = false) ∧ stPoison.sq.isBad x.2.2.2 = true) ∧ stPoison.sq.em = stPoison.sq.live := by
  decide +kernel

/-- The words that stand alone (R108). -/
def Alone (w : Word) : Prop := ∃ i c x p, decode w = .ok i ∧ (i = .seg ⟨c, x⟩ ∨ i = .deal ∨ (∃ n, i = .call c n) ∨ (∃ n, i = .callp c p n) ∨ i = .yield c
  ∨ (∃ n, i = .trap c n) ∨ (∃ n, i = .brk c n) ∨ (∃ m, i = .eret c m) ∨ i = .sysHalt c)

/-- A chain holds no word that stands alone. -/
theorem not_alone {ws : List Word} (h : ws.all (fun w => match decode w with | .ok i => !standsAlone i | .error _ => true) = true) : ∀ w ∈ ws, ¬ Alone w := by
  rintro w hw ⟨i, c, x, p, hd, hi⟩
  have := List.all_eq_true.1 h w hw
  rw [hd] at this
  rcases hi with rfl | rfl | ⟨n, rfl⟩ | ⟨n, rfl⟩ | rfl | ⟨n, rfl⟩ | ⟨n, rfl⟩ | ⟨n, rfl⟩ | rfl <;> simp [standsAlone] at this

/-- What a word does: it runs, waits or traps. -/
def outIs (k : Nat) : WordOut → Bool
  | .done _ => k == 0
  | .wait _ => k == 1
  | .trap _ => k == 2
  | _ => false

theorem waits_of {o : WordOut} (h : outIs 1 o = true) : ∃ x, o = .wait x := by
  cases o <;> first | exact ⟨_, rfl⟩ | cases h

theorem traps_of {o : WordOut} (h : outIs 2 o = true) : ∃ x, o = .trap x := by
  cases o <;> first | exact ⟨_, rfl⟩ | cases h

/-- Words of chains: SEG, an undefined word, two words of one pipe, NOP, one that waits, one that traps. -/
theorem witness_IssueChecks_chain : (decode 0x81010000#32 = .ok (.seg ⟨true, 1#8⟩) ∧ goodWord 0x80000000#32 = some (.nop true) ∧ goodWord 1#32 = none)
    ∧ (∀ w ∈ [0x80000000#32, 1#32], ¬ Alone w)
    ∧ (let a := Instr.iaddi true (.v 1) (.v 1) 1#10; let b := Instr.iaddi false (.v 5) (.v 5) 1#10; pipe a ≠ none ∧ pipe a = pipe b)
    ∧ (∃ r, r ∈ seqWrites (.nxt true 1#6) ∧ r ∈ seqWrites (.fold false)) ∧ (pipe (.nop true) = none ∧ chainWrites 0#32 (.nop true) = [] ∧ seqWrites (.nop true) = [])
    ∧ (∃ u, wordOut (.nop true) (ownOf (.nop true)) st0 = .done u)
    ∧ (∃ x, wordOut (.iaddi false (.s 5) (.s 1) 1#10) (ownOf (.iaddi false (.s 5) (.s 1) 1#10)) stPending = .wait x)
    ∧ ∃ r, wordOut (.idiv false (.s 0) (.s 1) (.s 2) false false false) (ownOf (.idiv false (.s 0) (.s 1) (.s 2) false false false)) st0 = .trap r :=
  ⟨by decide +kernel, not_alone (by decide +kernel), by decide +kernel, ⟨.brNext, by decide⟩, by decide +kernel, ⟨_, rfl⟩, waits_of (by decide +kernel),
    traps_of (by decide +kernel)⟩

/-- TRAP #5 in a squad whose object names a trap suit. -/
theorem trap_witness (n : BitVec 17) (s : State) (h : ready (.trap false n) s = true) :
    Traps (.trap false n) s ⟨0x15#8, n.setWidth 64, 0#64, s.sq.em⟩ :=
  trap_completes (readyFor_of h) rfl rfl

theorem witness_TrapEntry : Traps (.trap false 5#17) st0 ⟨0x15#8, 5#64, 0#64, st0.sq.em⟩ ∧ inHandler st0 = false ∧ (0x15#8) ≠ 0x09#8
    ∧ st0.obj.trapSuit = some 1 ∧ (∀ l, st0.sq.live.getLsbD l = true → vget st0.sq.depth l ≠ 255#8) ∧ st0.sq.frames.length < 8
    ∧ lookup st0 (suitAt st0 1) (blockMask (suitAt st0 1).entry) = .hit 0 ⟨1#64, 0, 1, [0, 0, 0, 0, 0, 0, 0], 1⟩ := by
  refine ⟨trap_witness 5#17 st0 (by decide +kernel), by decide +kernel, by decide, rfl, fun l _ => ?_, by decide, by decide +kernel⟩
  by_cases h : l < 32
  · interval_cases l <;> decide
  · rw [vget_out _ (by omega)]; decide

/-- A frame of KIND 1 on top: the squad is in a handler. -/
def frame1 : Frame := ⟨0, 0, 0, true, 0, 0, BitVec.allOnes 32, 0#32, BitVec.allOnes 32, 0#32, Vector.replicate 32 0#6, Vector.replicate 32 0#6, BitVec.allOnes 32⟩
def stHandler : State := st0.onSq (fun q => { q with frames := [frame1], depth := Vector.replicate 32 1#8 })
def stNoHandler : State := { st0 with obj := { obj0 with trapSuit := none } }
/-- A lane at depth 255. -/
def stDeep : State := st0.onSq (fun q => { q with depth := vset q.depth 31 255#8 })

theorem witness_TerminalTraps : Traps (.trap false 5#17) stHandler ⟨0x15#8, 5#64, 0#64, stHandler.sq.em⟩ ∧ inHandler stHandler = true
    ∧ Traps (.trap false 5#17) stNoHandler ⟨0x15#8, 5#64, 0#64, stNoHandler.sq.em⟩ ∧ inHandler stNoHandler = false ∧ stNoHandler.obj.trapSuit = none
    ∧ Traps (.trap false 5#17) stDeep ⟨0x15#8, 5#64, 0#64, stDeep.sq.em⟩ ∧ inHandler stDeep = false
    ∧ (∃ l, stDeep.sq.live.getLsbD l = true ∧ vget stDeep.sq.depth l = 255#8) ∧ st0.launch.lid = st0.sq.key.lid ∧ st0.launch.status = .running :=
  ⟨trap_witness 5#17 _ (by decide +kernel), by decide +kernel, trap_witness 5#17 _ (by decide +kernel), by decide +kernel, rfl,
    trap_witness 5#17 _ (by decide +kernel), by decide +kernel, ⟨31, by decide +kernel, by decide +kernel⟩, rfl, rfl⟩

theorem fault_of {r : Option Report} {x : Report} {u : State → State} (h : r = some x) : faultOr r u = .trap x := by rw [h]; rfl

/-- A lease violation is terminal in every squad (R141). -/
theorem witness_TerminalTraps_lease : let s := withS [(0, 0x1000000#64)] st0
    Traps (.ld false (.s 1) (.s 0) 2#2 false false 0#6) s ⟨0x09#8, 0x1000000#64, 0#64, s.sq.em⟩ := by
  refine trap_completes (own := ownLd (.s 1) (.s 0) 2#2 false 0#6) (readyFor_of (by decide +kernel)) rfl ?_
  unfold ownLd loadWord
  exact fault_of (by decide +kernel)

theorem canonical_st0 : st0.Canonical := ⟨by decide +kernel, rfl, rfl, by decide, by decide⟩

theorem witness_StepKeepsCanonical : st0.Canonical ∧ ∃ t, step st0 = .next t := ⟨canonical_st0, next_of (by decide +kernel)⟩

/-! ## Witnesses: integer words -/

def fitsB (w : Nat) (x : Int) : Bool := decide (-(2 ^ (w - 1)) ≤ x) && decide (x < 2 ^ (w - 1))

theorem fits_iff (w : Nat) (x : Int) : fitsB w x = true ↔ Fits w x := by simp [fitsB, Fits]

/-- The decidable form of `InRange`. -/
def inRange (tv : Nat → Int → Int → Int) (d a b : Opnd) (s : State) : Bool :=
  if d.isS then fitsB 64 (tv 64 (uval s a).toInt (uval s b).toInt)
  else (Mask.list s.sq.em).all (fun l => if d.isA then fitsB 64 (tv 64 (val s a l).toInt (val s b l).toInt)
    else fitsB 32 (tv 32 (val32 s a l).toInt (val32 s b l).toInt))

theorem inRange_iff (tv : Nat → Int → Int → Int) (d a b : Opnd) (s : State) : inRange tv d a b s = true ↔ InRange tv d a b s := by
  unfold inRange InRange
  split
  · exact fits_iff _ _
  · simp only [List.all_eq_true, mem_maskList, FitsIn]
    refine forall_congr' fun l => imp_congr Iff.rfl ?_
    split <;> exact fits_iff _ _

/-- v1 is the largest 32-bit number less 1, v2 is 1; s1 and s2 likewise at 64 bits. -/
def stMax : State := withS [(1, 0x7FFFFFFFFFFFFFFE#64), (2, 1#64)] (withV [(1, 0x7FFFFFFE#32), (2, 1#32)] st0)

theorem witness_IntTwoSource : (∀ i ∈ [false, true].flatMap (fun m => [Opnd.v 0, .p 0].flatMap (fun d => [Instr.iadd m d (.v 1) (.v 2) m m m, .isub m d (.v 1) (.v 2) m m m,
      .imul m d (.v 1) (.v 2) m m m, .imulh m d (.v 1) (.v 2) m m m, .imin m d (.v 1) (.v 2) m m m, .imax m d (.v 1) (.v 2) m m m,
      .and m d (.v 1) (.v 2) m m, .or m d (.v 1) (.v 2) m m, .xor m d (.v 1) (.v 2) m m, .shl m d (.v 2) (.v 2) m m m, .shr m d (.v 1) (.v 2) m m,
      .sar m d (.v 1) (.v 2) m m, .iceq m d (.v 1) (.v 2) m m, .icne m d (.v 1) (.v 2) m m, .iclt m d (.v 1) (.v 2) m m, .icle m d (.v 1) (.v 2) m m,
      .icltu m d (.v 1) (.v 2) m m, .icleu m d (.v 1) (.v 2) m m])), ReadyFor i stMax)
    ∧ (∀ i ∈ [Instr.iadd false (.s 0) (.s 1) (.s 2) false false true, .shl false (.s 0) (.s 2) (.s 2) false false true], ReadyFor i stMax)
    ∧ InRange (fun _ x y => x + y) (.v 0) (.v 1) (.v 2) stMax ∧ InRange (fun _ x y => x + y) (.s 0) (.s 1) (.s 2) stMax
    ∧ InRange (fun _ x y => x - y) (.v 0) (.v 1) (.v 2) stMax ∧ InRange (fun _ x y => x * y) (.v 0) (.v 1) (.v 2) stMax
    ∧ InRange (fun w x y => x * 2 ^ (y % w).toNat) (.v 0) (.v 2) (.v 2) stMax :=
  ⟨readyAll_of (by decide +kernel), readyAll_of (by decide +kernel), (inRange_iff _ _ _ _ _).1 (by decide +kernel),
    (inRange_iff _ _ _ _ _).1 (by decide +kernel), (inRange_iff _ _ _ _ _).1 (by decide +kernel), (inRange_iff _ _ _ _ _).1 (by decide +kernel),
    (inRange_iff _ _ _ _ _).1 (by decide +kernel)⟩

theorem witness_IntAffine : (∀ i ∈ [Instr.iadd false (.a 0) (.a 1) (.s 2) false false true, .isub false (.a 0) .lid (.s 2) false false true,
      .imul false (.a 0) .lid (.s 2) false false true, .shl false (.a 0) .lid (.s 2) false false true, .iaddi false (.a 0) (.a 1) 0x200#10,
      .prom false (.a 0) (.s 1) (.s 2) false false false], ReadyFor i stMax)
    ∧ InRange (fun _ x y => x + y) (.a 0) (.a 1) (.s 2) stMax ∧ InRange (fun _ x y => x - y) (.a 0) .lid (.s 2) stMax
    ∧ InRange (fun _ x y => x * y) (.a 0) .lid (.s 2) stMax ∧ InRange (fun w x y => x * 2 ^ (y % w).toNat) (.a 0) .lid (.s 2) stMax :=
  ⟨readyAll_of (by decide +kernel), (inRange_iff _ _ _ _ _).1 (by decide +kernel), (inRange_iff _ _ _ _ _).1 (by decide +kernel),
    (inRange_iff _ _ _ _ _).1 (by decide +kernel), (inRange_iff _ _ _ _ _).1 (by decide +kernel)⟩

/-- The least numbers of both widths, and 1 past the largest sum. -/
def stMin : State := withS [(1, 0x8000000000000000#64), (2, 2#64)] (withV [(1, 0x80000000#32), (2, 2#32)] st0)

theorem not_inRange {tv : Nat → Int → Int → Int} {d a b : Opnd} {s : State} (h : inRange tv d a b s = false) : ¬ InRange tv d a b s :=
  fun k => by rw [← inRange_iff, h] at k; cases k

theorem witness_CheckedOverflowTraps : (∀ i ∈ [Instr.iadd false (.v 0) (.v 1) (.v 1) false false true, .isub false (.s 0) (.s 1) (.s 2) false false true,
      .imul false (.v 0) (.v 1) (.v 2) false false true, .shl false (.s 0) (.s 1) (.s 2) false false true, .iabs false (.v 0) (.v 1) false true,
      .iabs false (.s 0) (.s 1) false true], ReadyFor i stMin)
    ∧ ¬ InRange (fun _ x y => x + y) (.v 0) (.v 1) (.v 1) stMin ∧ ¬ InRange (fun _ x y => x - y) (.s 0) (.s 1) (.s 2) stMin
    ∧ ¬ InRange (fun _ x y => x * y) (.v 0) (.v 1) (.v 2) stMin ∧ ¬ InRange (fun w x y => x * 2 ^ (y % w).toNat) (.s 0) (.s 1) (.s 2) stMin
    ∧ ¬ InRange (fun _ x _ => x.natAbs) (.v 0) (.v 1) (.v 1) stMin ∧ ¬ InRange (fun _ x _ => x.natAbs) (.s 0) (.s 1) (.s 1) stMin :=
  ⟨readyAll_of (by decide +kernel), not_inRange (by decide +kernel), not_inRange (by decide +kernel), not_inRange (by decide +kernel),
    not_inRange (by decide +kernel), not_inRange (by decide +kernel), not_inRange (by decide +kernel)⟩

theorem witness_IntOneSource : (∀ i ∈ [Instr.iabs false (.v 0) (.v 1) true true, .popc false (.v 0) (.v 1) true, .clz false (.s 0) (.s 1) true,
      .brev false (.p 0) (.v 1) true, .iaddi true (.v 0) (.v 1) 0x1FF#10, .andi false (.s 0) (.s 1) 0x200#10, .ori false (.s 0) .zero 0x3FF#10,
      .xori false (.v 0) (.v 1) 0x3FF#10, .shli false (.v 0) (.v 1) 31#10, .shri false (.s 0) (.s 1) 63#10, .sari false (.v 0) (.v 1) 31#10,
      .iceqi false (.p 0) (.v 1) 0x3FF#10, .iclti false (.p 0) (.v 1) 0x3FF#10, .icltui false (.p 0) (.v 1) 0x3FF#10], ReadyFor i stMax)
    ∧ InRange (fun _ x _ => x.natAbs) (.v 0) (.v 1) (.v 1) stMax := ⟨readyAll_of (by decide +kernel), (inRange_iff _ _ _ _ _).1 (by decide +kernel)⟩

/-- A field of 31 bits from bit 1: it ends at the width. Index words of a whole array from v0. -/
def stField : State := withS [(2, 0x3F01#64)] (withV [(2, 0x1F01#32), (3, 0x4003#32)] st0)

theorem forall_lanes {em : Mask} {p : Nat → Prop} [DecidablePred p] (h : (Mask.list em).all (fun l => decide (p l)) = true) :
    ∀ l, em.getLsbD l = true → p l := fun l hl => of_decide_eq_true (List.all_eq_true.1 h l (mem_maskList.2 hl))

theorem witness_IntThreeSource : (∀ i ∈ [Instr.iaddmin false (.v 0) (.v 1) (.v 2) true true, .cmov false (.s 0) (.s 1) (.s 2) false false,
      .movkh true (.v 5) 0xFFFF#16, .bfi false (.v 0) (.v 1) (.v 2) false false, .bfi false (.s 0) (.s 1) (.s 2) false false,
      .imad false (.s 0) (.s 1) (.s 2) false false false, .imad false (.v 62) (.v 1) (.a 2) false false true], ReadyFor i stField)
    ∧ FieldsFit (.v 0) (.v 1) (.v 2) stField ∧ FieldsFit (.s 0) (.s 1) (.s 2) stField :=
  ⟨readyAll_of (by decide +kernel), forall_lanes (p := fun l => fieldEnd (val32 stField (.v 2) l) ≤ 32) (by decide +kernel),
    show fieldEnd (uval stField (.s 2)) ≤ 64 by decide +kernel⟩

/-- A field of 31 bits from bit 2: one past the width. -/
def stWide : State := withS [(2, 0x3F02#64)] (withV [(2, 0x1F02#32)] st0)

theorem witness_FieldsAndDivision : (∀ i ∈ [Instr.bfx true (.v 0) (.v 1) (.v 2) true true true, .idiv false (.s 0) (.s 1) (.s 2) true true false,
      .irem false (.v 0) (.v 1) (.v 2) true true true], ReadyFor i stField)
    ∧ FieldsFit (.v 0) (.v 1) (.v 2) stField ∧ NonZero (.s 0) (.s 1) (.s 2) stField ∧ NonZero (.v 0) (.v 1) (.v 2) stField
    ∧ (∀ i ∈ [Instr.bfx false (.v 0) (.v 1) (.v 2) false false false, .bfi false (.s 0) (.s 1) (.s 2) false false], ReadyFor i stWide)
    ∧ ¬ FieldsFit (.v 0) (.v 1) (.v 2) stWide ∧ ¬ FieldsFit (.s 0) (.s 1) (.s 2) stWide
    ∧ (∀ i ∈ [Instr.idiv false (.v 0) (.v 1) (.v 2) false false false, .irem false (.s 0) (.s 1) (.s 2) false false true], ReadyFor i st0)
    ∧ ¬ NonZero (.v 0) (.v 1) (.v 2) st0 ∧ ¬ NonZero (.s 0) (.s 1) (.s 2) st0 :=
  ⟨readyAll_of (by decide +kernel), forall_lanes (p := fun l => fieldEnd (val32 stField (.v 2) l) ≤ 32) (by decide +kernel),
    show uval stField (.s 2) ≠ 0#64 by decide +kernel, forall_lanes (p := fun l => val32 stField (.v 2) l ≠ 0#32) (by decide +kernel),
    readyAll_of (by decide +kernel), fun h => absurd (h 31 (by decide +kernel)) (by decide +kernel),
    fun h => absurd (show fieldEnd (uval stWide (.s 2)) ≤ 64 from h) (by decide +kernel), readyAll_of (by decide +kernel),
    fun h => absurd (show val32 st0 (.v 2) 0 ≠ 0#32 from h 0 (by decide +kernel)) (by decide +kernel), fun h => absurd (show uval st0 (.s 2) ≠ 0#64 from h) (by decide +kernel)⟩

/-! ## Witnesses: moves and register arrays -/

theorem witness_MovesBetweenClasses : (∀ i ∈ [Instr.movk false (.s 31) 0x1FFFF#17, .prom false (.v 0) (.s 1) (.v 0) false false false,
      .prom false (.p 7) .lid (.v 0) true false false, .prom false (.v 62) (.a 1) (.v 0) false false true, .uniq false (.s 0) (.v 1) (.s 3) false false,
      .aget false (.s 0) .lid false true, .aget false (.s 0) (.a 15) false false], ReadyFor i stMax)
    ∧ (∀ l, (BitVec.allOnes 32).getLsbD l = true ↔ stMax.sq.em.getLsbD l = true ∧ (uval stMax (.s 3)).getLsbD l = false)
    ∧ IsLowest (BitVec.allOnes 32) 0 ∧ (∀ j, j < 32 → ((BitVec.allOnes 32).getLsbD j = true ↔ (BitVec.allOnes 32).getLsbD j = true ∧ val32 stMax (.v 1) j = val32 stMax (.v 1) 0))
    ∧ (∀ l, (0#32).getLsbD l = true ↔ (withEm 0#32).sq.em.getLsbD l = true ∧ (uval (withEm 0#32) (.s 3)).getLsbD l = false)
    ∧ ReadyFor (.uniq false (.s 0) (.v 1) (.s 3) false false) ((withEm 0#32).onSq (fun q => { q with live := 0#32 }))
    ∧ (Instr.sete false (.a 15) false).wf = true ∧ (Instr.sete true (.v 63) true).wf = true ∧ stMax.sq.em = stMax.sq.live := by
  refine ⟨readyAll_of (by decide +kernel), fun l => ?_, ⟨by decide, fun k h => absurd h (by omega)⟩, by decide +kernel, fun l => ?_, readyFor_of (by decide +kernel),
    by decide, by decide, by decide +kernel⟩
  · rw [show stMax.sq.em = BitVec.allOnes 32 from rfl, show uval stMax (.s 3) = 0#64 from by decide +kernel]; simp
  · rw [show (withEm 0#32).sq.em = 0#32 from rfl]; simp

/-- Lane l of v1 holds 3 l + 5; in v2 lane 31 is off the line, in v3 every lane holds 7. -/
def stLine : State := st0.onSq (fun q => { q with
  v := vset (vset (vset q.v 1 (lanes fun l => BitVec.ofNat 32 (3 * l + 5))) 2 (lanes fun l => if l = 31 then 0#32 else BitVec.ofNat 32 l)) 3 (Vector.replicate 32 7#32) })

theorem witness_DemuResult : IsLowest stLine.sq.em 0 ∧ (∀ i ∈ [Instr.demu false (.s 0) (.v 3) false true, .demu false (.s 0) (.v 1) false true,
      .demu false (.a 0) (.v 1) false true, .demu false (.a 0) (.v 2) true true], ReadyFor i stLine)
    ∧ (∀ l, stLine.sq.em.getLsbD l = true → (val32 stLine (.v 3) l).toInt = (val32 stLine (.v 3) 0).toInt)
    ∧ (∃ l, stLine.sq.em.getLsbD l = true ∧ (val32 stLine (.v 1) l).toInt ≠ (val32 stLine (.v 1) 0).toInt)
    ∧ IsLowest (stLine.sq.em &&& ~~~(1#32 <<< 0)) 1 ∧ (3 : Int) = ((val32 stLine (.v 1) 1).toInt - (val32 stLine (.v 1) 0).toInt).tdiv (1 - 0)
    ∧ (∀ l, stLine.sq.em.getLsbD l = true → BitVec.ofInt 64 (5 - 0 * 3) + BitVec.ofNat 64 l * BitVec.ofInt 64 3 = BitVec.ofInt 64 (val32 stLine (.v 1) l).toInt)
    ∧ (1 : Int) = ((val32 stLine (.v 2) 1).toInt - (val32 stLine (.v 2) 0).toInt).tdiv (1 - 0)
    ∧ (∃ l, stLine.sq.em.getLsbD l = true ∧ BitVec.ofInt 64 0 + BitVec.ofNat 64 l * BitVec.ofInt 64 1 ≠ BitVec.ofInt 64 (val32 stLine (.v 2) l).toInt) :=
  ⟨⟨by decide, fun k h => absurd h (by omega)⟩, readyAll_of (by decide +kernel),
    forall_lanes (p := fun l => (val32 stLine (.v 3) l).toInt = (val32 stLine (.v 3) 0).toInt) (by decide +kernel),
    ⟨31, by decide +kernel, by decide +kernel⟩, ⟨by decide, fun k h => by interval_cases k; decide⟩, by decide +kernel,
    forall_lanes (p := fun l => BitVec.ofInt 64 (5 - 0 * 3) + BitVec.ofNat 64 l * BitVec.ofInt 64 3 = BitVec.ofInt 64 (val32 stLine (.v 1) l).toInt) (by decide +kernel),
    by decide +kernel, ⟨31, by decide +kernel, by decide +kernel⟩⟩

/-- The last register of the file: base 60, index 3 of 64; and one past it. -/
theorem witness_RegisterArrays : (∀ i ∈ [Instr.rget false (.v 0) (.v 60) (.v 3) true true, .rput false (.v 0) (.v 60) (.v 3) true], ReadyFor i stField)
    ∧ (∀ l, stField.sq.em.getLsbD l = true → IndexFits 60 (.v 3) stField l ∧ stField.sq.isFull (.v (Fin.ofNat 64 (60 + indexOf (.v 3) stField l))) = true)
    ∧ (∀ i ∈ [Instr.rget false (.v 0) (.v 61) (.v 3) true true, .rput false (.v 0) (.v 61) (.v 3) true], ReadyFor i stField)
    ∧ (∃ l, stField.sq.em.getLsbD l = true ∧ ¬ IndexFits 61 (.v 3) stField l) :=
  ⟨readyAll_of (by decide +kernel),
    forall_lanes (p := fun l => ((val32 stField (.v 3) l).extractLsb' 16 16 = 0#16 ∧ indexOf (.v 3) stField l < ((val32 stField (.v 3) l).extractLsb' 8 8).toNat
      ∧ 60 + indexOf (.v 3) stField l ≤ 63) ∧ stField.sq.isFull (.v (Fin.ofNat 64 (60 + indexOf (.v 3) stField l))) = true) (by decide +kernel),
    readyAll_of (by decide +kernel), ⟨31, by decide +kernel, fun h => absurd h.2.2 (by decide +kernel)⟩⟩

/-! ## Witnesses: float and cross-lane words -/

/-- FMT with NT; s1 holds +infinity, s2 -infinity, s3 1.0; v1 to v3 likewise. v4 holds FP16 infinities of both signs. -/
def stNan : State := (withS [(1, 0x7F800000#64), (2, 0xFF800000#64), (3, 0x3F800000#64), (4, 0x7C00FC00#64), (5, 0xFC003C00#64)]
  (withV [(1, 0x7F800000#32), (2, 0xFF800000#32), (3, 0x3F800000#32), (4, 0x7C00FC00#32), (5, 0x3C003C00#32)] st0)).onSq
    (fun q => { q with fmt := 0x20000#32 })

/-- The decidable form of `NoNewNaN`. -/
def noNewNaN (d : Opnd) (srcs : List Opnd) (f : Nat → Word) (s : State) : Bool :=
  !fmtNT s.sq.fmt || (if d.isS then [0] else Mask.list s.sq.em).all (fun l => !isNaN32 (f l) || srcs.any (fun o => isNaN32 (val32 s o l)))

theorem noNewNaN_iff (d : Opnd) (srcs : List Opnd) (f : Nat → Word) (s : State) : noNewNaN d srcs f s = true ↔ NoNewNaN d srcs f s := by
  unfold noNewNaN NoNewNaN
  cases h : fmtNT s.sq.fmt <;> cases hd : d.isS <;> simp [mem_maskList, or_iff_not_imp_left]

theorem not_noNewNaN {d : Opnd} {srcs : List Opnd} {f : Nat → Word} {s : State} (h : noNewNaN d srcs f s = false) : ¬ NoNewNaN d srcs f s :=
  fun k => by rw [← noNewNaN_iff, h] at k; cases k

/-- Infinity plus 1 is no NaN; infinity minus infinity is. -/
theorem witness_FloatArithmetic : (∀ i ∈ [Opnd.v 0, .s 0].flatMap (fun d => let r := fun k => if d.isS then Opnd.s k else .v (Fin.ofNat 64 k.val)
      [Instr.fadd false d (r 1) (r 2) true true, .fadd false d (r 1) (r 3) false false, .fsub false d (r 1) (r 1) false false, .fmul false d (r 1) (r 7) false false,
        .ffma false d (r 1) (r 3) false false false, .frcp false d (r 1) true, .frsq false d (r 2) false, .fsqrt false d (r 2) false,
        .fexp2 false d (r 2) false, .flog2 false d (r 2) false]), ReadyFor i stNan)
    ∧ NoNewNaN (.v 0) [.v 1, .v 3] (fun l => roundFp32 ((num32 (val32 stNan (.v 1) l)).add (num32 (val32 stNan (.v 3) l)))) stNan
    ∧ NoNewNaN (.s 0) [.s 1] (fun l => BitVec.ofNat 32 (frcp (num32 (val32 stNan (.s 1) l)))) stNan
    ∧ ¬ NoNewNaN (.v 0) [.v 1, .v 2] (fun l => roundFp32 ((num32 (val32 stNan (.v 1) l)).add (num32 (val32 stNan (.v 2) l)))) stNan
    ∧ ¬ NoNewNaN (.s 0) [.s 1, .s 2] (fun l => roundFp32 ((num32 (val32 stNan (.s 1) l)).add (num32 (val32 stNan (.s 2) l)))) stNan
    ∧ ¬ NoNewNaN (.s 0) [.s 2] (fun l => BitVec.ofNat 32 (frsq (num32 (val32 stNan (.s 2) l)))) stNan :=
  ⟨readyAll_of (by decide +kernel), (noNewNaN_iff _ _ _ _).1 (by decide +kernel), (noNewNaN_iff _ _ _ _).1 (by decide +kernel),
    not_noNewNaN (by decide +kernel), not_noNewNaN (by decide +kernel), not_noNewNaN (by decide +kernel)⟩

/-- FP16 infinity times 1 plus an infinity of the other sign, in the upper half. -/
theorem witness_FloatPackedFma : (∀ i ∈ [Instr.ffma false (.s 4) (.s 4) (.s 5) false false true, .ffma false (.v 4) (.v 4) (.v 5) false false true], ReadyFor i stNan)
    ∧ ReadyFor (.ffma false (.v 0) (.v 1) (.v 2) true true true) st0 ∧ fmtNT st0.sq.fmt = false
    ∧ fmtNT stNan.sq.fmt = true ∧ (let h := fun (o : Opnd) (k : Nat) => ((val32 stNan o 0).extractLsb' (16 * k) 16).toNat
      let r := fun (k : Nat) => convert fp16 .nearest false ((decodeNum fp16 (h (.s 4) k)).add ((decodeNum fp16 (h (.s 4) k)).mul (decodeNum fp16 (h (.s 5) k))))
      ∃ k, k < 2 ∧ (decodeNum fp16 (r k)).isNaN = true ∧ ¬ (decodeNum fp16 (h (.s 4) k)).isNaN = true ∧ ¬ (decodeNum fp16 (h (.s 5) k)).isNaN = true) :=
  ⟨readyAll_of (by decide +kernel), readyFor_of (by decide +kernel), rfl, by decide +kernel, ⟨1, by decide +kernel⟩⟩

theorem witness_FloatSelection : ∀ i ∈ [Opnd.v 0, .s 0].flatMap (fun d => let r := fun k => if d.isS then Opnd.s k else .v (Fin.ofNat 64 k.val)
    [Instr.fmin false d (r 1) (r 2) true true, .fmax false d (r 1) (r 2) false false, .fceq false d (r 1) (r 2) false false, .fclt false d (r 1) (r 2) false false,
      .fcle false d (r 1) (r 2) false false, .fclass false d (r 1) true, .frnd false d (r 1) (.s 3) true true]), ReadyFor i stNan := readyAll_of (by decide +kernel)

/-- OF a binary8 format, the integer format, and FP32; AF the same. -/
def withFmt (f : Word) : State := { st0 with sq := { sq0 with fmt := f } }

theorem witness_FloatConversions : (∀ i ∈ [Instr.cvtfi false (.v 0) (.v 1) (.s 2) true true true, .cvtif false (.s 0) (.s 1) true true,
      .cvth false (.v 0) (.v 1) (.s 2) true true true, .cvtn false (.v 0) (.v 1) (.s 2) true true, .cvtw false (.s 0) (.s 1) (.s 2) true true],
      ReadyFor i (withFmt 0x421#32))
    ∧ isBinary8 (fmtOF (withFmt 0x421#32).sq.fmt) = true ∧ fmtAF (withFmt 0x421#32).sq.fmt ≠ 0
    ∧ ReadyFor (.cvtn false (.v 0) (.v 1) (.s 2) true true) (withFmt 0xE318#32) ∧ fmtOF (withFmt 0xE318#32).sq.fmt = 0x18
    ∧ ReadyFor (.cvtn false (.v 0) (.v 1) (.s 2) true true) st0 ∧ isBinary8 (fmtOF st0.sq.fmt) = false ∧ fmtOF st0.sq.fmt ≠ 0x18
    ∧ ReadyFor (.cvtw false (.v 0) (.v 1) (.s 2) true true) st0 ∧ fmtAF st0.sq.fmt = 0 :=
  ⟨readyAll_of (by decide +kernel), by decide +kernel, by decide +kernel, readyFor_of (by decide +kernel), by decide +kernel, readyFor_of (by decide +kernel),
    by decide +kernel, by decide +kernel, readyFor_of (by decide +kernel), by decide +kernel⟩

/-- The last sample of a stream of 8, and the first one past it. -/
def stRand : State := withS [(7, 7#64), (8, 8#64)] (withV [(7, 7#32), (8, 8#32)] st0)

theorem witness_RandomStreams : (∀ i ∈ [Instr.rand true (.v 0) (.s 1) (.v 2) true true false, .rand false (.s 0) (.v 0) (.s 7) false true true,
      .rand false (.v 1) (.v 0) (.v 7) false false true, .rand false (.s 0) (.v 0) (.s 8) false true true, .rand false (.v 1) (.v 0) (.v 8) false false true],
      ReadyFor i stRand)
    ∧ (val32 stRand (.s 7) 0).toNat < stRand.launch.lr.rcount ∧ stRand.launch.lr.rcount ≤ (val32 stRand (.s 8) 0).toNat
    ∧ (∀ l, stRand.sq.em.getLsbD l = true → (val32 stRand (.v 7) l).toNat < stRand.launch.lr.rcount)
    ∧ (∃ l, stRand.sq.em.getLsbD l = true ∧ stRand.launch.lr.rcount ≤ (val32 stRand (.v 8) l).toNat) :=
  ⟨readyAll_of (by decide +kernel), by decide +kernel, by decide +kernel,
    forall_lanes (p := fun l => (val32 stRand (.v 7) l).toNat < stRand.launch.lr.rcount) (by decide +kernel), ⟨31, by decide +kernel, by decide +kernel⟩⟩

/-- Lane 0 of v1 is +infinity and lane 1 -infinity, under NT. -/
def stSum : State := { st0 with sq := { sq0 with
  fmt := 0x20000#32, v := vset sq0.v 1 (lanes fun l => if l = 0 then 0x7F800000#32 else if l = 1 then 0xFF800000#32 else 0#32) } }

theorem witness_CrossLaneWords : (∀ i ∈ [Instr.shfl true (.v 0) (.v 1) (.s 2) true true, .shup false (.v 0) (.v 1) (.s 2) true true,
      .shdn false (.v 0) (.v 1) (.s 2) true true, .bcast false (.v 0) (.v 1) .lclk true false, .vany false (.p 0) (.p 1) true, .vbal false (.v 0) (.v 1) true,
      .rdadd false (.v 0) (.v 1) true false, .rdadd false (.v 0) (.v 1) false true, .rdmin false (.v 0) (.v 1) false true], ReadyFor i stSum)
    ∧ (∀ l, l < 32 → ((3#32).getLsbD l = true ↔ stSum.sq.em.getLsbD l = true ∧ val32 stSum (.v 1) l ≠ 0#32))
    ∧ (fmtNT stSum.sq.fmt = true ∧ isNaN32 (roundFp32 (exactSum ((Mask.list stSum.sq.em).map (fun l => num32 (val32 stSum (.v 1) l))))) = true
      ∧ ∀ l, stSum.sq.em.getLsbD l = true → isNaN32 (val32 stSum (.v 1) l) = false)
    ∧ fmtNT st0.sq.fmt = false ∧ ReadyFor (.rdadd false (.v 0) (.v 1) false true) st0 ∧ stSum.sq.em ≠ 0#32 :=
  ⟨readyAll_of (by decide +kernel), by decide +kernel, ⟨by decide +kernel, by decide +kernel,
      forall_lanes (p := fun l => isNaN32 (val32 stSum (.v 1) l) = false) (by decide +kernel)⟩, rfl, readyFor_of (by decide +kernel), by decide +kernel⟩

/-! ## Witnesses: memory words -/

/-- a1 steps by 8 bytes from 3 MiB; s1 names the last 8 bytes of the lease, s2 the last 8 bytes of the scratch, s3 an odd
address; a3 steps by 6 bytes, so that lane 1 is the first misaligned one; a2 steps by 8 bytes from 0. -/
def stMem : State := (withS [(1, 0xFFFFF8#64), (2, 4088#64), (3, 0x300001#64)] st0).onSq (fun q => { q with
  abase := vset (vset q.abase 1 0x300000#64) 3 0x300000#64, astride := vset (vset (vset q.astride 1 8#64) 2 8#64) 3 6#64 })

def noEm (s : State) : State := s.onSq (fun q => { q with em := 0#32, live := 0#32 })

/-- A matching AMOR stands between: LDSC is held back until it has its value. -/
def stHeld : State := stMem.onSq (fun q => { q with seq := 1, prods := [⟨0, .atomic 2#2 true, [.s 9], [], 0⟩] })

theorem witness_LoadIssue : (∀ i ∈ [Instr.ld true (.v 62) (.a 1) 3#2 true true 63#6, .ld false (.s 4) (.s 1) 3#2 false false 0#6,
      .ldsx false (.v 63) (.a 1) 0#2 false true 31#6, .ldsc false (.v 62) (.a 2) 3#2 true 0#6, .ldsc false (.s 4) (.s 2) 3#2 false 0#6], ReadyFor i stMem)
    ∧ ReadyFor (.ld false (.s 4) (.s 3) 3#2 false false 0#6) (noEm stMem) ∧ ReadyFor (.ldsc false (.s 4) (.s 3) 3#2 false 0#6) (noEm stMem)
    ∧ ReadyFor (.ldsc false (.s 4) (.s 2) 3#2 false 0#6) stHeld
    ∧ memChecks stMem .read false stMem.sq.em 8 8 (accesses false (memAddr stMem (.a 1) 63#6 3#2) stMem) = none
    ∧ memChecks stMem .read true stMem.sq.em 8 8 (accesses true (memAddr stMem (.s 1) 0#6 3#2) stMem) = none
    ∧ memChecks stMem .read false stMem.sq.em 1 1 (accesses false (memAddr stMem (.a 1) 31#6 0#2) stMem) = none
    ∧ memChecks (noEm stMem) .read true 0#32 8 8 (accesses true (memAddr (noEm stMem) (.s 3) 0#6 3#2) (noEm stMem)) = none
    ∧ (stMem.sq.em ≠ 0#32 ∧ (noEm stMem).sq.em = 0#32 ∧ stHeld.sq.em ≠ 0#32)
    ∧ scratchChecks stMem .read false stMem.sq.em 8 (accesses false (memAddr stMem (.a 2) 0#6 3#2) stMem) = none
    ∧ scratchChecks stMem .read true stMem.sq.em 8 (accesses true (memAddr stMem (.s 2) 0#6 3#2) stMem) = none
    ∧ scratchChecks stHeld .read true stMem.sq.em 8 (accesses true (memAddr stHeld (.s 2) 0#6 3#2) stHeld) = none
    ∧ scratchChecks (noEm stMem) .read true 0#32 8 (accesses true (memAddr (noEm stMem) (.s 3) 0#6 3#2) (noEm stMem)) = none
    ∧ (readHeld stMem.sq stMem.sq.seq = false ∧ readHeld stHeld.sq stHeld.sq.seq = true)
    ∧ (stMem.sq.status ≠ .absent ∧ stMem.team.status ≠ .absent ∧ stMem.team.key = stMem.sq.key.team ∧ stMem.team.core = stMem.core.id) :=
  ⟨readyAll_of (by decide +kernel), readyFor_of (by decide +kernel), readyFor_of (by decide +kernel), readyFor_of (by decide +kernel), by decide +kernel⟩

/-- The first check that a uniform access fails, and the ones before it, which it passes. -/
def failsAt (k : Nat) (va : Nat) (l : List Check) : Prop := (∀ x ∈ l.take k, ¬ x.bad va) ∧ ∃ c, l[k]? = some c ∧ c.bad va

/-- A lease of everything, a page that is not mapped at 64 GiB, and an engine that writes at 0x300000 and at scratch 64. -/
def stLocks : State := { stMem with
  launch := { launch0 with lr := { launch0.lr with leases := [(0, 2 ^ 57)] } }
  core := { stMem.core with locks := [⟨0, 7, true, 0, ⟨1, 0⟩, 0x300000, 0x300001⟩, ⟨63, 7, true, 1, ⟨1, 0⟩, 64, 65⟩] }
  cmds := [{ (default : Cmd) with id := 7, asid := 1 }] }

theorem memory_failsAt : failsAt 0 0x300001 (memoryChecks stMem .read 8) ∧ failsAt 1 (2 ^ 56) (memoryChecks stLocks .write 8)
    ∧ failsAt 2 0x1000000 (memoryChecks stMem .atomic 8) ∧ failsAt 3 (2 ^ 36) (memoryChecks stLocks .read 8) ∧ failsAt 4 0x300000 (memoryChecks stLocks .write 4) := by
  have hl : ∀ j, j < 8 → ∀ k, 2 ^ 36 + j < 0 ∨ 0 + 2 ^ 57 ≤ 2 ^ 36 + j → k = 0 := fun j hj k h => by omega
  refine ⟨⟨by simp, ⟨_, rfl, by simp⟩⟩, ⟨?_, ⟨_, rfl, by simp⟩⟩, ⟨?_, ⟨_, rfl, ⟨0, by decide, by decide⟩⟩⟩, ⟨?_, ⟨_, rfl, ?_⟩⟩, ⟨?_, ⟨_, rfl, show lockHit stLocks _ _ _ 0 .write 0x300000 4 ≠ none by decide +kernel⟩⟩⟩
  · intro x hx; simp only [memoryChecks, List.take_succ_cons, List.take_zero, List.mem_cons, List.not_mem_nil, or_false] at hx; subst hx; decide
  · intro x hx; simp only [memoryChecks, List.take_succ_cons, List.take_zero, List.mem_cons, List.not_mem_nil, or_false] at hx
    rcases hx with rfl | rfl <;> decide
  · intro x hx; simp only [memoryChecks, List.take_succ_cons, List.take_zero, List.mem_cons, List.not_mem_nil, or_false] at hx
    rcases hx with rfl | rfl | rfl
    · decide
    · decide
    · rintro ⟨j, hj, h⟩; exact absurd (h (0, 2 ^ 57) (by decide)) (by omega)
  · have h : translate stLocks stLocks.core.id stLocks.launch.asid (2 ^ 36) = none := by decide +kernel
    show Lacks stLocks .read (2 ^ 36)
    rw [Lacks, h]; trivial
  · intro x hx; simp only [memoryChecks, List.take_succ_cons, List.take_zero, List.mem_cons, List.not_mem_nil, or_false] at hx
    rcases hx with rfl | rfl | rfl | rfl
    · decide
    · decide
    · rintro ⟨j, hj, h⟩; exact absurd (h (0, 2 ^ 57) (by decide)) (by omega)
    · have h : translate stLocks stLocks.core.id stLocks.launch.asid 0x300000 = some (0x10F#64, 2 ^ 36) := by decide +kernel
      have hp : peerPort stLocks (physOf (0x10F#64, 2 ^ 36) 0x300000) = none := by decide +kernel
      show ¬ Lacks stLocks .write 0x300000
      rw [Lacks, h]; simp only []; rw [hp]; decide +kernel

theorem scratch_failsAt : failsAt 0 4089 (teamScratchChecks stMem .read 8) ∧ failsAt 1 4096 (teamScratchChecks stMem .write 8)
    ∧ failsAt 2 64 (teamScratchChecks stLocks .read 8) := by
  refine ⟨⟨by simp, ⟨_, rfl, by simp⟩⟩, ⟨?_, ⟨_, rfl, by decide⟩⟩, ⟨?_, ⟨_, rfl, show lockHit stLocks _ _ _ 1 .read 64 8 ≠ none by decide +kernel⟩⟩⟩
  · intro x hx; simp only [teamScratchChecks, List.take_succ_cons, List.take_zero, List.mem_cons, List.not_mem_nil, or_false] at hx; subst hx; decide
  · intro x hx; simp only [teamScratchChecks, List.take_succ_cons, List.take_zero, List.mem_cons, List.not_mem_nil, or_false] at hx
    rcases hx with rfl | rfl <;> decide

/-- The addresses of the words, at the place where each check meets its boundary; a varying word's first bad lane is lane 1. -/
theorem witness_AccessChecks : (∀ i ∈ [Instr.ld false (.s 4) (.s 3) 3#2 false false 0#6, .ldsx false (.v 4) (.a 3) 2#2 false false 0#6,
      .st false (.v 4) (.a 3) 2#2 false 0#6, .ld false (.s 4) (.s 1) 3#2 false false 1#6, .amo false (.s 4) (.s 3) 3#2 false 0#4 1#2,
      .amor false (.s 4) (.s 3) 3#2 false 0#4 1#2, .cas false (.s 6) (.s 3) 3#2 false 1#2, .ldsc false (.s 4) (.s 2) 3#2 false 1#6,
      .stsc false (.s 4) (.s 2) 3#2 false 1#6], ReadyFor i stMem)
    ∧ stMem.launch.lr.det = false ∧ IsLowest stMem.sq.em 0
    ∧ (memAddr stMem (.s 3) 0#6 3#2 0 = 0x300001 ∧ memAddr stMem (.s 1) 1#6 3#2 0 = 0x1000000 ∧ memAddr stMem (.s 2) 1#6 3#2 0 = 4096)
    ∧ (memAddr stMem (.a 3) 0#6 2#2 0 % memBytes 2#2 = 0 ∧ memAddr stMem (.a 3) 0#6 2#2 1 % memBytes 2#2 ≠ 0) :=
  ⟨readyAll_of (by decide +kernel), rfl, ⟨by decide, fun k h => absurd h (by omega)⟩, by decide +kernel, by decide +kernel⟩

/-- A pending load of 8 bytes in lane 31, one of a signed byte in lane 0, a uniform one of 8 bytes, and scratch loads of both kinds; one
byte is on its way in the squad's queue, one in the core's merge unit and one at its die. -/
def loads0 : List Prod := [⟨0, .load false 3#2 false true false [(31, 0x300000)], wide 3#2 (.v 62), [], 0⟩,
  ⟨1, .load false 0#2 true true false [(0, 0x300FFF)], wide 0#2 (.v 5), [], 0⟩, ⟨2, .load false 3#2 false false true [(0, 0x300100)], wide 3#2 (.s 4), [], 0⟩,
  ⟨3, .load true 3#2 false true true [(0, 4088)], wide 3#2 (.s 5), [], 0⟩, ⟨4, .load true 3#2 false true false [(31, 4088)], wide 3#2 (.v 60), [], 0⟩]
def stLoad : State := { stMem.onSq (fun q => { q with seq := 6, prods := loads0, storeq := [⟨1, .store [(0x300100, 1#8)]⟩, ⟨2, .scratch [(4090, 2#8)]⟩] }) with
  core := { stMem.core with merged := [⟨4, ⟨1, 0, 0⟩, 0, [(0x300101, 3#8)]⟩] }
  dies := ⟨#[{ Die.fresh 0 with pend := [⟨5, ⟨1, 0, 0⟩, 0, [(0x300102, 4#8)]⟩] }, Die.fresh 1, Die.fresh 2, Die.fresh 3], rfl⟩ }

theorem witness_LoadPerformed : (stLoad.sq.status ≠ .absent ∧ stLoad.team.status ≠ .absent ∧ stLoad.team.key = stLoad.sq.key.team ∧ stLoad.team.core = stLoad.core.id
      ∧ stLoad.launch.status ≠ .absent ∧ stLoad.launch.lid = stLoad.sq.key.lid ∧ stLoad.part.nodeAges = [])
    ∧ (∀ p ∈ loads0, stLoad.sq.prods.find? (·.seq == p.seq) = some p)
    ∧ (∀ x ∈ [(0, [(31, 0x300000)]), (1, [(0, 0x300FFF)]), (2, [(0, 0x300100)])],
        loadReady stLoad stLoad.core.id stLoad.launch.asid stLoad.sq (loads0.getD x.1 default) x.2 = true)
    ∧ (readHeld stLoad.sq 3 = false ∧ readHeld stLoad.sq 4 = false) ∧ 62 % 2 = 0 ∧ 60 % 2 = 0
    ∧ (∀ va ∈ [0x300000, 0x300FFF, 0x300100], phys stLoad stLoad.core.id stLoad.launch.asid va = some va)
    ∧ lastCell (cellsOnWay stLoad 0 ++ queuedCells stLoad stLoad.sq 0 1 2) 0x300100 = some 1#8
    ∧ lastCell (cellsOnWay stLoad 0 ++ queuedCells stLoad stLoad.sq 0 1 2) 0x300101 = some 3#8
    ∧ lastCell (cellsOnWay stLoad 0 ++ queuedCells stLoad stLoad.sq 0 1 2) 0x300102 = some 4#8 := by
  decide +kernel

/-- Values that stand ready: of the oldest load, and of one behind a pending load. -/
def stReady : State := stMem.onSq (fun q => { q with seq := 3, prods := [⟨0, .load false 2#2 false true true [(0, 0x300000)], [.s 9], [(0, [7#64])], 0⟩,
  ⟨1, .load false 2#2 false true true [(0, 0x300100)], [.s 10], [], 0⟩,
  ⟨2, .load false 3#2 false true false [(3, 0x300200), (31, 0x300208)], [.v 62, .v 63], [(3, [1#64, 2#64]), (31, [3#64, 4#64])], 0⟩] })

theorem witness_LoadPerformed_ready : (stReady.sq.prods.find? (·.seq == 0) = some ⟨0, .load false 2#2 false true true [(0, 0x300000)], [.s 9], [(0, [7#64])], 0⟩
      ∧ ¬ (∃ r ∈ stReady.sq.prods, r.seq < 0 ∧ r.kind.pendingLoad = true))
    ∧ (stReady.sq.prods.find? (·.seq == 2) = some ⟨2, .load false 3#2 false true false [(3, 0x300200), (31, 0x300208)], wide 3#2 (.v 62),
        [(3, [1#64, 2#64]), (31, [3#64, 4#64])], 0⟩ ∧ ∃ r ∈ stReady.sq.prods, r.seq < 2 ∧ r.kind.pendingLoad = true) := by decide +kernel

theorem witness_StoreIssue : (∀ i ∈ [Instr.st false (.v 62) (.a 1) 3#2 true 0#6, .st true (.s 4) (.s 1) 3#2 false 0#6, .stsc false (.s 4) (.a 2) 2#2 false 1#6,
      .stsc false (.v 4) (.s 2) 0#2 false 7#6], ReadyFor i stMem)
    ∧ memChecks stMem .write false stMem.sq.em 8 8 (accesses false (memAddr stMem (.a 1) 0#6 3#2) stMem) = none
    ∧ memChecks stMem .write true stMem.sq.em 8 8 (accesses true (memAddr stMem (.s 1) 0#6 3#2) stMem) = none
    ∧ scratchChecks stMem .write false stMem.sq.em 4 (accesses false (memAddr stMem (.a 2) 1#6 2#2) stMem) = none
    ∧ scratchChecks stMem .write false stMem.sq.em 1 (accesses false (memAddr stMem (.s 2) 7#6 0#2) stMem) = none
    ∧ ReadyFor (.st false (.v 4) (.a 3) 2#2 true 0#6) (noEm stMem) ∧ ReadyFor (.stsc false (.v 4) (.a 3) 2#2 true 0#6) (noEm stMem)
    ∧ memChecks (noEm stMem) .write false 0#32 4 4 (accesses false (memAddr (noEm stMem) (.a 3) 0#6 2#2) (noEm stMem)) = none
    ∧ scratchChecks (noEm stMem) .write false 0#32 4 (accesses false (memAddr (noEm stMem) (.a 3) 0#6 2#2) (noEm stMem)) = none :=
  ⟨readyAll_of (by decide +kernel), by decide +kernel, by decide +kernel, by decide +kernel, by decide +kernel, readyFor_of (by decide +kernel),
    readyFor_of (by decide +kernel), by decide +kernel⟩

/-- A queue whose oldest entry is a scratch store, and one whose oldest entry is a store across two lines. -/
def stQueue (k : SKind) : State := stMem.onSq (fun q => { q with seq := 3, storeq := [⟨1, k⟩, ⟨2, .scratch [(8, 1#8)]⟩] })
/-- An entry in the core's merge unit, and one pending at the die L2 of die 1; the first byte of die 1 is at 192 GiB. -/
def entry0 : Pending := ⟨4, ⟨1, 0, 0⟩, 1, [(0x300000, 7#8)]⟩
def entry1 : Pending := ⟨5, ⟨1, 0, 0⟩, 1, [(192 * 2 ^ 30, 8#8)]⟩
def stMerged : State := { stMem with
  core := { stMem.core with merged := [entry0, entry1], mstamp := 6 }, dies := ⟨#[{ Die.fresh 0 with pend := [entry1], pstamp := 6 }, Die.fresh 1, Die.fresh 2, Die.fresh 3], rfl⟩ }

theorem witness_StoreTravels : (let s := stQueue (.scratch [(4095, 9#8)])
      s.findSq ⟨1, 0, 0⟩ = some s.sq ∧ s.findTeam ⟨1, 0⟩ = some team0 ∧ mergeOk s 0 1 s.sq ⟨1, .scratch [(4095, 9#8)]⟩ = true)
    ∧ (team0.core = 0 ∧ team0.scratch.wf = true ∧ ((stQueue (.scratch [])).getLaunch 1).asid = 1)
    ∧ (let k := SKind.store [(0x30007F, 1#8), (0x300080, 2#8)]; mergeOk (stQueue k) 0 1 (stQueue k).sq ⟨1, k⟩ = true)
    ∧ (stMerged.mem.wf = true ∧ oldestOfLine (stMerged.getCore 0).merged entry0.stamp = some entry0 ∧ (∀ c ∈ entry0.cells, homeOf stMerged c.1 = dieOf 0))
    ∧ (oldestOfLine (stMerged.getCore 0).merged entry1.stamp = some entry1 ∧ (∃ c ∈ entry1.cells, homeOf stMerged c.1 ≠ dieOf 0)
      ∧ (∃ x ∈ stMerged.dies.toList, x.id = dieOf 0) ∧ (stMerged.getDie (dieOf 0)).pend.length < 524288)
    ∧ oldestOfLine (stMerged.getDie 0).pend entry1.stamp = some entry1 := by
  decide +kernel

/-- The launch is deterministic; then another squad of its team stands before this one by lclk. -/
def stDet : State := { stMem with launch := { launch0 with lr := { launch0.lr with det := true } } }
def stAfter : State := { stDet.onSq (fun q => { q with lclk := 1#64 }) with squads := [{ sq0 with key := ⟨1, 0, 1⟩ }] }

theorem witness_AtomicIssue : (∀ i ∈ [Instr.amo false (.v 4) (.a 1) 2#2 true 11#4 3#2, .amo false (.s 4) (.s 1) 3#2 false 8#4 0#2,
      .amor false (.v 62) (.a 1) 3#2 false 0#4 2#2, .amor false (.s 4) (.s 1) 3#2 false 0#4 1#2, .cas false (.v 60) (.a 1) 3#2 false 3#2,
      .cas false (.s 30) (.s 1) 2#2 false 2#2], ReadyFor i stMem)
    ∧ (∀ i ∈ [Instr.amo false (.v 4) (.a 3) 2#2 true 0#4 0#2, .amor false (.v 4) (.a 3) 2#2 true 0#4 3#2, .cas false (.v 4) (.a 3) 2#2 true 0#2], ReadyFor i (noEm stMem))
    ∧ (∀ i ∈ [Instr.amor false (.s 4) (.s 1) 3#2 false 0#4 1#2, .cas false (.s 30) (.s 1) 3#2 false 3#2, .amo false (.s 4) (.s 1) 3#2 false 8#4 3#2,
      .amor false (.s 4) (.s 1) 3#2 false 0#4 0#2, .cas false (.s 30) (.s 1) 3#2 false 0#2], ReadyFor i stDet)
    ∧ (∀ i ∈ [Instr.amor false (.s 4) (.s 1) 3#2 false 0#4 0#2, .amo false (.s 4) (.s 1) 3#2 false 8#4 3#2], ReadyFor i stAfter)
    ∧ (stMem.launch.lr.det = false ∧ stDet.launch.lr.det = true ∧ stDet.sq.em ≠ 0#32)
    ∧ (∀ g ∈ [0#2, 1#2, 2#2, 3#2], turnHeld (g == 0#2) stMem = false ∧ turnHeld (g == 0#2) stDet = false)
    ∧ (∃ q ∈ stAfter.allSquads, q.key.lid = stAfter.sq.key.lid ∧ q.key ≠ stAfter.sq.key ∧ q.key.team = stAfter.sq.key.team ∧ q.status = .live
      ∧ uncounted stAfter q = false ∧ q.lclk.toNat < stAfter.sq.lclk.toNat)
    ∧ memChecks stMem .atomic false stMem.sq.em 4 4 (accesses false (memAddr stMem (.a 1) 0#6 2#2) stMem) = none
    ∧ memChecks stMem .atomic false stMem.sq.em 8 8 (accesses false (memAddr stMem (.a 1) 0#6 3#2) stMem) = none
    ∧ memChecks stMem .atomic true stMem.sq.em 8 8 (accesses true (memAddr stMem (.s 1) 0#6 3#2) stMem) = none
    ∧ memChecks stMem .atomic true stMem.sq.em 4 4 (accesses true (memAddr stMem (.s 1) 0#6 2#2) stMem) = none
    ∧ memChecks stDet .atomic true stDet.sq.em 8 8 (accesses true (memAddr stDet (.s 1) 0#6 3#2) stDet) = none :=
  ⟨readyAll_of (by decide +kernel), readyAll_of (by decide +kernel), readyAll_of (by decide +kernel), readyAll_of (by decide +kernel), by decide +kernel⟩

/-- A core of die 1 whose squad's oldest entry is an atomic at die scope to memory of die 0; and one of core 0 with bytes on their way. -/
def stFar : State := let s := stQueue (.atomic 31 0x300000 .die 8 0#4 none 5#64 true)
  { s with core := { s.core with id := 48 }, team := { s.team with core := 48 } }
def stNear : State := { stQueue (.atomic 31 0x300008 .team 8 0#4 none 5#64 true) with core := { stMem.core with merged := [⟨4, ⟨1, 0, 0⟩, 0, [(0x300008, 3#8)]⟩] } }

/-- A compare-and-swap that holds and one that does not, a maximum of FP32, and an addition at system scope. -/
theorem witness_AtomicPerformed : (∀ k ∈ [SKind.atomic 0 0x300000 .device 8 8#4 (some 0#64) 5#64 true, .atomic 0 0x300000 .team 8 8#4 (some 1#64) 5#64 true,
      .atomic 31 0x300004 .system 4 11#4 none 0xFFFFFFFF#64 false, .atomic 3 0x300008 .system 8 0#4 none 0xFFFFFFFFFFFFFFFF#64 true],
    let s := stQueue k
    (mergeOk s 0 (s.getLaunch 1).asid s.sq ⟨1, k⟩ = true ∧ s.findSq ⟨1, 0, 0⟩ = some s.sq ∧ s.findTeam ⟨1, 0⟩ = some team0)
    ∧ (s.sq.storeq = ⟨1, k⟩ :: [⟨2, .scratch [(8, 1#8)]⟩] ∧ s.mem.wf = true ∧ (s.getCore 0).merged = [] ∧ (s.getDie (dieOf 0)).pend = [])
    ∧ ∀ va ∈ [0x300000, 0x300004, 0x300008], phys s 0 1 va = some va)
    ∧ (mergeOk stFar 48 1 stFar.sq ⟨1, .atomic 31 0x300000 .die 8 0#4 none 5#64 true⟩ = true ∧ stFar.findTeam ⟨1, 0⟩ = some stFar.team ∧ phys stFar 48 1 0x300000 = some 0x300000
      ∧ homeOf stFar 0x300000 ≠ dieOf 48 ∧ (∃ y ∈ stFar.dies.toList, y.id = dieOf 48) ∧ ∀ a ∈ span 0x300000 8, homeOf stFar a = homeOf stFar 0x300000)
    ∧ (mergeOk stNear 0 1 stNear.sq ⟨1, .atomic 31 0x300008 .team 8 0#4 none 5#64 true⟩ = true ∧ lastCell (cellsOnWay stNear 0) 0x300008 = some 3#8) := by
  decide +kernel

theorem witness_OrderingWords : (∀ i ∈ [Instr.fence true 2#2 4#3, .ifence false, .l1inv false, .pf false (.v 62) 3#2 true false 63#6], ReadyFor i stMem)
    ∧ ReadyFor (.ifence false) (stQueue (.scratch []))
    ∧ (storesHome stMem.sq.seq stMem = true ∧ storesHome (stQueue (.scratch [])).sq.seq (stQueue (.scratch [])) = false ∧ stMem.mem.wf = true)
    ∧ ((Instr.waite false (.v 63) .lclk).wf = true ∧ stMem.sq.settled (.v 63) = true ∧ stMem.sq.settled .lclk = true)
    ∧ (let q := (stMem.onSq (fun q => q.setFE (.v 63) false)).sq; q.isFull (.v 63) = false ∧ q.interlocked (.v 63) = false ∧ q.settled .lclk = true) :=
  ⟨readyAll_of (by decide +kernel), readyFor_of (by decide +kernel), by decide +kernel⟩

/-! ## Witnesses: shoes and barriers -/

/-- Shoe 15 has 4 slots of 64 bytes from scratch 0x80; shoe 14 is not configured; shoe 0 is not the team's. Barrier 15
expects 2 arrivals and has 1. -/
def shoe15 : Shoe := { Shoe.zero with conf := 0x401000080#64, filled := 1, free := 1, ctaken := 1, ptaken := 1, head := 3, tail := 3 }
def teamShoe : Team := { team0 with shoeMask := 0xFFFE#16, shoes := vset team0.shoes 15 shoe15, bars := vset team0.bars 15 ⟨0xFFFFFFFF#32, 2, 1⟩ }
def stShoe : State := { withS [(1, 15#64), (2, 1#64), (3, 2#64), (4, 0xFFFFFFFF#64), (6, 14#64), (7, 0x1F#64)] st0 with team := teamShoe }
/-- A command in flight copies into shoe 15; a store of the squad is queued. -/
def stShoeBusy : State := { stShoe with cmds := [{ (default : Cmd) with id := 7, k := ⟨1, 0, 0⟩, fn := 1, tr := { TensorRec.ofBytes [] with dkind := 3 }, sb := 15#64 }] }
def stShoeHeld : State := stShoe.onSq (fun q => { q with seq := 1, storeq := [⟨0, .scratch [(8, 1#8)]⟩] })

theorem witness_ShoeWords : (∀ i ∈ [Instr.shtake false (.s 5) (.s 1) false, .shtake false (.s 5) (.s 1) true, .shput false (.s 1) (.s 2) false,
      .shput false (.s 1) (.s 2) true, .shqry false (.s 5) (.s 1)] ++ [Opnd.s 0, .s 6, .s 7].flatMap (fun a => [Instr.shtake false (.s 5) a true,
        .shput false a (.s 2) false, .shqry false (.s 5) a]) ++ [.shput false (.s 1) (.s 0) true, .shput false (.s 1) (.s 3) false], ReadyFor i stShoe)
    ∧ ReadyFor (.shput false (.s 1) (.s 2) true) stShoeHeld ∧ (∀ i ∈ [Instr.shtake false (.s 5) (.s 1) true, .shput false (.s 1) (.s 2) true], ReadyFor i stShoeBusy)
    ∧ namesShoe (uval stShoe (.s 1)) 15 stShoe
    ∧ (shoeBusy stShoe stShoe.team.key 15 = false ∧ uval stShoe (.s 2) ≠ 0#64 ∧ putsDue 15 true stShoe = 0 ∧ (uval stShoe (.s 2)).toNat ≤ shoe15.ctaken
      ∧ (uval stShoe (.s 2)).toNat ≤ shoe15.ptaken)
    ∧ (releasedBefore stShoe.sq stShoe.sq.seq = true ∧ releasedBefore stShoeHeld.sq stShoeHeld.sq.seq = false)
    ∧ (16 ≤ (uval stShoe (.s 7)).toNat ∧ stShoe.team.shoeMask.getLsbD ((uval stShoe (.s 0)).toNat % 16) = false ∧ (vget stShoe.team.shoes 14).nslot = 0)
    ∧ (uval stShoe (.s 0) = 0#64 ∧ shoe15.ctaken < (uval stShoe (.s 3)).toNat + putsDue 15 false stShoe ∧ shoeBusy stShoeBusy stShoeBusy.team.key 15 = true) :=
  ⟨readyAll_of (by decide +kernel), readyFor_of (by decide +kernel), readyAll_of (by decide +kernel), ⟨by decide +kernel, by decide, by decide⟩, by decide +kernel⟩

/-- Takes of both sides wait on shoe 15. -/
def stTake : State := { stShoe with
  sq := { stShoe.sq with seq := 2, prods := [⟨0, .take 15#4 false, [.s 5], [], 0⟩, ⟨1, .take 15#4 true, [.s 6], [], 0⟩] }
  team := { teamShoe with shoes := vset teamShoe.shoes 15 { shoe15 with ctakes := [(⟨1, 0, 0⟩, 0)], ptakes := [(⟨1, 0, 0⟩, 1)] } } }

/-- The take of the fill side stands behind a BAR.sync that has not completed. -/
def stTakeSync : State := stTake.onSq (fun q => { q with fences := [⟨⟨1, 0, 0⟩, 0, true, false, false, true, false, .team, none, none⟩] })

/-- A value of SHOEn that R217 does not refuse: no command is in flight, and the shoe is at rest. -/
theorem shoe_accepts (s : State) (n : Nat) (x : DWord) (hc : s.cmds = []) (h : (x.extractLsb' 40 24 = 0#24 ∧ x.extractLsb' 20 4 = 0#4)
    ∧ ¬ ((x.extractLsb' 32 8).toNat ≠ 0 ∧ (x.extractLsb' 24 8).toNat = 0)
    ∧ (x.extractLsb' 0 20).toNat + 64 * (x.extractLsb' 24 8).toNat * (x.extractLsb' 32 8).toNat ≤ s.team.scr
    ∧ ((vget s.team.shoes n).ctakes = [] ∧ (vget s.team.shoes n).ptakes = []) ∧ (vget s.team.shoes n).ctaken = 0 ∧ (vget s.team.shoes n).ptaken = 0) :
    ¬ RefusesShoe s s.team n x := by
  obtain ⟨⟨h1, h2⟩, h3, h4, ⟨h5, h6⟩, h7, h8⟩ := h
  rintro (k | k | k | k | k | k | k | k | ⟨c, k, -⟩)
  · exact k h1
  · exact k h2
  · exact h3 k
  · omega
  · exact k h5
  · exact k h6
  · exact k h7
  · exact k h8
  · rw [hc] at k; cases k

theorem witness_ShoeEvents : stShoe.findTeam ⟨1, 0⟩ = some teamShoe ∧ teamShoe.shoeMask.getLsbD 14 = true
    ∧ (¬ RefusesShoe stShoe teamShoe 14 0x101000000#64 ∧ RefusesShoe stShoe teamShoe 15 0#64 ∧ RefusesShoe stShoe teamShoe 14 0xFF000000FFFFF#64)
    ∧ ((∀ l ∈ stTake.sq.late, 1 ≤ l.1) ∧ (∀ f ∈ stTake.sq.fences, f.barrier = true → 1 ≤ f.seq)
      ∧ ¬ ∀ f ∈ stTakeSync.sq.fences, f.barrier = true → 1 ≤ f.seq)
    ∧ stTake.findSq ⟨1, 0, 0⟩ = some stTake.sq ∧ stTake.sq.prods.find? (·.seq == 0) = some ⟨0, .take 15#4 false, [.s 5], [], 0⟩
    ∧ stTake.sq.prods.find? (·.seq == 1) = some ⟨1, .take 15#4 true, [.s 6], [], 0⟩ ∧ stTake.findTeam ⟨1, 0⟩ = some stTake.team
    ∧ (vget stTake.team.shoes 15).ctakes = [(⟨1, 0, 0⟩, 0)] ∧ (vget stTake.team.shoes 15).ptakes = [(⟨1, 0, 0⟩, 1)]
    ∧ (vget stTake.team.shoes 15).filled ≠ 0 ∧ (vget stTake.team.shoes 15).free ≠ 0 := by
  refine ⟨by decide +kernel, by decide +kernel, ⟨shoe_accepts stShoe 14 _ rfl (by decide +kernel), .inr (.inr (.inr (.inr (.inr (.inr (.inl (by decide +kernel))))))),
    .inl (by decide +kernel)⟩, by decide +kernel, by decide +kernel⟩

/-- A squad that waits at barrier 15 in its last phase, and one whose phase has passed. -/
def stSync (p : BitVec 32) : State := stShoe.onSq (fun q => { q with syncw := some (p, 15#4), wait := some .barSync })

theorem witness_BarrierWords : (∀ i ∈ [Instr.barArrive false (.s 5) 3#5 15#4, .barSync false 3#5 15#4, .barArrive false (.s 5) 2#5 15#4, .barSync false 1#5 0#4,
      .barSync false 3#5 0#4, .barWait false 2#5 15#4, .barWait false 4#5 15#4], ReadyFor i stShoe)
    ∧ (∀ i ∈ [Instr.barArrive false (.s 5) 3#5 15#4, .barSync false 3#5 0#4], ReadyFor i stShoeHeld)
    ∧ (let c := (uval stShoe (sReg 3#5)).toNat; 1 ≤ c ∧ c ≤ stShoe.team.nsq ∧ (vget stShoe.team.bars 15).need = c ∧ arrivalsDue 15#4 stShoe = []
      ∧ (vget stShoe.team.bars 15).arr + 1 = c ∧ (vget stShoe.team.bars 0).need = 0 ∧ (vget stShoe.team.bars 0).arr + 1 ≠ c)
    ∧ ¬ ((vget stShoe.team.bars 15).need = 0 ∨ (vget stShoe.team.bars 15).need = (uval stShoe (sReg 2#5)).toNat)
    ∧ ¬ ((uval stShoe (sReg 1#5)).toNat ≤ stShoe.team.nsq) ∧ stShoe.sq.status ≠ .absent
    ∧ (vget stShoe.team.bars 15).phase ≠ (uval stShoe (sReg 2#5)).setWidth 32 ∧ (vget stShoe.team.bars 15).phase = (uval stShoe (sReg 4#5)).setWidth 32
    ∧ (let s := stSync 5#32; s.findSq ⟨1, 0, 0⟩ = some s.sq ∧ s.findTeam ⟨1, 0⟩ = some teamShoe ∧ s.sq.syncw = some (5#32, 15#4))
    ∧ (vget teamShoe.bars (15#4).toNat).phase ≠ 5#32 ∧ (vget teamShoe.bars (15#4).toNat).phase = 0xFFFFFFFF#32
    ∧ (stSync 0xFFFFFFFF#32).findSq ⟨1, 0, 0⟩ = some (stSync 0xFFFFFFFF#32).sq :=
  ⟨readyAll_of (by decide +kernel), readyAll_of (by decide +kernel), by decide +kernel⟩

/-! ## Witnesses: tiles, accumulators and the matrix pipe -/

/-- Rows from s1 (3 MiB), columns from a1; s4 is 15 and s5 is 31, s6 is 63; 128 lines of stock; FMT of two binary8 formats. -/
def stTile : State := { (withS [(1, 0x300000#64), (4, 15#64), (5, 31#64), (6, 63#64), (7, 1#64 <<< 32)] stMem) with
  team := { team0 with slen := 128, owner := [0#8, 0#8, 0#8, 0#8, 0#8, 0#8, 0#8, 1#8] } }
def stTile0 : State := stTile.onSq (fun q => { q with fmt := 0x21#32 })

theorem witness_TileWordsMove : (∀ i ∈ [Instr.tld false 7#3 true 4#5 0#5 (.a 1) true 0#2, .tld false 7#3 false 5#5 0#5 (.s 1) false 0#2, .tld false 0#3 false 0#5 28#5 (.s 1) false 3#2,
      .tst false 7#3 true 0#5 12#5 (.a 1) true 3#2, .tst false 0#3 false 5#5 0#5 (.s 1) true 0#2, .tmov false 7#3 true 4#5 0#5 (.v 63) true true,
      .tmov false 7#3 false 5#5 0#5 (.v 63) false true, .tmov false 7#3 false 5#5 0#5 (.v 63) false false, .tmov false 7#3 true 4#5 0#5 (.v 63) false false,
      .tld false 7#3 true 4#5 0#5 (.a 1) true 1#2, .tst false 7#3 false 5#5 1#5 (.s 1) false 0#2, .tmov false 7#3 true 4#5 1#5 (.v 63) false true], ReadyFor i stTile)
    ∧ (∀ i ∈ [Instr.tld false 7#3 true 6#5 0#5 (.a 1) true 0#2, .tst false 7#3 true 6#5 0#5 (.a 1) true 0#2, .tmov false 7#3 true 6#5 0#5 (.v 63) true true], ReadyFor i (noEm stTile))
    ∧ ((uval stTile (sReg 4#5)).toNat + (0#5).toNat + (0#2).toNat ≤ 15 ∧ (uval stTile (sReg 5#5)).toNat + (0#5).toNat + (0#2).toNat ≤ 31)
    ∧ (15 < (uval stTile (sReg 4#5)).toNat + (0#5).toNat + (1#2).toNat ∧ 31 < (uval stTile (sReg 5#5)).toNat + (1#5).toNat + (0#2).toNat
      ∧ 15 < (uval stTile (sReg 4#5)).toNat + (1#5).toNat)
    ∧ memChecks stTile .read false stTile.sq.em 4 4 ((tileAccesses stTile true 15 0 (.a 1)).map (·.1)) = none
    ∧ memChecks stTile .read true stTile.sq.em 4 4 ((tileAccesses stTile false 28 3 (.s 1)).map (·.1)) = none
    ∧ memChecks stTile .write false stTile.sq.em 4 4 ((tileAccesses stTile true 12 3 (.a 1)).map (·.1)) = none
    ∧ tBusy stTile.sq 7 = false ∧ readBlocked stTile stTile.sq.seq ((tileAccesses stTile true 15 0 (.a 1)).map (·.1.2)) = false ∧ stTile.sq.em ≠ 0#32 :=
  ⟨readyAll_of (by decide +kernel), readyAll_of (by decide +kernel), by decide +kernel⟩

/-- Only lane 31 is active. -/
def stTile31 : State := stTile.onSq (fun q => { q with em := 0x80000000#32 })

theorem witness_AccumulatorWords : (∀ i ∈ [Instr.zclr false 0#3 6#3, .zclr false 6#3 0#3, .zclr false 1#3 6#3, .zclr false 7#3 7#3, .zrd false 6#3 true 6#5 0#5 (.v 63) 0#2,
        .zrd false 0#3 false 0#5 3#5 (.v 7) 1#2, .zrd false 6#3 false 0#5 0#5 (.s 31) 2#2, .zrd false 7#3 true 0#5 0#5 (.v 0) 0#2, .zrd false 6#3 true 6#5 1#5 (.v 63) 0#2,
        .zrd false 0#3 false 0#5 4#5 (.v 7) 1#2], ReadyFor i stTile)
    ∧ ReadyFor (.zclr false 7#3 0#3) (noEm stTile)
    ∧ (∀ i ∈ [Instr.zxf false 6#3 1#5 true false, .zxf false 6#3 1#5 false true, .zxf false 7#3 1#5 true true, .zxf false 6#3 3#5 true false], ReadyFor i stTile31)
    ∧ (stTile.core.zbad = [] ∧ stTile.core.zpoison = [] ∧ stTile31.core.zbad = [] ∧ stTile31.core.zpoison = [] ∧ stTile.sq.em ≠ 0#32 ∧ stTile31.sq.em ≠ 0#32)
    ∧ ((zPhys stTile ((0#3).toNat + (6#3).toNat)).isSome = true ∧ (∀ k, k ≤ 6 → zBusy stTile.sq (k + 0) = false)
      ∧ zPhys stTile ((1#3).toNat + (6#3).toNat) = none ∧ zPhys stTile (7#3).toNat = none ∧ zPhys stTile (6#3).toNat = some 6 ∧ zPhys stTile31 (7#3).toNat = none)
    ∧ ((uval stTile (sReg 6#5)).toNat + (0#5).toNat ≤ 63 ∧ (uval stTile (sReg 0#5)).toNat + (3#5).toNat ≤ outBytes stTile.sq.fmt - 1 ∧ tBusy stTile.sq 7 = false)
    ∧ (63 < (uval stTile (sReg 6#5)).toNat + (1#5).toNat ∧ outBytes stTile.sq.fmt ≤ (uval stTile (sReg 0#5)).toNat + (4#5).toNat)
    ∧ memChecks stTile31 .write false stTile31.sq.em 8 8 ((zAccesses stTile31 (uval stTile31 (sReg 1#5))).map (·.1)) = none
    ∧ memChecks stTile31 .read false stTile31.sq.em 8 8 ((zAccesses stTile31 (uval stTile31 (sReg 1#5))).map (·.1)) = none
    ∧ readBlocked stTile31 stTile31.sq.seq ((zAccesses stTile31 (uval stTile31 (sReg 1#5))).map (·.1.2)) = false
    ∧ (stTile31.sq.em.getLsbD 31 = true ∧ (∀ k, k < 31 → stTile31.sq.em.getLsbD k = false) ∧ (uval stTile31 (sReg 3#5)).toNat % 8 ≠ 0)
    ∧ (memChecks stTile31 .read false stTile31.sq.em 8 8 ((zAccesses stTile31 (uval stTile31 (sReg 3#5))).map (·.1))).isSome = true :=
  ⟨readyAll_of (by decide +kernel), readyFor_of (by decide +kernel), readyAll_of (by decide +kernel), by decide +kernel⟩

/-- The record of a word that starts on tile z`z` of the state. -/
def startOf (i : Instr) (b : BitVec 5) (s : State) : MProg :=
  ⟨s.sq.seq, 0, 0, false, i, uval s (sReg b), 0#64, s.sq.fmt, s.sq.em, Vector.replicate 32 0#2304, false⟩

/-- Eight steps of MMA and four of MMAS read 128 lines of stock; A is tile 6 and the next. -/
theorem witness_MatrixIssue : let i1 := Instr.mma false 6#3 6#3 0#5 0#5 7#3 true
    let s2 : State := { stTile0 with sq := { stTile0.sq with t := vset stTile0.sq.t 7 (Vector.replicate 32 (BitVec.ofNat 512 (0x44444444 * (2 ^ 512 / (2 ^ 32 - 1))))) } }
    let i2 := Instr.mmas false 0#3 6#3 0#5 0#5 7#3 3#3 false
    ReadyFor i1 stTile0 ∧ ReadyFor i2 s2 ∧ ReadyFor i1 (noEm stTile0) ∧ ReadyFor (.mma false 7#3 0#3 0#5 0#5 0#3 false) stTile0
    ∧ (zPhys stTile0 7 = none ∧ stTile0.sq.em ≠ 0#32 ∧ zPhys stTile0 6 = some 6 ∧ (6#3).toNat + (7#3).toNat / 4 ≤ 7 ∧ zBusy stTile0.sq 6 = false
      ∧ stTile0.sq.mprog.length < 2 ∧ stTile0.sq.mkeep = none ∧ stTile0.core.zbad = [] ∧ stTile0.core.zpoison = [] ∧ fmtSC stTile0.sq.fmt = false)
    ∧ (∀ x ∈ [(stTile0, startOf i1 0#5 stTile0), (s2, startOf i2 0#5 s2)], matrixFormat x.1 x.2 = none ∧ matrixDescriptor x.1 x.2 = none ∧ matrixStock x.1 x.2 = none
      ∧ matrixLock x.1 x.2 = none ∧ matrixMeta x.1 x.2 = none
      ∧ doomedWord x.1.core x.1.sq x.1.obj.arith { x.2 with before := vget x.1.core.z 6, ovf := x.1.core.ovf.getLsbD 6 } (vget x.1.core.z 6) = false) :=
  ⟨readyFor_of (by decide +kernel), readyFor_of (by decide +kernel), readyFor_of (by decide +kernel), readyFor_of (by decide +kernel), by decide +kernel, by decide +kernel⟩

/-- A word on tile 6 at its last step, on a powered core whose cluster holds a token. -/
def stStep : State := { stTile0 with
  sq := { stTile0.sq with mprog := [{ startOf (.mma false 6#3 0#3 0#5 0#5 0#3 false) 0#5 stTile0 with start := 0 }] }
  core := { stTile0.core with gated := 0#4 } }

/-- Other formats and places of the stock: `f` is FMT, the stock begins at line `b` and has `n` lines; s8 is a line, or names more
columns than there are, s9 a line near the end, and an STK in flight writes line 3. -/
def stMatrix (f : Word) (b n x : Nat) : State := { (withS [(8, BitVec.ofNat 64 x), (9, 210#64)] (stTile.onSq (fun q => { q with fmt := f }))) with
  team := { stTile.team with sbase := b, slen := n } }
def stMatrixLock : State := { stTile0 with core := { stTile0.core with locks := [⟨63, 7, true, 2, ⟨1, 0⟩, 16, 17⟩] } }

/-- The checks that a word passes on its way to the one it fails. -/
def passes (n : Nat) (i : Instr) (b sm : BitVec 5) (s : State) : Bool :=
  let r : MProg := { startOf i b s with scd := if fmtSC s.sq.fmt then uval s (sReg sm) else 0#64 }
  s.sq.em != 0#32 && zPhys s 6 == some 6 && !zBusy s.sq 6 && s.sq.mprog.isEmpty && s.sq.mkeep.isNone && s.core.zbad.isEmpty && s.core.zpoison.isEmpty
    && ready i s && [matrixFormat s r, matrixDescriptor s r, matrixStock s r, matrixLock s r].take n == List.replicate n none

theorem witness_MatrixIssue_faults : let w := fun b sm f => Instr.mma false 6#3 6#3 b sm f false; let v := Instr.mmas false 6#3 6#3 0#5 0#5 7#3 3#3 false
    (passes 0 (w 0#5 0#5 7#3) 0#5 0#5 stTile = true ∧ fmtAF stTile.sq.fmt = 0 ∧ passes 0 v 0#5 0#5 (stMatrix 0x108#32 0 128 0) = true
      ∧ isBinary8 (fmtAF 0x108#32) = false)
    ∧ (passes 1 (w 7#5 0#5 7#3) 7#5 0#5 stTile0 = true ∧ (uval stTile0 (sReg 7#5)).extractLsb' 32 32 ≠ 0#32
      ∧ passes 1 (w 8#5 0#5 7#3) 8#5 0#5 (stMatrix 0x21#32 0 128 0x800000) = true ∧ sdNcol 0x800000#64 = 64
      ∧ passes 1 (w 0#5 8#5 7#3) 0#5 8#5 (stMatrix 0x40021#32 0 128 0x100000) = true ∧ (0x100000#64).extractLsb' 20 44 ≠ 0#44)
    ∧ (passes 2 (w 0#5 0#5 7#3) 0#5 0#5 (stMatrix 0x21#32 1 128 0) = true ∧ sdLine 0#64 < 1 ∧ passes 2 (w 0#5 0#5 7#3) 0#5 0#5 (stMatrix 0x21#32 0 127 0) = true
      ∧ 0 + 127 ≤ sdLine 0#64 + 16 * (0 + 8 - 1) + 15)
    ∧ (passes 2 (w 8#5 0#5 7#3) 8#5 0#5 (stMatrix 0x40021#32 16 200 16) = true ∧ passes 2 (w 8#5 9#5 7#3) 8#5 9#5 (stMatrix 0x40021#32 16 200 16) = true
      ∧ 16 ≤ sdLine 16#64 ∧ sdLine 16#64 + 16 * (0 + 8 - 1) + 15 < 16 + 200 ∧ scLine 0#64 < 16 ∧ 16 + 200 ≤ scLine 210#64 + (0 + 8 - 1))
    ∧ (passes 3 (w 0#5 0#5 7#3) 0#5 0#5 stMatrixLock = true ∧ 16 ∈ linesRead (startOf (w 0#5 0#5 7#3) 0#5 stMatrixLock)
      ∧ ⟨63, 7, true, 2, ⟨1, 0⟩, 16, 17⟩ ∈ stockRanges stMatrixLock stMatrixLock.core.id ∧ ∀ n, n < 16 → ∀ k ∈ stockRanges stMatrixLock stMatrixLock.core.id, ¬ (k.lo ≤ n ∧ n < k.hi))
    ∧ (passes 4 (.mmas false 6#3 6#3 0#5 0#5 7#3 3#3 false) 0#5 0#5 stTile0 = true
      ∧ ∀ r, r < 32 → stTile0.sq.em.getLsbD r = true ∧ (stTile0.sq.tword 7 r 0).toNat / 16 ^ 0 % 16 / 4 ≤ (stTile0.sq.tword 7 r 0).toNat / 16 ^ 0 % 16 % 4) := by
  refine ⟨by decide +kernel, by decide +kernel, by decide +kernel, by decide +kernel, by decide +kernel, by decide +kernel⟩

/-- The team is saved; or it is to be, and its squad is at a run boundary. -/
def stStepOff (st : TeamStatus) : State := { stStep with team := { stStep.team with status := st }, sq := { stStep.sq with running := false } }

theorem witness_MatrixStep_stops : ∀ st ∈ [TeamStatus.saved, .preempting], (stStepOff st).findSq ⟨1, 0, 0⟩ = some (stStepOff st).sq
    ∧ (stStepOff st).findTeam ⟨1, 0⟩ = some (stStepOff st).team ∧ ((stStepOff st).team.status = .saved
      ∨ ((stStepOff st).team.status = .preempting ∧ (stStepOff st).sq.running = false)) := by decide +kernel

theorem witness_MatrixStep : stStep.findSq ⟨1, 0, 0⟩ = some stStep.sq ∧ (∃ tm, stStep.findTeam ⟨1, 0⟩ = some tm ∧ tm.core = 0 ∧ stepsStopped tm stStep.sq = false
      ∧ (ownedTiles tm.owner 0)[6]? = some 6)
    ∧ (∃ r, stStep.sq.mprog = [r] ∧ (mshape r.word).z = 6 ∧ trickMayStart stStep (stStep.getCore 0) r = true ∧ fmtNT r.fmt = false) :=
  ⟨by decide +kernel, ⟨stStep.team, by decide +kernel⟩, ⟨_, rfl, by decide +kernel⟩⟩

/-- Words that name the tiles of the word in progress. -/
theorem witness_TilesBusy : ReadyFor (.tld false 0#3 true 4#5 0#5 (.a 1) true 0#2) stStep ∧ ReadyFor (.zxf false 6#3 1#5 true false) stStep
    ∧ (tBusy stStep.sq 0 = true ∧ zBusy stStep.sq 6 = true ∧ zPhys stStep 6 ≠ none)
    ∧ memChecks stStep .read false stStep.sq.em 4 4 ((tileAccesses stStep true 15 0 (.a 1)).map (·.1)) = none :=
  ⟨readyFor_of (by decide +kernel), readyFor_of (by decide +kernel), by decide +kernel⟩

/-! ## Witnesses: sparse words and engines -/

/-- Regions 0 and 3 of one dimension of 65,536: 4-byte elements with a leaf that holds key 5 and a free node, and 8-byte elements
with an empty kitty (Tables 22-1 and 22-2). -/
def memSparse : Memory := ⟨[
  (0x2000, 1#8), (0x2001, 0x40#8), (0x4000, 0xF#8), (0x4001, 1#8), (0x100000, 2#8), (0x100002, 2#8), (0x100003, 4#8),
  (0x100008, 0x20#8), (0x10000c, 0x80#8), (0x100010, 0x80#8), (0x100011, 4#8), (0x100020, 1#8), (0x10002c, 1#8), (0x10003e, 1#8),
  (0x100040, 2#8), (0x100048, 2#8), (0x10004c, 1#8), (0x10005e, 1#8), (0x100488, 0xFF#8), (0x100489, 0xFF#8), (0x10049a, 1#8),
  (0x200000, 1#8), (0x200001, 2#8), (0x200005, 1#8), (0x20000a, 1#8), (0x20000c, 1#8), (0x200010, 1#8), (0x200014, 1#8),
  (0x20001a, 0x40#8), (0x200024, 1#8), (0x200028, 1#8), (0x20002c, 1#8), (0x200030, 1#8), (0x200038, 1#8), (0x2000c0, 1#8),
  (0x2000c1, 3#8), (0x2000c5, 1#8), (0x2000ca, 1#8), (0x2000cc, 1#8), (0x2000d0, 1#8), (0x2000d4, 1#8), (0x2000da, 0x40#8),
  (0x2000e0, 0xFF#8), (0x2000e1, 0xFF#8), (0x2000e2, 0xFF#8), (0x2000e3, 0xFF#8), (0x2000e4, 0xFF#8), (0x2000e5, 0xFF#8),
  (0x2000e6, 0xFF#8), (0x2000e7, 0xFF#8), (0x400000, 1#8), (0x400001, 1#8), (0x400002, 1#8), (0x400004, 0xFF#8), (0x400005, 0xFF#8),
  (0x400006, 0xFF#8), (0x400007, 0xFF#8), (0x400010, 5#8), (0x400088, 0x77#8), (0x400104, 0xFF#8), (0x400105, 0xFF#8),
  (0x400106, 0xFF#8), (0x400107, 0xFF#8)]⟩

/-- v2 and v3 hold key 5, v6 and v7 the end code; s1 names region 0 twice, s2 region 3, s3 a handle of another generation. -/
def stSparse : State := { withV [(2, 5#32), (6, 0xFFFFFFFF#32), (7, 0xFFFFFFFF#32)] (withS [(2, 3#64), (3, 0x10000#64)] st0) with mem := memSparse }

def firstNone (l : List (Option Report)) : Bool := (firstOf l).isNone

theorem witness_SparseReadIssue : (∀ i ∈ [Instr.sld false (.v 8) (.v 2) (.s 1) true true false, .sld false (.v 62) (.v 2) (.s 2) false false true,
      .scur false (.v 8) (.v 6) (.s 1) true false, .snxt false (.v 8) (.v 2) (.s 1) false true, .sisx false (.v 60) (.v 6) (.s 1) false false,
      .sld false (.v 8) (.v 6) (.s 1) false false false, .scur false (.v 8) (.v 2) (.s 3) false false], ReadyFor i stSparse)
    ∧ (∀ i ∈ [Instr.sld false (.v 8) (.v 6) (.s 3) true true false, .sisx false (.v 60) (.v 6) (.s 3) false false], ReadyFor i (noEm stSparse))
    ∧ (let h : BitVec 32 := (uval stSparse (.s 1)).setWidth 32; let g : BitVec 32 := (uval stSparse (.s 2)).setWidth 32
      let k := laneKeys stSparse (.v 2); let e := laneKeys stSparse (.v 6)
      let find := fun (h : BitVec 32) k => searchOutside stSparse h (fun rd d => findKey rd d k)
      let least := fun p => searchOutside stSparse h (fun rd d => leastFrom rd d p)
      firstNone [handleError stSparse h false, keyError stSparse h k, kittyError k (find h)]
      && firstNone [handleError stSparse g false, keyError stSparse g k, kittyError k (find g)] && firstNone [kittyError e least, kittyError k least]
      && firstNone [handleError stSparse h true, kittyError e (fun p => commonOutside stSparse h h ((readDesc stSparse 1 (handleRegion h)).count + 1) p)]
      && (keyError stSparse h e).isSome && (handleError stSparse ((uval stSparse (.s 3)).setWidth 32) false).isSome) = true
    ∧ (stSparse.sq.em ≠ 0#32 ∧ handleLive stSparse 1 ((uval stSparse (.s 3)).setWidth 32) = false) :=
  ⟨readyAll_of (by decide +kernel), readyAll_of (by decide +kernel), by decide +kernel, by decide +kernel⟩

/-- A descriptor of a home slice that does not exist (R304). -/
theorem witness_SparseReadIssue_malformed : let s : State := { stSparse with mem := memSparse.put 0x200004 1 32 }
    ReadyFor (.scur false (.v 8) (.v 2) (.s 1) false false) s ∧ handleLive s 1 ((uval s (.s 1)).setWidth 32) = true
    ∧ (readDesc s 1 (handleRegion ((uval s (.s 1)).setWidth 32))).wf s = false :=
  ⟨readyFor_of (by decide +kernel), by decide +kernel⟩

/-- Lane 31 alone is active. -/
def stSst : State := stSparse.onSq (fun q => { q with em := 1#32 <<< 31, live := 1#32 <<< 31 })

def finished (x : State × List (Nat × Nat × Nat) × SstEnd) : Bool := x.2.1.isEmpty && (match x.2.2 with | .fine => true | _ => false)

theorem finished_iff {x : State × List (Nat × Nat × Nat) × SstEnd} (h : finished x = true) : x.2.1 = [] ∧ x.2.2 = .fine := by
  obtain ⟨t, l, e⟩ := x
  cases e <;> simp_all [finished]

theorem witness_SparseStoreIssue : let i := Instr.sst false (.v 4) (.v 2) (.s 1) false false false; let h : BitVec 32 := (uval stSst (.s 1)).setWidth 32
    let todo := (laneKeys stSst (.v 2)).map (fun k => (k.1, k.2, (val32 stSst (.v 4) k.1).toNat))
    ReadyFor i stSst ∧ ReadyFor (.sst false (.v 62) (.v 6) (.s 3) false false true) stSst ∧ ReadyFor (.sst false (.v 62) (.v 6) (.s 3) false false true) (noEm stSst)
    ∧ (stSst.sq.em ≠ 0#32 ∧ stSst.sq.sst = none ∧ turnHeld false stSst = false ∧ storeHeld stSst.sq = false ∧ stSst.mem.wf = true)
    ∧ firstOf [handleError stSst h false, keyError stSst h (laneKeys stSst (.v 2)), outsideReport 1 (lanesOutside 1 stSst.launch.lr.leases h todo stSst)] = none
    ∧ (let r := acceptLanes stSst.launch.asid stSst.launch.lr.leases h stSst.sstChunk todo (freshAges (regionOf 1 h) stSst)
      r.2.1 = [] ∧ r.2.2 = .fine)
    ∧ (handleError stSst ((uval stSst (.s 3)).setWidth 32) false).isSome = true :=
  ⟨readyFor_of (by decide +kernel), readyFor_of (by decide +kernel), readyFor_of (by decide +kernel), by decide +kernel, by decide +kernel,
    finished_iff (by decide +kernel), by decide +kernel⟩

/-- A new key of region 3, whose kitty has no node; the squad has a load pending; and another squad has its turn. -/
def stDry : State := withV [(4, 1#32)] stSst
def stSstLoad : State := stSst.onSq (fun q => { q with seq := 1, prods := [⟨0, .load false 2#2 false true true [(0, 0x300000)], [.s 9], [], 0⟩] })
def stSstTurn : State := { stSst.onSq (fun q => { q with lclk := 1#64 }) with
  launch := { launch0 with lr := { launch0.lr with det := true } }, squads := [{ sq0 with key := ⟨1, 0, 1⟩ }] }

def ranDry (x : State × List (Nat × Nat × Nat) × SstEnd) : Bool := !x.2.1.isEmpty && (match x.2.2 with | .exhausted => true | _ => false)

theorem ranDry_iff {x : State × List (Nat × Nat × Nat) × SstEnd} (h : ranDry x = true) : (∃ l k v rest, x.2.1 = (l, k, v) :: rest) ∧ x.2.2 = .exhausted := by
  obtain ⟨t, _ | ⟨⟨l, k, v⟩, r⟩, e⟩ := x <;> cases e <;> simp_all [ranDry]

/-- The run of the SST that finds the kitty dry. -/
def dryRun : State × List (Nat × Nat × Nat) × SstEnd :=
  let h : BitVec 32 := (uval stDry (.s 2)).setWidth 32
  acceptLanes 1 stDry.launch.lr.leases h stDry.sstChunk ((laneKeys stDry (.v 2)).map (fun k => (k.1, k.2, (val64 stDry (.v 4) k.1).toNat))) (freshAges (regionOf 1 h) stDry)

theorem dryRun_dry : (∃ l k v rest, dryRun.2.1 = (l, k, v) :: rest) ∧ dryRun.2.2 = .exhausted := ranDry_iff (x := dryRun) (by decide +kernel)

theorem witness_SparseStoreIssue_ends : ReadyFor (.sst false (.v 4) (.v 2) (.s 2) false false true) stDry
    ∧ (∀ s ∈ [stSstLoad, stSstTurn], ready (.sst false (.v 4) (.v 2) (.s 1) false false false) s = true)
    ∧ (storeHeld stSstLoad.sq = true ∧ turnHeld false stSstTurn = true) ∧ (∃ l k v rest, dryRun.2.1 = (l, k, v) :: rest) ∧ dryRun.2.2 = .exhausted :=
  ⟨readyFor_of (by decide +kernel), by decide +kernel, by decide +kernel, dryRun_dry⟩

/-- An SST behind a word that adds no acquire, a BAR.wait's, or a BAR.sync's. -/
theorem witness_IssueChecks_sst : let i := Instr.sst false (.v 4) (.v 2) (.s 1) false false false
    let behind := fun (b : Bool) => [fun (t : State) => t.onSq (fun q => { q with fences := [⟨⟨1, 0, 0⟩, 0, true, false, false, b, false, .team, none, none⟩] })]
    (sstRecord i stSst).any (fun r => !r.todo.isEmpty) = true ∧ outIs 0 (wordOut i (ownOf i) stSst) = true
    ∧ newAcquires stSst ([fun t => t].foldr (fun u t => u t) stSst) = []
    ∧ (∀ b ∈ [false, true], (newAcquires stSst ((behind b).foldr (fun u t => u t) stSst)).map (·.barrier) = [b]) := by
  decide +kernel

def keyOk {α : Type} : KeyRes α → Bool
  | .ok _ => true
  | _ => false

theorem keyOk_iff {α : Type} {x : KeyRes α} (h : keyOk x = true) : ∃ y, x = .ok y := by
  cases x <;> simp_all [keyOk]

/-- A read of each kind that waits for lane 31, and an SST with one lane to go. -/
def reads0 : List (Nat × Nat × Option (Nat × Nat)) := [(0, 5, none), (1, 0, none), (1, 2 ^ 64 - 1, none), (2, 6, none), (2, 5, none), (3, 0, none), (3, 0, some (5, 7))]
def stKeys (x : Nat × Nat × Option (Nat × Nat)) : State := stSparse.onSq (fun q => { q with
  seq := 1, prods := [⟨0, .sparse x.1 true 0#32 0#32 [(31, x.2.1)] x.2.2, [.v 8, .v 9], [], 0⟩]
  sst := some ⟨.sst false (.v 4) (.v 2) (.s 1) false false false, 0#32, [(31, 65535, 9)]⟩ })

def least0 (s : State) (p : Nat) : KeyRes (Option (Nat × Nat)) :=
  searchKey (s.getLaunch 1).asid (s.getLaunch 1).lr.leases 0#32 (fun rd d => leastFrom rd d p) s

/-- What a search answers. -/
def isKey (r : KeyRes (Option (Nat × Nat))) (x : Option (Nat × Nat)) : Bool :=
  match r with
  | .ok y => y == x
  | _ => false

theorem isKey_iff {r : KeyRes (Option (Nat × Nat))} {x : Option (Nat × Nat)} (h : isKey r x = true) : r = .ok x := by
  cases r <;> simp_all [isKey]

theorem witness_SingleKeySteps : (∀ x ∈ reads0, (stKeys x).findSq ⟨1, 0, 0⟩ = some (stKeys x).sq ∧ sparseReady (stKeys x).sq 0 x.1 0#32 0#32 = true
      ∧ (stKeys x).sq.prods.find? (·.seq == 0) = some ⟨0, .sparse x.1 true 0#32 0#32 [(31, x.2.1)] x.2.2, [.v 8, .v 9], [], 0⟩)
    ∧ (∃ y, searchKey ((stKeys (0, 5, none)).getLaunch 1).asid ((stKeys (0, 5, none)).getLaunch 1).lr.leases 0#32 (fun rd d => findKey rd d 5) (stKeys (0, 5, none)) = .ok y)
    ∧ least0 (stKeys (2, 5, none)) 5 = .ok (some (5, 0x77)) ∧ least0 (stKeys (2, 6, none)) 6 = .ok none ∧ least0 (stKeys (3, 0, some (5, 7))) 5 = .ok (some (5, 0x77))
    ∧ least0 (stKeys (3, 0, none)) 0 = .ok (some (5, 0x77))
    ∧ (stKeys (0, 5, none)).sq.sst = some ⟨.sst false (.v 4) (.v 2) (.s 1) false false false, 0#32, [(31, 65535, 9)]⟩
    ∧ (∃ u, storeKey ((stKeys (0, 5, none)).getLaunch 1).asid ((stKeys (0, 5, none)).getLaunch 1).lr.leases 0#32 65535 9 (stKeys (0, 5, none)) = .ok u) :=
  ⟨by decide +kernel, keyOk_iff (by decide +kernel), isKey_iff (by decide +kernel), isKey_iff (by decide +kernel), isKey_iff (by decide +kernel),
    isKey_iff (by decide +kernel), rfl, keyOk_iff (by decide +kernel)⟩

/-- A tensor record of STK in the team's scratch at 0x40 and one of KGROW at 0xFC0, the last place; one of CMB in memory. -/
def memEngine : Memory := ⟨[
  (0x2000, 1#8), (0x2001, 0x40#8), (0x4000, 0xF#8), (0x4001, 1#8), (0x100000, 2#8), (0x100002, 2#8), (0x100003, 4#8),
  (0x100008, 0x20#8), (0x10000c, 0x80#8), (0x100010, 0x80#8), (0x100011, 4#8), (0x100020, 1#8), (0x10002c, 1#8), (0x10003e, 1#8),
  (0x100040, 2#8), (0x100048, 2#8), (0x10004c, 1#8), (0x10005e, 1#8), (0x100488, 0xFF#8), (0x100489, 0xFF#8), (0x10049a, 1#8),
  (0x200000, 1#8), (0x200001, 2#8), (0x200005, 1#8), (0x20000a, 1#8), (0x20000c, 1#8), (0x200010, 1#8), (0x200014, 1#8),
  (0x20001a, 0x40#8), (0x200024, 1#8), (0x200028, 1#8), (0x20002c, 1#8), (0x200030, 1#8), (0x200038, 1#8), (0x2000c0, 1#8),
  (0x2000c1, 3#8), (0x2000c5, 1#8), (0x2000ca, 1#8), (0x2000cc, 1#8), (0x2000d0, 1#8), (0x2000d4, 1#8), (0x2000da, 0x40#8),
  (0x2000e0, 0xFF#8), (0x2000e1, 0xFF#8), (0x2000e2, 0xFF#8), (0x2000e3, 0xFF#8), (0x2000e4, 0xFF#8), (0x2000e5, 0xFF#8),
  (0x2000e6, 0xFF#8), (0x2000e7, 0xFF#8), (0x400000, 1#8), (0x400001, 1#8), (0x400002, 1#8), (0x400004, 0xFF#8), (0x400005, 0xFF#8),
  (0x400006, 0xFF#8), (0x400007, 0xFF#8), (0x400010, 5#8), (0x400088, 0x77#8), (0x400104, 0xFF#8), (0x400105, 0xFF#8),
  (0x400106, 0xFF#8), (0x400107, 0xFF#8), (0x600002, 0x30#8), (0x600008, 2#8), (0x600009, 2#8), (0x60000b, 3#8), (0x60000c, 3#8),
  (0x600010, 1#8), (0x600012, 1#8), (0x600014, 1#8), (0x600016, 1#8), (0x600018, 1#8), (0x60003a, 0x31#8)]⟩
def memScratch : Memory := ⟨[
  (0x42, 0x30#8), (0x49, 2#8), (0x4a, 2#8), (0x4b, 3#8), (0x50, 1#8), (0x52, 1#8), (0x54, 1#8), (0x56, 1#8), (0x58, 1#8), (0xfc1, 2#8),
  (0xfc2, 0x40#8), (0xfc8, 1#8)]⟩

def stEngine : State := { withS [(1, 0x8000000000000040#64), (2, 0x8000000000000FC0#64), (3, 0x600000#64), (4, 0x330000#64), (5, 0x600001#64)] st0 with
  mem := memEngine, team := { team0 with scratch := memScratch } }

/-- The bytes of the three records. -/
def rawStk : List Byte := toBytes 64 (0x300000 + 0x03020200 * 2 ^ 64 + 0x10001000100010001 * 2 ^ 128)
def rawCmb : List Byte := toBytes 64 (0x300000 + 0x0303000202 * 2 ^ 64 + 0x10001000100010001 * 2 ^ 128 + 0x310000 * 2 ^ 448)
def rawKgrow : List Byte := toBytes 64 (0x400200 + 2 ^ 64)

theorem witness_EngineIssue_STK : let r := TensorRec.ofBytes rawStk; let x : DWord := 0x8000000000000040#64
    (recordFault x stEngine = none ∧ recordHeld x stEngine = false ∧ recordBytes x stEngine = rawStk ∧ recordBad 0 rawStk 0#64 = none)
    ∧ handleFault 0 r x 0#64 stEngine = none ∧ firstOf [listFault 0 r x 0#64 (rawStk ++ []) stEngine, hullFault 0 r 0#64 (rawStk ++ []) stEngine, stockFault r 0#64 stEngine] = none
    ∧ stockHeld stEngine stEngine.core.id r 0#64 = false ∧ recordBad 1 rawStk 0#64 = some 0x0A := by
  refine ⟨?_, ?_, ?_, ?_, ?_⟩ <;> decide +kernel

theorem witness_EngineIssue_CMB : let r := TensorRec.ofBytes rawCmb; let all := rawCmb ++ (some (List.replicate 16 0#8)).getD []
    (recordFault 0x600000#64 stEngine = none ∧ recordHeld 0x600000#64 stEngine = false ∧ recordBytes 0x600000#64 stEngine = rawCmb
      ∧ recordBad 5 rawCmb 0x330000#64 = none)
    ∧ handleFault 5 r 0x600000#64 0x330000#64 stEngine = none ∧ combineList r stEngine = some (List.replicate 16 0#8)
    ∧ firstOf [listFault 5 r 0x600000#64 0x330000#64 all stEngine, hullFault 5 r 0x330000#64 all stEngine, none] = none := by
  refine ⟨?_, ?_, ?_, ?_⟩ <;> decide +kernel

theorem witness_EngineIssue_KGROW : let x : DWord := 0x8000000000000FC0#64
    (recordFault x stEngine = none ∧ recordHeld x stEngine = false ∧ recordBytes x stEngine = rawKgrow ∧ recordBad 11 rawKgrow 0#64 = none)
    ∧ handleFault 11 (TensorRec.ofBytes rawKgrow) x 0#64 stEngine = none := by
  refine ⟨?_, ?_⟩ <;> decide +kernel

/-- Every entry of the range-lock table is in use. -/
def stLocked : State := { stEngine with cmds := (List.range 32).map (fun i => { (default : Cmd) with id := i, entries := [2 * i, 2 * i + 1] }) }

theorem witness_EngineIssue : (∀ i ∈ [Instr.engStk false (.s 31) 1#5 0#5, .engCmb false (.s 31) 3#5 4#5, .engKgrow true (.s 31) 2#5 0#5,
      .engCpy false (.s 31) 1#5 0#5, .engHash false (.s 31) 5#5], ReadyFor i stEngine) ∧ ReadyFor (.engStk false (.s 31) 1#5 0#5) stLocked
    ∧ (uval stEngine (sReg 0#5) = 0#64 ∧ uval stEngine (sReg 1#5) = 0x8000000000000040#64 ∧ uval stEngine (sReg 2#5) = 0x8000000000000FC0#64
      ∧ uval stEngine (sReg 3#5) = 0x600000#64 ∧ uval stEngine (sReg 4#5) = 0x330000#64)
    ∧ (2 ≤ (freeEntries stEngine).length ∧ (freeEntries stLocked).length < 2 ∧ recordBytes 0x8000000000000040#64 stLocked = rawStk)
    ∧ turnHeld false stEngine = false ∧ (recordFault (uval stEngine (sReg 5#5)) stEngine).isSome = true :=
  ⟨readyAll_of (by decide +kernel), readyFor_of (by decide +kernel), by decide +kernel⟩

/-- In a chain STK issues behind a word that has run. -/
theorem witness_IssueChecks_engine : let u := chainView stEngine (afterWords stEngine [id])
    isEng (.engStk false (.s 31) 1#5 0#5) = true ∧ outIs 0 (wordOut (.engStk false (.s 31) 1#5 0#5) (ownOf (.engStk false (.s 31) 1#5 0#5)) u) = true
      ∧ engWaits stEngine (afterWords stEngine [id]) = false := by decide +kernel

def resOk {α : Type} : EngRes α → Bool
  | .ok _ => true
  | _ => false

theorem resOk_iff {α : Type} {x : EngRes α} (h : resOk x = true) : ∃ y, x = .ok y := by
  cases x <;> simp_all [resOk]

/-- A command of the squad: STK of one element into the stock, or CPY of 65 bytes into shoe 15. -/
def cmdOf (fn : Nat) (tr : TensorRec) (sb : DWord) (stop : Option Nat) : Cmd :=
  ⟨7, ⟨1, 0, 0⟩, 0, 1, fn, 7, [0, 1], tr, [], sb, .s 31, 0, 0#64, ⟨⟨1, 0, 0⟩, 0, false, true, false, false, false, .device, none, none⟩, 0, 0, [], false, stop⟩
def trStk : TensorRec := TensorRec.ofBytes rawStk
def trShoe : TensorRec := { trStk with dkind := 3, box := [65, 1, 1, 1, 1] }
def stCmd (c : Cmd) : State := { stShoe with
  sq := { stShoe.sq with seq := 1, prods := [⟨0, .ticket 7, [.s 31], [], 0⟩] }, cmds := [c] }

theorem witness_EngineProgress : (∀ stop ∈ [none, some 3], let s := stCmd (cmdOf 0 trStk 0#64 stop)
      s.findCmd 7 = some (cmdOf 0 trStk 0#64 stop) ∧ s.findSq ⟨1, 0, 0⟩ = some s.sq)
    ∧ (let c := cmdOf 0 trStk 0#64 none; let s := stCmd c
      (s.sq.prods.find? (·.seq == 0) = some ⟨0, .ticket 7, [.s 31], [], 0⟩ ∧ (s.getTeam ⟨1, 0⟩).status ≠ .saved ∧ (s.getCore 0).merged = [] ∧ (s.getDie (dieOf 0)).pend = [])
      ∧ cmdDone c = false ∧ cmdStarted s c = true ∧ stockHeld s c.core c.tr c.sb = false ∧ stShoe.mem.wf = true ∧ (stShoe.getCore 0).stock.wf = true ∧ 0 ∈ stockTargets s c)
    ∧ (let c := cmdOf 1 trShoe 15#64 none; let s := stCmd c
      cmdDone c = false ∧ cmdStarted s c = true ∧ s.findTeam ⟨1, 0⟩ = some teamShoe ∧ teamShoe.scratch.wf = true ∧ teamShoe.shoeMask.getLsbD 15 = true
      ∧ shoeRefuses (vget teamShoe.shoes 15) 0 = false ∧ shoeReady (vget teamShoe.shoes 15) = true
      ∧ min (64 * (vget teamShoe.shoes 15).slot / trShoe.eb) (trShoe.count - 0) = 64)
    ∧ (∃ bs, engElem (stCmd (cmdOf 0 trStk 0#64 none)) (cmdOf 0 trStk 0#64 none) 0 = .ok bs)
    ∧ ∃ bs, engElems (stCmd (cmdOf 1 trShoe 15#64 none)) (cmdOf 1 trShoe 15#64 none) 0 64 = .ok bs :=
  ⟨by decide +kernel, by decide +kernel, by decide +kernel, resOk_iff (by decide +kernel), resOk_iff (by decide +kernel)⟩

/-! ## Witnesses: control, mask, format and system words -/

/-- Lane 31 is to run block `b`, and the others block `c`, next and now. -/
def stBlocks (b c : BitVec 6) : State := st0.onSq (fun q => { q with
  br := vset (Vector.replicate 32 c) 31 b, brn := vset (Vector.replicate 32 c) 31 b })
/-- A call frame under the squad: lanes 0 and 31 called from word 2 of packet 1; lane 31 has returned. -/
def frame0 : Frame := ⟨0, 0, 62, false, 1, 2, BitVec.allOnes 32, 0#32, 0x80000001#32, 0#32, Vector.replicate 32 0#6, Vector.replicate 32 0#6, BitVec.allOnes 32⟩
def stCalled : State := (stBlocks 63#6 63#6).onSq (fun q => { q with frames := [frame0], retd := 0x80000000#32, depth := Vector.replicate 32 1#8 })

/-- v1 names the block 2 in lane 31 and the block 0 in the others; v2 names block 63 in lane 31. -/
def laneRegs : Vector (Vector Word 32) 64 := vset (vset sq0.v 1 (vset (Vector.replicate 32 0#32) 31 2#32)) 2 (vset (Vector.replicate 32 0#32) 31 63#32)
def stFlow : State := st0.onSq (fun q => { q with v := laneRegs })
def stFlowHandler : State := stHandler.onSq (fun q => { q with v := laneRegs })

theorem witness_FlowWords : (∀ i ∈ [Instr.nop true, .seg ⟨false, 1#8⟩, .nxt false 1#6, .nxtc false (.p 7) 63#6 0#6 true, .nxti false (.v 63) true, .fold false, .yield false, .ret true],
      ReadyFor i st0)
    ∧ (∀ m ∈ [(st0, BitVec.allOnes 32), (stBlocks 1#6 1#6, 0#32), (stBlocks 1#6 0#6, 0x7FFFFFFF#32)],
      ReadyFor (.seg ⟨false, 1#8⟩) m.1 ∧ ∀ l, l < 32 → (m.2.getLsbD l = true ↔ m.1.sq.live.getLsbD l = true ∧ m.1.sq.held.getLsbD l = false
        ∧ ∃ k, k < m.1.sq.hent.nslot ∧ (1#8).getLsbD k = true ∧ m.1.sq.hent.slotBlock k = some (vget m.1.sq.br l).toNat))
    ∧ (suitAt st0 st0.sq.suit).nblk = 2 ∧ trapFrameOnTop st0 = false ∧ st0.sq.frames = []
    ∧ ReadyFor (.ret false) stCalled ∧ stCalled.sq.frames ≠ [] ∧ trapFrameOnTop stCalled = false := by
  refine ⟨readyAll_of (by decide +kernel), ?_, by decide +kernel, by decide +kernel, rfl, readyFor_of (by decide +kernel), by decide, by decide +kernel⟩
  intro m hm
  simp only [List.mem_cons, List.not_mem_nil, or_false] at hm
  rcases hm with rfl | rfl | rfl
  · exact ⟨readyFor_of (by decide +kernel), by decide +kernel⟩
  · exact ⟨readyFor_of (by decide +kernel), by decide +kernel⟩
  · exact ⟨readyFor_of (by decide +kernel), by decide +kernel⟩

/-- The deck faults of the exits: a bad target in every lane or in the highest alone, and a fold inside a handler. -/
theorem witness_FlowWords_faults : (ReadyFor (.nxt true 2#6) stFlow ∧ ReadyFor (.nxti false (.v 1) false) stFlow)
    ∧ (let bad := fun l => stFlow.sq.em.getLsbD l = true ∧ (suitAt stFlow stFlow.sq.suit).nblk ≤ (val stFlow (.v 1) l).toNat ∧ val stFlow (.v 1) l ≠ 63#64
      bad 31 ∧ (∀ k, k < 32 → ((0x80000000#32).getLsbD k = true ↔ stFlow.sq.em.getLsbD k = true ∧ bad k)) ∧ IsLowest 0x80000000#32 31)
    ∧ (suitAt stFlow stFlow.sq.suit).nblk ≤ (2#6 : BitVec 6).toNat ∧ IsLowest stFlow.sq.em 0
    ∧ (ReadyFor (.fold false) stFlowHandler ∧ ReadyFor (.nxti false (.v 2) true) stFlowHandler ∧ ReadyFor (.ret false) stFlowHandler)
    ∧ trapFrameOnTop stFlowHandler = true ∧ stFlowHandler.sq.em.getLsbD 31 = true ∧ val stFlowHandler (.v 2) 31 = 63#64
    ∧ (∀ k, k < 31 → val stFlowHandler (.v 2) k = 0#64) ∧ (suitAt stFlowHandler stFlowHandler.sq.suit).nblk = 2 := by
  refine ⟨⟨readyFor_of (by decide +kernel), readyFor_of (by decide +kernel)⟩, by unfold IsLowest; decide +kernel, by decide +kernel,
    by unfold IsLowest; decide +kernel, ⟨readyFor_of (by decide +kernel), readyFor_of (by decide +kernel), readyFor_of (by decide +kernel)⟩,
    by decide +kernel⟩

/-- The masks that DEAL forms: which lanes stay live, and which blocks are called. -/
def dealMasks (s : State) (live : Mask) (m : BitVec 64) : Prop :=
  let br := fun l => if s.sq.live.getLsbD l = true ∧ s.sq.held.getLsbD l = false then vget s.sq.brn l else vget s.sq.br l
  (∀ l, l < 32 → (live.getLsbD l = true ↔ s.sq.live.getLsbD l = true ∧ br l ≠ 63#6))
    ∧ ∀ b, b < 64 → (m.getLsbD b = true ↔ ∃ l, l < 32 ∧ live.getLsbD l = true ∧ (br l).toNat = b)

/-- The deck's place for the called set 3 names a hand that it does not have; and the first place of a row does. -/
def stBadDeck : State := { stBlocks 1#6 0#6 with mem := mem0.put 0x100488 2 9 }
def stBadRow : State := { stBlocks 1#6 0#6 with mem := mem0.put 0x100080 2 9 }

theorem witness_DealWord : (∀ s ∈ [st0, stBlocks 1#6 0#6, stBlocks 63#6 63#6, stCalled, stBadDeck, stBadRow], ready .deal s = true)
    ∧ (dealMasks st0 (BitVec.allOnes 32) 1#64 ∧ dealMasks (stBlocks 1#6 0#6) (BitVec.allOnes 32) 3#64 ∧ dealMasks (stBlocks 63#6 63#6) 0#32 0#64)
    ∧ (dealMasks stCalled 0#32 0#64 ∧ dealMasks stBadDeck (BitVec.allOnes 32) 3#64 ∧ dealMasks stBadRow (BitVec.allOnes 32) 3#64)
    ∧ (∃ e, lookup st0 (suitAt st0 0) 1#64 = .hit 0 e) ∧ (∃ off, lookup (stBlocks 1#6 0#6) (suitAt st0 0) 3#64 = .miss off)
    ∧ (∃ e, rowHand (stBlocks 1#6 0#6) (suitAt st0 0) 3#64 0 none 8 0 = .hit 0 e) ∧ (stBlocks 1#6 0#6).sq.button < 63
    ∧ (∀ b', b' < 63 → (3#64).getLsbD b' = true → (0 + 63 - 0) % 63 ≤ (b' + 63 - 0) % 63)
    ∧ ((∃ off, lookup stBadRow (suitAt st0 0) 3#64 = .miss off) ∧ ∃ off, rowHand stBadRow (suitAt st0 0) 3#64 0 none 8 0 = .bad off)
    ∧ ((stBlocks 63#6 63#6).sq.frames = [] ∧ stCalled.sq.frames = frame0 :: [] ∧ stCalled.sq.nspill = 0)
    ∧ (∃ off, lookup stBadDeck (suitAt st0 0) 3#64 = .bad off) := by
  refine ⟨by decide +kernel, by unfold dealMasks; decide +kernel, by unfold dealMasks; decide +kernel, ⟨⟨1#64, 0, 1, [0, 0, 0, 0, 0, 0, 0], 1⟩, by decide +kernel⟩,
    ⟨0x488, by decide +kernel⟩, ⟨⟨1#64, 0, 1, [0, 0, 0, 0, 0, 0, 0], 1⟩, by decide +kernel⟩, by decide, by decide,
    ⟨⟨0x488, by decide +kernel⟩, ⟨0x80, by decide +kernel⟩⟩, ⟨rfl, rfl, rfl⟩, ⟨0x488, by decide +kernel⟩⟩

/-- The page lies in the window of port 0, which is down. -/
def stDown : State := { st0.updPart (fun p => { p with windows := [⟨2 ^ 40, 2 ^ 36, some 0, 0⟩], portsDown := 1#16 }) with mem := mem0.put 0x4000 8 (0x10F + 2 ^ 40) }

theorem witness_LookupDown : (ready .deal stDown = true ∧ dealMasks stDown (BitVec.allOnes 32) 1#64 ∧ lookup stDown (suitAt stDown 0) 1#64 = .down 0x100000)
    ∧ ready (.call false 1#17) stDown = true ∧ stDown.obj.suits.length = 2 ∧ (∀ l, l < 32 → vget stDown.sq.depth l ≠ 255#8)
    ∧ lookup stDown (suitAt stDown 1) (blockMask (suitAt stDown 1).entry) = .down 0x100000 := by
  refine ⟨⟨by decide +kernel, by unfold dealMasks; decide +kernel, by decide +kernel⟩, by decide +kernel, rfl, by decide +kernel, by decide +kernel⟩

/-- p7 is set in lane 31 alone. -/
def stPred : State := st0.onSq (fun q => { q with p := vset q.p 7 0x80000000#32 })

/-- The place of the hash table for the entry hand is empty; or names a hand that the deck does not have. -/
def stEntry (h : Nat) : State := { stPred with mem := mem0.put 0x10048C 2 h }

theorem witness_CallWords : (∀ i ∈ [Instr.call true 1#17, .call false 2#17, .callp false (.p 7) 0#17, .callp false (.p 0) 1#17], ReadyFor i stPred)
    ∧ (stPred.sq.settled (.p 7) = true ∧ stPred.sq.settled (.p 0) = true)
    ∧ (∀ l, l < 32 → ((0x80000000#32).getLsbD l = true ↔ stPred.sq.em.getLsbD l = true ∧ (val stPred (.p 7) l).getLsbD 0 = true))
    ∧ (∀ l, l < 32 → ((0#32).getLsbD l = true ↔ stPred.sq.em.getLsbD l = true ∧ (val stPred (.p 0) l).getLsbD 0 = true))
    ∧ stPred.obj.suits.length = 2 ∧ (∀ l, l < 32 → vget stPred.sq.depth l ≠ 255#8) ∧ stPred.sq.frames.length < 8
    ∧ lookup stPred (suitAt stPred 1) (blockMask (suitAt stPred 1).entry) = .hit 0 ⟨1#64, 0, 1, [0, 0, 0, 0, 0, 0, 0], 1⟩
    ∧ ReadyFor (.call false 1#17) stDeep ∧ stDeep.sq.em.getLsbD 31 = true ∧ vget stDeep.sq.depth 31 = 255#8
    ∧ (ReadyFor (.call false 1#17) (stEntry 9) ∧ ReadyFor (.callp false (.p 7) 1#17) (stEntry 0xFFFF)) ∧ (stEntry 9).sq = stPred.sq
    ∧ (lookup (stEntry 9) (suitAt (stEntry 9) 1) (blockMask (suitAt (stEntry 9) 1).entry) = .bad 0x48C
      ∧ lookup (stEntry 0xFFFF) (suitAt (stEntry 0xFFFF) 1) (blockMask (suitAt (stEntry 0xFFFF) 1).entry) = .miss 0x48C) := by
  refine ⟨readyAll_of (by decide +kernel), by decide +kernel, by decide +kernel, by decide +kernel, rfl, by decide +kernel, by decide, by decide +kernel,
    readyFor_of (by decide +kernel), by decide, by decide +kernel, ⟨readyFor_of (by decide +kernel), readyFor_of (by decide +kernel)⟩, rfl, by decide +kernel⟩

/-- The handler of a trap that the word at place 2 of packet 0 took. -/
def stReturn : State := stHandler.onSq (fun q => { q with tpos := 1#64 <<< 36, frames := [{ frame1 with rword := 2 }] })
def stArmed : State := { st0 with
  launch := { launch0 with bkpt := true }
  teams := [TeamStatus.running, .preempting, .saved].map (fun st => { team0 with key := ⟨1, 1⟩, status := st }) }

theorem witness_TrapWords : (∀ i ∈ [Instr.trap true 0x1FFFF#17, .brk false 0#17, .eret false 0#4], ReadyFor i st0) ∧ st0.launch.bkpt = false
    ∧ (st0.sq.frames.head?.any (·.trapKind)) = false ∧ ReadyFor (.brk true 5#17) stArmed ∧ stArmed.launch.bkpt = true
    ∧ (stArmed.team.key.lid = stArmed.sq.key.lid ∧ stArmed.team.status = .running ∧ stArmed.launch.lid = stArmed.sq.key.lid ∧ stArmed.launch.status ≠ .absent
      ∧ (∀ st ∈ [TeamStatus.running, .preempting, .saved], ∃ tm ∈ stArmed.teams, tm.key.lid = stArmed.sq.key.lid ∧ tm.status = st)
      ∧ ∀ st ∈ [TeamStatus.preempting, .saved], ({ stArmed with team := { team0 with status := st } } : State).team.status = st)
    ∧ (∀ i ∈ [Instr.eret false 0#4, .eret true 1#4], ReadyFor i stReturn) ∧ stReturn.sq.frames = { frame1 with rword := 2 } :: [] ∧ frame1.trapKind = true
    ∧ stReturn.sq.nspill = 0 :=
  ⟨readyAll_of (by decide +kernel), rfl, by decide, readyFor_of (by decide +kernel), rfl, by decide +kernel, readyAll_of (by decide +kernel), by decide +kernel, rfl, rfl⟩

/-- s1 holds a format word with every field at its highest legal code, s2 one with a reserved bit. -/
def stFmt : State := withS [(1, 0x1234#64), (2, 0x80000000#64)] st0

theorem witness_MaskAndFormatWords : (∀ l, l < 32 → ((BitVec.allOnes 32).getLsbD l = true ↔ stFmt.sq.live.getLsbD l = true ∧ stFmt.sq.held.getLsbD l = false
      ∧ ∃ k, k < stFmt.sq.hent.nslot ∧ stFmt.sq.segSlots.getLsbD k = true ∧ stFmt.sq.hent.slotBlock k = some (vget stFmt.sq.br l).toNat))
    ∧ (∀ i ∈ [Instr.emset false (.s 1) true, .emset false (.p 7) false, .emget false (.s 31) true, .emget false (.v 63) false, .setfmt false (.s 0) true,
      .setfmt true (.s 2) false, .getfmt false (.s 31), .getfmt false (.v 0)], ReadyFor i stFmt)
    ∧ fmtLegal ((uval stFmt (.s 0)).setWidth 32) = true ∧ fmtLegal ((uval stFmt (.s 2)).setWidth 32) = false :=
  ⟨by decide +kernel, readyAll_of (by decide +kernel), by decide +kernel, by decide +kernel⟩

theorem witness_SystemWords : (∀ i ∈ [Instr.sysRdsr false (.s 31) 10#5 0#5, .sysRdsr true (.s 0) 31#5 31#5, .sysWrsr false (.s 1) 12#5 8#5, .sysWrsr false (.s 1) 12#5 9#5,
      .sysWrsr false (.s 3) 14#5 15#5, .sysWrsr false (.s 1) 14#5 14#5, .sysWrsr false (.s 1) 14#5 0#5, .sysWrsr false (.s 1) 31#5 31#5, .sysHalt false], ReadyFor i stShoe)
    ∧ ReadyFor (.sysWrsr false (.s 4) 14#5 15#5) (withS [(4, 0x401000080#64)] st0) ∧ ReadyFor (.sysHalt true) (noEm stShoe)
    ∧ ((sysRead 0x140 stShoe).isSome = true ∧ sysRead 0x3FF stShoe = none ∧ sysRead 0x180 stShoe = none ∧ (sysRead 0x180 stHandler).isSome = true)
    ∧ (12#5 ++ 8#5).toNat = 0x188 ∧ (14#5 ++ 15#5).toNat = 0x1C0 + (15 : Fin 16).val ∧ stShoe.team.shoeMask.getLsbD 15 = true
    ∧ RefusesShoe stShoe stShoe.team 15 (uval stShoe (.s 3)) ∧ ¬ RefusesShoe st0 st0.team 15 0x401000080#64 ∧ stShoe.team.status ≠ .absent
    ∧ (14#5 ++ 0#5).toNat = 0x1C0 ∧ stShoe.team.shoeMask.getLsbD 0 = false
    ∧ stShoe.sq.em ≠ 0#32 ∧ stShoe.launch.lid = stShoe.sq.key.lid ∧ stShoe.launch.status = .running :=
  ⟨readyAll_of (by decide +kernel), readyFor_of (by decide +kernel), readyFor_of (by decide +kernel), by decide +kernel, by decide, by decide, by decide,
    .inr (.inr (.inr (.inr (.inr (.inr (.inl (by decide +kernel))))))), shoe_accepts st0 15 _ rfl (by decide +kernel), by decide, by decide, by decide, by decide,
    rfl, rfl⟩

/-! ## Addresses below 64 GiB: the one leaf of `mem0` maps each to itself -/

/-- The tables of `mem0` are in force for a die, and nothing is pending there. -/
def ident (s : State) : Bool :=
  rootOf s 1 == some 0x2000 && dieValue s 0 0x2000 8 == 0x4001 && dieValue s 0 0x4000 8 == 0x10F
    && entryKind s 4 0x4001#64 == .table && entryKind s 3 0x10F#64 == .leaf && (s.getDie 0).pend == []

theorem walk_low {s : State} {va : Nat} (h : ident s = true) (hv : va < 2 ^ 36) : walk s 0 1 va = some (0x10F#64, 2 ^ 36) := by
  simp only [ident, Bool.and_eq_true, beq_iff_eq] at h
  obtain ⟨⟨⟨⟨⟨hr, h1⟩, h2⟩, h3⟩, h4⟩, -⟩ := h
  have e1 : va / 2 ^ (16 + 10 * 3) % 1024 = 0 := by omega
  have e2 : va / 2 ^ (16 + 10 * 2) % 1024 = 0 := by omega
  simp only [walk, hr, walkFrom, e1, e2]
  simp [leafAddr, h1, h2, h3, h4]

theorem walkerAddr_low {s : State} {va : Nat} (h : ident s = true) (hv : va < 2 ^ 36) : walkerAddr s 1 va = some va := by
  have e : va % 68719476736 = va := Nat.mod_eq_of_lt hv
  have o : outside va = false := by simp only [outside, decide_eq_false_iff_not]; omega
  have n : ¬ 4503599627370496 ≤ va := by omega
  simp [walkerAddr, walk_low h hv, physOf, leafAddr, e, canon, o, reachable, peerPort, n]

theorem walkerHeld_low {s : State} {a b : Nat} (h : ident s = true) (ha : a < 2 ^ 36) (hb : b < 2 ^ 36) : walkerHeld s 1 [a, b] = false := by
  have ea : a % 68719476736 = a := Nat.mod_eq_of_lt ha
  have eb : b % 68719476736 = b := Nat.mod_eq_of_lt hb
  have oa : outside a = false := by simp only [outside, decide_eq_false_iff_not]; omega
  have ob : outside b = false := by simp only [outside, decide_eq_false_iff_not]; omega
  have na : ¬ 4503599627370496 ≤ a := by omega
  have nb : ¬ 4503599627370496 ≤ b := by omega
  simp [walkerHeld, walk_low h ha, walk_low h hb, leafWBLK, physOf, leafAddr, ea, eb, reachable, peerPort, oa, ob, na, nb]

theorem span_lt {a n x : Nat} (h : x ∈ span a n) : x < a + n := by
  induction n generalizing a with
  | zero => cases h
  | succ n ih =>
    rcases List.mem_cons.1 h with rfl | h
    · omega
    · have := ih h; omega

theorem walkerRead_low {s : State} {va n : Nat} (h : ident s = true) (hv : va + n ≤ 2 ^ 36) : walkerRead s 1 va n = some (s.mem.bytes va n) := by
  have hp : (s.getDie 0).pend = [] := by
    simp only [ident, Bool.and_eq_true, beq_iff_eq] at h
    exact h.2
  have hl : ∀ l : List Nat, (∀ a ∈ l, a < 2 ^ 36) → l.mapM (fun a => (walkerAddr s 1 a).map (dieByte s 0)) = some (l.map s.mem.read) := by
    intro l
    induction l with
    | nil => intro _; rfl
    | cons a r ih =>
      intro hr
      rw [List.mapM_cons, ih (fun x hx => hr x (List.mem_cons_of_mem _ hx)), walkerAddr_low h (hr a (List.mem_cons_self ..))]
      simp [dieByte, hp, pendingByte]
  exact hl _ (fun a ha => Nat.lt_of_lt_of_le (span_lt ha) hv)

theorem gnode_low {s : State} {g : Graph} {n : Nat} (h : ident s = true) (ha : g.asid = 1) (hv : g.base + 64 * n + 64 ≤ 2 ^ 36) :
    gnode s g n = GNode.ofBytes (s.mem.bytes (g.base + 64 * n) 64) := by
  simp [gnode, nodeBytes, ha, walkerRead_low h hv]

theorem walkerValue_low {s : State} {va n : Nat} (h : ident s = true) (hv : va + n ≤ 2 ^ 36) : walkerValue s 1 va n = some (s.mem.value va n) := by
  simp [walkerValue, walkerRead_low h hv, Memory.value]

/-! ## Witnesses: the scheduler, the graph walker and pre-emption -/

/-- The squad of `st0` between two runs; waiting for s5, which the word at its position reads; in the slow file. -/
def stIdle : State := st0.onSq (fun q => { q with running := false })
def stWaits : State := { st0.onSq (fun q => { q with running := false, fes := ~~~(1#32 <<< 5) }) with
  mem := mem0.put 0x110000 4 0x10891628
  squads := [{ sq0 with key := ⟨1, 0, 1⟩, slot := 1, running := false, fes := ~~~(1#32 <<< 5) }] }
def stSlow : State := st0.onSq (fun q => { q with running := false, fast := false, passed := 3 })
/-- A ready squad in the slow file has seen two runs pass it by. -/
def stPassed : State := { stIdle with squads := [{ sq0 with key := ⟨1, 0, 1⟩, fast := false, passed := 2, running := false }] }
/-- The squad at word 2 of its first packet, with seven packets behind it in its run; and with none. -/
def stEighth : State := st0.onSq (fun q => { q with word := 2, runPkts := [7, 6, 5, 4, 3, 2, 1] })
def stBoundary : State := st0.onSq (fun q => { q with word := 2 })

theorem witness_SchedulerMoves : (∀ s ∈ [st0, stIdle, stPassed, stWaits, stSlow], (s.allSquads.map (·.key)).Nodup ∧ s.findSq ⟨1, 0, 0⟩ = some s.sq)
    ∧ (midRun st0 0 = some ⟨1, 0, 0⟩ ∧ midRun stIdle 0 = none ∧ winner stIdle 0 = some ⟨1, 0, 0⟩ ∧ pendingReady stIdle 0 = [])
    ∧ (midRun stPassed 0 = none ∧ winner stPassed 0 = some ⟨1, 0, 0⟩ ∧ (pendingReady stPassed 0).map (fun x => (x.key, x.passed)) = [(⟨1, 0, 1⟩, 2)])
    ∧ (stWaits.sq.fast = true ∧ stWaits.sq.status = .live ∧ stWaits.sq.running = false ∧ waitsLong stWaits stWaits.sq = true)
    ∧ (oldest ((fastSquads stWaits 0).filter (fun x => x.key != ⟨1, 0, 0⟩ && demotable stWaits x))).map (·.key) = some ⟨1, 0, 1⟩
    ∧ ((stWaits.getTeam ⟨1, 0⟩).core = 0 ∧ (stSlow.getTeam ⟨1, 0⟩).core = 0 ∧ freePlace stSlow 0 = some 0 ∧ oldest (pendingReady stSlow 0) = some stSlow.sq) := by
  refine ⟨by decide +kernel, by decide +kernel, by decide +kernel, by decide +kernel, by decide +kernel, by decide +kernel⟩

/-- Four ready squads in the fast file, and one in the slow file that `p` runs have passed by. -/
def stFull (p : Nat) : State :=
  let others := [1, 2, 3].map (fun i => { sq0 with key := ⟨1, 0, i⟩, slot := i, running := false })
  { stIdle with squads := { sq0 with key := ⟨1, 0, 4⟩, fast := false, passed := p, pended := p, running := false } :: others }
/-- A squad that waits long in the fast file, and twelve in the slow file, which wait too or are ready. -/
def stTwelve (ready : Bool) : State := { stWaits with squads := (List.range 12).map (fun i => { sq0 with
  key := ⟨1, 0, i + 1⟩, fast := false, running := false, fes := if ready then sq0.fes else ~~~(1#32 <<< 5) }) }

theorem witness_SchedulerMoves_full : (∀ p ∈ [3, 4], ((stFull p).allSquads.map (·.key)).Nodup ∧ freePlace (stFull p) 0 = none
      ∧ (pendingReady (stFull p) 0).map (fun x => (x.key, x.pended)) = [(⟨1, 0, 4⟩, p)] ∧ (placeTaken (stFull p) 0).map (·.key) = some ⟨1, 0, 0⟩)
    ∧ (active (stFull 4) (stFull 4).sq = true ∧ Sys2Proof.Machine.ready (stFull 4) (stFull 4).sq = true)
    ∧ (∀ r ∈ [false, true], ((stTwelve r).allSquads.map (·.key)).Nodup ∧ (slowSquads (stTwelve r) 0).length = 12 ∧ waitsLong (stTwelve r) (stTwelve r).sq = true
      ∧ ∀ x ∈ fastSquads (stTwelve r) 0, x.key ≠ ⟨1, 0, 0⟩ → demotable (stTwelve r) x = false)
    ∧ (pendingReady (stTwelve false) 0 = [] ∧ (oldest (pendingReady (stTwelve true) 0)).map (·.key) = some ⟨1, 0, 1⟩)
    ∧ (slowSquads stWaits 0).length < 11 := by
  refine ⟨by decide +kernel, by decide +kernel, by decide +kernel, by decide +kernel, by decide +kernel⟩

/-- Where a run ends: at word 2 with bit 31 set, in the eighth packet, and where a word waits. -/
theorem witness_SchedulerMoves_runs : (∀ x ∈ [(Instr.nop true, stBoundary), (.nop false, stEighth), (.nop false, stBoundary), (.nop true, st0)],
      isWord x.1 = true ∧ ReadyFor x.1 x.2 ∧ outIs 0 (ownOf x.1 x.2) = true)
    ∧ ((0x80000000#32).getLsbD 31 = true ∧ encode (.nop true) = [0x80000000#32] ∧ encode (.nop false) = [0#32])
    ∧ (2 ≤ stBoundary.sq.word ∧ 2 ≤ stEighth.sq.word ∧ stEighth.sq.runPkts.length = 7 ∧ stEighth.sq.runPkts.head? ≠ some stEighth.sq.pkt)
    ∧ isWord (.amo false (.s 4) (.s 1) 3#2 false 8#4 3#2) = true ∧ ReadyFor (.amo false (.s 4) (.s 1) 3#2 false 8#4 3#2) stAfter
    ∧ outIs 1 (ownOf (.amo false (.s 4) (.s 1) 3#2 false 8#4 3#2) stAfter) = true := by
  refine ⟨?_, by decide +kernel, by decide +kernel, by decide +kernel, readyFor_of (by decide +kernel), by decide +kernel⟩
  intro x hx
  simp only [List.mem_cons, List.not_mem_nil, or_false] at hx
  rcases hx with rfl | rfl | rfl | rfl <;> exact ⟨by decide +kernel, readyFor_of (by decide +kernel), by decide +kernel⟩

/-- The squad in another status, of a launch in another status; its team owns tile 0 for it. -/
def stStatus (q : SqStatus) (l : LaunchStatus) : State := { st0 with sq := { sq0 with status := q, running := false }, launch := { launch0 with status := l } }
/-- The launch of the two takes ends: a slot stands ready for each. -/
def stTakeStop : State := { stTake with sq := { stTake.sq with running := false }, launch := { launch0 with status := .stopping } }

theorem witness_SquadEndsAndPower_takes : (stTakeStop.findSq ⟨1, 0, 0⟩ = some stTakeStop.sq ∧ stTakeStop.findTeam ⟨1, 0⟩ = some stTakeStop.team)
    ∧ ((stTakeStop.getLaunch 1).status = .stopping ∧ stTakeStop.sq.status = .live ∧ stTakeStop.sq.running = false ∧ stTakeStop.sq.late = [])
    ∧ ∀ p ∈ stTakeStop.sq.prods, ∃ free, p.kind = .take 15#4 free ∧ (if free then (vget stTakeStop.team.shoes 15).free else (vget stTakeStop.team.shoes 15).filled) ≠ 0 := by
  decide +kernel

/-- A matrix word waits to start on core 40, in the last cluster of die 0. -/
def stToken : State := { stStep with
  core := { stStep.core with id := 40 }, team := { stStep.team with core := 40 }
  sq := { stStep.sq with mprog := stStep.sq.mprog.map (fun r => { r with done := 0, start := 0 }) } }

theorem witness_SquadEndsAndPower : (∀ s ∈ [stStatus .retiring .running, stStatus .live .stopping, stStatus .retiring .stopping, stStatus .stopped .stopping, stToken],
      s.findSq ⟨1, 0, 0⟩ = some s.sq ∧ s.findTeam ⟨1, 0⟩ = some s.team)
    ∧ (drained (stStatus .retiring .running).sq = true ∧ ((stStatus .retiring .running).allSquads.map (·.key)).Nodup)
    ∧ (∀ x ∈ (stStatus .retiring .running).teamSquads ⟨1, 0⟩, x.key = ⟨1, 0, 0⟩ ∨ x.status = .retired)
    ∧ ((stStatus .retiring .running).findLaunch 1 = some launch0 ∧ ((stStatus .live .stopping).getLaunch 1).status = .stopping
      ∧ drained ((withdraw ⟨1, 0, 0⟩ (stStatus .stopped .stopping)).getSq ⟨1, 0, 0⟩) = true)
    ∧ (stToken.dies.toList.find? (·.id == 0) = some (Die.fresh 0) ∧ (Die.fresh 0).tokens.contains 0 = true
      ∧ (Die.fresh 0).tokens.contains ((0 + 5) % 6) = false ∧ clusterWaits stToken 0 5 = true)
    ∧ (∀ i, 1 ≤ i → i < 5 → (Die.fresh 0).tokens.contains ((0 + i) % 6) = true ∨ clusterWaits stToken 0 ((0 + i) % 6) = false)
    ∧ st0.part.mxgate ≠ 0#64 ∧ (st0.updPart (fun p => { p with mxgate := 0#64 })).part.mxgate = 0#64 ∧ failed st0 = false
    ∧ failed (st0.updPart (fun p => { p with bootst := 0xF#4 })) = true := by
  refine ⟨by decide +kernel, by decide +kernel, by decide +kernel, by decide +kernel, by decide +kernel, ?_, by decide +kernel⟩
  intro i h1 h5
  interval_cases i <;> decide +kernel

/-- A graph of four nodes at 0x700000 (R331): a kernel node and a record node with queues, a conditional node and a while node whose
condition word is 0 or not. Its launch record stands at 0x720000, and its lease list at 0x721000. -/
def memGraph : Memory := ⟨[
  (0x2000, 1#8), (0x2001, 0x40#8), (0x4000, 0xF#8), (0x4001, 1#8), (0x100000, 2#8), (0x100002, 2#8), (0x100003, 4#8),
  (0x100008, 0x20#8), (0x10000c, 0x80#8), (0x100010, 0x80#8), (0x100011, 4#8), (0x100020, 1#8), (0x10002c, 1#8), (0x10003e, 1#8),
  (0x100040, 2#8), (0x100048, 2#8), (0x10004c, 1#8), (0x10005e, 1#8), (0x100488, 0xFF#8), (0x100489, 0xFF#8), (0x10049a, 1#8),
  (0x70000a, 0x72#8), (0x70001a, 0x71#8), (0x700040, 1#8), (0x700046, 1#8), (0x70004a, 0x72#8), (0x70005a, 0x71#8), (0x700068, 5#8),
  (0x700080, 2#8), (0x700082, 1#8), (0x700084, 1#8), (0x700091, 0x10#8), (0x700092, 0x71#8), (0x7000a1, 0x20#8), (0x7000a2, 0x71#8),
  (0x7000c0, 3#8), (0x7000c2, 1#8), (0x7000c4, 2#8), (0x7000d1, 0x10#8), (0x7000d2, 0x71#8), (0x7000e0, 8#8), (0x7000e1, 0x20#8),
  (0x7000e2, 0x71#8), (0x710000, 1#8), (0x710012, 0x73#8), (0x710018, 4#8), (0x711004, 1#8), (0x71200f, 0x80#8), (0x720000, 0x40#8),
  (0x72000a, 1#8), (0x72000c, 0x10#8), (0x72000d, 1#8), (0x720010, 1#8), (0x720014, 1#8), (0x720018, 1#8), (0x720020, 0xFF#8),
  (0x720021, 0xFF#8), (0x720022, 0xFF#8), (0x720023, 0xFF#8), (0x720024, 0xFF#8), (0x720025, 0xFF#8), (0x720026, 0xFF#8),
  (0x720027, 0xFF#8), (0x720031, 0x10#8), (0x720032, 0x72#8), (0x720038, 1#8), (0x721002, 0x30#8), (0x72100a, 1#8)]⟩
def stGraph (g : Graph) : State := { st0 with mem := memGraph, part := { st0.part with
  graphs := [g], jobs := [⟨5, 0, 9#64, 0x740000, 0, ⟨0, 0, 0#64, 0#64⟩, false, (0x710000, 0)⟩], nextJob := 6, ctxPool := [(0x2000000, 0x1000000)] } }
def graph0 : Graph := ⟨0, 1, 0x700000, 4, ⟨none, []⟩, 0, false, [], [], [], [], []⟩
/-- Record bytes of zeros wait at nodes 0 and 1, under job 5. -/
def waits0 (node : Nat) : WaitingRec := ⟨node, [5], List.replicate 64 0#8, [], (0x710000, 0)⟩
def graphWaits : Graph := { graph0 with waiting := [waits0 0, waits0 1] }
/-- A completion under job 5 has arrived at each node. -/
def graphFires : Graph := { graph0 with arrived := [(0, [5]), (2, [5]), (3, [5])] }

theorem ident_graph : ident (stGraph graph0) = true ∧ ident (stGraph graphWaits) = true ∧ ident (stGraph graphFires) = true :=
  ⟨by decide +kernel, by decide +kernel, by decide +kernel⟩

/-- The four nodes. -/
def node0 : GNode := ⟨0, 0, 0, 0, 0x720000, 0, 0x710000, 0, 0, true⟩
def node1 : GNode := ⟨1, 0, 0, 1, 0x720000, 0, 0x710000, 0, 5, true⟩
def node2 : GNode := ⟨2, 1, 1, 0, 0, 0x711000, 0, 0x712000, 0, true⟩
def node3 : GNode := ⟨3, 1, 2, 0, 0, 0x711000, 0, 0x712008, 0, true⟩

theorem nodes_graph : GNode.ofBytes (memGraph.bytes 0x700000 64) = node0 ∧ GNode.ofBytes (memGraph.bytes 0x700040 64) = node1
    ∧ GNode.ofBytes (memGraph.bytes 0x700080 64) = node2 ∧ GNode.ofBytes (memGraph.bytes 0x7000C0 64) = node3 :=
  ⟨by decide +kernel, by decide +kernel, by decide +kernel, by decide +kernel⟩

theorem malformed_alone {s : State} {g : Graph} {n : Nat} (k : Nat) (hc : g.count = k + 1) (hs : (gnode s g n).nsucc = 0) (hw : (gnode s g n).wf = true) :
    malformed s g n = false := by
  have h0 : successors s g (gnode s g n) = [] := by simp [successors, hs]
  have h1 : reach s g g.count [n] [n] = [n] := by rw [hc]; simp [reach, h0, dedup]
  simp [malformed, h0, h1, hw]

theorem witness_GraphNodes_take : (stGraph graph0).findGraph 0 = some graph0 ∧ gnode (stGraph graph0) graph0 0 = node0 ∧ node0.queue ≠ 0
    ∧ graph0.appended = [] ∧ queueHead (stGraph graph0) 1 0x710000 = some ⟨1, 0, 0x730000, 4, true⟩ ∧ (stGraph graph0).findJob 6 = none
    ∧ malformed (walkerWrite 1 0x710008 (toBytes 8 1) (stGraph graph0)) graph0 0 = false := by
  refine ⟨by decide +kernel, (gnode_low ident_graph.1 rfl (by decide)).trans nodes_graph.1, by decide, rfl, ?_, by decide +kernel, ?_⟩
  · rw [queueHead, walkerRead_low ident_graph.1 (by decide)]
    decide +kernel
  · have h : gnode (walkerWrite 1 0x710008 (toBytes 8 1) (stGraph graph0)) graph0 0 = node0 := by
      rw [gnode_low (by decide +kernel) rfl (by decide)]
      decide +kernel
    exact malformed_alone 3 rfl (by rw [h]; rfl) (by rw [h]; decide)

/-- Job 5 of the graph has appended the record that waits at node 0, and one of another graph has. -/
def graphAppended (job : Nat) : Graph := { graph0 with appended := [(0, 0, [job], [])] }

theorem ident_appended : ident (stGraph (graphAppended 5)) = true ∧ ident (stGraph (graphAppended 9)) = true := ⟨by decide +kernel, by decide +kernel⟩

/-- The page of the queue is write-blocked. -/
def stBlocked : State := { stGraph graph0 with mem := memGraph.put 0x4000 1 0x8F }

theorem witness_GraphNodes_held : (∀ s ∈ [stGraph graph0, stGraph (graphAppended 5), stGraph (graphAppended 9)],
      walkerHeld s 1 [0x710008, 0x71000F] = false ∧ walkerHeld s 1 [0x740000, 0x74003F] = false)
    ∧ walkerHeld stBlocked 1 [0x710008, 0x71000F] = true ∧ walkerHeld stBlocked 1 [0x740000, 0x74003F] = true
    ∧ queueHead stBlocked 1 0x710000 = some ⟨1, 0, 0x730000, 4, true⟩ ∧ jobBusy stBlocked 5 = false := by
  refine ⟨?_, by decide +kernel, by decide +kernel, by decide +kernel, by decide +kernel⟩
  intro s hs
  simp only [List.mem_cons, List.not_mem_nil, or_false] at hs
  rcases hs with rfl | rfl | rfl
  · exact ⟨walkerHeld_low ident_graph.1 (by decide) (by decide), walkerHeld_low ident_graph.1 (by decide) (by decide)⟩
  · exact ⟨walkerHeld_low ident_appended.1 (by decide) (by decide), walkerHeld_low ident_appended.1 (by decide) (by decide)⟩
  · exact ⟨walkerHeld_low ident_appended.2 (by decide) (by decide), walkerHeld_low ident_appended.2 (by decide) (by decide)⟩

theorem witness_GraphNodes_appended : (stGraph (graphAppended 5)).findGraph 0 = some (graphAppended 5) ∧ (stGraph (graphAppended 9)).findGraph 0 = some (graphAppended 9)
    ∧ queueHead (stGraph (graphAppended 5)) 1 0x710000 = some ⟨1, 0, 0x730000, 4, true⟩ ∧ queueHead (stGraph (graphAppended 9)) 1 0x710000 = some ⟨1, 0, 0x730000, 4, true⟩
    ∧ ((stGraph (graphAppended 5)).findJob 5).map (·.graph) = some 0 ∧ (stGraph (graphAppended 9)).findJob 9 = none
    ∧ (∀ j ∈ [5, 9], malformed (walkerWrite 1 0x710008 (toBytes 8 1) (stGraph (graphAppended j))) (graphAppended j) 0 = false)
    ∧ 0 ∈ successors (stGraph (graphAppended 5)) (graphAppended 5) (gnode (stGraph (graphAppended 5)) (graphAppended 5) 2) := by
  have hq : ∀ j, ident (stGraph (graphAppended j)) = true → queueHead (stGraph (graphAppended j)) 1 0x710000 = some ⟨1, 0, 0x730000, 4, true⟩ := fun j hj => by
    have hb : (stGraph (graphAppended j)).mem = memGraph := rfl
    rw [queueHead, walkerRead_low hj (by decide), hb]
    decide +kernel
  have hm : ∀ j, ident (walkerWrite 1 0x710008 (toBytes 8 1) (stGraph (graphAppended j))) = true →
      GNode.ofBytes ((walkerWrite 1 0x710008 (toBytes 8 1) (stGraph (graphAppended j))).mem.bytes 0x700000 64) = node0 →
      malformed (walkerWrite 1 0x710008 (toBytes 8 1) (stGraph (graphAppended j))) (graphAppended j) 0 = false := fun j hj hb => by
    have h : gnode (walkerWrite 1 0x710008 (toBytes 8 1) (stGraph (graphAppended j))) (graphAppended j) 0 = node0 := (gnode_low hj rfl (by show 0x700000 + 64 * 0 + 64 ≤ 2 ^ 36; decide)).trans hb
    exact malformed_alone 3 rfl (by rw [h]; rfl) (by rw [h]; decide)
  refine ⟨by decide +kernel, by decide +kernel, hq 5 ident_appended.1, hq 9 ident_appended.2, by decide +kernel, by decide +kernel, ?_, ?_⟩
  · intro j hj
    simp only [List.mem_cons, List.not_mem_nil, or_false] at hj
    rcases hj with rfl | rfl
    · exact hm 5 (by decide +kernel) (by decide +kernel)
    · exact hm 9 (by decide +kernel) (by decide +kernel)
  · rw [gnode_low ident_appended.1 rfl (by decide)]
    decide +kernel

theorem witness_GraphNodes_kernel : gnode (stGraph graphWaits) graphWaits 0 = node0 ∧ graphWaits.waiting.filter (·.node == 0) = [waits0 0]
    ∧ gnode (stGraph graphFires) graphFires 0 = node0 ∧ graphFires.waiting.filter (·.node == 0) = []
    ∧ arrivals graphFires 0 (needs node0) = some ([5], [(2, [5]), (3, [5])]) :=
  ⟨(gnode_low ident_graph.2.1 rfl (by decide)).trans nodes_graph.1, by decide +kernel, (gnode_low ident_graph.2.2 rfl (by decide)).trans nodes_graph.1,
    by decide +kernel, by decide +kernel⟩

theorem witness_GraphNodes_record : gnode (stGraph graphWaits) graphWaits 1 = node1 ∧ node1.thresh ≤ (graphWaits.waiting.filter (·.node == 1)).length ∧ graphWaits.waiting.filter (·.node == 1) ≠ []
    ∧ node1.tmo ≠ 0
    ∧ nodeDet (stGraph graphWaits) graphWaits node1 = false := by
  refine ⟨(gnode_low ident_graph.2.1 rfl (by decide)).trans nodes_graph.2.1, by decide +kernel, by decide +kernel, by decide, ?_⟩
  rw [nodeDet, show graphWaits.asid = 1 from rfl, walkerValue_low ident_graph.2.1 (by decide)]
  decide +kernel

theorem witness_GraphNodes_conditional : gnode (stGraph graphFires) graphFires 2 = node2 ∧ graphFires.waiting.filter (·.node == 2) = [] ∧ arrivals graphFires 2 (needs node2) = some ([5], [(0, [5]), (3, [5])])
    ∧ condValue (stGraph graphFires) graphFires node2 = 0 ∧ successors (stGraph graphFires) graphFires node2 = [0] ∧ graphFires.loops = [] :=
  ⟨(gnode_low ident_graph.2.2 rfl (by decide)).trans nodes_graph.2.2.1, by decide +kernel, by decide +kernel, by decide +kernel, by decide +kernel, rfl⟩

theorem witness_GraphNodes_while : gnode (stGraph graphFires) graphFires 3 = node3 ∧ graphFires.waiting.filter (·.node == 3) = [] ∧ arrivals graphFires 3 (needs node3) = some ([5], [(0, [5]), (2, [5])])
    ∧ condValue (stGraph graphFires) graphFires node3 ≠ 0 ∧ successors (stGraph graphFires) graphFires node3 = [0, 1] :=
  ⟨(gnode_low ident_graph.2.2 rfl (by decide)).trans nodes_graph.2.2.2, by decide +kernel, by decide +kernel, by decide +kernel, by decide +kernel⟩

/-- A firing of the kernel node, and one of the conditional node, which names no launch record. -/
def stSubmit (node : Nat) : State := (stGraph graph0).updPart (fun p => { p with submitted := [⟨4, 0, node, [5], none, [], []⟩], nextLaunch := 2 })
def record0 : LaunchRec := { LaunchRec.empty with
  obj := 64, nsq := 1, nparm := 16, dies := 1, gx := 1, gy := 1, gz := 1, owner := List.replicate 8 0xFF#8, leases := [(0x300000, 0x10000)]
  parms := List.replicate 16 0#64 }
def launch2 (next : Nat) : Launch := { Launch.empty with lid := 2, status := .running, asid := 1, lr := record0, jobs := [5], nextTeam := next }
def stLaunch (next : Nat) : State := { stGraph graph0 with launches := [launch2 next] }

/-- The 256 bytes of the launch record. -/
def bytes0 : List Byte := toBytes 256 (64 + 2 ^ 80 + 0x110 * 2 ^ 96 + (1 + 2 ^ 32 + 2 ^ 64) * 2 ^ 128 + (2 ^ 64 - 1) * 2 ^ 256 + 0x721000 * 2 ^ 384 + 2 ^ 448)

theorem ident_submit : ident (stSubmit 0) = true ∧ ident (stSubmit 2) = true := ⟨by decide +kernel, by decide +kernel⟩

theorem witness_LaunchLife_record : (stSubmit 0).part.submitted.find? (·.pid == 4) = some ⟨4, 0, 0, [5], none, [], []⟩ ∧ (stSubmit 0).findGraph 0 = some graph0
    ∧ gnode (stSubmit 0) graph0 0 = node0 ∧ walkerRead (stSubmit 0) 1 0x720000 256 = some bytes0 := by
  refine ⟨by decide +kernel, by decide +kernel, (gnode_low ident_submit.1 rfl (by decide)).trans nodes_graph.1, ?_⟩
  rw [walkerRead_low ident_submit.1 (by decide)]
  decide +kernel

/-- The launch has begun. -/
def stBegun : State := { stSubmit 0 with
  launches := (stSubmit 0).launches.filter (fun (y : Launch) => y.lid != 2) ++ [{ Launch.empty with
    lid := 2, status := .running, asid := 1, lr := record0, jobs := [5], graph := 0, node := 0, records := [], stream := false
    teamAreas := [(0x2000000, 1)], squadAreas := [(0x2030000, 1)], tasks := [] }]
  part := { (stSubmit 0).part with nextLaunch := 3, ctxPool := [(0x2040000, 0xFC0000)], submitted := [] } }

theorem witness_LaunchLife_start : LaunchRec.ofBytes bytes0 [(0x300000, 0x10000)] = record0 ∧ leaseList (stSubmit 0) 1 bytes0 = some [(0x300000, 0x10000)]
    ∧ launchRefused (stSubmit 0) 1 0x720000 bytes0 (some [(0x300000, 0x10000)]) = false
    ∧ takeContexts record0 (stSubmit 0).part.ctxPool = some ([(0x2000000, 1)], [(0x2030000, 1)], [(0x2040000, 0xFC0000)]) ∧ numberHeld (stSubmit 0) = false
    ∧ launchParms ⟨4, 0, 0, [5], none, [], []⟩ 0 record0.parms = record0.parms ∧ (placeFor stBegun record0).isSome = true ∧ lowestMissing (stSubmit 0) 1 record0.leases = none ∧ record0.det = false ∧ record0.rcount = 0 :=
  ⟨by decide +kernel, by decide +kernel, by decide +kernel, by decide +kernel, by decide +kernel, rfl, by decide +kernel, by decide +kernel, rfl, rfl⟩

theorem witness_LaunchLife_refused : gnode (stSubmit 2) graph0 2 = node2 ∧ walkerRead (stSubmit 2) 1 0 256 = some (List.replicate 256 0#8)
    ∧ launchRefused (stSubmit 2) 1 node2.lrec (List.replicate 256 0#8) (leaseList (stSubmit 2) 1 (List.replicate 256 0#8)) = true
    ∧ (stSubmit 2).findJob 5 = some ⟨5, 0, 9#64, 0x740000, 0, ⟨0, 0, 0#64, 0#64⟩, false, (0x710000, 0)⟩ := by
  refine ⟨(gnode_low ident_submit.2 rfl (by decide)).trans nodes_graph.2.2.1, ?_, by decide +kernel, by decide +kernel⟩
  rw [walkerRead_low ident_submit.2 (by decide)]
  decide +kernel

theorem witness_LaunchLife : st0.part.bootst = 3#4 ∧ st0.findGraph 0 = none ∧ (stGraph graph0).findGraph 1 = none
    ∧ (∀ j, j < 1 → (stGraph graph0).findGraph j ≠ none)
    ∧ (stLaunch 0).findLaunch 2 = some (launch2 0) ∧ (launch2 0).nextTeam < record0.teams ∧ (placeFor (stLaunch 0) record0).isSome = true
    ∧ (stLaunch 1).findLaunch 2 = some (launch2 1) ∧ launchOver (stLaunch 1) (launch2 1) = true :=
  ⟨rfl, by decide +kernel, by decide +kernel, by decide +kernel, by decide +kernel, by decide, by decide +kernel, by decide +kernel, by decide +kernel⟩

/-- A debugger has stopped the launch; and frames that do not do for a missing page. -/
def stLaunchStopped : State := { stGraph graph0 with launches := [{ launch2 0 with debugStop := true }] }

theorem witness_LaunchLife_held : stLaunchStopped.findLaunch 2 = some { launch2 0 with debugStop := true } ∧ (launch2 0).debugStop = false
    ∧ (lowestMissing (stSubmit 0) 1 [(2 ^ 36, 65536)]).isSome = true
    ∧ resident 1 [(2 ^ 36, 65536)] ⟨4, [⟨1, 0x2#64⟩], []⟩ (stSubmit 0) = none ∧ resident 1 record0.leases ⟨4, [], []⟩ (stSubmit 0) = some (stSubmit 0) := by
  refine ⟨by decide +kernel, rfl, by decide +kernel, by decide +kernel, ?_⟩
  rw [resident, witness_LaunchLife_start.2.2.2.2.2.2.2.1]
  rfl

theorem witness_LaunchLife_job : jobBusy (stGraph graph0) 5 = false ∧ (stGraph graph0).mem.wf = true
    ∧ (∀ b, b < 64 → walkerAddr (stGraph graph0) 1 (0x740000 + b) = some (0x740000 + b)) :=
  ⟨by decide +kernel, by decide +kernel, fun b hb => walkerAddr_low ident_graph.1 (by omega)⟩

/-- The squad's team in a status, on a part with room on core 0 for launches of die 0. -/
def stTeam (st : TeamStatus) : State := { stIdle with
  team := { team0 with status := st, ctx := 0x2000000 }, launch := { launch0 with lr := { launch0.lr with dies := 1 } }
  sq := { stIdle.sq with ctx := 0x2030000, fast := false } }

/-- A saved team whose scratch and stock went to memory. -/
def stCopied : State := let s := stTeam .saved; { s with team := { s.team with copied := true } }

theorem witness_PreemptionEvents : (∀ st ∈ [TeamStatus.running, .preempting, .saved], (stTeam st).findTeam ⟨1, 0⟩ = some (stTeam st).team)
    ∧ ((stTeam .running).part.drain ≠ 0#64 ∧ ((stTeam .running).updPart (fun p => { p with drain := 0#64 })).part.drain = 0#64)
    ∧ (teamSettled (stTeam .preempting) ⟨1, 0⟩ = true ∧ (stTeam .preempting).mem.wf = true)
    ∧ (∀ s ∈ [stTeam .saved, stCopied], (s.getLaunch 1).status = .running ∧ storesAway s s.team 0 = false ∧ mayResume s s.team 0 = true ∧ s.findSq ⟨1, 0, 0⟩ = some s.sq)
    ∧ (stTeam .saved).team.copied = false ∧ stCopied.findTeam ⟨1, 0⟩ = some stCopied.team ∧ mayResume stCopied stCopied.team 47 = true ∧ storesAway stCopied stCopied.team 47 = false := by
  refine ⟨?_, ?_, ?_, ?_, ?_, ?_, ?_, ?_⟩ <;> decide +kernel

/-! ## Witnesses: translation, the outside, management and debug -/

/-- The leaf of 64 GiB moves from frame 0 to the next one. -/
def stMigrate : State := st0.updPart (fun p => { p with migrations := [⟨1, 0, 0, 2 ^ 36⟩] })

theorem merged_st0 (c : Nat) : (stMigrate.getCore c).merged = [] := by
  by_cases h : c = 0
  · subst h; rfl
  · have : stMigrate.core.id ≠ c := fun e => h e.symm
    simp only [State.getCore, this, if_false]
    rfl

theorem pend_st0 (d : Nat) : (stMigrate.getDie d).pend = [] := by
  have h : ∀ x ∈ stMigrate.dies.toList, x.pend = [] := by decide
  unfold State.getDie
  cases hf : stMigrate.dies.toList.find? (·.id == d) with
  | none => rfl
  | some x => exact h x (List.mem_of_find?_eq_some hf)

/-- A command of engine 3 of die 0 works in ASID 1. -/
def stWalk : State := { st0 with cmds := [{ (default : Cmd) with id := 1, asid := 1, engine := 3 }] }

theorem witness_MemoryEvents : (walk st0 0 9 0 = none ∧ walk st0 0 1 0x300000 = some (0x10F#64, 2 ^ 36) ∧ walk st0 (dieOf 191) 1 0x300000 = some (0x10F#64, 2 ^ 36))
    ∧ (walk stWalk (dieOf 0) 1 0x300000 = some (0x10F#64, 2 ^ 36) ∧ (∃ d ∈ stWalk.dies.toList, d.id = dieOf 0) ∧ 3 ∈ enginesFor stWalk (dieOf 0) 1)
    ∧ (entryAddr st0 1 0x300000 = some 0x4000 ∧ leafWBLK (0x10F#64) = false ∧ 2 ^ 36 % 2 ^ 36 = 0 ∧ served st0 (2 ^ 36) (2 ^ 36) = true ∧ 2 ^ 36 + 2 ^ 36 ≤ 2 ^ 52)
    ∧ st0.part.migrations = [] ∧ walk stMigrate 0 1 0x300000 = some (0x10F#64, 2 ^ 36) ∧ entryAddr stMigrate 1 0x300000 = some 0x4000
    ∧ stMigrate.part.migrations.find? (fun m => m.asid == 1 && m.va == 0x300000 / 2 ^ 36 * 2 ^ 36) = some ⟨1, 0, 0, 2 ^ 36⟩
    ∧ (∀ c, (stMigrate.getCore c).merged = []) ∧ (∀ d, (stMigrate.getDie d).pend = []) ∧ stMigrate.mem.wf = true
    ∧ stMigrate.part.nqsize = 0#64 ∧ stMigrate.part.held.length < 64 ∧ portsOf stMigrate 0 (2 ^ 36) ++ portsOf stMigrate (2 ^ 36) (2 ^ 36) = [] :=
  ⟨by decide +kernel, ⟨by decide +kernel, ⟨Die.fresh 0, by decide, by decide⟩, by decide +kernel⟩, by decide +kernel, rfl, by decide +kernel,
    by decide +kernel, by decide +kernel, merged_st0, pend_st0, by decide +kernel, rfl, by decide, rfl⟩

/-- The page moves to the window of a port that is down. -/
def stMigrateDown : State := st0.updPart (fun p => { p with
  windows := [⟨2 ^ 40, 2 ^ 36, some 0, 0⟩], portsDown := 1#16, migrations := [⟨1, 0, 0, 2 ^ 40⟩] })

theorem witness_MemoryEvents_down : walk stMigrateDown 0 1 0x300000 = some (0x10F#64, 2 ^ 36) ∧ entryAddr stMigrateDown 1 0x300000 = some 0x4000
    ∧ stMigrateDown.part.migrations.find? (fun m => m.asid == 1 && m.va == 0x300000 / 2 ^ 36 * 2 ^ 36) = some ⟨1, 0, 0, 2 ^ 40⟩
    ∧ 0 ∈ portsOf stMigrateDown 0 (2 ^ 36) ++ portsOf stMigrateDown (2 ^ 40) (2 ^ 36) ∧ portUp stMigrateDown 0 = false := by decide +kernel

/-- Port 0 is down. A peer's rows may reach launches of ASID 1 through port 15. -/
def stPort : State := stShoe.updPart (fun p => { p with portsDown := 1#16, portAsids := [(15, 1)] })

/-- The part has failed its boot (R396). -/
def stFailed : State := st0.updPart (fun p => { p with bootst := 0xF#4 })

theorem witness_events_failed : stFailed.part.bootst = 0xF#4 ∧ st0.part.bootst ≠ 0xF#4 ∧ stPort.part.bootst ≠ 0xF#4 ∧ stMigrate.part.bootst ≠ 0xF#4 := by decide

theorem witness_OutsideEvents : (hbmBytes stPort.part.caps = 768 * 2 ^ 30 ∧ inHbm stPort (768 * 2 ^ 30 - 8) (outerSize (.read 8)) = true
      ∧ inHbm stPort (768 * 2 ^ 30 - 7) (outerSize (.read 8)) = false ∧ inHostWindow stPort (768 * 2 ^ 30 - 7) (outerSize (.read 8)) = false)
    ∧ (portUp stPort 0 = false ∧ portUp stPort 15 = true ∧ stPort.allTeams = [teamShoe] ∧ teamShoe.core = 0 ∧ teamShoe.status = .running)
    ∧ ((stPort.part.portAsids.find? (·.1 == 15)).map (·.2) = some (stPort.getLaunch 1).asid ∧ teamShoe.shoeMask.getLsbD 15 = true
      ∧ (vget teamShoe.shoes 15).nslot ≠ 0 ∧ 64 ≤ 64 * (vget teamShoe.shoes 15).slot ∧ 0 < (vget teamShoe.shoes 15).free ∧ (vget teamShoe.shoes 15).ptakes = [])
    ∧ (¬ (teamShoe.shoeMask.getLsbD 0 = true) ∧ teamShoe.scratch.wf = true ∧ stPort.mem.wf = true ∧ stPort.part.caps.ports.getLsbD 0 = true
      ∧ stPort.part.bootst ≠ 0xF#4)
    ∧ (stPort.part.bootst = 3#4 ∧ stPort.part.pcap.toNat ≤ 2400 ∧ (0x1111#16 ≠ stPort.part.ntok)
      ∧ ∀ d, d < 4 → 1 ≤ ntokOf 0x1111#16 d ∧ ntokOf 0x1111#16 d ≤ ntokOf stPort.part.ntok d ∧ ntokOf 0x1111#16 d ≤ 6)
    ∧ (State.reset.part.bootst ≠ 3#4 ∧ 599 < stPort.part.pcap.toNat) := by
  refine ⟨?_, ?_, ?_, ?_, ?_, ?_⟩ <;> decide +kernel

/-- The part in state 2 of its boot; and with one held record of notification. -/
def stBoot : State := st0.updPart (fun p => { p with bootst := 2#4, lcopol := 2#2 })
def stHeldNote : State := st0.updPart (fun p => { p with held := [List.replicate 32 1#8] })

/-- No tree of either key has a leaf left but the identity key's last. -/
def stLastKey : State := st0.updPart (fun p => { p with attestLeft := 0, identityLeft := 1 })

theorem witness_ManagementEvents : (stBoot.part.bootst = 2#4 ∧ st0.part.bootst = 3#4 ∧ (st0.updPart (fun p => { p with bootst := 0xF#4 })).part.bootst = 0xF#4)
    ∧ ((List.replicate 32 0xFF#8).length = 32 ∧ st0.part.attestLeft ≠ 0 ∧ stLastKey.part.bootst = 3#4 ∧ stLastKey.part.attestLeft = 0 ∧ stLastKey.part.identityLeft ≠ 0)
    ∧ (BitVec.ofNat 64 ((0x8000000000740000#64).toNat % 2 ^ 52) = 0x740000#64 ∧ (0x740000#64).toNat % 4096 = 0 ∧ placed stHeldNote 0x740000 4096 = true
      ∧ placed stHeldNote 0x740000 (32 * 65536) = true ∧ (65536#64).toNat = 64 * 2 ^ 10 ∧ stHeldNote.part.nqsize = 0#64)
    ∧ (stHeldNote.part.held = [List.replicate 32 1#8] ∧ stHeldNote.part.nqtail = stHeldNote.part.nqhead ∧ stHeldNote.mem.wf = true
      ∧ portsOf stHeldNote (0x740000 + 32 * (stHeldNote.part.nqtail.toNat % 65536)) 32 = [] ∧ (65#64).toNat ≠ 64 * 2 ^ 0)
    ∧ ((0x100000#64).toNat % 2 ^ 21 ≤ 2 ^ 20 ∧ ¬ (0x100001#64).toNat % 2 ^ 21 ≤ 2 ^ 20 ∧ 600 ≤ (2400#64).toNat ∧ (2400#64).toNat ≤ 2400 ∧ (599#64).toNat < 600)
    ∧ (st0.part.lcopol.getLsbD 1 = false ∧ stBoot.part.lcopol.getLsbD 1 = true ∧ stBoot.part.bootst ≠ 0xF#4)
    ∧ ((st0.part.nqtail - 0#64).toNat ≤ (st0.part.nqtail - st0.part.nqhead).toNat ∧ ¬ (st0.part.nqtail - 1#64).toNat ≤ (st0.part.nqtail - st0.part.nqhead).toNat)
    ∧ (∀ d, d < 4 → 1 ≤ ntokOf ((0x6161#64).setWidth 16) d ∧ ntokOf ((0x6161#64).setWidth 16) d ≤ 6)
    ∧ (capValue st0.part.caps (0x100 + 0)).isSome = true ∧ (capValue st0.part.caps (0x100 + 0x12)).isSome = true := by
  refine ⟨?_, ?_, ?_, ?_, ?_, ?_, ?_, ?_, ?_, ?_⟩ <;> decide +kernel

/-- A ring stands, and nothing is in it. -/
def stRing : State := st0.updPart (fun p => { p with nqbase := 0x740000#64, nqsize := 64#64 })

theorem witness_ManagementEvents_registers : (stRing.part.nqbase.toNat < 2 ^ 52 ∧ stRing.part.nqbase.toNat % 4096 = 0 ∧ placed stRing stRing.part.nqbase.toNat 4096 = true
      ∧ placed stRing (0x741000) (32 * stRing.part.nqsize.toNat) = true ∧ stRing.part.nqtail = stRing.part.nqhead ∧ (0x741001#64).toNat % 4096 ≠ 0)
    ∧ (ntokOf ((0x1117#64).setWidth 16) 0 = 7 ∧ ntokOf ((0x0111#64).setWidth 16) 3 < 1)
    ∧ ((∀ i, i < 13 → 1 ≤ i → (0x2001#64).getLsbD i = false) ∧ (0x2001#64).toNat < 2 ^ 52 ∧ (0x2003#64).getLsbD 1 = true ∧ ¬ (0x10000000000000#64).toNat < 2 ^ 52)
    ∧ ((0x1000100000000#64).toNat / 2 ^ 32 % 2 ^ 16 ≠ 0 ∧ (0x1000100000000#64).toNat < 2 ^ 49 ∧ (0#64).toNat / 2 ^ 32 % 2 ^ 16 = 0)
    ∧ ((64#64).toNat % 64 = 0 ∧ (64#64).toNat < 2 ^ 52 ∧ (1#64).toNat % 64 ≠ 0) ∧ ((65536#64).toNat ≤ 65536 ∧ ¬ (65537#64).toNat ≤ 65536)
    ∧ (2 ^ 40 + 1 ≤ 2 ^ 52 ∧ ¬ 2 ^ 40 ≤ 2 ^ 40 - 1) ∧ (0 + 768 * 2 ^ 30 ≤ hbmBytes st0.part.caps ∧ hbmBytes st0.part.caps < 1 + 768 * 2 ^ 30)
    ∧ (2 ^ 26 % 2 ^ 26 = 0 ∧ inHbm st0 (2 ^ 26) (2 ^ 26) = true ∧ inHbm st0 (768 * 2 ^ 30) (2 ^ 26) = false) ∧ (15 < 16 ∧ (1023#64).toNat < 1024 ∧ ¬ (1024#64).toNat < 1024) := by
  refine ⟨?_, ?_, ?_, ?_, ?_, ?_, ?_, ?_, ?_, ?_⟩ <;> decide +kernel

/-- An object with a region descriptor and a page, of which no launch is live; a squad that waits on nothing. -/
def objIdle : Obj := { obj0 with addr := 128, regions := [(3, 0#16)], maps := [] }
def objPage : Obj := { obj0 with addr := 192, maps := [(0x300000, 1)] }
def stObjs : State := st0.updPart (fun p => { p with objs := [obj0, objIdle, objPage] })
def stStuck : State := stSlow.onSq (fun q => { q with syncw := none, wait := none, fes := ~~~(1#32 <<< 5) })
def stStuckCode : State := { stStuck with mem := mem0.put 0x110000 4 0x10891628 }
/-- The tables of an object's page of 64 KiB. -/
def stLeafPage : State := { stObjs with mem := (⟨[(0x2000, 1#8), (0x2001, 0x40#8), (0x4000, 1#8), (0x4001, 0x60#8), (0x6000, 1#8), (0x6001, 0x80#8)]⟩ : Memory).put 0x8180 8 0x103 }

theorem witness_ObjectAndDebugEvents : (stBoot.part.bootst ≠ 3#4 ∧ st0.part.bootst = 3#4 ∧ refusedEarly st0 [] = some (1, 0))
    ∧ (stObjs.findObj 64 = some obj0 ∧ objInUse stObjs obj0 = true ∧ stObjs.findObj 128 = some objIdle ∧ objInUse stObjs objIdle = false)
    ∧ (stObjs.findObj 192 = some objPage ∧ objInUse stObjs objPage = false ∧ stObjs.mem.wf = true ∧ unloadWaits stObjs 1 3 = false ∧ descBacked stObjs 1 3 = true)
    ∧ (stLeafPage.findObj 192 = some objPage ∧ objInUse stLeafPage objPage = false ∧ stLeafPage.mem.wf = true ∧ entryAddr stLeafPage 1 0x300000 = some 0x8180
      ∧ walk stLeafPage 0 1 0x300000 = some (0x103#64, 65536))
    ∧ (st0.findLaunch 1 = some launch0 ∧ st0.findTeam team0.key = some team0 ∧ team0.key.lid = 1 ∧ team0.status = .running ∧ st0.findCmd 1 = none
      ∧ (stWalk.findCmd 1).isSome = true)
    ∧ (stStuckCode.allSquads = [stStuckCode.sq] ∧ stStuckCode.sq.status = .live ∧ waitNow stStuckCode stStuckCode.sq = some (.reg (.s 5))
      ∧ stStuckCode.sq.isFull (.s 5) = false ∧ stStuckCode.sq.pendingOn (.s 5) = none ∧ stStuckCode.part.bootst = 3#4)
    ∧ (stStuckCode.part.nqsize = 0#64 ∧ stStuckCode.part.held = [] ∧ st0.findSq ⟨1, 0, 0⟩ = some sq0)
    ∧ (Experiment.mk 1 0 0 0 4096 [(0, 0), (1, 0), (2, 0), (3, 0)]).points.length ≤ 4 ∧ inHbm st0 (768 * 2 ^ 30 - 1) 1 = true := by
  refine ⟨?_, ?_, ?_, ?_, ?_, ?_, ?_, ?_, ?_⟩ <;> decide +kernel

/-! ### A table of 1,024 pages that a promotion makes one -/

/-- Page table at 0x8000: entry `i` names the 64 KiB at 65536 × (i + d), with R. -/
def pageCells (d i : Nat) : List (Nat × Byte) :=
  [(0x8000 + 8 * i, 3#8), (0x8000 + 8 * i + 1, 1#8), (0x8000 + 8 * i + 2, BitVec.ofNat 8 (i + d)), (0x8000 + 8 * i + 3, BitVec.ofNat 8 ((i + d) / 256))]
def memTop : Memory := ⟨[(0x2000, 1#8), (0x2001, 0x40#8), (0x4000, 1#8), (0x4001, 0x60#8), (0x6000, 1#8), (0x6001, 0x80#8)]⟩
/-- The table, in a part whose pool for promotions holds one frame or none. -/
def stPages (d : Nat) : State := { st0 with part := { st0.part with promoPool := if d = 1 then [2 ^ 27] else [] }, mem := memTop.writeCells ((List.range 1024).flatMap (pageCells d)) }

theorem mem_pages (d : Nat) : (stPages d).mem = memTop.writeCells ((List.range 1024).flatMap (pageCells d)) := by simp only [stPages]

theorem lastCell_append (l r : List (Nat × Byte)) (a : Nat) : lastCell (l ++ r) a = (lastCell r a).or (lastCell l a) := by
  induction l with
  | nil => simp [lastCell]
  | cons c l ih => simp [lastCell, ih, Option.or_assoc]

theorem lastCell_pages (d n i : Nat) (h : i < n) (j : Nat) (hj : j < 8) : lastCell ((List.range n).flatMap (pageCells d)) (0x8000 + 8 * i + j) =
    [some 3#8, some 1#8, some (BitVec.ofNat 8 (i + d)), some (BitVec.ofNat 8 ((i + d) / 256)), none, none, none, none].getD j none := by
  induction n with
  | zero => omega
  | succ n ih =>
    rw [List.range_succ, List.flatMap_append, lastCell_append]
    by_cases e : i = n
    · subst e
      have hout : 4 ≤ j → lastCell ((List.range i).flatMap (pageCells d)) (0x8000 + 8 * i + j) = none := fun _ => lastCell_none fun c hc => by
        simp only [List.mem_flatMap, List.mem_range, pageCells, List.mem_cons, List.not_mem_nil, or_false] at hc
        obtain ⟨k, hk, rfl | rfl | rfl | rfl⟩ := hc <;> simp <;> omega
      interval_cases j <;> simp_all [lastCell, pageCells]
    · have hn : lastCell ([n].flatMap (pageCells d)) (0x8000 + 8 * i + j) = none := lastCell_none fun c hc => by
        simp only [List.flatMap_cons, List.flatMap_nil, List.append_nil, pageCells, List.mem_cons, List.not_mem_nil, or_false] at hc
        obtain rfl | rfl | rfl | rfl := hc <;> simp <;> omega
      rw [hn, ih (by omega)]
      rfl

theorem memTop_above (i j : Nat) : memTop.read (0x8000 + 8 * i + j) = 0#8 := by
  have h : ∀ k, k ∈ [0x2000, 0x2001, 0x4000, 0x4001, 0x6000, 0x6001] → k ≠ 0x8000 + 8 * i + j := by
    intro k hk
    simp only [List.mem_cons, List.not_mem_nil, or_false] at hk
    omega
  simp only [List.mem_cons, List.not_mem_nil, or_false, forall_eq_or_imp, forall_eq] at h
  simp only [Memory.read, memTop, cellRead, if_neg h.1, if_neg h.2.1, if_neg h.2.2.1, if_neg h.2.2.2.1, if_neg h.2.2.2.2.1, if_neg h.2.2.2.2.2]
  rfl

theorem memTop_wf : memTop.wf = true := by decide +kernel

/-- What the tables do not change. -/
theorem dies_pages (d : Nat) : (stPages d).dies = st0.dies := by simp only [stPages]
theorem part_pages (d : Nat) : (stPages d).part = { st0.part with promoPool := if d = 1 then [2 ^ 27] else [] } := by simp only [stPages]
theorem getDie_of (s t : State) (h : s.dies = t.dies) (d : Nat) : s.getDie d = t.getDie d := by unfold State.getDie; rw [h]
theorem pend_pages (d : Nat) : ((stPages d).getDie 0).pend = [] := by
  rw [getDie_of _ st0 (dies_pages d)]
  decide +kernel
theorem pend_none (pa : Nat) (b : Byte) : (pendingByte [] pa).getD b = b := rfl
theorem dieByte_pages (d a : Nat) : dieByte (stPages d) 0 a = (stPages d).mem.read a := by
  rw [dieByte, pend_pages, pend_none]

theorem dieValue8 {s : State} {d a : Nat} (h : a + 8 ≤ 2 ^ 40) : dieValue s d a 8 = ofBytes [dieByte s d a, dieByte s d (a + 1), dieByte s d (a + 2),
    dieByte s d (a + 3), dieByte s d (a + 4), dieByte s d (a + 5), dieByte s d (a + 6), dieByte s d (a + 7)] := by
  simp only [dieValue, span, List.map_cons, List.map_nil, Nat.add_assoc, Nat.reduceAdd]
  rw [canon_low (by omega), canon_low (by omega), canon_low (by omega), canon_low (by omega), canon_low (by omega), canon_low (by omega),
    canon_low (by omega), canon_low (by omega)]

theorem pages_byte (d : Nat) {i : Nat} (h : i < 1024) {j : Nat} (hj : j < 8) : dieByte (stPages d) 0 (0x8000 + 8 * i + j) =
    ([some 3#8, some 1#8, some (BitVec.ofNat 8 (i + d)), some (BitVec.ofNat 8 ((i + d) / 256)), none, none, none, none].getD j none).getD 0#8 := by
  rw [dieByte_pages, mem_pages, Memory.read_writeCells memTop_wf, lastCell_pages _ _ _ h _ hj, memTop_above i j]

theorem pages_entry {d i : Nat} (hd : d ≤ 2) (h : i < 1024) : dieValue (stPages d) 0 (0x8000 + 8 * i) 8 = 0x103 + 65536 * (i + d) := by
  have hr := fun {j : Nat} (hj : j < 8) => pages_byte d h hj
  have e0 := hr (j := 0) (by omega)
  rw [Nat.add_zero] at e0
  rw [dieValue8 (by omega), e0, hr (by omega), hr (by omega), hr (by omega), hr (by omega), hr (by omega), hr (by omega), hr (by omega)]
  simp [ofBytes]
  omega

theorem pages_top (d : Nat) : ∀ x ∈ [(0x2000, 0x4001), (0x4000, 0x6001), (0x6000, 0x8001)], dieValue (stPages d) 0 x.1 8 = x.2 := by
  have hout : ∀ a, a < 0x8000 → dieByte (stPages d) 0 a = memTop.read a := fun a ha => by
    rw [dieByte_pages, mem_pages, Memory.read_writeCells_out memTop_wf]
    intro c hc
    simp only [List.mem_flatMap, List.mem_range, pageCells, List.mem_cons, List.not_mem_nil, or_false] at hc
    obtain ⟨k, hk, rfl | rfl | rfl | rfl⟩ := hc <;> simp only <;> omega
  intro x hx
  simp only [List.mem_cons, List.not_mem_nil, or_false] at hx
  rcases hx with rfl | rfl | rfl <;> rw [dieValue8 (by decide)] <;> simp only [] <;>
    rw [hout _ (by decide), hout _ (by decide), hout _ (by decide), hout _ (by decide), hout _ (by decide), hout _ (by decide), hout _ (by decide), hout _ (by decide)] <;>
    decide +kernel

/-- The leaf of the 64 KiB at 65536 × i, with R. -/
def leafOf (i : Nat) : DWord := BitVec.ofNat 64 (0x103 + 65536 * i)

theorem leafOf_toNat {i : Nat} (h : i < 1026) : (leafOf i).toNat = 0x103 + 65536 * i := by
  rw [leafOf, BitVec.toNat_ofNat]
  omega

theorem leafOf_field {i : Nat} (h : i < 1026) (p n x : Nat) (hx : (0x103 + 65536 * i) / 2 ^ p % 2 ^ n = x) : (leafOf i).extractLsb' p n = BitVec.ofNat n x := by
  apply BitVec.eq_of_toNat_eq
  rw [BitVec.extractLsb'_toNat, leafOf_toNat h, Nat.shiftRight_eq_div_pow, hx, BitVec.toNat_ofNat, ← hx, Nat.mod_mod]

theorem leafOf_bit {i : Nat} (h : i < 1026) (p : Nat) (b : Bool) (hx : decide ((0x103 + 65536 * i) / 2 ^ p % 2 = 1) = b) : (leafOf i).getLsbD p = b := by
  rw [← BitVec.testBit_toNat, leafOf_toNat h, Nat.testBit_eq_decide_div_mod_eq, hx]

theorem leafOf_addr {i : Nat} (h : i < 1026) : leafAddr (leafOf i) = 65536 * i := by
  rw [leafAddr, leafOf_field h 13 39 (8 * i) (by omega), BitVec.toNat_ofNat]
  omega

theorem caps_pages (d : Nat) : hbmBytes (stPages d).part.caps = 768 * 2 ^ 30 ∧ dieBytes (stPages d).part.caps 0 = 192 * 2 ^ 30 := by
  have e : (stPages d).part.caps = st0.part.caps := by rw [part_pages]
  rw [e]
  exact ⟨by decide +kernel, by decide +kernel⟩

theorem leafOf_kind (d : Nat) {i : Nat} (h : i < 1026) : entryKind (stPages d) 1 (leafOf i) = .leaf := by
  have hb : backed (stPages d) (65536 * i) 65536 = true := by
    simp only [backed, (caps_pages d).1, Bool.or_eq_true, decide_eq_true_eq]
    omega
  simp only [entryKind, leafOf_bit h 0 true (by simp; omega), leafOf_bit h 8 true (by simp; omega), leafOf_field h 52 12 0 (by omega), leafOf_field h 9 4 0 (by omega),
    leafOf_addr h]
  simp [hb]

/-- A part of the full capacity without windows, whose ASID 1 has its tables at 0x2000. -/
def fullPart (s : State) : Prop := (hbmBytes s.part.caps = 768 * 2 ^ 30 ∧ s.part.windows = []) ∧ (asidEnt s 1).root = 0x2001#64

theorem tables_pages {s : State} (h : fullPart s) : entryKind s 4 0x4001#64 = .table ∧ entryKind s 3 0x6001#64 = .table ∧ entryKind s 2 0x8001#64 = .table := by
  have b : ∀ a ∈ [0x4000, 0x6000, 0x8000], served s a 8192 = true := by simp [served, portsOf, backed, h.1.1, h.1.2]
  have l : leafAddr 0x4001#64 = 0x4000 ∧ leafAddr 0x6001#64 = 0x6000 ∧ leafAddr 0x8001#64 = 0x8000 := by decide
  simp [entryKind, l.1, l.2.1, l.2.2, b 0x4000 (by decide), b 0x6000 (by decide), b 0x8000 (by decide)]

theorem root_pages {s : State} (h : fullPart s) : rootOf s 1 = some 0x2000 := by
  simp [rootOf, h.2, served, portsOf, backed, h.1.1, h.1.2]

theorem asid_pages (d : Nat) : (asidEnt (stPages d) 1).root = 0x2001#64 ∧ (asidEnt (stPages d) 1).promo = true ∧ (stPages d).part.promoPaused = false := by
  have e : (stPages d).part.asids = st0.part.asids ∧ (stPages d).part.promoPaused = st0.part.promoPaused := by rw [part_pages]; exact ⟨rfl, rfl⟩
  rw [asidEnt, e.1, e.2]
  decide

theorem tableEntry_of {s : State} (hr : fullPart s) (h1 : dieValue s 0 0x2000 8 = 0x4001) (h2 : dieValue s 0 0x4000 8 = 0x6001)
    (h3 : dieValue s 0 0x6000 8 = 0x8001) : tableEntry s 1 0 = some (0x6000, 0x8000) := by
  have hk := tables_pages hr
  simp [tableEntry, root_pages hr, h1, h2, h3, hk.1, hk.2.1, hk.2.2, leafAddr]

theorem tableEntry_pages (d : Nat) : tableEntry (stPages d) 1 0 = some (0x6000, 0x8000) :=
  tableEntry_of ⟨⟨(caps_pages d).1, by rw [part_pages]; rfl⟩, (asid_pages d).1⟩ (pages_top d (0x2000, 0x4001) (by decide)) (pages_top d (0x4000, 0x6001) (by decide))
    (pages_top d (0x6000, 0x8001) (by decide))

theorem leafOf_home (d : Nat) {i : Nat} (h : i < 1026) : homeOf (stPages d) (leafAddr (leafOf i)) = 0 := by
  have : outside (65536 * i) = false := by simp [outside]; omega
  rw [leafOf_addr h, homeOf, this]
  simp only [Bool.false_eq_true, if_false, (caps_pages d).2]
  rw [if_pos (by omega)]

theorem pages_leaf {d i : Nat} (hd : d ≤ 2) (h : i < 1024) : BitVec.ofNat 64 (dieValue (stPages d) 0 (0x8000 + 8 * i) 8) = leafOf (i + d) := by
  rw [pages_entry hd h, leafOf]

theorem witness_MemoryEvents_promotion (d : Nat) (hd : d ≤ 2) : tableEntry (stPages d) 1 0 = some (0x6000, 0x8000) ∧ (asidEnt (stPages d) 1).promo = true
    ∧ (stPages d).part.promoPaused = false ∧ (stPages d).mem.wf = true ∧ (∀ i, i < 1024 → let e := fun i => BitVec.ofNat 64 (dieValue (stPages d) 0 (0x8000 + 8 * i) 8)
      entryKind (stPages d) 1 (e i) = .leaf ∧ leafCO (e i) = false ∧ leafWBLK (e i) = false ∧ (e i).extractLsb' 1 8 = (e 0).extractLsb' 1 8
      ∧ leafAddr (e i) = 65536 * (i + d) ∧ inHbm (stPages d) (leafAddr (e i)) 65536 = true ∧ homeOf (stPages d) (leafAddr (e i)) = 0) := by
  refine ⟨tableEntry_pages d, (asid_pages d).2.1, (asid_pages d).2.2, by rw [mem_pages]; exact Memory.writeCells_wf memTop_wf _, fun i hi => ?_⟩
  intro e
  have h1 : i + d < 1026 := by omega
  have he : e i = leafOf (i + d) := pages_leaf hd hi
  have h0 : e 0 = leafOf (0 + d) := pages_leaf hd (by omega)
  rw [he, h0, leafOf_field h1 1 8 0x81 (by omega), leafOf_field (i := 0 + d) (by omega) 1 8 0x81 (by omega)]
  exact ⟨leafOf_kind d h1, leafOf_bit h1 5 false (by simp; omega), leafOf_bit h1 7 false (by simp; omega), rfl, leafOf_addr h1,
    by simp only [inHbm, leafOf_addr h1, (caps_pages d).1, decide_eq_true_eq]; omega, leafOf_home d h1⟩

theorem witness_MemoryEvents_copied : (∀ d, 1 ≤ d → d ≤ 2 → ¬ (65536 * (0 + d)) % 2 ^ 26 = 0) ∧ (stPages 2).part.promoPool = [] ∧ (stPages 1).part.promoPool.find? (fun p => homeOf (stPages 1) p == 0) = some (2 ^ 27)
    ∧ (∀ k i b, k < 2 ^ 26 → i < 1024 → b < 65536 → canon (stPages 1) (2 ^ 27 + k) ≠ canon (stPages 1) (65536 * (i + 1) + b))
    ∧ (∀ c, ((stPages 1).getCore c).merged = []) ∧ (∀ d, ((stPages 1).getDie d).pend = []) := by
  refine ⟨by omega, by rw [part_pages]; rfl, ?_, fun k i b hk hi hb => ?_, fun c => ?_, fun d => ?_⟩
  · have h : homeOf (stPages 1) (2 ^ 27) = 0 := by
      have : outside (2 ^ 27) = false := by decide
      rw [homeOf, this]
      simp only [Bool.false_eq_true, if_false, (caps_pages 1).2]
      rw [if_pos (by omega)]
    rw [part_pages]
    simpa using h
  · rw [canon_low (by omega), canon_low (by omega)]
    omega
  · have h : (stPages 1).getCore c = st0.getCore c := by simp only [State.getCore, stPages]
    rw [h]
    exact merged_st0 c
  · rw [getDie_of _ st0 (dies_pages 1)]
    exact pend_st0 d

/-- Page 0 of the table lies in a peer's memory. -/
def stPeerPage : State := { st0 with mem := memTop.put 0x8000 8 0x10000000103 }

theorem witness_MemoryEvents_peerPage : tableEntry stPeerPage 1 0 = some (0x6000, 0x8000)
    ∧ inHbm stPeerPage (leafAddr (BitVec.ofNat 64 (dieValue stPeerPage 0 (0x8000 + 8 * 0) 8))) 65536 = false := ⟨by decide +kernel, by decide +kernel⟩

/-! ### An object that loads -/

/-- One suit of one block: a deck of one hand with its rows and hash table, and its two packets of code. -/
def objBytes : List Byte :=
  [0x4C#8, 0x43#8, 0x4F#8, 0#8, 1#8, 0#8, 2#8, 0#8, 0x1D#8, 0x7E#8, 2#8, 0x4B#8, 0#8, 0#8, 5#8, 0#8, 0xD0#8, 5#8] ++ List.replicate 6 0#8
    ++ [1#8, 0#8, 0xFF#8, 0xFF#8] ++ List.replicate 36 0#8 ++ [1#8, 0#8, 0#8, 0#8, 0x20#8, 0#8, 0#8, 0#8, 0xC0#8] ++ List.replicate 7 0#8
    ++ [2#8] ++ List.replicate 7 0#8 ++ [0xC0#8] ++ List.replicate 7 0#8 ++ [0xC#8, 0#8, 0#8, 0#8, 1#8, 0#8, 0#8, 0#8, 0#8, 1#8]
    ++ List.replicate 6 0#8 ++ [4#8, 0#8, 0#8, 0#8, 0x18#8, 0#8, 0#8, 0#8, 0x40#8, 1#8] ++ List.replicate 6 0#8
    ++ [3#8, 0#8, 0#8, 0#8, 0x50#8, 4#8, 0#8, 0#8, 0x80#8, 1#8] ++ List.replicate 58 0#8 ++ [1#8] ++ List.replicate 7 0#8 ++ [0x50#8, 4#8]
    ++ List.replicate 6 0#8 ++ [2#8] ++ List.replicate 109 0#8 ++ [1#8, 1#8] ++ List.replicate 11 0#8 ++ [5#8] ++ List.replicate 48 0#8
    ++ toBytes 32 (0x4010001 + 0x20 * 2 ^ 64 + 0x40 * 2 ^ 96 + 0x430 * 2 ^ 128) ++ [1#8]
    ++ List.replicate 11 0#8 ++ [1#8] ++ List.replicate 17 0#8 ++ [1#8, 0#8, 0#8, 0#8] ++ List.replicate 1018 0xFF#8 ++ [0#8, 0#8]
    ++ List.replicate 18 0xFF#8

/-- Tables for the addresses from 64 GiB up, in which no leaf is valid. -/
def memLoad : Memory := ⟨[(0x2000, 1#8), (0x2001, 0x40#8), (0x4008, 1#8), (0x4009, 0x60#8), (0x6000, 1#8), (0x6001, 0x80#8)]⟩
def stObject : State := { st0 with mem := memLoad }
def request0 : LoadRequest := ⟨objBytes, 1, [2 ^ 36, 2 ^ 36 + 65536, 0, 0], [0x800000, 0x810000], [], [], 0⟩

theorem dieValue_homeWrite {s : State} {cells : List (Nat × Byte)} {d a : Nat} (hl : a + 8 ≤ 2 ^ 40) (hw : s.mem.wf = true) (h : ∀ c ∈ cells, c.1 < a ∨ a + 8 ≤ c.1) :
    dieValue (homeWrite cells s) d a 8 = dieValue s d a 8 := by
  have hb : ∀ j, j < 8 → dieByte (homeWrite cells s) d (a + j) = dieByte s d (a + j) := by
    intro j hj
    have : (homeWrite cells s).mem.read (a + j) = s.mem.read (a + j) := Memory.read_writeCells_out hw fun c hc => by have := h c hc; omega
    have hd : (homeWrite cells s).getDie d = s.getDie d := rfl
    simp only [dieByte, this, hd]
  have e0 := hb 0 (by omega)
  rw [Nat.add_zero] at e0
  rw [dieValue8 hl, dieValue8 hl, e0, hb 1 (by omega), hb 2 (by omega), hb 3 (by omega), hb 4 (by omega), hb 5 (by omega), hb 6 (by omega), hb 7 (by omega)]

/-- The tables of `memLoad` are in force, and the leaf entry `k` of the last one is not valid. -/
def loadTables (s : State) (k : Nat) : Prop :=
  fullPart s ∧ dieValue s 0 0x2000 8 = 0x4001 ∧ dieValue s 0 0x4008 8 = 0x6001 ∧ dieValue s 0 0x6000 8 = 0x8001 ∧ dieValue s 0 (0x8000 + 8 * k) 8 = 0

theorem mapPage_load {s : State} {k f : Nat} {perm : DWord} (hk : k < 2) (h : loadTables s k) :
    mapPage 1 (2 ^ 36 + 65536 * k) f perm [] s = some ([], putEntry (0x8000 + 8 * k) (reframe (0x101#64 ||| perm) f) s) := by
  obtain ⟨hr, h1, h2, h3, h4⟩ := h
  have ht := tables_pages hr
  have a3 : (2 ^ 36 + 65536 * k) / 2 ^ (16 + 10 * 3) % 1024 = 0 := by omega
  have a2 : (2 ^ 36 + 65536 * k) / 2 ^ (16 + 10 * 2) % 1024 = 1 := by omega
  have a1 : (2 ^ 36 + 65536 * k) / 2 ^ (16 + 10 * 1) % 1024 = 0 := by omega
  have a0 : (2 ^ 36 + 65536 * k) / 2 ^ (16 + 10 * 0) % 1024 = k := by omega
  have b1 : leafAddr 0x4001#64 = 0x4000 := by decide
  have b2 : leafAddr 0x6001#64 = 0x6000 := by decide
  have b3 : leafAddr 0x8001#64 = 0x8000 := by decide
  simp only [mapPage, mapFrom, root_pages hr, Option.bind_some, a3, a2, a1, a0, Nat.mul_zero, Nat.add_zero, Nat.mul_one, Nat.reduceAdd, h1, ht.1, b1, h2, ht.2.1, b2, h3, ht.2.2,
    b3, h4, if_true, if_false, Nat.reduceEqDiff]
  have k0 : entryKind s 1 0#64 = .bad := by simp [entryKind]
  have a0' : absentEntry s 1 0#64 = false := by simp [absentEntry]
  simp only [k0, a0', Bool.false_eq_true, if_false]

theorem loadTables_next {s : State} {f : Nat} {e : DWord} {bs : List Byte} (hw : s.mem.wf = true) (hf : 0x800000 ≤ f) (h : loadTables s 0)
    (h1 : dieValue s 0 0x8008 8 = 0) : loadTables (homeWrite (cellsAt f bs) (putEntry 0x8000 e s)) 1 := by
  have hw1 : (putEntry 0x8000 e s).mem.wf = true := Memory.writeCells_wf hw _
  have out1 : ∀ a, a + 8 ≤ 0x8000 ∨ a = 0x8008 → dieValue (putEntry 0x8000 e s) 0 a 8 = dieValue s 0 a 8 := fun a ha => by
    unfold putEntry
    rw [namedCells_low (by rw [length_toBytes]; omega)]
    refine dieValue_homeWrite (by omega) hw fun c hc => ?_
    have := mem_cellsAt hc
    rw [length_toBytes] at this
    omega
  have out2 : ∀ a, a + 8 ≤ 0x800000 → dieValue (homeWrite (cellsAt f bs) (putEntry 0x8000 e s)) 0 a 8 = dieValue (putEntry 0x8000 e s) 0 a 8 := fun a ha =>
    dieValue_homeWrite (by omega) hw1 fun c hc => by have := mem_cellsAt hc; omega
  obtain ⟨hr, k1, k2, k3, -⟩ := h
  exact ⟨hr, by rw [out2 _ (by omega), out1 _ (by omega), k1], by rw [out2 _ (by omega), out1 _ (by omega), k2], by rw [out2 _ (by omega), out1 _ (by omega), k3],
    by rw [out2 _ (by omega), out1 _ (by omega), h1]⟩

theorem mapPages_one {asid va f : Nat} {perm : DWord} {bs : List Byte} {fr fresh : List Nat} {s t : State} (h : mapPage asid va f perm fresh s = some (fresh, t)) :
    mapPages asid perm 1 va bs (f :: fr, fresh, s) = some (fr, fresh, homeWrite (cellsAt f (bs.take 65536 ++ List.replicate (65536 - bs.length) 0#8)) t) := by
  simp only [mapPages, h]

theorem witness_ObjectLoad_early : st0.part.bootst = 3#4 ∧ refusedEarly stObject objBytes = none := ⟨rfl, by decide +kernel⟩

theorem relocate_request : (∀ free, relocate request0.va (handlesOf request0) free request0.bytes = objBytes) ∧ regionCount objBytes = 0 ∧ launchCount objBytes = 0 ∧ templates objBytes = [] := by
  refine ⟨fun free => ?_, by decide +kernel, by decide +kernel, by decide +kernel⟩
  have : relocCount request0.bytes = 0 := by decide +kernel
  rw [relocate, this]
  rfl

theorem entryKind_zero (s : State) (k : Nat) : entryKind s k (BitVec.ofNat 64 0) = .bad := by
  have h : (BitVec.ofNat 64 0).getLsbD 0 = false := by decide
  simp only [entryKind, h, Bool.not_false, Bool.true_or, if_true]

/-- A table all of whose entries but one are zero uses what that one uses. -/
theorem tableUses_one {s : State} {rs : List (Nat × Nat)} {k tab i0 e : Nat} (hr : rs.any (fun r => decide (r.1 < tab + 8192) && decide (tab < r.1 + r.2)) = false)
    (hz : ∀ i, i < 1024 → i ≠ i0 → dieValue s 0 (tab + 8 * i) 8 = 0) (h0 : dieValue s 0 (tab + 8 * i0) 8 = e)
    (hk : e = 0 ∨ (entryKind s (k + 1) (BitVec.ofNat 64 e) = .table ∧ tableUses s rs k (leafAddr (BitVec.ofNat 64 e)) = false)) :
    tableUses s rs (k + 1) tab = false := by
  rw [tableUses, hr, Bool.false_or, List.any_eq_false]
  intro i hi
  rw [List.mem_range] at hi
  by_cases hn : i = i0
  · subst hn
    rcases hk with rfl | hk
    · simp only [h0, entryKind_zero]; decide
    · simp only [h0, hk.1, hk.2]; decide
  · simp only [hz i hi hn, entryKind_zero]; decide

theorem load_byte {a : Nat} (h : ∀ x ∈ [0x2000, 0x2001, 0x4008, 0x4009, 0x6000, 0x6001], x ≠ a) : dieByte stObject 0 a = 0#8 := by
  have hp : (stObject.getDie 0).pend = [] := by decide +kernel
  simp only [List.mem_cons, List.not_mem_nil, or_false, forall_eq_or_imp, forall_eq] at h
  rw [dieByte, hp, pend_none, show stObject.mem = memLoad from rfl]
  simp only [Memory.read, memLoad, cellRead, if_neg h.1, if_neg h.2.1, if_neg h.2.2.1, if_neg h.2.2.2.1, if_neg h.2.2.2.2.1, if_neg h.2.2.2.2.2]
  rfl

theorem load_value {a : Nat} (hl : a + 8 ≤ 2 ^ 40) (h : ∀ x ∈ [0x2000, 0x2001, 0x4008, 0x4009, 0x6000, 0x6001], x < a ∨ a + 8 ≤ x) : dieValue stObject 0 a 8 = 0 := by
  have b : ∀ j, j < 8 → dieByte stObject 0 (a + j) = 0#8 := fun j hj => load_byte fun x hx => by have := h x hx; omega
  have e0 := b 0 (by omega)
  rw [Nat.add_zero] at e0
  rw [dieValue8 hl, e0, b 1 (by omega), b 2 (by omega), b 3 (by omega), b 4 (by omega), b 5 (by omega), b 6 (by omega), b 7 (by omega)]
  rfl

/-- The tables of `memLoad` lie apart from the frames of the request, and map none of them. -/
theorem freshFrames_load : freshFrames stObject request0.frames request0.tables = true := by
  have far : ∀ (tab i0 i : Nat), tab ∈ [0x2000, 0x4000, 0x6000, 0x8000] → i < 1024 → (i ≠ i0 ∨ tab = 0x8000) →
      i0 = (if tab = 0x4000 then 1 else 0) → dieValue stObject 0 (tab + 8 * i) 8 = 0 := by
    intro tab i0 i ht hi hne h0
    simp only [List.mem_cons, List.not_mem_nil, or_false] at ht
    refine load_value (by rcases ht with rfl | rfl | rfl | rfl <;> omega) fun x hx => ?_
    simp only [List.mem_cons, List.not_mem_nil, or_false] at hx
    rcases ht with rfl | rfl | rfl | rfl <;> simp at h0 hne <;> omega
  have b : ∀ tab ∈ [0x2000, 0x4000, 0x6000, 0x8000],
      (request0.frames.map (·, 65536) ++ request0.tables.map (·, 8192)).any (fun r => decide (r.1 < tab + 8192) && decide (tab < r.1 + r.2)) = false := by decide +kernel
  have full : fullPart stObject := ⟨⟨by decide +kernel, by decide +kernel⟩, by decide +kernel⟩
  have k := tables_pages full
  have l1 := tableUses_one (k := 0) (i0 := 0) (e := 0) (b 0x8000 (by decide)) (fun i hi _ => far 0x8000 0 i (by decide) hi (.inr rfl) rfl) (by decide +kernel) (.inl rfl)
  have l2 := tableUses_one (k := 1) (i0 := 0) (e := 0x8001) (b 0x6000 (by decide)) (fun i hi hn => far 0x6000 0 i (by decide) hi (.inl hn) rfl) (by decide +kernel)
    (.inr ⟨k.2.2, by rw [show leafAddr (BitVec.ofNat 64 0x8001) = 0x8000 by decide]; exact l1⟩)
  have l3 := tableUses_one (k := 2) (i0 := 1) (e := 0x6001) (b 0x4000 (by decide)) (fun i hi hn => far 0x4000 1 i (by decide) hi (.inl hn) rfl) (by decide +kernel)
    (.inr ⟨k.2.1, by rw [show leafAddr (BitVec.ofNat 64 0x6001) = 0x6000 by decide]; exact l2⟩)
  have l := tableUses_one (k := 3) (i0 := 0) (e := 0x4001) (b 0x2000 (by decide)) (fun i hi hn => far 0x2000 0 i (by decide) hi (.inl hn) rfl) (by decide +kernel)
    (.inr ⟨k.1, by rw [show leafAddr (BitVec.ofNat 64 0x4001) = 0x4000 by decide]; exact l3⟩)
  have a : stObject.part.asids = [⟨1, 0x2001#64, 0#32, 1#16, true, 0x200000#64, 4#32⟩] := rfl
  have t : tablesApart stObject (request0.frames.map (·, 65536) ++ request0.tables.map (·, 8192)) = true := by
    simp only [tablesApart, a, List.all_cons, List.all_nil, root_pages full, Option.any_some, l, Bool.not_false, Bool.and_true]
  simp only [freshFrames, t, Bool.and_true]
  decide +kernel

theorem witness_ObjectLoad_checks : regionCount objBytes ≤ regionsFree stObject 1 ∧ firstFlaw (badRegions stObject objBytes) = none
    ∧ requestGood stObject request0 objBytes = true ∧ firstFlaw (badSignature stObject objBytes) = none ∧ ∀ u, firstFlaw (badLaunches u 1 objBytes) = none := by
  refine ⟨by rw [relocate_request.2.1]; omega, ?_, ?_, by decide +kernel, fun u => ?_⟩
  · rw [badRegions, relocate_request.2.1]; rfl
  · unfold requestGood
    rewrite [freshFrames_load, Bool.and_true]
    decide +kernel
  · rw [badLaunches, relocate_request.2.2.1, relocate_request.2.2.2]; rfl

theorem mapObject_two {q : LoadRequest} {b : List Byte} {addr f0 f1 va0 va1 : Nat} {p0 p1 : DWord} {s : State} (ha : q.asid = 1)
    (hm : mappedSects q b = [(3, va0, p0), (4, va1, p1)]) (h3 : pagesOf (sectOf b 3).size = 1) (h4 : pagesOf (sectOf b 4).size = 1) (hr : pagesOf (recordsSize b) = 0)
    (hf : q.frames = [f0, f1]) (ht : q.tables = []) (hw : s.mem.wf = true) (h0 : 0x800000 ≤ f0) (v0 : va0 = 2 ^ 36 + 65536 * 0) (v1 : va1 = 2 ^ 36 + 65536 * 1)
    (hl : loadTables s 0) (hn : dieValue s 0 0x8008 8 = 0) : ∃ u, mapObject q b addr s = some u := by
  have e0 := mapPages_one (bs := sectBytes b 3) (fr := [f1]) (mapPage_load (f := f0) (perm := p0) (by omega) hl)
  have h1 := loadTables_next (f := f0) (e := reframe (0x101#64 ||| p0) f0) (bs := (sectBytes b 3).take 65536 ++ List.replicate (65536 - (sectBytes b 3).length) 0#8) hw h0 hl hn
  have e1 := mapPages_one (bs := sectBytes b 4) (fr := []) (mapPage_load (f := f1) (perm := p1) (by omega) h1)
  subst v0 v1
  rw [mapObject, hm]
  simp only [List.foldl_cons, List.foldl_nil, Option.bind_some, h3, h4, hr, ha, hf, ht]
  rw [e0]
  simp only [Option.bind_some]
  rw [show 0x8000 + 8 * 0 = 0x8000 from rfl, e1]
  exact ⟨_, rfl⟩

theorem witness_ObjectLoad_map : ∃ u, mapObject request0 objBytes 0x800000 stObject = some u := by
  refine mapObject_two (f0 := 0x800000) (f1 := 0x810000) (va0 := 2 ^ 36) (va1 := 2 ^ 36 + 65536) (p0 := 0x2#64) (p1 := 0xA#64) rfl (by decide +kernel) (by decide +kernel)
    (by decide +kernel) (by decide +kernel) rfl rfl (by decide +kernel) (by decide) (by decide) (by decide) ?_ (by decide +kernel)
  unfold loadTables
  exact ⟨⟨by decide +kernel, by decide +kernel⟩, by decide +kernel, by decide +kernel, by decide +kernel, by decide +kernel⟩

end Sys2Proof.Tests
end

/-! # The canonical form of the memories is kept by every step (log 1)

`State.Canonical` speaks of five places that hold bytes: memory, the scratch of the team and of the listed teams, the stock
of the core and of the listed cores. The proof follows the definitions of the model in their order: the named updates of
the state first, then each operation from the operations it is made of, then the words, the chains and the events, and
`step` last. An operation that touches none of the five places keeps them because its result stores the same bytes. -/

section
namespace Sys2Proof.Machine

-- The lemmas are checked one after the other: elaborated in parallel, they ask for more threads than the check's memory
-- limit has stacks for.
set_option Elab.async false

/-- A state that stores the same bytes is as canonical; that it does is seen by computing. -/
theorem State.Canonical.same {s t : State} (h : s.Canonical) (mem : t.mem = s.mem := by rfl)
    (scratch : t.team.scratch = s.team.scratch := by rfl) (stock : t.core.stock = s.core.stock := by rfl)
    (teams : t.teams = s.teams := by rfl) (cores : t.cores = s.cores := by rfl) : t.Canonical :=
  ⟨mem ▸ h.mem, scratch ▸ h.scratch, stock ▸ h.stock, teams ▸ h.teams, cores ▸ h.cores⟩

/-- An update of the state keeps the canonical form. -/
def KeepsCanonical (u : State → State) : Prop := ∀ t : State, t.Canonical → (u t).Canonical

theorem keepsCanonical_id : KeepsCanonical id := fun _ h => h

theorem ite_canonical {c : Prop} [Decidable c] {s t : State} (hs : s.Canonical) (ht : t.Canonical) :
    (if c then s else t).Canonical := by
  split
  · exact hs
  · exact ht

theorem foldl_canonical {α : Type} {f : State → α → State} {l : List α} {s : State} (hf : ∀ x, KeepsCanonical (f · x))
    (h : s.Canonical) : (l.foldl f s).Canonical :=
  l.foldlRecOn f h (fun t ht x _ => hf x t ht)

/-! ## The named updates of the state -/

section
variable {s : State}

theorem map_teams_wf {f : Team → Team} (h : s.Canonical) (hf : ∀ t, t.scratch.wf = true → (f t).scratch.wf = true) :
    ∀ t ∈ s.teams.map f, t.scratch.wf = true :=
  List.forall_mem_map.2 fun t ht => hf t (h.teams t ht)

theorem map_cores_wf {f : Core → Core} (h : s.Canonical) (hf : ∀ c, c.stock.wf = true → (f c).stock.wf = true) :
    ∀ c ∈ s.cores.map f, c.stock.wf = true :=
  List.forall_mem_map.2 fun c hc => hf c (h.cores c hc)

theorem writeMem_canonical {m : Memory} (h : s.Canonical) (hm : m.wf = true) : { s with mem := m }.Canonical :=
  ⟨hm, h.scratch, h.stock, h.teams, h.cores⟩

theorem onSq_canonical {f : Squad → Squad} (h : s.Canonical) : (s.onSq f).Canonical := h.same

theorem updPart_canonical {f : Part → Part} (h : s.Canonical) : (s.updPart f).Canonical := h.same

theorem markDirty_canonical {cells : List (Nat × Byte)} (h : s.Canonical) : (markDirty cells s).Canonical := h.same

theorem homeWrite_canonical {cells : List (Nat × Byte)} (h : s.Canonical) : (homeWrite cells s).Canonical :=
  markDirty_canonical (writeMem_canonical h (Memory.writeCells_wf h.mem cells))

theorem updDie_canonical {d : Nat} {f : Die → Die} (h : s.Canonical) : (s.updDie d f).Canonical := h.same

theorem updSq_canonical {k : SquadKey} {f : Squad → Squad} (h : s.Canonical) : (s.updSq k f).Canonical := by
  rw [updSq_outside]; exact h.same

theorem updLaunch_canonical {l : Nat} {f : Launch → Launch} (h : s.Canonical) : (s.updLaunch l f).Canonical := by
  unfold State.updLaunch; exact ite_canonical h.same h.same

theorem updTeam_canonical {k : TeamKey} {f : Team → Team} (h : s.Canonical) (hf : ∀ t, t.scratch.wf = true → (f t).scratch.wf = true) :
    (s.updTeam k f).Canonical := by
  unfold State.updTeam
  refine ite_canonical ⟨h.mem, hf _ h.scratch, h.stock, h.teams, h.cores⟩
    ⟨h.mem, h.scratch, h.stock, map_teams_wf h fun t ht => ?_, h.cores⟩
  split
  · exact hf t ht
  · exact ht

theorem updCore_canonical {i : Nat} {f : Core → Core} (h : s.Canonical) (hf : ∀ c, c.stock.wf = true → (f c).stock.wf = true) :
    (s.updCore i f).Canonical := by
  unfold State.updCore
  refine ite_canonical ⟨h.mem, h.scratch, hf _ h.stock, h.teams, h.cores⟩ (ite_canonical
    ⟨h.mem, h.scratch, h.stock, h.teams, map_cores_wf h fun c hc => ?_⟩
    ⟨h.mem, h.scratch, h.stock, h.teams, List.forall_mem_cons.2 ⟨hf (Core.fresh i) rfl, h.cores⟩⟩)
  split
  · exact hf c hc
  · exact hc

theorem getCore_wf (h : s.Canonical) (i : Nat) : (s.getCore i).stock.wf = true := by
  unfold State.getCore
  split
  · exact h.stock
  · cases e : s.cores.find? (·.id == i) with
    | none => rfl
    | some c => exact h.cores c (List.mem_of_find?_eq_some e)

theorem focusCore_canonical {i : Nat} (h : s.Canonical) : (s.focusCore i).Canonical := by
  unfold State.focusCore
  refine ite_canonical h ⟨h.mem, h.scratch, getCore_wf h i, h.teams, List.forall_mem_cons.2 ⟨h.stock, fun c hc => ?_⟩⟩
  exact h.cores c (List.mem_of_mem_filter hc)

theorem focusLaunch_canonical {l : Nat} (h : s.Canonical) : (s.focusLaunch l).Canonical := by
  unfold State.focusLaunch
  refine ite_canonical h ?_
  split
  · exact h
  · exact h.same

theorem focusTeam_canonical {k : TeamKey} (h : s.Canonical) : (s.focusTeam k).Canonical := by
  unfold State.focusTeam
  refine ite_canonical h ?_
  split
  · exact h
  next x hx =>
    refine focusLaunch_canonical (focusCore_canonical
      ⟨h.mem, h.teams x (List.mem_of_find?_eq_some hx), h.stock, fun t ht => ?_, h.cores⟩)
    rcases List.mem_append.1 ht with ht | ht
    · split at ht
      · cases ht
      · rw [List.mem_singleton.1 ht]; exact h.scratch
    · exact h.teams t (List.mem_of_mem_filter ht)

theorem focus_canonical {k : SquadKey} (h : s.Canonical) : (s.focus k).Canonical := by
  unfold State.focus
  refine ite_canonical h ?_
  split
  · exact h
  · exact focusTeam_canonical h.same

/-! ## Caches -/

theorem fillL1_canonical {core pa : Nat} (h : s.Canonical) : (fillL1 core pa s).Canonical := by
  unfold fillL1
  exact ite_canonical h (updCore_canonical h fun _ hc => hc)

theorem dropL1_canonical {core : Nat} {cells : List (Nat × Byte)} (h : s.Canonical) : (dropL1 core cells s).Canonical := by
  unfold dropL1
  exact foldl_canonical (fun _ _ ht => ite_canonical (updSq_canonical ht) ht) (updCore_canonical h fun _ hc => hc)

theorem dropAhead_canonical {core : Nat} {k : SquadKey} (h : s.Canonical) : (dropAhead core k s).Canonical :=
  updCore_canonical h fun _ hc => hc

theorem noteFetch_canonical {core asid va n : Nat} (h : s.Canonical) : (noteFetch core asid va n s).Canonical := by
  unfold noteFetch
  split
  · exact ite_canonical h (updCore_canonical h fun _ hc => hc)
  · exact h

theorem noteHand_canonical {su : Suit} {n : Nat} {e : Hand} (h : s.Canonical) : (noteHand su n e s).Canonical := by
  obtain ⟨d, hd⟩ := noteHand_only su n e s
  rw [hd]; exact h.same

theorem prefetchHands_canonical {su : Suit} (h : s.Canonical) : (prefetchHands su s).Canonical := by
  obtain ⟨d, hd⟩ := prefetchHands_only su s
  rw [hd]; exact h.same

theorem noteIssue_canonical {is : List Instr} {r : State} (h : s.Canonical) : (noteIssue is r s).Canonical := by
  obtain ⟨d, c, a, e⟩ := noteIssue_noted is r s
  rw [e]; exact h.same

/-! ## Frames and traps -/

theorem markPoison_canonical {i : Instr} (h : s.Canonical) : (markPoison i s).Canonical := by
  unfold markPoison
  exact ite_canonical h (ite_canonical h h.same)

theorem endRun_canonical (h : s.Canonical) : (endRun s).Canonical := h.same

theorem countDeal_canonical {hit mis : Bool} (h : s.Canonical) : (countDeal hit mis s).Canonical := h.same

theorem runHand_canonical {n : Nat} {e : Hand} (h : s.Canonical) : (runHand n e s).Canonical := h.same

theorem enterSuit_canonical {suit entry : Nat} {ls : Mask} (h : s.Canonical) : (enterSuit suit entry ls s).Canonical := h.same

theorem pushFrame_canonical {f : Frame} (h : s.Canonical) : (pushFrame f s).Canonical := by
  unfold pushFrame
  refine ite_canonical h.same ?_
  split
  · exact h
  · exact (writeMem_canonical h (Memory.writeBytes_wf h.mem _ _)).same

theorem refill_canonical (h : s.Canonical) : (refill s).Canonical := by
  unfold refill
  exact ite_canonical h h.same

theorem foldLanes_canonical {ls : Mask} (h : s.Canonical) : (foldLanes ls s).Canonical := by
  unfold foldLanes
  exact ite_canonical h (foldl_canonical (fun _ _ ht => writeMem_canonical ht (Memory.writeBytes_wf ht.mem _ _)) h.same)

theorem restoreFrame_canonical {f : Frame} {leave back : Mask} {pkt word : Nat} (h : s.Canonical) :
    (restoreFrame f leave back pkt word s).Canonical :=
  refill_canonical h.same

theorem skipEmpty_canonical (h : s.Canonical) : (skipEmpty s).Canonical := by
  unfold skipEmpty
  exact ite_canonical h.same h

theorem endFrame_canonical {f : Frame} (h : s.Canonical) : (endFrame f s).Canonical :=
  skipEmpty_canonical (restoreFrame_canonical (foldLanes_canonical h))

theorem endLaunch_canonical {lid : Nat} {e : Ending} (h : s.Canonical) : (endLaunch lid e s).Canonical :=
  (updLaunch_canonical h).same

theorem terminalTrap_canonical {cause : BitVec 8} {i0 i1 : DWord} (h : s.Canonical) : (terminalTrap cause i0 i1 s).Canonical :=
  (endLaunch_canonical h).same

theorem terminalReport_canonical {r : Report} (h : s.Canonical) : (terminalReport r s).Canonical := terminalTrap_canonical h.same

theorem trapInTrap_canonical {r : Report} (h : s.Canonical) : (trapInTrap r s).Canonical := terminalReport_canonical h

theorem takeTrap_canonical {r : Report} {pkt word chw clen : Nat} (h : s.Canonical) : (takeTrap r pkt word chw clen s).Canonical := by
  have entered : (endRun (pushFrame (saveFrame s.sq true pkt word s.sq.live) (setTrapRegs r pkt word chw clen s))).Canonical :=
    endRun_canonical (pushFrame_canonical h.same)
  unfold takeTrap
  refine ite_canonical (trapInTrap_canonical h) (ite_canonical (terminalReport_canonical h) ?_)
  dsimp only
  split
  · exact prefetchHands_canonical (noteHand_canonical (runHand_canonical (enterSuit_canonical (onSq_canonical entered))))
  · exact trapInTrap_canonical (enterSuit_canonical (onSq_canonical entered))
  · exact trapInTrap_canonical (enterSuit_canonical (onSq_canonical entered))

theorem returnFromTrap_canonical {f : Frame} {skip : Bool} (h : s.Canonical) : (returnFromTrap f skip s).Canonical :=
  restoreFrame_canonical h

theorem trapAtWord_canonical {r : Report} {i : Instr} (h : s.Canonical) : (trapAtWord r i s).Canonical := takeTrap_canonical h

theorem waitHere_canonical {w : Wait} (h : s.Canonical) : (waitHere w s).Canonical := h.same

/-! ## Notification records and counted accesses (R360, R393) -/

theorem post_canonical {bs : List Byte} (h : s.Canonical) : (post bs s).Canonical := by
  unfold post
  exact ite_canonical (ite_canonical h.same h.same) (ite_canonical h.same (updPart_canonical (homeWrite_canonical h)))

theorem countPage_canonical {d asid page : Nat} {leaf : DWord × Nat} (h : s.Canonical) :
    (countPage d asid page leaf s).Canonical := by
  unfold countPage
  exact ite_canonical (post_canonical h.same) h.same

theorem countSegment_canonical {d asid va : Nat} {leaf : Option (DWord × Nat)} (h : s.Canonical) :
    (countSegment d asid va leaf s).Canonical := by
  unfold countSegment
  split
  · exact ite_canonical (countPage_canonical h) h
  · exact h

theorem countAccesses_canonical {core asid : Nat} {vas : List Nat} (h : s.Canonical) :
    (countAccesses core asid vas s).Canonical :=
  foldl_canonical (fun _ _ => countSegment_canonical) h

/-! ## Bytes on their way to their homes (R231, R232) -/

theorem settle_canonical (h : s.Canonical) : (settle s).Canonical := h.same

theorem pushMerged_canonical {core : Nat} {k : SquadKey} {seq : Nat} {cells : List (Nat × Byte)} (h : s.Canonical) :
    (pushMerged core k seq cells s).Canonical :=
  markDirty_canonical (dropL1_canonical (foldl_canonical (fun _ _ ht => updCore_canonical ht fun _ hc => hc) h))

theorem acceptFromDie_canonical {d stamp : Nat} (h : s.Canonical) : (acceptFromDie d stamp s).Canonical := by
  unfold acceptFromDie
  split
  · exact h
  · exact homeWrite_canonical h.same

theorem roomInL2_canonical {d : Nat} (h : s.Canonical) : (roomInL2 d s).Canonical := by
  unfold roomInL2
  split
  · exact h
  · exact ite_canonical (acceptFromDie_canonical h) h

theorem dieAccept_canonical {d : Nat} {k : SquadKey} {seq : Nat} {cells : List (Nat × Byte)} (h : s.Canonical) :
    (dieAccept d k seq cells s).Canonical := by
  unfold dieAccept
  exact ite_canonical (homeWrite_canonical h) (updDie_canonical (roomInL2_canonical h))

theorem acceptFromCore_canonical {core stamp : Nat} (h : s.Canonical) : (acceptFromCore core stamp s).Canonical := by
  unfold acceptFromCore
  split
  · exact h
  · exact dieAccept_canonical (updCore_canonical h fun _ hc => hc)

theorem drainCoreLine_canonical {core ln : Nat} (h : s.Canonical) : (drainCoreLine core ln s).Canonical :=
  foldl_canonical (fun _ _ => acceptFromCore_canonical) h

theorem drainDieLine_canonical {d ln : Nat} (h : s.Canonical) : (drainDieLine d ln s).Canonical :=
  foldl_canonical (fun _ _ => acceptFromDie_canonical) h

theorem atomicReady_canonical {core : Nat} {scope : Scope} {pa : Nat} (h : s.Canonical) :
    (atomicReady core scope pa s).Canonical := by
  unfold atomicReady
  split
  · exact h
  · exact h
  · exact drainCoreLine_canonical h
  · exact drainDieLine_canonical (drainCoreLine_canonical h)
  · exact drainDieLine_canonical (drainCoreLine_canonical h)

theorem atomicWrite_canonical {core : Nat} {k : SquadKey} {seq : Nat} {scope : Scope} {pa n : Nat} {x : DWord}
    (h : s.Canonical) : (atomicWrite core k seq scope pa n x s).Canonical := by
  unfold atomicWrite
  dsimp only
  split
  · exact pushMerged_canonical h
  · exact pushMerged_canonical h
  · exact dieAccept_canonical (markDirty_canonical (dropL1_canonical h))
  · exact homeWrite_canonical (dropL1_canonical h)
  · exact homeWrite_canonical (dropL1_canonical h)

theorem performEntry_canonical {core asid : Nat} {k : SquadKey} {e : SEntry} (h : s.Canonical) :
    (performEntry core asid k e s).Canonical := by
  unfold performEntry
  split
  · exact updCore_canonical (updTeam_canonical h fun _ ht => Memory.writeCells_wf ht _) fun _ hc => hc
  · exact pushMerged_canonical h
  · have written {c : Prop} [Decidable c] {k seq scope pa n x cells} :
        (if c then atomicWrite core k seq scope pa n x (atomicReady core scope pa s)
          else dropL1 core cells (atomicReady core scope pa s)).Canonical :=
      ite_canonical (atomicWrite_canonical (atomicReady_canonical h)) (dropL1_canonical (atomicReady_canonical h))
    exact ite_canonical (updSq_canonical written) written

theorem mergeOne_canonical {core : Nat} {k : SquadKey} (h : s.Canonical) : (mergeOne core k s).Canonical := by
  unfold mergeOne
  dsimp only
  split
  · exact h
  · exact ite_canonical (performEntry_canonical (updSq_canonical h)) h

/-! ## Producers (R64, R244) -/

theorem fillU_canonical {k : SquadKey} {seq : Nat} {x : DWord} (h : s.Canonical) : (fillU k seq x s).Canonical :=
  updSq_canonical h

theorem forgetAhead_canonical {core : Nat} {k : SquadKey} {scratch : Bool} {pas : List Nat} (h : s.Canonical) :
    (forgetAhead core k scratch pas s).Canonical :=
  updCore_canonical h fun _ hc => hc

theorem performLoad_canonical {core asid : Nat} {k : SquadKey} {p : Prod} {sz : BitVec 2} {signed co uni : Bool}
    {acc : List (Nat × Nat)} (h : s.Canonical) : (performLoad core asid k p sz signed co uni acc s).Canonical :=
  updSq_canonical (forgetAhead_canonical (foldl_canonical (fun _ _ ht => ite_canonical ht (fillL1_canonical ht)) h))

theorem performScratch_canonical {k : SquadKey} {p : Prod} {sz : BitVec 2} {uni : Bool} {acc : List (Nat × Nat)}
    (h : s.Canonical) : (performScratch k p sz uni acc s).Canonical :=
  updSq_canonical (forgetAhead_canonical h)

theorem guardRead_canonical {n : Nat} {scratch : Bool} {bytes : List Nat} (h : s.Canonical) :
    (guardRead n scratch bytes s).Canonical :=
  onSq_canonical (forgetAhead_canonical h)

theorem takePlace_canonical (h : s.Canonical) : (takePlace s).Canonical := h.same

theorem addProd_canonical {kind : ProdKind} {regs : List Opnd} (h : s.Canonical) : (addProd kind regs s).Canonical := h.same

theorem enqueue_canonical {ks : List SKind} (h : s.Canonical) : (enqueue ks s).Canonical := h.same

theorem addLate_canonical {w : Late} (h : s.Canonical) : (addLate w s).Canonical := h.same

theorem scratchLoadNow_canonical {dep : Nat} {d : Opnd} {sz : BitVec 2} {uni : Bool} {em : Mask} {addr : Nat → Nat}
    {acc : List (Nat × Nat)} (h : s.Canonical) : (scratchLoadNow dep d sz uni em addr acc s).Canonical :=
  takePlace_canonical (guardRead_canonical h.same)

theorem pushFence_canonical {f : FenceRec} (h : s.Canonical) : (pushFence f s).Canonical :=
  settle_canonical (onSq_canonical (ite_canonical (dropAhead_canonical h) h))

/-! ## Shoes, barriers and tiles -/

theorem setShoeState_canonical {n : Nat} {f : Shoe → Shoe} (h : s.Canonical) : (setShoeState n f s).Canonical := h.same

theorem shiftClocks_canonical {p : Nat} (h : s.Canonical) : (shiftClocks p s).Canonical := by
  unfold shiftClocks
  dsimp only
  split
  · exact h
  · exact ite_canonical h.same h

theorem restartLasts_canonical {lid n : Nat} (h : s.Canonical) :
    ({ s with
      teams := s.teams.map (fun (t : Team) => if t.key.lid = lid then { t with lasts := 0 } else t)
      team := { s.team with lasts := n } } : State).Canonical := by
  refine ⟨h.mem, h.scratch, h.stock, map_teams_wf h fun t ht => ?_, h.cores⟩
  split <;> exact ht

theorem laggard_canonical (h : s.Canonical) : (laggard s).Canonical := by
  unfold laggard
  have noted {c : Prop} [Decidable c] {p : Nat} {l : Launch} : State.Canonical (if c then
      { { s with team := { s.team with phases := p } } with launch := l }
      else { s with team := { s.team with phases := p } }) := ite_canonical h.same h.same
  exact ite_canonical noted (ite_canonical (shiftClocks_canonical (restartLasts_canonical noted)) (restartLasts_canonical noted))

theorem arrive_canonical {n : BitVec 4} {c : Nat} (h : s.Canonical) : (arrive n c s).Canonical := by
  unfold arrive
  exact ite_canonical h.same (laggard_canonical h.same)

theorem makeArrival_canonical {n : BitVec 4} {c : Nat} {d : Option Opnd} (h : s.Canonical) :
    (makeArrival n c d s).Canonical := by
  unfold makeArrival
  dsimp only
  split
  · exact onSq_canonical (arrive_canonical h)
  · exact ite_canonical (endRun_canonical (onSq_canonical (arrive_canonical h))) (arrive_canonical h)

theorem issueArrival_canonical {n : BitVec 4} {c : Nat} {d : Option Opnd} (h : s.Canonical) :
    (issueArrival n c d s).Canonical := by
  unfold issueArrival
  exact ite_canonical (addLate_canonical h) (makeArrival_canonical h)

theorem loadTile_canonical {n t : Nat} {ws : List (Nat × Nat × Nat)} (h : s.Canonical) : (loadTile n t ws s).Canonical :=
  guardRead_canonical h.same

theorem loadAcc_canonical {n p : Nat} {em : Mask} {es : List (Nat × Nat × Nat)} (h : s.Canonical) :
    (loadAcc n p em es s).Canonical :=
  guardRead_canonical h.same

theorem readOrLate_canonical {vas : List Nat} {act : Nat → State → State} {w : Late} (h : s.Canonical)
    (ha : ∀ n, KeepsCanonical (act n)) : (readOrLate vas act w s).Canonical :=
  countAccesses_canonical (ite_canonical (addLate_canonical h) (takePlace_canonical (ha _ _ h)))

theorem setTile_canonical {core p : Nat} {tile : Lanes (BitVec 2304)} {ovf : Bool} (h : s.Canonical) :
    (setTile core p tile ovf s).Canonical :=
  updCore_canonical h fun _ hc => hc

theorem kStep_canonical {core : Nat} {k : SquadKey} (h : s.Canonical) : (kStep core k s).Canonical := by
  unfold kStep
  dsimp only
  split
  · exact h
  · split
    · exact h
    · exact ite_canonical h (ite_canonical (trapAtWord_canonical (focus_canonical (setTile_canonical (updSq_canonical h))))
        (setTile_canonical (updSq_canonical h)))

/-! ## Single-key operations (R309, R317, R321) -/

theorem countNodes_canonical {k : Kitty} {is : List Nat} (h : s.Canonical) : (countNodes k is s).Canonical :=
  foldl_canonical (fun _ _ => countSegment_canonical) h

theorem noteAges_canonical {r : Nat × Nat} {k : Kitty} {p : Plan} (h : s.Canonical) : (noteAges r k p s).Canonical := h.same

theorem freshAges_canonical {r : Nat × Nat} (h : s.Canonical) : (freshAges r s).Canonical := by
  unfold freshAges
  exact ite_canonical h h.same

theorem storeKey_canonical {asid : Nat} {leases : List (Nat × Nat)} {hd : BitVec 32} {k v : Nat} {t : State}
    (h : s.Canonical) (e : storeKey asid leases hd k v s = .ok t) : t.Canonical := by
  unfold storeKey at e
  split at e
  · cases e
  · dsimp only at e
    split at e
    · cases e
    · cases e
    · split at e
      · cases e
      · split at e
        · cases e
        · cases e
          exact countNodes_canonical (homeWrite_canonical (noteAges_canonical h))

theorem acceptLanes_canonical {asid : Nat} {leases : List (Nat × Nat)} {hd : BitVec 32} {n : Nat} {todo : List (Nat × Nat × Nat)}
    (h : s.Canonical) : (acceptLanes asid leases hd n todo s).1.Canonical := by
  fun_induction acceptLanes asid leases hd n todo s with
  | case1 => exact h
  | case2 => exact h
  | case3 s n l k v r t e ih => exact ih (storeKey_canonical h e)
  | _ => exact h

theorem leaseEnd_canonical {k : SquadKey} {va kind : Nat} (h : s.Canonical) : (leaseEnd k va kind s).Canonical := by
  unfold leaseEnd
  exact ite_canonical (trapInTrap_canonical (focus_canonical h)) (terminalReport_canonical (focus_canonical h))

theorem deadRead_canonical {k : SquadKey} {seq : Nat} {hd : BitVec 32} {sub : Nat} {ls : Mask} (h : s.Canonical) :
    (deadRead k seq hd sub ls s).Canonical := by
  unfold deadRead
  exact ite_canonical (takeTrap_canonical (focus_canonical (updSq_canonical h))) (updSq_canonical h)

theorem acceptRead_canonical {k : SquadKey} {seq : Nat} (h : s.Canonical) : (acceptRead k seq s).Canonical := by
  have answered {asid leases op h1 h2 pos probe} {f : Squad → Squad} :
      ((countProbe asid leases op h1 h2 pos probe s).updSq k f).Canonical := updSq_canonical (countNodes_canonical h)
  unfold acceptRead
  dsimp only
  split
  · refine ite_canonical h ?_
    split
    · exact answered
    · exact answered
    · exact answered
    · exact leaseEnd_canonical (updSq_canonical h)
    · exact ite_canonical h (deadRead_canonical h)
    · exact h
  · exact h

theorem acceptStore_canonical {k : SquadKey} (h : s.Canonical) : (acceptStore k s).Canonical := by
  have accepted {asid leases hd n todo core k} : (dropAhead core k (acceptLanes asid leases hd n todo s).1).Canonical :=
    dropAhead_canonical (acceptLanes_canonical h)
  unfold acceptStore
  dsimp only
  split
  · split
    · exact h
    · split
      · exact updSq_canonical accepted
      · exact trapAtWord_canonical (onSq_canonical (focus_canonical accepted))
      · exact leaseEnd_canonical accepted
      · exact trapAtWord_canonical (onSq_canonical (focus_canonical accepted))
  · exact h

theorem lateSst_canonical {n : Nat} {r : SstRec} {pkt word chw clen : Nat} {rest : List (Nat × Late)} (h : s.Canonical) :
    (lateSst n r pkt word chw clen rest s).Canonical := by
  have accepted {asid leases hd n todo core k} : (dropAhead core k (acceptLanes asid leases hd n todo s).1).Canonical :=
    dropAhead_canonical (acceptLanes_canonical h)
  unfold lateSst
  dsimp only
  split
  · exact onSq_canonical accepted
  · exact takeTrap_canonical (onSq_canonical accepted)
  · exact leaseEnd_canonical accepted
  · exact takeTrap_canonical (onSq_canonical accepted)

theorem lateEffect_canonical {n : Nat} {w : Late} {rest : List (Nat × Late)} (h : s.Canonical) :
    (lateEffect n w rest s).Canonical := by
  unfold lateEffect
  cases w with
  | arrive => exact makeArrival_canonical h.same
  | put => exact setShoeState_canonical h.same
  | ifence => exact h.same
  | tile => exact loadTile_canonical h.same
  | acc => exact loadAcc_canonical h.same
  | sst => exact lateSst_canonical h

theorem doLate_canonical (h : s.Canonical) : ∀ t ∈ doLate s, t.Canonical := by
  unfold doLate
  intro t ht
  split at ht
  · cases ht
  · split at ht
    · cases ht
      exact ite_canonical (endRun_canonical (settle_canonical (lateEffect_canonical h)))
        (settle_canonical (lateEffect_canonical h))
    · cases ht

/-! ## Levels, jobs and graphs (R329 to R340) -/

theorem walkerWrite_canonical {asid va : Nat} {bs : List Byte} (h : s.Canonical) : (walkerWrite asid va bs s).Canonical :=
  homeWrite_canonical h

theorem updGraph_canonical {g : Nat} {f : Graph → Graph} (h : s.Canonical) : (s.updGraph g f).Canonical := h.same

theorem updJob_canonical {j : Nat} {f : Job → Job} (h : s.Canonical) : (s.updJob j f).Canonical := h.same

theorem stopJob_canonical {j : Nat} {e : Ending} (h : s.Canonical) : (stopJob j e s).Canonical := by
  unfold stopJob
  split
  · exact h
  · exact ite_canonical h (foldl_canonical (fun _ _ => endLaunch_canonical) (updPart_canonical (updJob_canonical h)))

theorem endJobs_canonical {p : Job → Bool} (h : s.Canonical) : (endJobs p s).Canonical := h.same

theorem endLaunches_canonical {p : Launch → Bool} (h : s.Canonical) : (endLaunches p s).Canonical :=
  foldl_canonical (fun _ _ => endLaunch_canonical) h

theorem cancelJob_canonical {j : Nat} (h : s.Canonical) : (cancelJob j s).Canonical := by
  unfold cancelJob
  split
  · exact h
  · exact ite_canonical h (endLaunches_canonical (updPart_canonical (endJobs_canonical h)))

theorem cancelGraph_canonical {g : Nat} (h : s.Canonical) : (cancelGraph g s).Canonical := by
  unfold cancelGraph
  split
  · exact h
  · exact ite_canonical h (endLaunches_canonical (updPart_canonical (endJobs_canonical (updGraph_canonical h))))

theorem cancelLevel_canonical {l : Level} (h : s.Canonical) : (cancelLevel l s).Canonical := by
  unfold cancelLevel
  cases l with
  | launch i =>
    dsimp only
    split
    · exact h
    · exact ite_canonical (endLaunch_canonical h) h
  | graph i => exact cancelGraph_canonical h
  | phase i =>
    dsimp only
    split
    · exact h
    · exact ite_canonical h (foldl_canonical (fun _ _ => cancelGraph_canonical) (updPart_canonical h))
  | job i =>
    dsimp only
    split
    · exact h
    · exact cancelJob_canonical h

/-! ## Engines -/

/-- The state that an engine's unit answers, where it answers one, is canonical. -/
def EngRes.OkCanonical : EngRes State → Prop
  | .ok t => t.Canonical
  | _ => True

theorem ite_okCanonical {c : Prop} [Decidable c] {r q : EngRes State} (hr : r.OkCanonical) (hq : q.OkCanonical) :
    (if c then r else q).OkCanonical := by
  split
  · exact hr
  · exact hq

theorem bind_okCanonical {α : Type} {r : EngRes α} {f : α → EngRes State} (hf : ∀ x, (f x).OkCanonical) :
    (r.bind f).OkCanonical := by
  cases r with
  | ok x => exact hf x
  | _ => trivial

theorem EngRes.OkCanonical.bind {r : EngRes State} {f : State → EngRes State} (hr : r.OkCanonical)
    (hf : ∀ t, t.Canonical → (f t).OkCanonical) : (r.bind f).OkCanonical := by
  cases r with
  | ok t => exact hf t hr
  | _ => trivial

theorem kittyStop_okCanonical {t : State} {c : Cmd} {die va kind : Nat} : (kittyStop t c die va kind).OkCanonical := by
  unfold kittyStop
  split
  · trivial
  · split <;> trivial

theorem startCommand_canonical {fn : Nat} {d : Opnd} {ra : DWord} {r : TensorRec} {raw : List Byte} {sb : DWord}
    {stop : Option Nat} (h : s.Canonical) : (startCommand fn d ra r raw sb stop s).Canonical := by
  have issued {core asid vas id d} : (countAccesses core asid vas (addProd (.ticket id) [d] s)).Canonical :=
    countAccesses_canonical (addProd_canonical h)
  have aged {c : Prop} [Decidable c] {g core asid vas id d} : State.Canonical
      (if c then freshAges g (countAccesses core asid vas (addProd (.ticket id) [d] s))
        else countAccesses core asid vas (addProd (.ticket id) [d] s)) :=
    ite_canonical (freshAges_canonical issued) issued
  unfold startCommand
  refine settle_canonical (updPart_canonical ?_)
  exact ⟨aged.mem, aged.scratch, aged.stock, aged.teams, aged.cores⟩

theorem engAccept_canonical {c : Cmd} {cells : List (Nat × Byte)} (h : s.Canonical) : (engAccept c cells s).Canonical := by
  have drained {l : List Nat} : (l.foldl (fun t ln => drainCoreLine c.core ln t) s).Canonical :=
    foldl_canonical (fun _ _ => drainCoreLine_canonical) h
  unfold engAccept
  dsimp only
  split
  · exact markDirty_canonical (dieAccept_canonical drained)
  · exact markDirty_canonical (dieAccept_canonical drained)
  · exact markDirty_canonical (dieAccept_canonical drained)
  · exact homeWrite_canonical (foldl_canonical (fun _ _ => drainDieLine_canonical) drained)

theorem countEng_canonical {c : Cmd} {vas : List Nat} (h : s.Canonical) : (countEng c vas s).Canonical :=
  foldl_canonical (fun _ _ => countSegment_canonical) h

theorem engWrite_okCanonical {c : Cmd} {va : Nat} {bs : List Byte} (h : s.Canonical) : (engWrite c va bs s).OkCanonical := by
  unfold engWrite
  split
  · trivial
  · trivial
  · trivial
  · exact countEng_canonical (engAccept_canonical h)

theorem advance_canonical {id units count : Nat} (h : s.Canonical) : (advance id units count s).Canonical := h.same

theorem updCmd_canonical {c : Nat} {f : Cmd → Cmd} (h : s.Canonical) : (s.updCmd c f).Canonical := h.same

theorem countElem_canonical {c : Cmd} {va : Int} {n : Nat} (h : s.Canonical) : (countElem c va n s).Canonical :=
  countEng_canonical h

theorem countElems_canonical {c : Cmd} {vas : List Int} {n : Nat} (h : s.Canonical) : (countElems c vas n s).Canonical :=
  foldl_canonical (fun _ _ => countElem_canonical) h

theorem unitStk_okCanonical {c : Cmd} (h : s.Canonical) : (unitStk c s).OkCanonical := by
  unfold unitStk
  split
  · trivial
  · exact bind_okCanonical fun _ => advance_canonical (countElem_canonical
      (foldl_canonical (fun _ _ ht => updCore_canonical ht fun _ hx => Memory.writeBytes_wf hx _ _) h))

theorem unitCpy_okCanonical {c : Cmd} (h : s.Canonical) : (unitCpy c s).OkCanonical := by
  unfold unitCpy
  refine bind_okCanonical fun bs => ?_
  dsimp only
  split
  · exact (engWrite_okCanonical (countElem_canonical h)).bind fun _ => advance_canonical
  · exact advance_canonical (updTeam_canonical (countElem_canonical h) fun _ ht => Memory.writeBytes_wf ht _ _)

theorem unitDense_okCanonical {c : Cmd} (h : s.Canonical) : (unitDense c s).OkCanonical := by
  unfold unitDense
  split
  · exact (engWrite_okCanonical h).bind fun _ ht => updCmd_canonical (advance_canonical ht)
  · dsimp only
    split
    · exact updCmd_canonical (advance_canonical (countNodes_canonical h))
    · exact kittyStop_okCanonical
    · trivial
    · trivial

theorem unitSpar_okCanonical {c : Cmd} (h : s.Canonical) : (unitSpar c s).OkCanonical := by
  unfold unitSpar
  refine bind_okCanonical fun r => ?_
  dsimp only
  split
  · exact advance_canonical (countElems_canonical h)
  · split
    next e => exact advance_canonical (storeKey_canonical (countElems_canonical h) e)
    · trivial
    · trivial
    · exact kittyStop_okCanonical
    · trivial

theorem unitCmb_okCanonical {c : Cmd} (h : s.Canonical) : (unitCmb c s).OkCanonical := by
  unfold unitCmb
  exact bind_okCanonical fun _ => bind_okCanonical fun _ =>
    (engWrite_okCanonical (countElems_canonical h)).bind fun _ => advance_canonical

theorem clearDirty_canonical {pages : List Nat} (h : s.Canonical) : (clearDirty pages s).Canonical := h.same

theorem unitHash_okCanonical {c : Cmd} (h : s.Canonical) : (unitHash c s).OkCanonical := by
  rw [unitHash]
  split
  · exact advance_canonical h
  · refine ite_okCanonical (advance_canonical h) ?_
    split
    · trivial
    · trivial
    · trivial
    · exact (engWrite_okCanonical (countEng_canonical (clearDirty_canonical h))).bind fun _ => advance_canonical

theorem unitKgrow_okCanonical {c : Cmd} (h : s.Canonical) : (unitKgrow c s).OkCanonical := by
  rw [unitKgrow]
  split
  · trivial
  · -- the descriptor is read from memory, which no test below may compute
    generalize readDesc s c.asid (handleRegion (c.sb.setWidth 32)) = d
    dsimp only
    refine ite_okCanonical ?_ ?_
    · trivial
    · split
      · exact kittyStop_okCanonical
      · refine ite_okCanonical ?_ (ite_okCanonical ?_ (ite_okCanonical ?_ ?_))
        · trivial
        · trivial
        · trivial
        · split
          · exact kittyStop_okCanonical
          · exact advance_canonical (countNodes_canonical (homeWrite_canonical h))

theorem countWalker_canonical {asid : Nat} {vas : List Nat} (h : s.Canonical) : (countWalker asid vas s).Canonical :=
  foldl_canonical (fun _ _ => countSegment_canonical) h

theorem unresolved_okCanonical {c : Cmd} (h : s.Canonical) : (unresolved c s).OkCanonical := by
  unfold unresolved
  dsimp only
  split
  · trivial
  · exact advance_canonical h

theorem unitQapp_okCanonical {c : Cmd} (h : s.Canonical) : (unitQapp c s).OkCanonical := by
  unfold unitQapp
  split
  · exact unresolved_okCanonical h
  · dsimp only
    split
    · trivial
    · trivial
    · split
      · trivial
      · split
        · trivial
        · trivial
        · exact advance_canonical (countWalker_canonical (updGraph_canonical (walkerWrite_canonical (walkerWrite_canonical h))))

theorem unitGcond_okCanonical {c : Cmd} (h : s.Canonical) : (unitGcond c s).OkCanonical := by
  unfold unitGcond
  split
  · exact unresolved_okCanonical h
  · split
    · trivial
    · split
      · trivial
      · trivial
      · exact advance_canonical (countWalker_canonical (walkerWrite_canonical h))

theorem unitLvlw_okCanonical {c : Cmd} (h : s.Canonical) : (unitLvlw c s).OkCanonical := by
  unfold unitLvlw
  split
  · exact advance_canonical h
  · split
    · exact advance_canonical h
    · split <;> trivial

theorem releaseNow_canonical {core : Nat} {scope : Scope} (h : s.Canonical) : (releaseNow core scope s).Canonical := by
  have merged : ((s.getCore core).merged.foldl (fun t e => acceptFromCore core e.stamp t) s).Canonical :=
    foldl_canonical (fun _ _ => acceptFromCore_canonical) h
  unfold releaseNow
  cases scope with
  | squad => exact h
  | team => exact h
  | die => exact merged
  | device => exact foldl_canonical (fun _ _ => acceptFromDie_canonical) merged
  | system => exact foldl_canonical (fun _ _ => acceptFromDie_canonical) merged

theorem publish_canonical {t : TeamKey} {n : Nat} {bs : List Byte} (h : s.Canonical) : (publish t n bs s).Canonical :=
  updTeam_canonical h fun _ ht => Memory.writeBytes_wf ht _ _

theorem unitCpyShoe_okCanonical {c : Cmd} (h : s.Canonical) : (unitCpyShoe c s).OkCanonical := by
  unfold unitCpyShoe
  dsimp only
  split
  · trivial
  · split
    · trivial
    · exact bind_okCanonical fun _ => advance_canonical (publish_canonical (releaseNow_canonical (countElems_canonical h)))

theorem unitDsp_okCanonical {c : Cmd} (h : s.Canonical) : (unitDsp c s).OkCanonical := by
  unfold unitDsp
  refine bind_okCanonical fun eb => ?_
  dsimp only
  split
  · trivial
  · split
    · split
      · trivial
      · split
        · trivial
        · split
          · trivial
          · split
            · trivial
            · exact bind_okCanonical fun _ => advance_canonical (countElems_canonical (countElem_canonical
                (publish_canonical (releaseNow_canonical (releaseNow_canonical h)))))
    · split
      · trivial
      · split
        · trivial
        · exact bind_okCanonical fun _ => advance_canonical (countElems_canonical (countElem_canonical (releaseNow_canonical h)))

theorem unitOf_okCanonical {c : Cmd} (h : s.Canonical) : (unitOf c s).OkCanonical := by
  unfold unitOf
  split
  · exact unitStk_okCanonical h
  · exact unitCpy_okCanonical h
  · exact unitDense_okCanonical h
  · exact unitCmb_okCanonical h
  · exact unitQapp_okCanonical h
  · exact unitGcond_okCanonical h
  · exact unitLvlw_okCanonical h
  · exact advance_canonical (cancelLevel_canonical h)
  · exact unitHash_okCanonical h
  · exact unitKgrow_okCanonical h
  · trivial

theorem dropCmd_canonical {c : Cmd} (h : s.Canonical) : (dropCmd c s).Canonical :=
  updCore_canonical h.same fun _ hc => hc

theorem applyUnit_canonical {c : Cmd} {r : EngRes State} (h : s.Canonical) (hr : r.OkCanonical) :
    (applyUnit c r s).Canonical := by
  unfold applyUnit
  cases r with
  | ok t => exact settle_canonical hr
  | stop code => exact updCmd_canonical h
  | outside va k => exact settle_canonical (endLaunch_canonical (dropCmd_canonical h))
  | blocked => exact h

theorem fillSaved_canonical {q : Squad} {n : Nat} {x : DWord} (h : s.Canonical) : (fillSaved q n x s).Canonical :=
  writeMem_canonical h (Memory.put_wf (Memory.put_wf (Memory.put_wf (Memory.put_wf h.mem _ _ _) _ _ _) _ _ _) _ _ _)

theorem fillTicket_canonical {c : Cmd} {code : Nat} (h : s.Canonical) : (fillTicket c code s).Canonical := by
  have filled {core k k' seq x} : (fillU k seq x (dropCmd c (dropAhead core k' (releaseNow c.core c.rel.scope s)))).Canonical :=
    fillU_canonical (dropCmd_canonical (dropAhead_canonical (releaseNow_canonical h)))
  unfold fillTicket
  refine settle_canonical (ite_canonical ?_ filled)
  split
  · exact fillSaved_canonical filled
  · exact filled

theorem acceptInsert_canonical {cmd : Nat} (h : s.Canonical) : (acceptInsert cmd s).Canonical := by
  unfold acceptInsert
  split
  · exact h
  · exact ite_canonical (applyUnit_canonical h (unitSpar_okCanonical h)) h

/-! ## What a word does -/

/-- The effect that a word answers, where it answers one, keeps the canonical form. -/
def WordOut.Keeps : WordOut → Prop
  | .done u => KeepsCanonical u
  | .hold _ _ u => KeepsCanonical u
  | .fail u _ => KeepsCanonical u
  | .wait _ => True
  | .trap _ => True

theorem ite_keeps {c : Prop} [Decidable c] {o p : WordOut} (ho : o.Keeps) (hp : p.Keeps) : (if c then o else p).Keeps := by
  split
  · exact ho
  · exact hp

theorem ite_keepsCanonical {c : Prop} [Decidable c] {u v : State → State} (hu : KeepsCanonical u) (hv : KeepsCanonical v) :
    KeepsCanonical (if c then u else v) := by
  split
  · exact hu
  · exact hv

theorem faultOr_keeps {r : Option Report} {u : State → State} (hu : KeepsCanonical u) : (faultOr r u).Keeps := by
  cases r with
  | none => exact hu
  | some r => trivial

theorem out_keeps {b : Block} : b.out.Keeps := by cases b <;> trivial

theorem wordOut_keeps {i : Instr} {own : State → WordOut} (ho : (own s).Keeps) : (wordOut i own s).Keeps := by
  unfold wordOut
  split
  · exact out_keeps
  · exact ho

theorem onSq_keeps {f : Squad → Squad} : KeepsCanonical (fun t => t.onSq f) := fun _ => onSq_canonical

/-! ## Register words: they write registers of the squad alone -/

theorem alu2_keeps {op : (w : Nat) → BitVec w → BitVec w → BitVec w} {d a b : Opnd} : KeepsCanonical (alu2 op d a b s) :=
  ite_keepsCanonical onSq_keeps onSq_keeps

theorem aluImm_keeps {op : (w : Nat) → BitVec w → BitVec w → BitVec w} {d a : Opnd} {i : BitVec 10} :
    KeepsCanonical (aluImm op d a i s) :=
  ite_keepsCanonical onSq_keeps onSq_keeps

theorem alu1_keeps {op : (w : Nat) → BitVec w → BitVec w} {d a : Opnd} : KeepsCanonical (alu1 op d a s) :=
  ite_keepsCanonical onSq_keeps onSq_keeps

theorem alu3_keeps {op : (w : Nat) → BitVec w → BitVec w → BitVec w → BitVec w} {d a b : Opnd} :
    KeepsCanonical (alu3 op d a b s) :=
  ite_keepsCanonical onSq_keeps onSq_keeps

theorem putF_keeps {d : Opnd} {f : Nat → Word} : KeepsCanonical (putF d f s) := ite_keepsCanonical onSq_keeps onSq_keeps

theorem affOr_keeps {d : Opnd} {r : DWord × DWord} {u : State → State} (hu : KeepsCanonical u) : KeepsCanonical (affOr d r u) :=
  ite_keepsCanonical onSq_keeps hu

theorem floatWord_keeps {d : Opnd} {srcs : List Opnd} {f : Nat → Word} : (floatWord d srcs f s).Keeps := faultOr_keeps putF_keeps

theorem ownFfma_keeps {d a b : Opnd} {m : Bool} : (ownFfma d a b m s).Keeps :=
  ite_keeps (faultOr_keeps putF_keeps) floatWord_keeps

theorem ownRget_keeps {d a b : Opnd} {e : Bool} : (ownRget d a b e s).Keeps := by
  unfold ownRget
  split
  · trivial
  · dsimp only
    split
    · exact out_keeps
    · split
      · exact out_keeps
      · exact onSq_keeps

theorem ownRput_keeps {d a b : Opnd} : (ownRput d a b s).Keeps := by
  unfold ownRput
  split
  · trivial
  · dsimp only
    split
    · exact out_keeps
    · exact onSq_keeps

/-! ## Memory, fences and shoes -/

theorem loadWord_keeps {signed : Bool} {d b : Opnd} {sz : BitVec 2} {co : Bool} {off : BitVec 6} :
    (loadWord signed d b sz co off s).Keeps :=
  faultOr_keeps (ite_keepsCanonical keepsCanonical_id fun _ h => countAccesses_canonical h.same)

theorem ownLdsc_keeps {d b : Opnd} {sz : BitVec 2} {n : BitVec 6} : (ownLdsc d b sz n s).Keeps :=
  faultOr_keeps (ite_keepsCanonical keepsCanonical_id fun _ h => ite_canonical h.same (scratchLoadNow_canonical h))

theorem ownSt_keeps {d b : Opnd} {sz : BitVec 2} {n : BitVec 6} : (ownSt d b sz n s).Keeps :=
  faultOr_keeps (ite_keepsCanonical keepsCanonical_id fun _ h => countAccesses_canonical (enqueue_canonical h))

theorem ownStsc_keeps {d b : Opnd} {sz : BitVec 2} {n : BitVec 6} : (ownStsc d b sz n s).Keeps :=
  faultOr_keeps (ite_keepsCanonical keepsCanonical_id fun _ => enqueue_canonical)

theorem atomicWord_keeps {det : Option Report} {uni : Bool} {b : Opnd} {sz g : BitVec 2} {opn : BitVec 4}
    {cas : Nat → Option DWord} {x : Nat → DWord} {regs : List Opnd} :
    (atomicWord det uni b sz g opn cas x regs s).Keeps := by
  unfold atomicWord
  refine ite_keeps keepsCanonical_id ?_
  split
  · trivial
  · refine ite_keeps trivial (faultOr_keeps fun t h => countAccesses_canonical ?_)
    exact ite_canonical (enqueue_canonical h) (onSq_canonical (addProd_canonical h))

theorem addFence_keeps {acq rel full : Bool} {scope : Scope} : KeepsCanonical (addFence acq rel full scope) :=
  fun _ => pushFence_canonical

theorem ownIfence_keeps : (ownIfence s).Keeps :=
  ite_keeps (fun _ h => ite_canonical h.same (addLate_canonical h)) trivial

theorem ownPf_keeps {b : Opnd} {sz : BitVec 2} {o : Bool} {n : BitVec 6} : (ownPf b sz o n s).Keeps :=
  fun _ h => countAccesses_canonical (ite_canonical h (foldl_canonical (fun _ _ => fillL1_canonical) h))

theorem ownL1inv_keeps : (ownL1inv s).Keeps := fun _ h => h.same

theorem ownShtake_keeps {d a : Opnd} {m : Bool} : (ownShtake d a m s).Keeps := by
  refine ite_keeps trivial fun t h => ite_canonical ?_ ?_
  · exact pushFence_canonical (setShoeState_canonical (addProd_canonical h))
  · exact pushFence_canonical (setShoeState_canonical (addProd_canonical h))

theorem ownShput_keeps {a b : Opnd} {m : Bool} : (ownShput a b m s).Keeps :=
  ite_keeps trivial (ite_keeps trivial fun _ h => ite_canonical (setShoeState_canonical h) (addLate_canonical h))

theorem ownShqry_keeps {d a : Opnd} : (ownShqry d a s).Keeps := ite_keeps trivial onSq_keeps

/-! ## Barriers and tiles -/

theorem ownBarArrive_keeps {d : Opnd} {a : BitVec 5} {n : BitVec 4} : (ownBarArrive d a n s).Keeps := by
  unfold ownBarArrive
  dsimp only
  split
  · trivial
  · exact ite_keeps trivial fun _ => issueArrival_canonical

theorem ownBarSync_keeps {a : BitVec 5} {n : BitVec 4} : (ownBarSync a n s).Keeps := by
  unfold ownBarSync
  dsimp only
  split
  · trivial
  · exact ite_keeps trivial fun _ h => pushFence_canonical (issueArrival_canonical h)

theorem ownTld_keeps {t : BitVec 3} {l : Bool} {x i : BitVec 5} {v : Opnd} {e : Bool} {f : BitVec 2} :
    (ownTld t l x i v e f s).Keeps := by
  refine ite_keeps keepsCanonical_id ?_
  dsimp only
  split
  · trivial
  · split
    · trivial
    · exact ite_keeps trivial (ite_keeps trivial fun _ h => readOrLate_canonical h fun _ _ => loadTile_canonical)

theorem ownTst_keeps {t : BitVec 3} {l : Bool} {x i : BitVec 5} {v : Opnd} {e : Bool} {f : BitVec 2} :
    (ownTst t l x i v e f s).Keeps := by
  refine ite_keeps keepsCanonical_id ?_
  dsimp only
  split
  · trivial
  · exact fun _ h => countAccesses_canonical (enqueue_canonical h)

theorem ownTmov_keeps {t : BitVec 3} {l : Bool} {x i : BitVec 5} {v : Opnd} {e f : Bool} : (ownTmov t l x i v e f s).Keeps := by
  refine ite_keeps keepsCanonical_id ?_
  dsimp only
  split
  · trivial
  · exact ite_keeps (ite_keeps trivial onSq_keeps) onSq_keeps

theorem ownZclr_keeps {z f : BitVec 3} : (ownZclr z f s).Keeps :=
  ite_keeps keepsCanonical_id (ite_keeps trivial (ite_keeps trivial fun _ h => h.same))

theorem readTile_keeps {n p : Nat} {x i : BitVec 5} {v : Opnd} {f : BitVec 2} : (readTile n p x i v f s).Keeps := by
  refine ite_keeps onSq_keeps ?_
  dsimp only
  split
  · trivial
  · exact ite_keeps onSq_keeps (ite_keeps trivial onSq_keeps)

theorem ownZrd_keeps {t : BitVec 3} {x i : BitVec 5} {v : Opnd} {f : BitVec 2} : (ownZrd t x i v f s).Keeps := by
  refine ite_keeps keepsCanonical_id ?_
  split
  · trivial
  · exact ite_keeps trivial readTile_keeps

theorem ownZxf_keeps {z : BitVec 3} {b : BitVec 5} {e m : Bool} : (ownZxf z b e m s).Keeps := by
  refine ite_keeps keepsCanonical_id ?_
  split
  · trivial
  · refine ite_keeps trivial ?_
    dsimp only
    split
    · trivial
    · exact ite_keeps (ite_keeps trivial fun _ h => readOrLate_canonical h fun _ _ => loadAcc_canonical)
        fun _ h => countAccesses_canonical (enqueue_canonical h)

theorem startMatrix_keeps {r : MProg} : KeepsCanonical (startMatrix r) := fun _ h => h.same

theorem matrixWord_keeps {i : Instr} {b sm : BitVec 5} {e : Bool} : (matrixWord i b sm e s).Keeps := by
  refine ite_keeps keepsCanonical_id ?_
  dsimp only
  split
  · trivial
  · refine ite_keeps trivial (ite_keeps trivial ?_)
    split
    · trivial
    · exact ite_keeps startMatrix_keeps startMatrix_keeps

/-! ## Sparse and engine words -/

theorem sparseRead_keeps {op : Nat} {m : Bool} {a b : Opnd} {regs : List Opnd} {chk : List (Option Report)} :
    (sparseRead op m a b regs chk s).Keeps :=
  ite_keeps keepsCanonical_id (faultOr_keeps fun _ h =>
    addProd_canonical (freshAges_canonical (ite_canonical (freshAges_canonical h) h)))

theorem ownSst_keeps {c : Bool} {d a b : Opnd} {e f m : Bool} : (ownSst c d a b e f m s).Keeps := by
  have accepted {asid leases hd n todo r} : KeepsCanonical fun t =>
      dropAhead t.core.id t.sq.key (acceptLanes asid leases hd n todo (freshAges r t)).1 :=
    fun _ h => dropAhead_canonical (acceptLanes_canonical (freshAges_canonical h))
  refine ite_keeps keepsCanonical_id ?_
  split
  · exact fun _ h => ite_canonical h.same h.same
  · refine ite_keeps trivial ?_
    dsimp only
    split
    · trivial
    · refine ite_keeps trivial ?_
      split
      · exact accepted
      · trivial
      · exact accepted
      · exact ite_keeps accepted fun t h => onSq_canonical (accepted t h)

theorem engWord_keeps {fn : Nat} {d : Opnd} {a b : BitVec 5} : (engWord fn d a b s).Keeps := by
  refine ite_keeps trivial ?_
  split
  · trivial
  · refine ite_keeps trivial ?_
    dsimp only
    split
    · trivial
    · split
      · trivial
      · refine ite_keeps ?_ fun _ => startCommand_canonical
        split
        · trivial
        · exact ite_keeps trivial (ite_keeps trivial fun _ => startCommand_canonical)

/-! ## Control words -/

theorem ownSeg_keeps {slots : BitVec 8} : (ownSeg slots s).Keeps := fun _ h => ite_canonical h.same h.same

theorem runDealt_canonical {mis : Option Nat} {n : Nat} {e : Hand} (h : s.Canonical) : (runDealt mis n e s).Canonical := by
  unfold runDealt
  cases mis with
  | none => exact updPart_canonical (countDeal_canonical (noteHand_canonical (runHand_canonical h)))
  | some b => exact updPart_canonical (countDeal_canonical (noteHand_canonical h.same))

theorem ownDeal_keeps : (ownDeal s).Keeps := by
  refine ite_keeps ?_ ?_
  · split
    · exact fun _ h => h.same
    · exact fun _ h => endFrame_canonical h.same
  · split
    · exact fun _ h => runDealt_canonical h.same
    · dsimp only
      split
      · exact fun _ h => runDealt_canonical h.same
      · trivial
    · trivial

theorem exitTo_keeps {tgt : Nat → DWord} {b : Bool} : (exitTo tgt b s).Keeps := by
  unfold exitTo
  dsimp only
  split
  · trivial
  · split
    · trivial
    · exact onSq_keeps

theorem ownRet_keeps : (ownRet s).Keeps := ite_keeps trivial onSq_keeps

theorem callSuit_keeps {i : Nat} {callers : Mask} : (callSuit i callers s).Keeps := by
  refine ite_keeps (fun _ => endRun_canonical) ?_
  split
  · trivial
  · split
    · exact fun t h => endRun_canonical (prefetchHands_canonical (noteHand_canonical (runHand_canonical (enterSuit_canonical
        (onSq_canonical (pushFrame_canonical h))))))
    · trivial

theorem ownCall_keeps {i : BitVec 17} : (ownCall i s).Keeps := ite_keeps trivial callSuit_keeps

theorem ownCallp_keeps {p : Opnd} {i : BitVec 17} : (ownCallp p i s).Keeps := by
  refine ite_keeps trivial ?_
  split
  · exact out_keeps
  · split
    · exact out_keeps
    · exact callSuit_keeps

theorem nameStop_canonical {lid engine : Nat} (h : s.Canonical) : (nameStop lid engine s).Canonical := h.same

theorem debugStopLaunch_canonical {lid : Nat} (h : s.Canonical) : (debugStopLaunch lid s).Canonical := by
  have stopped {t : Team} (ht : t.scratch.wf = true) : (if t.stops lid then t.stopped else t).scratch.wf = true := by
    split <;> exact ht
  refine nameStop_canonical (updLaunch_canonical ?_)
  exact ⟨h.mem, stopped h.scratch, h.stock, map_teams_wf h fun _ => stopped, h.cores⟩

theorem ownBrk_keeps {i : BitVec 17} : (ownBrk i s).Keeps :=
  ite_keeps (fun _ h => endRun_canonical (debugStopLaunch_canonical h)) trivial

theorem ownEret_keeps {k : BitVec 4} : (ownEret k s).Keeps := by
  unfold ownEret
  split
  · exact ite_keeps (fun _ h => ite_canonical (onSq_canonical (returnFromTrap_canonical h)) (returnFromTrap_canonical h)) trivial
  · trivial

theorem ownSysRdsr_keeps {d : Opnd} {a b : BitVec 5} : (ownSysRdsr d a b s).Keeps := by
  unfold ownSysRdsr
  split
  · exact onSq_keeps
  · trivial

theorem ownSysWrsr_keeps {d : Opnd} {a b : BitVec 5} : (ownSysWrsr d a b s).Keeps :=
  ite_keeps onSq_keeps (ite_keeps onSq_keeps (ite_keeps (ite_keeps trivial fun _ h => h.same) trivial))

theorem ownSysHalt_keeps : (ownSysHalt s).Keeps :=
  ite_keeps keepsCanonical_id fun _ h => onSq_canonical (endLaunch_canonical h)

/-! ## Every word -/

theorem ownOf_keeps {i : Instr} : (ownOf i s).Keeps := by
  cases i with
  | seg => exact ownSeg_keeps
  | nxt | nxtc | nxti | fold => exact exitTo_keeps
  | deal => exact ownDeal_keeps
  | call => exact ownCall_keeps
  | callp => exact ownCallp_keeps
  | ret => exact ownRet_keeps
  | trap => trivial
  | eret => exact ownEret_keeps
  | brk => exact ownBrk_keeps
  | iadd | isub | imul | shl => exact faultOr_keeps (affOr_keeps alu2_keeps)
  | iaddi => exact affOr_keeps aluImm_keeps
  | imulh | imin | imax | and | or | xor | shr | sar | iceq | icne | iclt | icle | icltu | icleu => exact alu2_keeps
  | bfx | idiv | irem => exact faultOr_keeps alu2_keeps
  | iabs => exact faultOr_keeps alu1_keeps
  | popc | clz | brev | shli | shri | sari | movkh => exact alu1_keeps
  | iaddmin | cmov => exact alu3_keeps
  | bfi => exact faultOr_keeps alu3_keeps
  | andi | ori | xori | iceqi | iclti | icltui => exact aluImm_keeps
  | imad | emget => exact ite_keepsCanonical onSq_keeps onSq_keeps
  | prom => exact ite_keepsCanonical onSq_keeps (ite_keepsCanonical onSq_keeps onSq_keeps)
  | demu => exact faultOr_keeps (ite_keepsCanonical onSq_keeps onSq_keeps)
  | emset | aget | movk | uniq | sete => exact onSq_keeps
  | yield => exact fun _ h => h.same
  | rget => exact ownRget_keeps
  | rput => exact ownRput_keeps
  | fadd | fsub | fmul | frcp | frsq | fsqrt | fexp2 | flog2 => exact floatWord_keeps
  | ffma => exact ownFfma_keeps
  | fmin | fmax | fceq | fclt | fcle | fclass | frnd | cvtfi | cvtif | cvth | getfmt | shfl | shup | shdn | bcast | vany | vbal
  | rdmin => exact putF_keeps
  | cvtn | cvtw | rdadd => exact ite_keeps trivial putF_keeps
  | setfmt => exact ite_keeps onSq_keeps trivial
  | rand => exact ite_keeps (faultOr_keeps putF_keeps) putF_keeps
  | ld | ldsx => exact loadWord_keeps
  | st => exact ownSt_keeps
  | ldsc => exact ownLdsc_keeps
  | stsc => exact ownStsc_keeps
  | amo => exact (atomicWord_keeps : (ownAmo ..).Keeps)
  | amor => exact (atomicWord_keeps : (ownAmor ..).Keeps)
  | cas => exact (atomicWord_keeps : (ownCas ..).Keeps)
  | fence => exact addFence_keeps
  | ifence => exact ownIfence_keeps
  | pf => exact ownPf_keeps
  | l1inv => exact ownL1inv_keeps (s := s)
  | shtake => exact ownShtake_keeps
  | shput => exact ownShput_keeps
  | shqry => exact ownShqry_keeps
  | tld => exact ownTld_keeps
  | tst => exact ownTst_keeps
  | tmov => exact ownTmov_keeps
  | zclr => exact ownZclr_keeps
  | zrd => exact ownZrd_keeps
  | zxf => exact ownZxf_keeps
  | mma | mmas => exact matrixWord_keeps
  | sld | scur | snxt | sisx => exact sparseRead_keeps
  | sst => exact ownSst_keeps
  | engStk => exact (engWord_keeps : (ownEngStk ..).Keeps)
  | engCpy => exact (engWord_keeps : (ownEngCpy ..).Keeps)
  | engDense => exact (engWord_keeps : (ownEngDense ..).Keeps)
  | engSpar => exact (engWord_keeps : (ownEngSpar ..).Keeps)
  | engDsp => exact (engWord_keeps : (ownEngDsp ..).Keeps)
  | engCmb => exact (engWord_keeps : (ownEngCmb ..).Keeps)
  | engQapp => exact (engWord_keeps : (ownEngQapp ..).Keeps)
  | engGcond => exact (engWord_keeps : (ownEngGcond ..).Keeps)
  | engLvlw => exact (engWord_keeps : (ownEngLvlw ..).Keeps)
  | engCancel => exact (engWord_keeps : (ownEngCancel ..).Keeps)
  | engHash => exact (engWord_keeps : (ownEngHash ..).Keeps)
  | engKgrow => exact (engWord_keeps : (ownEngKgrow ..).Keeps)
  | barArrive => exact ownBarArrive_keeps
  | barWait => exact ite_keeps trivial addFence_keeps
  | barSync => exact ownBarSync_keeps
  | sysRdsr => exact ownSysRdsr_keeps
  | sysWrsr => exact ownSysWrsr_keeps
  | sysHalt => exact ownSysHalt_keeps
  | _ => exact keepsCanonical_id

/-! ## Outcomes -/

/-- The state that an outcome goes on with, where it goes on, is canonical. -/
def NextCanonical : Host.Outcome State Fault Refusal → Prop
  | .next t => t.Canonical
  | .fault _ => True
  | .refused _ => True

theorem ite_next {c : Prop} [Decidable c] {o p : Host.Outcome State Fault Refusal} (ho : NextCanonical o) (hp : NextCanonical p) :
    NextCanonical (if c then o else p) := by
  split
  · exact ho
  · exact hp

theorem issueWord_next_canonical {i : Instr} {own : State → WordOut} (h : s.Canonical) (ho : (own s).Keeps) :
    NextCanonical (issueWord i own s) := by
  have hw : (wordOut i own s).Keeps := wordOut_keeps ho
  unfold issueWord
  refine ite_next ?_ (takeTrap_canonical h)
  cases e : wordOut i own s with
  | done u => rw [e] at hw; exact hw _ (onSq_canonical (markPoison_canonical h))
  | wait w => exact waitHere_canonical h
  | trap r => exact takeTrap_canonical h
  | hold f w u => rw [e] at hw; exact waitHere_canonical (hw _ h)
  | fail u r => rw [e] at hw; exact takeTrap_canonical (hw _ h)

/-! ## Chains (R103 to R107) -/

theorem flushLoad_canonical {n : Nat} (h : s.Canonical) : (flushLoad n s).Canonical := by
  unfold flushLoad
  split
  · exact h
  · split
    · exact ite_canonical (performLoad_canonical h) h
    · exact h

theorem flushChain_canonical {n : Nat} (h : s.Canonical) : (flushChain n s).Canonical := by
  have read {c : Prop} [Decidable c] {l : List Nat} : (flushLoad n (if c then l.foldl (fun t _ =>
      if openAtomics n t then mergeOne t.core.id t.sq.key t else t) s else s)).Canonical :=
    flushLoad_canonical (ite_canonical (foldl_canonical (fun _ _ ht => ite_canonical (mergeOne_canonical ht) ht) h) h)
  unfold flushChain
  dsimp only
  split
  · exact ite_canonical (lateEffect_canonical read) read
  · exact ite_canonical (lateEffect_canonical read) read
  · exact read

theorem sstBehind_keeps {t : State} {k : Nat} {r : SstRec} {o : WordOut} (ho : o.Keeps) : (sstBehind s t k r o).Keeps := by
  unfold sstBehind
  split
  · trivial
  · trivial
  · exact ite_keeps ho (ite_keeps (fun _ => addLate_canonical) (ite_keeps trivial ho))

theorem chainWord_keeps {done : List (State → State)} {i : Instr} : (chainWord s done i).Keeps := by
  unfold chainWord
  refine ite_keeps (wordOut_keeps ownOf_keeps) (ite_keeps ?_ ?_)
  · have hw : (wordOut i (ownOf i) (chainView s (afterWords s done))).Keeps := wordOut_keeps ownOf_keeps
    dsimp only
    cases e : wordOut i (ownOf i) (chainView s (afterWords s done)) with
    | done u => rw [e] at hw; exact ite_keeps trivial fun t ht => hw _ (flushChain_canonical ht)
    | _ => rw [e] at hw; exact hw
  · split
    · exact wordOut_keeps ownOf_keeps
    · exact sstBehind_keeps (wordOut_keeps ownOf_keeps)

/-- What a chain comes to keeps the canonical form: the answer that stops it, or the effects of all its words. -/
def ChainKeeps : Nat × WordOut ⊕ List (State → State) → Prop
  | .inl (_, o) => o.Keeps
  | .inr us => ∀ u ∈ us, KeepsCanonical u

theorem chainOuts_keeps {k : Nat} {is : List Instr} {acc : List (State → State)} (ha : ∀ u ∈ acc, KeepsCanonical u) :
    ChainKeeps (chainOuts s k is acc) := by
  induction is generalizing k acc with
  | nil => exact fun u hu => ha u (List.mem_reverse.1 hu)
  | cons i r ih =>
    have hw : (chainWord s acc i).Keeps := chainWord_keeps
    unfold chainOuts
    cases e : chainWord s acc i with
    | done u => rw [e] at hw; exact ih (List.forall_mem_cons.2 ⟨hw, ha⟩)
    | hold f w u =>
      rw [e] at hw
      dsimp only
      split
      · trivial
      · trivial
      · exact hw
    | fail u x =>
      rw [e] at hw
      dsimp only
      split
      · trivial
      · exact hw
    | wait w => trivial
    | trap x => trivial

/-- The effects of the words of a chain that retires. -/
theorem issued_canonical {n : Nat} {rb : Bool} {is : List Instr} {us : List (State → State)}
    (hus : ∀ u ∈ us, KeepsCanonical u) (h : s.Canonical) :
    (us.foldl (fun t u => u t) (retire n rb (is.foldl (fun t i => markPoison i t) s))).Canonical :=
  us.foldlRecOn (fun t u => u t) (onSq_canonical (foldl_canonical (fun _ _ => markPoison_canonical) h))
    fun t ht u hu => hus u hu t ht

theorem issueMany_canonical {ws : List Word} (h : s.Canonical) : NextCanonical (issueMany ws s) := by
  unfold issueMany
  refine ite_next (takeTrap_canonical h) ?_
  split
  · exact takeTrap_canonical h
  · dsimp only
    split
    · exact takeTrap_canonical h
    · have hc {is : List Instr} : ChainKeeps (chainOuts s 0 is []) := chainOuts_keeps (by simp)
      split
      · exact takeTrap_canonical h
      · exact waitHere_canonical h
      next e => have hc := e ▸ hc; exact waitHere_canonical (hc _ h)
      next e => have hc := e ▸ hc; exact takeTrap_canonical (hc _ h)
      · exact h
      next e =>
        have hus := e ▸ hc
        exact noteIssue_canonical (ite_canonical (issued_canonical hus h) (waitHere_canonical (issued_canonical hus h)))

/-! ## Memory and unit events -/

theorem execMergeStep_canonical {core : Nat} {sqs : List SquadKey} (h : s.Canonical) : NextCanonical (execMergeStep core sqs s) :=
  settle_canonical (foldl_canonical (fun _ _ => mergeOne_canonical) h)

theorem execProducerWrite_canonical {k : SquadKey} {seq : Nat} (h : s.Canonical) : NextCanonical (execProducerWrite k seq s) := by
  unfold execProducerWrite
  dsimp only
  split
  · exact h
  · split
    · exact ite_next (settle_canonical (updSq_canonical h)) (ite_next (settle_canonical (performLoad_canonical h)) h)
    · exact ite_next h (settle_canonical (performScratch_canonical h))
    · exact ite_next h (settle_canonical (updSq_canonical h))
    · exact settle_canonical (updSq_canonical h)
    · exact h

theorem execShoeConfigure_canonical {k : SquadKey} {n : BitVec 4} {x : DWord} (h : s.Canonical) :
    NextCanonical (execShoeConfigure k n x s) :=
  ite_next (updTeam_canonical h fun _ ht => ht) h

theorem execShoeTakeServe_canonical {t : TeamKey} {n : BitVec 4} {free : Bool} (h : s.Canonical) :
    NextCanonical (execShoeTakeServe t n free s) := by
  unfold execShoeTakeServe
  dsimp only
  split
  · exact h
  · refine ite_next h (settle_canonical (fillU_canonical (updTeam_canonical h fun _ ht => ht)))

theorem execBarSyncCompletion_canonical {k : SquadKey} (h : s.Canonical) : NextCanonical (execBarSyncCompletion k s) := by
  unfold execBarSyncCompletion
  split
  · exact h
  · exact ite_next h (settle_canonical (updSq_canonical h))

theorem execMatrixKStep_canonical {core : Nat} {sqs : List SquadKey} (h : s.Canonical) :
    NextCanonical (execMatrixKStep core sqs s) :=
  foldl_canonical (f := fun t k => kStep core k t) (fun _ _ => kStep_canonical) h

theorem execPowerTokenPass_canonical {die cluster : Nat} (h : s.Canonical) :
    NextCanonical (execPowerTokenPass die cluster s) := by
  unfold execPowerTokenPass
  dsimp only
  split
  · exact h
  · exact updDie_canonical h

theorem execSubarrayPowerGate_canonical {core sub : Nat} (h : s.Canonical) : NextCanonical (execSubarrayPowerGate core sub s) :=
  ite_next h (updCore_canonical h fun _ hc => hc)

theorem execSubarrayWake_canonical {core sub : Nat} (h : s.Canonical) : NextCanonical (execSubarrayWake core sub s) :=
  ite_next h (updCore_canonical h fun _ hc => hc)

theorem execTicketFill_canonical {cmd : Nat} (h : s.Canonical) : NextCanonical (execTicketFill cmd s) := by
  unfold execTicketFill
  split
  · exact h
  · split
    · exact fillTicket_canonical h
    · exact ite_next (fillTicket_canonical h) (ite_next (fillTicket_canonical h)
        (ite_next (applyUnit_canonical h (unitOf_okCanonical h)) h))

theorem execEngineShoePublish_canonical {cmd : Nat} (h : s.Canonical) : NextCanonical (execEngineShoePublish cmd s) := by
  unfold execEngineShoePublish
  split
  · exact h
  · exact ite_next (applyUnit_canonical h (ite_okCanonical (unitDsp_okCanonical h) (unitCpyShoe_okCanonical h))) h

theorem execSingleKeyOperation_canonical {op : KeyOp} (h : s.Canonical) : NextCanonical (execSingleKeyOperation op s) := by
  cases op with
  | sst k => exact settle_canonical (acceptStore_canonical h)
  | read k seq => exact settle_canonical (acceptRead_canonical h)
  | spar cmd => exact acceptInsert_canonical h

/-! ## The scheduler (R96, R340, R342) -/

theorem moveSquad_canonical {k : SquadKey} {place : Option Nat} (h : s.Canonical) : (moveSquad k place s).Canonical := by
  unfold moveSquad
  exact ite_canonical (updSq_canonical h) (updPart_canonical (updSq_canonical h))

theorem exchange_canonical {out into : SquadKey} (h : s.Canonical) : (exchange out into s).Canonical :=
  moveSquad_canonical (moveSquad_canonical h)

theorem toSlow_canonical {core : Nat} {k : SquadKey} (h : s.Canonical) : (toSlow core k s).Canonical := by
  unfold toSlow
  refine ite_canonical (moveSquad_canonical h) ?_
  split
  · exact exchange_canonical h
  · exact h

theorem execSquadDemotion_canonical {k : SquadKey} (h : s.Canonical) : NextCanonical (execSquadDemotion k s) := by
  refine ite_next ?_ h
  dsimp only [NextCanonical]
  split
  · exact toSlow_canonical h
  · exact toSlow_canonical (toSlow_canonical h)

theorem execSquadPromotion_canonical {k : SquadKey} (h : s.Canonical) : NextCanonical (execSquadPromotion k s) := by
  unfold execSquadPromotion
  dsimp only
  split
  · exact ite_next (moveSquad_canonical h) h
  · exact h

theorem promote_canonical {core : Nat} {q : Squad} (h : s.Canonical) : (promote core q s).Canonical := by
  unfold promote
  split
  · exact moveSquad_canonical h
  · split
    · exact h
    · exact ite_canonical (exchange_canonical h) h

theorem rotateIn_canonical {core : Nat} {q : Squad} (h : s.Canonical) : (rotateIn core q s).Canonical := by
  unfold rotateIn
  refine ite_canonical h ?_
  split
  · exact h
  · exact exchange_canonical h

theorem promoteDue_canonical {core : Nat} (h : s.Canonical) : (promoteDue core s).Canonical :=
  foldl_canonical (fun _ _ => rotateIn_canonical) (foldl_canonical (fun _ _ => promote_canonical) h)

theorem startRun_canonical {k : SquadKey} {core : Nat} (h : s.Canonical) : (startRun k core s).Canonical := by
  have turned {f : Core → Core} (hf : ∀ c, (f c).stock = c.stock) : ((s.focus k).updCore core f).Canonical :=
    updCore_canonical (focus_canonical h) fun c hc => by rw [hf]; exact hc
  have := turned (f := fun c => { c with served := some k, turn := (s.getSq k).slot }) fun _ => rfl
  exact ⟨this.mem, this.scratch, this.stock, this.teams, this.cores⟩

theorem execRunIssue_canonical {core : Nat} (h : s.Canonical) : NextCanonical (execRunIssue core s) := by
  unfold execRunIssue
  split
  · exact focus_canonical h
  · dsimp only
    split
    · exact promoteDue_canonical h
    · exact startRun_canonical (promoteDue_canonical h)

theorem releaseSquad_canonical {k : SquadKey} (h : s.Canonical) : (releaseSquad k s).Canonical :=
  updTeam_canonical (updSq_canonical (dropAhead_canonical h)) fun _ ht => ht

theorem closeTeam_canonical {t : TeamKey} {retired : Bool} (h : s.Canonical) : (closeTeam t retired s).Canonical := by
  unfold closeTeam
  exact ite_canonical (updLaunch_canonical (updTeam_canonical h fun _ ht => ht)) h

theorem execSquadRetirement_canonical {k : SquadKey} (h : s.Canonical) : NextCanonical (execSquadRetirement k s) :=
  ite_next (settle_canonical (closeTeam_canonical (releaseSquad_canonical h))) h

theorem withdraw_canonical {k : SquadKey} (h : s.Canonical) : (withdraw k s).Canonical :=
  updTeam_canonical (updSq_canonical h) fun _ ht => ht

theorem execSquadStop_canonical {k : SquadKey} (h : s.Canonical) : NextCanonical (execSquadStop k s) := by
  have withdrawn : (withdraw k s).Canonical := withdraw_canonical h
  have late : ((doLate ((withdraw k s).focus k)).getD (withdraw k s)).Canonical := by
    cases e : doLate ((withdraw k s).focus k) with
    | none => exact withdrawn
    | some t => exact doLate_canonical (focus_canonical withdrawn) t e
  exact ite_next h (ite_next (ite_next (withdraw_canonical (updSq_canonical h)) late)
    (ite_next (ite_next (settle_canonical (closeTeam_canonical (releaseSquad_canonical withdrawn))) withdrawn) h))

/-! ## Page tables and resident pages (R341, R355) -/

theorem putEntry_canonical {a : Nat} {e : DWord} (h : s.Canonical) : (putEntry a e s).Canonical := homeWrite_canonical h

theorem mapFrom_canonical {leaf : DWord} {k tab va : Nat} {fresh : List Nat} (h : s.Canonical) :
    ∀ r ∈ mapFrom leaf k tab va fresh s, r.2.Canonical := by
  induction k generalizing tab fresh s with
  | zero => intro r hr; cases hr
  | succ k ih =>
    intro r hr
    simp only [mapFrom] at hr
    split at hr
    · cases hr
    · exact ih h r hr
    · split at hr
      · cases hr
      · split at hr
        · cases hr; exact putEntry_canonical h
        · split at hr
          · cases hr
          · exact ih (putEntry_canonical (homeWrite_canonical h)) r hr

theorem mapPage_canonical {asid va frame : Nat} {perm : DWord} {fresh : List Nat} (h : s.Canonical) :
    ∀ r ∈ mapPage asid va frame perm fresh s, r.2.Canonical := by
  intro r hr
  obtain ⟨a, -, hr⟩ := Option.bind_eq_some_iff.1 hr
  exact mapFrom_canonical h r hr

theorem makeResident_canonical {asid : Nat} {leases : List (Nat × Nat)} {ps : List ResidentPage} {fresh : List Nat}
    (h : s.Canonical) : ∀ t ∈ makeResident asid leases ps fresh s, t.Canonical := by
  induction ps generalizing fresh s with
  | nil =>
    intro t ht
    simp only [makeResident] at ht
    split at ht
    · cases ht; exact h
    · cases ht
  | cons p r ih =>
    intro t ht
    simp only [makeResident] at ht
    split at ht
    · cases ht; exact h
    · split at ht
      · cases ht
      next e => exact ih (mapPage_canonical h _ e) t ht

theorem resident_canonical {asid : Nat} {leases : List (Nat × Nat)} {r : LaunchRequest} (h : s.Canonical) :
    ∀ t ∈ resident asid leases r s, t.Canonical := by
  intro t ht
  unfold resident at ht
  split at ht
  · cases ht; exact h
  · split at ht
    · exact makeResident_canonical h t ht
    · cases ht

/-! ## Nodes and queue records (R329 to R333, R345) -/

theorem execGraphRegistration_canonical {asid base count : Nat} {form : GraphForm} (h : s.Canonical) :
    NextCanonical (execGraphRegistration asid base count form s) := by
  unfold execGraphRegistration
  split
  · exact h
  · exact updPart_canonical h

theorem fireOnce_canonical {g n : Nat} {jobs : List Nat} (h : s.Canonical) : (fireOnce g jobs n s).Canonical := by
  unfold fireOnce
  split
  · exact h
  · exact updGraph_canonical h

theorem nodeEnded_canonical {g n : Nat} {jobs : List Nat} (h : s.Canonical) : (nodeEnded g n jobs s).Canonical := by
  have counted {f : Graph → Graph} {f' : Job → Job} : (jobs.foldl (fun t j => t.updJob j f') (s.updGraph g f)).Canonical :=
    foldl_canonical (fun _ _ => updJob_canonical) (updGraph_canonical h)
  unfold nodeEnded
  dsimp only
  split
  · exact counted
  · exact fireOnce_canonical (updGraph_canonical counted)

theorem newJob_canonical {g : Graph} {n : Nat} {bs : List Byte} {task : Nat × Nat} (h : s.Canonical) :
    (newJob g n bs task s).2.Canonical := h.same

theorem admitRecord_canonical {g : Graph} {n queue num : Nat} {bs : List Byte} (h : s.Canonical) :
    (admitRecord g n queue num bs s).Canonical := by
  have taken {f : Graph → Graph} : (s.updGraph g.idx f).Canonical := updGraph_canonical h
  have entered {f f' : Graph → Graph} {c : Prop} [Decidable c] : State.Canonical
      (if c then (newJob g n bs (queue, num) (s.updGraph g.idx f)).2.updGraph g.idx f'
        else (newJob g n bs (queue, num) (s.updGraph g.idx f)).2) :=
    ite_canonical (updGraph_canonical (newJob_canonical taken)) (newJob_canonical taken)
  have refused {c : Prop} [Decidable c] {js : List Nat} {e : Ending} {t : State} (ht : t.Canonical) :
      (if c then js.foldl (fun t j => stopJob j e t) t else t).Canonical :=
    ite_canonical (foldl_canonical (fun _ _ => stopJob_canonical) ht) ht
  unfold admitRecord
  dsimp only
  split
  · exact entered
  · exact ite_canonical taken (ite_canonical (refused entered) (ite_canonical (refused taken) (updGraph_canonical taken)))

theorem execQueueRecordTake_canonical {graph node : Nat} (h : s.Canonical) :
    NextCanonical (execQueueRecordTake graph node s) := by
  unfold execQueueRecordTake
  split
  · exact h
  · refine ite_next h ?_
    split
    · exact h
    · exact ite_next (ite_next h (post_canonical (updGraph_canonical h))) (ite_next (updGraph_canonical h)
        (ite_next (updGraph_canonical h) (admitRecord_canonical (walkerWrite_canonical (updGraph_canonical h)))))

theorem submit_canonical {g n : Nat} {jobs : List Nat} {args : Option (List DWord)} {records : List (List Byte)}
    {tasks : List (Nat × Nat)} (h : s.Canonical) : (submit g n jobs args records tasks s).Canonical := h.same

theorem execKernelNodeFire_canonical {graph node : Nat} (h : s.Canonical) : NextCanonical (execKernelNodeFire graph node s) := by
  unfold execKernelNodeFire
  split
  · exact h
  · exact submit_canonical (updGraph_canonical h)

theorem fireRecords_canonical {g : Graph} {node n : Nat} (h : s.Canonical) : (fireRecords g node n s).Canonical :=
  submit_canonical (updGraph_canonical h)

theorem execRecordNodeFire_canonical {graph node : Nat} (h : s.Canonical) : NextCanonical (execRecordNodeFire graph node s) := by
  unfold execRecordNodeFire
  split
  · exact h
  · exact ite_next (fireRecords_canonical h) h

theorem execRecordNodeTimeout_canonical {graph node : Nat} (h : s.Canonical) :
    NextCanonical (execRecordNodeTimeout graph node s) := by
  unfold execRecordNodeTimeout
  split
  · exact h
  · exact ite_next h (fireRecords_canonical h)

theorem execConditionalNodeFire_canonical {graph node : Nat} (h : s.Canonical) :
    NextCanonical (execConditionalNodeFire graph node s) := by
  unfold execConditionalNodeFire
  split
  · exact h
  · dsimp only
    split
    · exact nodeEnded_canonical (updGraph_canonical h)
    · exact fireOnce_canonical (nodeEnded_canonical (updGraph_canonical h))

theorem execWhileNodeFire_canonical {graph node : Nat} (h : s.Canonical) : NextCanonical (execWhileNodeFire graph node s) := by
  unfold execWhileNodeFire
  split
  · exact h
  · refine ite_next ?_ ?_
    · split
      · exact nodeEnded_canonical (updGraph_canonical h)
      · exact fireOnce_canonical (updGraph_canonical (updGraph_canonical h))
    · dsimp only
      split
      · exact nodeEnded_canonical (updGraph_canonical h)
      · exact fireOnce_canonical (nodeEnded_canonical (updGraph_canonical h))

/-! ## Launches and teams (R335 to R341) -/

theorem clearCore_canonical {r : LaunchRec} {core : Nat} (h : s.Canonical) : (clearCore r core s).Canonical :=
  updCore_canonical h fun _ hc => Memory.clear_wf hc _ _

theorem newTeam_wf (l : Launch) (tmid core : Nat) : (newTeam l tmid core).scratch.wf = true :=
  Memory.writeCells_wf Memory.empty_wf _

theorem createSquad_canonical {l : Launch} {core tmid sqid : Nat} (h : s.Canonical) :
    (createSquad l core tmid sqid s).Canonical := by
  unfold createSquad
  dsimp only
  split
  · exact updCore_canonical h.same fun _ hc => hc
  · exact endLaunch_canonical h.same
  · exact endLaunch_canonical h.same
  · exact endLaunch_canonical h.same

theorem addTeam_canonical {t : Team} (h : s.Canonical) (ht : t.scratch.wf = true) :
    ({ s with teams := s.teams ++ [t] } : State).Canonical := by
  refine ⟨h.mem, h.scratch, h.stock, fun u hu => ?_, h.cores⟩
  rcases List.mem_append.1 hu with hu | hu
  · exact h.teams u hu
  · rw [List.mem_singleton.1 hu]; exact ht

theorem startTeam_canonical {lid core : Nat} (h : s.Canonical) : (startTeam lid core s).Canonical :=
  updLaunch_canonical (foldl_canonical (fun _ _ => createSquad_canonical)
    (clearCore_canonical (addTeam_canonical h (newTeam_wf _ _ _))))

theorem startAll_canonical {lid n : Nat} (h : s.Canonical) : ∀ t ∈ startAll lid n s, t.Canonical := by
  induction n generalizing s with
  | zero => intro t ht; cases ht; exact h
  | succ n ih =>
    intro t ht
    simp only [startAll] at ht
    split at ht
    · cases ht
    · exact ih (startTeam_canonical h) t ht

theorem execTeamStart_canonical {lid : Nat} (h : s.Canonical) : NextCanonical (execTeamStart lid s) := by
  refine ite_next h ?_
  split
  · exact h
  · exact startTeam_canonical h

theorem enterStream_canonical {lid asid : Nat} {r : LaunchRec} (h : s.Canonical) : (enterStream lid asid r s).Canonical := by
  have warned {o : Option (Nat × DWord × Nat × Nat)} : State.Canonical (match o with
      | some e => post (streamNote asid lid e.1) s
      | none => s) := by
    cases o with
    | some e => exact post_canonical h
    | none => exact h
  exact ite_canonical h (ite_canonical (updPart_canonical warned) (post_canonical warned))

theorem execLaunchStart_canonical {req : LaunchRequest} (h : s.Canonical) : NextCanonical (execLaunchStart req s) := by
  unfold execLaunchStart
  dsimp only
  split
  · exact h
  · split
    · exact h
    · refine ite_next (foldl_canonical (fun _ _ => stopJob_canonical) (updPart_canonical h)) ?_
      split
      · exact h
      · split
        · exact h
        next m e =>
          have hm : m.Canonical := by
            split at e
            · cases e
            · exact resident_canonical h m e
          split
          · split
            · exact h
            next e => exact startAll_canonical (enterStream_canonical hm.same) _ e
          · exact ite_next h (enterStream_canonical hm.same)

theorem clearLaunch_canonical {l : Launch} (h : s.Canonical) : (clearLaunch l s).Canonical := by
  have shifted : (l.shift.foldl (fun t m => moveClock m.1 (-m.2) t) s).Canonical :=
    foldl_canonical (fun _ _ => updDie_canonical) h
  unfold clearLaunch
  refine updPart_canonical ?_
  refine ⟨shifted.mem, ?_, shifted.stock, fun t ht => shifted.teams t (List.mem_of_mem_filter ht), shifted.cores⟩
  dsimp only
  split
  · rfl
  · exact shifted.scratch

theorem hashPage_canonical {r : HashRequest} {va : Nat} {x : Nat × State} (h : x.2.Canonical) :
    ∀ y ∈ hashPage r va x, y.2.Canonical := by
  intro y hy
  rw [hashPage] at hy
  split at hy
  · cases hy; exact h
  · dsimp only at hy
    split at hy
    · cases hy; exact h
    · split at hy
      · cases hy
      · cases hy
        exact walkerWrite_canonical (countWalker_canonical (countWalker_canonical (clearDirty_canonical h)))

/-- What every step that may fail keeps, the steps keep done one after the other. -/
theorem foldl_bind_forall {α β : Type} {P : α → Prop} {f : β → α → Option α} {l : List β} {x : Option α}
    (hf : ∀ b y, P y → ∀ z ∈ f b y, P z) (hx : ∀ y ∈ x, P y) : ∀ z ∈ l.foldl (fun x b => x.bind (f b)) x, P z := by
  refine l.foldlRecOn (motive := fun x => ∀ z ∈ x, P z) _ hx fun x hx b _ z hz => ?_
  obtain ⟨y, hy, hz⟩ := Option.bind_eq_some_iff.1 hz
  exact hf b y (hx y hy) z hz

theorem firmwareHash_canonical {r : HashRequest} (h : s.Canonical) : ∀ t ∈ firmwareHash r s, t.Canonical := by
  intro t ht
  unfold firmwareHash at ht
  split at ht
  · obtain ⟨y, hy, rfl⟩ := Option.map_eq_some_iff.1 ht
    exact foldl_bind_forall (P := fun y => y.2.Canonical) (fun _ _ => hashPage_canonical) (fun _ e => by cases e; exact h) y hy
  · cases ht; exact h

theorem deliver_canonical {g : Nat} {jobs ns : List Nat} (h : s.Canonical) : (deliver g jobs ns s).Canonical := h.same

theorem execLaunchCompletion_canonical {r : CompletionRequest} (h : s.Canonical) :
    NextCanonical (execLaunchCompletion r s) := by
  unfold execLaunchCompletion
  split
  · exact h
  next l _ =>
    refine ite_next ?_ h
    dsimp only
    split
    · exact h
    next u e =>
      have hu : u.Canonical := by
        cases hr : r.hash with
        | none => rw [hr] at e; cases e; exact h
        | some q => rw [hr] at e; exact firmwareHash_canonical h u e
      have ended {jobs : List Nat} : (nodeEnded l.graph l.node jobs (clearLaunch l u)).Canonical :=
        nodeEnded_canonical (clearLaunch_canonical hu)
      refine ite_next (ite_canonical ended (foldl_canonical (fun _ _ => stopJob_canonical) ended)) (ite_next ended ?_)
      split
      · exact ended
      · exact deliver_canonical ended

theorem execJobCompletion_canonical {job : Nat} (h : s.Canonical) : NextCanonical (execJobCompletion job s) := by
  unfold execJobCompletion
  split
  · exact h
  next x _ =>
    refine ite_next h ?_
    split
    · exact h
    next g _ =>
      have written {c : Prop} [Decidable c] {f : Job → Job} {f' : Part → Part} : State.Canonical
          (if c then (s.updJob job f).updPart f' else walkerWrite g.asid x.cq (completionSlot x) ((s.updJob job f).updPart f')) :=
        ite_canonical h.same (walkerWrite_canonical h.same)
      refine ite_next h ?_
      dsimp only
      split
      · exact written
      · exact ite_next written (updPart_canonical written)

/-! ## Pre-emption (R347 to R352) -/

theorem expireDrain_canonical {t : TeamKey} (h : s.Canonical) : (expireDrain t s).Canonical := h.same

theorem execPreemptionRequest_canonical {lid : Nat} {teams : Option (List Nat)} (h : s.Canonical) :
    NextCanonical (execPreemptionRequest lid teams s) := by
  have asked {l : List TeamKey} : (l.foldl (fun s k => s.updTeam k (fun t => { t with status := .preempting })) s).Canonical :=
    foldl_canonical (fun _ _ ht => updTeam_canonical ht fun _ hx => hx) h
  exact ite_next (foldl_canonical (f := fun s k => expireDrain k s) (fun _ _ => expireDrain_canonical) asked) asked

theorem execDrainLimitExpiry_canonical {t : TeamKey} (h : s.Canonical) : NextCanonical (execDrainLimitExpiry t s) :=
  ite_next (expireDrain_canonical h) h

theorem saveTeam_canonical {t : TeamKey} {copy : Bool} (h : s.Canonical) : (saveTeam t copy s).Canonical :=
  homeWrite_canonical (foldl_canonical (fun _ _ ht => dropAhead_canonical (homeWrite_canonical ht)) h)

theorem countTiles_canonical {t : Team} (h : s.Canonical) : (countTiles t s).Canonical := by
  unfold countTiles
  exact ite_canonical (updPart_canonical h) h

theorem withdrawTakes_canonical {t : TeamKey} (h : s.Canonical) : (withdrawTakes t s).Canonical :=
  updTeam_canonical h fun _ ht => ht

theorem execTeamContextSave_canonical {r : SaveRequest} (h : s.Canonical) : NextCanonical (execTeamContextSave r s) :=
  ite_next (settle_canonical (updTeam_canonical (foldl_canonical (fun _ _ => moveSquad_canonical)
    (countTiles_canonical (withdrawTakes_canonical (saveTeam_canonical h)))) fun _ ht => ht)) h

theorem restoreCore_canonical {t : Team} {core : Nat} (h : s.Canonical) : (restoreCore t s core).Canonical := by
  refine updCore_canonical h fun c hc => ?_
  dsimp only
  split
  · exact Memory.writeBytes_wf hc _ _
  · exact hc

theorem restoreTeam_wf {m : Memory} {core : Nat} {t : Team} (ht : t.scratch.wf = true) :
    (restoreTeam m core t).scratch.wf = true := by
  unfold restoreTeam
  dsimp only
  split
  · exact Memory.writeBytes_wf Memory.empty_wf _ _
  · exact ht

theorem resumeSquad_canonical {core : Nat} {k : SquadKey} (h : s.Canonical) : (resumeSquad core k s).Canonical :=
  updSq_canonical (foldl_canonical (fun _ _ ht => updTeam_canonical ht fun _ hx => hx) h)

theorem execTeamResume_canonical {t : TeamKey} {core : Nat} (h : s.Canonical) : NextCanonical (execTeamResume t core s) := by
  have restored {x : Team} {f : Team → Caches} {m : Memory} :
      (restoreCore x (s.updTeam t (fun y => { restoreTeam m core y with shunned := f y })) core).Canonical :=
    restoreCore_canonical (updTeam_canonical h fun _ => restoreTeam_wf (core := core))
  refine ite_next (settle_canonical ?_) h
  exact foldl_canonical (fun _ _ => resumeSquad_canonical) (foldl_canonical (fun _ _ => updSq_canonical)
    (ite_canonical (focusCore_canonical restored) restored))

/-! ## Translation, migration and promotion (R357 to R361) -/

theorem execPageWalk_canonical {core asid va : Nat} (h : s.Canonical) : NextCanonical (execPageWalk core asid va s) := by
  unfold execPageWalk
  split
  · exact h
  · exact updDie_canonical (updCore_canonical h fun _ hc => hc)

theorem shootDown_canonical {asids : Option (List Nat)} {lo hi : Nat} (h : s.Canonical) : (shootDown asids lo hi s).Canonical := by
  unfold shootDown
  refine updPart_canonical ?_
  exact ⟨h.mem, h.scratch, h.stock, h.teams, map_cores_wf h fun _ hc => hc⟩

theorem shootPage_canonical {asid lo hi : Nat} {leaf : DWord} (h : s.Canonical) : (shootPage asid lo hi leaf s).Canonical :=
  shootDown_canonical h

theorem execShootDown_canonical {asids : Option (List Nat)} {lo hi : Nat} (h : s.Canonical) :
    NextCanonical (execShootDown asids lo hi s) :=
  ite_canonical h (shootDown_canonical h)

theorem settleFrame_canonical {pa n : Nat} (h : s.Canonical) : (settleFrame pa n s).Canonical :=
  foldl_canonical (fun _ _ => foldl_canonical (fun _ _ => drainDieLine_canonical))
    (foldl_canonical (fun _ _ => foldl_canonical (fun _ _ => drainCoreLine_canonical)) h)

theorem copyFrame_canonical {src dst n : Nat} (h : s.Canonical) : (copyFrame src dst n s).Canonical := by
  have settled : (settleFrame src n s).Canonical := settleFrame_canonical h
  unfold copyFrame
  generalize settleFrame src n s = t at settled
  refine updPart_canonical ?_
  exact ⟨Memory.writeCells_wf settled.mem _, settled.scratch, settled.stock, settled.teams, map_cores_wf settled fun _ hc => hc⟩

theorem execMigrationRequest_canonical {asid va frame : Nat} (h : s.Canonical) :
    NextCanonical (execMigrationRequest asid va frame s) := by
  unfold execMigrationRequest
  split
  · exact ite_next h (updPart_canonical (shootPage_canonical (putEntry_canonical h)))
  · exact h

theorem execMigrationCompletion_canonical {asid va : Nat} (h : s.Canonical) :
    NextCanonical (execMigrationCompletion asid va s) := by
  unfold execMigrationCompletion
  split
  · split
    · exact h
    · exact ite_next h (settle_canonical (post_canonical (updPart_canonical (shootPage_canonical (putEntry_canonical
        (copyFrame_canonical h))))))
  · exact h

theorem execPromotion_canonical {die asid va : Nat} (h : s.Canonical) : NextCanonical (execPromotion die asid va s) := by
  have promoted {bs : List Byte} {page top a : Nat} {leaf e : DWord} {t : State} (ht : t.Canonical) :
      (settle (post bs (shootPage asid page top leaf (putEntry a e t)))).Canonical :=
    settle_canonical (post_canonical (shootPage_canonical (putEntry_canonical ht)))
  unfold execPromotion
  dsimp only
  split
  · exact h
  next tab _ =>
    -- the entries of the table are read from memory, which no test below may compute
    generalize (List.range 1024).map (fun i => BitVec.ofNat 64 (dieValue s 0 (tab + 8 * i) 8)) = es
    refine ite_next h (ite_next (promoted h) ?_)
    split
    · exact h
    · exact promoted (updPart_canonical (foldl_canonical (fun _ _ => copyFrame_canonical) h))

/-! ## Accesses from outside (R238, R260, R392 to R394) -/

theorem outerAccess_canonical {pa : Nat} {op : OuterOp} (h : s.Canonical) : (outerAccess pa op s).Canonical := by
  unfold outerAccess
  cases op with
  | read n => exact updPart_canonical h
  | write bs => exact homeWrite_canonical h
  | atomic opn n x => exact updPart_canonical (homeWrite_canonical h)
  | row core shoe bs => exact h

theorem execHostMemoryAccess_canonical {pa : Nat} {op : OuterOp} (h : s.Canonical) :
    NextCanonical (execHostMemoryAccess pa op s) :=
  ite_next h (ite_next (settle_canonical (outerAccess_canonical h)) trivial)

theorem acceptRow_canonical {port core shoe : Nat} {bs : List Byte} (h : s.Canonical) :
    (acceptRow port core shoe bs s).Canonical := by
  unfold acceptRow
  dsimp only
  split
  · exact updPart_canonical h
  · exact ite_canonical h (ite_canonical (updPart_canonical h) (ite_canonical (updPart_canonical (publish_canonical h)) h))

theorem execPeerAccess_canonical {port pa : Nat} {op : OuterOp} (h : s.Canonical) : NextCanonical (execPeerAccess port pa op s) := by
  refine ite_next h ?_
  split
  · exact settle_canonical (acceptRow_canonical h)
  · exact ite_next (settle_canonical (outerAccess_canonical h)) trivial

theorem execLinkPortDown_canonical {port : Nat} (h : s.Canonical) : NextCanonical (execLinkPortDown port s) :=
  ite_next (post_canonical (updPart_canonical (updPart_canonical h))) h

theorem execLinkRetrainComplete_canonical {port : Nat} (h : s.Canonical) : NextCanonical (execLinkRetrainComplete port s) :=
  ite_next h (updPart_canonical h)

theorem setTokens_canonical {x : BitVec 16} (h : s.Canonical) : (setTokens x s).Canonical :=
  foldl_canonical (fun _ _ => updDie_canonical) (updPart_canonical h)

theorem execThrottle_canonical {ntok : BitVec 16} {limit : LimitHit} {clocks : List Nat} (h : s.Canonical) :
    NextCanonical (execThrottle ntok limit clocks s) := by
  have set : (setTokens ntok s).Canonical := setTokens_canonical h
  refine ite_next h (post_canonical (updPart_canonical ?_))
  exact ⟨set.mem, set.scratch, set.stock, set.teams, set.cores⟩

/-! ## Management, trust and debug -/

/-- At reset no place lists a byte (log 1). -/
theorem reset_canonical : State.reset.Canonical :=
  ⟨rfl, rfl, rfl, fun _ h => absurd h List.not_mem_nil, fun _ h => absurd h List.not_mem_nil⟩

theorem execReset_canonical (h : s.Canonical) : NextCanonical (execReset s) :=
  ⟨h.mem, reset_canonical.scratch, reset_canonical.stock, reset_canonical.teams, reset_canonical.cores⟩

theorem execFirmwareReady_canonical (h : s.Canonical) : NextCanonical (execFirmwareReady s) := ite_next (updPart_canonical h) h

theorem execAttestationReport_canonical {nonce : List Byte} (h : s.Canonical) : NextCanonical (execAttestationReport nonce s) :=
  ite_next h (updPart_canonical (updPart_canonical h))

theorem refuseWrite_canonical (h : s.Canonical) : (refuseWrite s).Canonical := h.same

theorem setRing_canonical {base size : DWord} (h : s.Canonical) : (setRing base size s).Canonical :=
  foldl_canonical (fun _ _ => post_canonical) (updPart_canonical h)

theorem execNotificationRingSetup_canonical {base size : DWord} (h : s.Canonical) :
    NextCanonical (execNotificationRingSetup base size s) :=
  ite_next h (ite_next (setRing_canonical h) (refuseWrite_canonical h))

theorem setAsid_canonical {n : Nat} {dword : Fin 4} {x : DWord} (h : s.Canonical) : ∀ t ∈ setAsid n dword x s, t.Canonical := by
  intro t ht
  unfold setAsid at ht
  dsimp only at ht
  split at ht
  · cases ht
  · obtain ⟨e, -, rfl⟩ := Option.map_eq_some_iff.1 ht
    exact updPart_canonical h

theorem guarded_canonical {c : Prop} [Decidable c] {u : State} (hu : u.Canonical) :
    ∀ t ∈ (if c then some u else none), t.Canonical := by
  intro t ht
  split at ht
  · cases ht; exact hu
  · cases ht

theorem mgmtWrite_canonical {r : MgmtReg} {x : DWord} (h : s.Canonical) : ∀ t ∈ mgmtWrite r x s, t.Canonical := by
  cases r with
  | nqsize => exact guarded_canonical (setRing_canonical h)
  | ntok => exact guarded_canonical (setTokens_canonical h)
  | readOnly => intro t ht; cases ht; exact h
  | asid => exact setAsid_canonical h
  | mxgate | promotionPause => intro t ht; cases ht; exact updPart_canonical h
  | _ => exact guarded_canonical (updPart_canonical h)

theorem execMgmtRegisterWrite_canonical {reg : MgmtReg} {x : DWord} (h : s.Canonical) :
    NextCanonical (execMgmtRegisterWrite reg x s) := by
  refine ite_next h ?_
  split
  next e => exact mgmtWrite_canonical h _ e
  · exact refuseWrite_canonical h

theorem execCoreCounterClear_canonical {core : Nat} (h : s.Canonical) : NextCanonical (execCoreCounterClear core s) :=
  ite_next h (updCore_canonical h fun _ hc => hc)

theorem liftStop_canonical {lid : Nat} (h : s.Canonical) : (liftStop lid s).Canonical := by
  have lifted {t : Team} (ht : t.scratch.wf = true) :
      (if t.key.lid = lid then { t with debugStop := false } else t : Team).scratch.wf = true := by
    split <;> exact ht
  refine updLaunch_canonical ?_
  exact ⟨h.mem, lifted h.scratch, h.stock, map_teams_wf h fun _ => lifted, h.cores⟩

theorem execDebugStop_canonical {target : StopTarget} (h : s.Canonical) : NextCanonical (execDebugStop target s) := by
  refine ite_next h ?_
  cases target with
  | launch lid => exact debugStopLaunch_canonical h
  | command c =>
    dsimp only [NextCanonical]
    split
    · exact nameStop_canonical h
    · exact h
  | arm lid on =>
    cases on with
    | true => exact updLaunch_canonical h
    | false => exact liftStop_canonical (updLaunch_canonical h)

theorem execCausalExperiment_canonical {op : ExperimentOp} (h : s.Canonical) : NextCanonical (execCausalExperiment op s) := by
  refine ite_next h ?_
  cases op with
  | start e => exact ite_next (updPart_canonical h) h
  | stop id => exact updPart_canonical h

theorem execWaitForGraphSample_canonical (h : s.Canonical) : NextCanonical (execWaitForGraphSample s) := by
  have posted {l : List (List SquadKey)} {f : List SquadKey → List Byte} : (l.foldl (fun t c => post (f c) t) s).Canonical :=
    foldl_canonical (fun _ _ => post_canonical) h
  exact ite_next h (ite_canonical (updPart_canonical posted) posted)

theorem execRegisterParityFailure_canonical {target : ParityTarget} (h : s.Canonical) :
    NextCanonical (execRegisterParityFailure target s) := by
  refine ite_next h ?_
  cases target with
  | reg k w => exact ite_next (updPart_canonical h) (updSq_canonical h)
  | acc core tile row col => exact updCore_canonical h fun _ hc => hc
  | hbm pa => exact ite_next (updPart_canonical h) h

/-! ## Objects (R373 to R376) -/

theorem mapPages_canonical {asid n va : Nat} {perm : DWord} {bs : List Byte} {x : List Nat × List Nat × State}
    (h : x.2.2.Canonical) : ∀ y ∈ mapPages asid perm n va bs x, y.2.2.Canonical := by
  induction n generalizing va bs x with
  | zero => intro y hy; cases hy; exact h
  | succ n ih =>
    intro y hy
    obtain ⟨frames, fresh, s⟩ := x
    simp only [mapPages] at hy
    split at hy
    · cases hy
    · split at hy
      · cases hy
      next e => exact ih (homeWrite_canonical (mapPage_canonical h _ e)) y hy

theorem writeRegions_canonical {q : LoadRequest} {b : List Byte} (h : s.Canonical) : (writeRegions q b s).Canonical :=
  foldl_canonical (fun _ _ => homeWrite_canonical) h

theorem mapObject_canonical {q : LoadRequest} {b : List Byte} {addr : Nat} (h : s.Canonical) :
    ∀ t ∈ mapObject q b addr s, t.Canonical := by
  intro t ht
  obtain ⟨z, hz, rfl⟩ := Option.map_eq_some_iff.1 ht
  obtain ⟨y, hy, hz⟩ := Option.bind_eq_some_iff.1 hz
  refine mapPages_canonical (foldl_bind_forall (P := fun y => y.2.2.Canonical) (fun _ _ => mapPages_canonical) ?_ y hy) z hz
  intro x hx
  cases hx
  exact h

theorem refuseLoad_canonical {code off : Nat} (h : s.Canonical) : (refuseLoad code off s).Canonical := h.same

theorem execObjectLoad_canonical {req : LoadRequest} (h : s.Canonical) : NextCanonical (execObjectLoad req s) := by
  refine ite_next h ?_
  split
  · exact refuseLoad_canonical h
  · refine ite_next (refuseLoad_canonical h) ?_
    split
    · exact refuseLoad_canonical h
    · refine ite_next h ?_
      split
      · exact h
      next e =>
        split
        · exact refuseLoad_canonical h
        · exact refuseLoad_canonical h
        · exact updPart_canonical (writeRegions_canonical (mapObject_canonical h _ e))

theorem unmapPage_canonical {asid va k : Nat} (h : s.Canonical) : (unmapPage asid va k s).Canonical := by
  induction k generalizing s with
  | zero => exact h
  | succ k ih =>
    rw [unmapPage]
    split
    · exact ite_canonical (putEntry_canonical h) (ih (putEntry_canonical (homeWrite_canonical h)))
    · exact h

theorem unmapPages_canonical {asid n va : Nat} (h : s.Canonical) : (unmapPages asid n va s).Canonical := by
  induction n generalizing va s with
  | zero => exact h
  | succ n ih => exact ih (unmapPage_canonical h)

theorem execObjectUnload_canonical {obj : Nat} (h : s.Canonical) : NextCanonical (execObjectUnload obj s) := by
  unfold execObjectUnload
  split
  · exact h
  · exact ite_next h (updPart_canonical (foldl_canonical (fun _ _ ht => shootDown_canonical (unmapPages_canonical ht))
      (foldl_canonical (fun _ _ ht => ite_canonical ht (homeWrite_canonical ht)) h)))

/-! ## Every instruction, every chain, every step -/

/-- A word is issued with its own effect; an event is no word. -/
theorem exec_word {i : Instr} (hi : isWord i = true) (s : State) : exec i s = issueWord i (ownOf i) s := by
  cases i with
  | matrixKStep | singleKeyOperation | engineShoePublish | ticketFill | barSyncCompletion | shoeConfigure
  | producerWrite | mergeStep | shoeTakeServe | runIssue | squadDemotion | squadPromotion | squadRetirement
  | squadStop | powerTokenPass | subarrayPowerGate | subarrayWake | queueRecordTake | kernelNodeFire | recordNodeFire
  | recordNodeTimeout | conditionalNodeFire | whileNodeFire | launchStart | teamStart | launchCompletion
  | jobCompletion | graphRegistration | preemptionRequest | drainLimitExpiry | teamContextSave | teamResume
  | pageWalk | shootDown | promotion | migrationRequest | migrationCompletion | hostMemoryAccess | peerAccess
  | linkPortDown | throttle | reset | firmwareReady | attestationReport | bootstRead | notificationRingSetup
  | mgmtRegisterWrite | coreCounterClear | objectLoad | objectUnload | debugStop | causalExperiment
  | waitForGraphSample | registerParityFailure | dieL2Acceptance | homeAcceptance | linkRetrainComplete => cases hi
  | _ => rfl

theorem exec_word_canonical {i : Instr} (h : s.Canonical) (hi : isWord i = true) : NextCanonical (exec i s) := by
  rw [exec_word hi]
  exact issueWord_next_canonical h ownOf_keeps

theorem exec_canonical {i : Instr} (h : s.Canonical) : NextCanonical (exec i s) := by
  cases i with
  | matrixKStep => exact execMatrixKStep_canonical h
  | singleKeyOperation => exact execSingleKeyOperation_canonical h
  | engineShoePublish => exact execEngineShoePublish_canonical h
  | ticketFill => exact execTicketFill_canonical h
  | barSyncCompletion => exact execBarSyncCompletion_canonical h
  | shoeConfigure => exact execShoeConfigure_canonical h
  | producerWrite => exact execProducerWrite_canonical h
  | mergeStep => exact execMergeStep_canonical h
  | shoeTakeServe => exact execShoeTakeServe_canonical h
  | runIssue => exact execRunIssue_canonical h
  | squadDemotion => exact execSquadDemotion_canonical h
  | squadPromotion => exact execSquadPromotion_canonical h
  | squadRetirement => exact execSquadRetirement_canonical h
  | squadStop => exact execSquadStop_canonical h
  | powerTokenPass => exact execPowerTokenPass_canonical h
  | subarrayPowerGate => exact execSubarrayPowerGate_canonical h
  | subarrayWake => exact execSubarrayWake_canonical h
  | queueRecordTake => exact execQueueRecordTake_canonical h
  | kernelNodeFire => exact execKernelNodeFire_canonical h
  | recordNodeFire => exact execRecordNodeFire_canonical h
  | recordNodeTimeout => exact execRecordNodeTimeout_canonical h
  | conditionalNodeFire => exact execConditionalNodeFire_canonical h
  | whileNodeFire => exact execWhileNodeFire_canonical h
  | launchStart => exact execLaunchStart_canonical h
  | teamStart => exact execTeamStart_canonical h
  | launchCompletion => exact execLaunchCompletion_canonical h
  | jobCompletion => exact execJobCompletion_canonical h
  | graphRegistration => exact execGraphRegistration_canonical h
  | preemptionRequest => exact execPreemptionRequest_canonical h
  | drainLimitExpiry => exact execDrainLimitExpiry_canonical h
  | teamContextSave => exact execTeamContextSave_canonical h
  | teamResume => exact execTeamResume_canonical h
  | pageWalk => exact execPageWalk_canonical h
  | shootDown => exact execShootDown_canonical h
  | promotion => exact execPromotion_canonical h
  | migrationRequest => exact execMigrationRequest_canonical h
  | migrationCompletion => exact execMigrationCompletion_canonical h
  | hostMemoryAccess => exact execHostMemoryAccess_canonical h
  | peerAccess => exact execPeerAccess_canonical h
  | linkPortDown => exact execLinkPortDown_canonical h
  | throttle => exact execThrottle_canonical h
  | reset => exact execReset_canonical h
  | firmwareReady => exact execFirmwareReady_canonical h
  | attestationReport => exact execAttestationReport_canonical h
  | bootstRead => exact updPart_canonical h
  | notificationRingSetup => exact execNotificationRingSetup_canonical h
  | mgmtRegisterWrite => exact execMgmtRegisterWrite_canonical h
  | coreCounterClear => exact execCoreCounterClear_canonical h
  | objectLoad => exact execObjectLoad_canonical h
  | objectUnload => exact execObjectUnload_canonical h
  | debugStop => exact execDebugStop_canonical h
  | causalExperiment => exact execCausalExperiment_canonical h
  | waitForGraphSample => exact execWaitForGraphSample_canonical h
  | registerParityFailure => exact execRegisterParityFailure_canonical h
  | dieL2Acceptance => exact settle_canonical (acceptFromCore_canonical h)
  | homeAcceptance => exact settle_canonical (acceptFromDie_canonical h)
  | linkRetrainComplete => exact execLinkRetrainComplete_canonical h
  | _ => exact exec_word_canonical h rfl

theorem noted_canonical {is : List Instr} {r : State} {o : Host.Outcome State Fault Refusal} (ho : NextCanonical o) :
    NextCanonical (noted is r o) := by
  cases o with
  | next t => exact noteIssue_canonical ho
  | fault r => trivial
  | refused r => trivial

theorem issueChain_canonical (h : s.Canonical) : NextCanonical (issueChain s) := by
  have fetched {core asid va n : Nat} : (noteFetch core asid va n s).Canonical := noteFetch_canonical h
  unfold issueChain
  split
  · exact takeTrap_canonical h
  · dsimp only
    split
    · split
      · exact noted_canonical (exec_canonical fetched)
      · exact takeTrap_canonical fetched
    · exact issueMany_canonical fetched

theorem continueRun_canonical (h : s.Canonical) : NextCanonical (continueRun s) := by
  refine ite_next (waitHere_canonical h) (ite_next (waitHere_canonical h) (ite_next (waitHere_canonical h) (ite_next ?_
    (issueChain_canonical h))))
  split
  next t e => exact doLate_canonical h t e
  · exact waitHere_canonical h

theorem tick_canonical {o : Host.Outcome State Fault Refusal} (ho : NextCanonical o) : NextCanonical (tick o) := by
  cases o with
  | next t => exact State.Canonical.same (s := t) ho
  | fault r => trivial
  | refused r => trivial

theorem step_canonical (h : s.Canonical) : NextCanonical (step s) := by
  unfold step
  split
  · exact ite_next (tick_canonical h.same) (tick_canonical (exec_canonical h.same))
  · refine ite_next (tick_canonical (continueRun_canonical h)) ?_
    split
    · exact tick_canonical (exec_canonical h)
    · exact tick_canonical h

end

/-- Settles O9: no place lists a byte at reset. -/
theorem resetIsCanonical : Obligations.ResetIsCanonical := reset_canonical

/-- Settles O10: what `step` goes on with is canonical, by the rules above (`step_canonical`). -/
theorem stepKeepsCanonical : Obligations.StepKeepsCanonical := by
  unfold Obligations.StepKeepsCanonical
  intro s t h e
  have ht := step_canonical h
  rw [e] at ht
  exact ht

end Sys2Proof.Machine
end

/-! # System registers and the halt (R23, R24, R138, R139, R217) -/

section
namespace Sys2Proof.Machine

-- One after the other, as above: the check's memory limit bounds the stacks of parallel elaboration.
set_option Elab.async false

section
variable {s : State}

/-! ## A word that completes -/

/-- A word whose own effect is nothing only retires. -/
theorem issued_retire (rb : Bool) (s : State) : Issued s (retire 1 rb s) where
  outside := rfl
  squad := rfl
  retired := retired_retire rb s
  regs := fun o ho _ => ⟨fun l => val_retire 1 rb s o l ho, isFull_retire 1 rb s o⟩
  bytes := ⟨fun _ => rfl, fun _ => rfl, fun _ => rfl⟩

theorem completes_of_done {i : Instr} {own : State → WordOut} {u : State → State} {P : State → Prop} (h : ReadyFor i s)
    (he : exec i s = issueWord i own s) (ho : own s = .done u) (hP : P (u (retire 1 (bit31 i) s))) : Completes i s P :=
  ⟨_, he.trans (issueWord_done h ho), hP⟩

/-! ## The system registers (Tables 1-7, 1-8, 7-4 and 10-5) -/

theorem sysRead_of_cap {n : Nat} {x : DWord} (h : capValue s.part.caps n = some x) : sysRead n s = some x := by
  simp only [sysRead, h]

theorem capValue_step (c : Caps) :
    capValue c 0x100 = some (BitVec.ofNat 64 (0x00020000_4B027E1D + c.step.toNat * 2 ^ 32)) := by
  simp only [capValue, if_true]
  congr 2
  omega

theorem capValue_core (c : Caps) {i : Nat} (h : i < 4) : capValue c (0x101 + i)
    = some (BitVec.ofNat 64 ((vget c.cores i).toNat + popCount (vget c.cores i) * 2 ^ 48)) := by
  have h0 : ¬ 0x101 + i = 0x100 := by omega
  have h1 : 0x101 ≤ 0x101 + i ∧ 0x101 + i ≤ 0x104 := by omega
  simp only [capValue, if_neg h0, if_pos h1, Nat.add_sub_cancel_left]

theorem capValue_channel (c : Caps) {i : Nat} (h : i < 12) : capValue c (0x105 + i) = some (BitVec.ofNat 64
    ((vget c.channels i).toNat + 2 * popCount (vget c.channels i) * 2 ^ 32 + popCount (vget c.channels i) * 2 ^ 56)) := by
  have h0 : ¬ 0x105 + i = 0x100 := by omega
  have h1 : ¬ (0x101 ≤ 0x105 + i ∧ 0x105 + i ≤ 0x104) := by omega
  have h2 : 0x105 ≤ 0x105 + i ∧ 0x105 + i ≤ 0x110 := by omega
  simp only [capValue, if_neg h0, if_neg h1, if_pos h2, Nat.add_sub_cancel_left]

/-- The CAP registers end at 0x112. -/
theorem capValue_none (c : Caps) {n : Nat} (h : n < 0x100 ∨ 0x112 < n) : capValue c n = none := by
  have h0 : ¬ n = 0x100 := by omega
  have h1 : ¬ (0x101 ≤ n ∧ n ≤ 0x104) := by omega
  have h2 : ¬ (0x105 ≤ n ∧ n ≤ 0x110) := by omega
  have h3 : ¬ n = 0x111 := by omega
  have h4 : ¬ n = 0x112 := by omega
  simp only [capValue, if_neg h0, if_neg h1, if_neg h2, if_neg h3, if_neg h4]

theorem sysRead_shoe (k : Fin 16) : sysRead (0x1C0 + k.val) s =
    if s.team.shoeMask.getLsbD k.val then some (vget s.team.shoes k.val).conf else none := by
  have out {m : Nat} (hm : m ∈ [0x140, 0x141, 0x142, 0x143, 0x144, 0x148, 0x149, 0x14A, 0x188, 0x189]) : ¬ 0x1C0 + k.val = m := by
    simp only [List.mem_cons, List.not_mem_nil, or_false] at hm
    omega
  have hin : 0x1C0 + k.val ≤ 0x1CF := by have := k.isLt; omega
  simp [sysRead, capValue_none _ (n := 0x1C0 + k.val) (by omega), hin, out]

/-- A register of the squad, of its core or of the part that any frame may read. -/
theorem sysRead_counter {n : Nat} {x : DWord} (h : (n, x) ∈ [(0x140, s.sq.sqdeal), (0x141, s.sq.sqmisd), (0x142, s.sq.sqheld),
    (0x143, s.sq.sqcall), (0x144, s.sq.sqspill), (0x148, s.core.crdhit), (0x149, s.core.crdmiss), (0x14A, s.core.crmisd),
    (0x188, s.sq.tscr0), (0x189, s.sq.tscr1), (0x1D0, s.part.mxgate)]) : sysRead n s = some x := by
  simp only [List.mem_cons, List.not_mem_nil, or_false] at h
  obtain ⟨rfl, rfl⟩ | ⟨rfl, rfl⟩ | ⟨rfl, rfl⟩ | ⟨rfl, rfl⟩ | ⟨rfl, rfl⟩ | ⟨rfl, rfl⟩ | ⟨rfl, rfl⟩ | ⟨rfl, rfl⟩ | ⟨rfl, rfl⟩
    | ⟨rfl, rfl⟩ | ⟨rfl, rfl⟩ := h
  all_goals rfl

/-- The trap registers are read inside a handler alone (R138). -/
theorem sysRead_trap {n : Nat} {x : DWord} (h : (n, x) ∈ [(0x180, s.sq.th), (0x181, s.sq.tpos), (0x182, s.sq.tem),
    (0x183, s.sq.tcause), (0x184, s.sq.tinfo0), (0x185, s.sq.tinfo1), (0x186, s.sq.tlanes)]) :
    sysRead n s = if inHandler s then some x else none := by
  simp only [List.mem_cons, List.not_mem_nil, or_false] at h
  obtain ⟨rfl, rfl⟩ | ⟨rfl, rfl⟩ | ⟨rfl, rfl⟩ | ⟨rfl, rfl⟩ | ⟨rfl, rfl⟩ | ⟨rfl, rfl⟩ | ⟨rfl, rfl⟩ := h
  all_goals cases hb : inHandler s <;> simp [sysRead, capValue, hb]

/-- A number that Tables 1-7, 7-4 and 10-5 leave unassigned. -/
theorem sysRead_none {n : Nat} (h : n < 0x100 ∨ (0x112 < n ∧ n < 0x140) ∨ (0x144 < n ∧ n < 0x148) ∨ (0x14A < n ∧ n < 0x180)
    ∨ n = 0x187 ∨ (0x189 < n ∧ n < 0x1C0) ∨ 0x1D0 < n) : sysRead n s = none := by
  have hshoe : ¬ (0x1C0 ≤ n ∧ n ≤ 0x1CF) := by omega
  have out {m : Nat} (hm : m ∈ [0x140, 0x141, 0x142, 0x143, 0x144, 0x148, 0x149, 0x14A, 0x180, 0x181, 0x182, 0x183, 0x184, 0x185,
      0x186, 0x188, 0x189, 0x1D0]) : ¬ n = m := by
    simp only [List.mem_cons, List.not_mem_nil, or_false] at hm
    omega
  simp [sysRead, capValue_none _ (n := n) (by omega), hshoe, out]

variable {c : Bool} {d : Opnd} {a b : BitVec 5}

/-! ## SYS.rdsr (R138) -/

/-- SYS.rdsr of a number that names a register. -/
theorem sysRdsr_reads {x : DWord} (h : ReadyFor (.sysRdsr c d a b) s) (hx : sysRead (a ++ b).toNat s = some x) :
    Completes (.sysRdsr c d a b) s fun t => OnlyRegs [d] s t ∧ UniResult d x t := by
  refine completes_of_done (own := ownSysRdsr d a b) (u := fun t => t.onSq (·.putU d x)) h rfl ?_
    (uniform_write h.parity h.poison _ h.wf x)
  simp only [ownSysRdsr, hx]

theorem sysRdsr_fault (h : ReadyFor (.sysRdsr c d a b) s) (hx : sysRead (a ++ b).toNat s = none) :
    Traps (.sysRdsr c d a b) s ⟨0x0A#8, BitVec.ofNat 64 (a ++ b).toNat, 3#64, s.sq.em⟩ := by
  refine trap_completes (own := ownSysRdsr d a b) h rfl ?_
  simp only [ownSysRdsr, hx, sysFault]

/-! ## SYS.wrsr and SHOEn (R138, R217) -/

theorem getTeam_cur (h : s.team.status ≠ .absent) : s.getTeam s.team.key = s.team := by
  simp [State.getTeam, State.findTeam, State.allTeams, h]

theorem cmdNamesShoe_iff {tm : Team} (ht : s.getTeam tm.key = tm) (n : Nat) (c : Cmd) :
    cmdNamesShoe s tm.key n c = true ↔ CommandNames s tm n c := by
  unfold cmdNamesShoe CommandNames
  by_cases h1 : c.fn = 1
  · simp [h1, and_assoc]
  · by_cases h4 : c.fn = 4
    · simp [h4, ht, bits, and_assoc]
    · simp [h1, h4]

theorem shoeRefused_iff {tm : Team} (ht : s.getTeam tm.key = tm) (n : Nat) (x : DWord) :
    shoeRefused s tm.key n x = true ↔ RefusesShoe s tm n x := by
  simp only [shoeRefused, RefusesShoe, ht, shoeBusy, Bool.or_eq_true, Bool.and_eq_true, bne_iff_ne, beq_iff_eq, decide_eq_true_eq,
    Bool.not_eq_true', List.isEmpty_eq_false_iff, List.any_eq_true, cmdNamesShoe_iff ht, or_assoc]
  rfl

theorem reconfigured_of_free (x : DWord) {old : Shoe} (hc : old.ctakes = []) (hp : old.ptakes = []) :
    reconfigured x old = ⟨x, 0, (x.extractLsb' 32 8).toNat, 0, 0, 0, 0, [], []⟩ := by
  simp only [reconfigured, hc, hp]
  rfl

/-- What SYS.wrsr does to a SHOE register of the team. -/
theorem ownSysWrsr_shoe {k : Fin 16} (hn : (a ++ b).toNat = 0x1C0 + k.val) (hm : s.team.shoeMask.getLsbD k.val = true) :
    ownSysWrsr d a b s = if shoeRefused s s.team.key k.val (uval s d) then .trap ⟨0x18#8, BitVec.ofNat 64 k.val, 0#64, s.sq.em⟩
      else .done (fun t => { t with team := { t.team with
        shoes := vset t.team.shoes k.val (reconfigured (uval s d) (vget t.team.shoes k.val)) } }) := by
  have h0 : ¬ 0x1C0 + k.val = 0x188 := by omega
  have h1 : ¬ 0x1C0 + k.val = 0x189 := by omega
  have hin : 0x1C0 + k.val ≤ 0x1CF := by have := k.isLt; omega
  simp [ownSysWrsr, hn, h0, h1, hin, hm]

/-- A write of SHOEn of the squad's team that is not refused. -/
theorem sysWrsr_shoe {k : Fin 16} (h : ReadyFor (.sysWrsr c d a b) s) (hn : (a ++ b).toNat = 0x1C0 + k.val)
    (hm : s.team.shoeMask.getLsbD k.val = true) (hs : s.team.status ≠ .absent) (hr : ¬ RefusesShoe s s.team k.val (uval s d)) :
    Completes (.sysWrsr c d a b) s fun t => ∃ r, Issued s r ∧ t = { r with team := { r.team with shoes :=
      (vset r.team.shoes k.val ⟨uval s d, 0, ((uval s d).extractLsb' 32 8).toNat, 0, 0, 0, 0, [], []⟩) } } := by
  have hf : ¬ shoeRefused s s.team.key k.val (uval s d) = true := by rw [shoeRefused_iff (getTeam_cur hs)]; exact hr
  have ⟨hct, hpt⟩ : (vget s.team.shoes k.val).ctakes = [] ∧ (vget s.team.shoes k.val).ptakes = [] := by
    simp only [RefusesShoe, not_or, not_not] at hr
    obtain ⟨-, -, -, -, hct, hpt, -⟩ := hr
    exact ⟨hct, hpt⟩
  refine completes_of_done (own := ownSysWrsr d a b) h rfl ((ownSysWrsr_shoe hn hm).trans (if_neg hf))
    ⟨retire 1 (bit31 (.sysWrsr c d a b)) s, issued_retire _ s, ?_⟩
  simp only [retire_team, reconfigured_of_free _ hct hpt]

theorem sysWrsr_shoeRefused {k : Fin 16} (h : ReadyFor (.sysWrsr c d a b) s) (hn : (a ++ b).toNat = 0x1C0 + k.val)
    (hm : s.team.shoeMask.getLsbD k.val = true) (hs : s.team.status ≠ .absent) (hr : RefusesShoe s s.team k.val (uval s d)) :
    Traps (.sysWrsr c d a b) s ⟨0x18#8, BitVec.ofNat 64 k.val, 0#64, s.sq.em⟩ :=
  trap_completes (own := ownSysWrsr d a b) h rfl
    ((ownSysWrsr_shoe hn hm).trans (if_pos ((shoeRefused_iff (getTeam_cur hs) k.val (uval s d)).2 hr)))

/-- Any other number is not writable (R138). -/
theorem sysWrsr_fault (h : ReadyFor (.sysWrsr c d a b) s) (h0 : (a ++ b).toNat ≠ 0x188) (h1 : (a ++ b).toNat ≠ 0x189)
    (hk : ∀ k : Fin 16, (a ++ b).toNat = 0x1C0 + k.val → s.team.shoeMask.getLsbD k.val = false) :
    Traps (.sysWrsr c d a b) s ⟨0x0A#8, BitVec.ofNat 64 (a ++ b).toNat, 3#64, s.sq.em⟩ := by
  have hshoe : ¬ (0x1C0 ≤ (a ++ b).toNat ∧ (a ++ b).toNat ≤ 0x1CF ∧ s.team.shoeMask.getLsbD ((a ++ b).toNat - 0x1C0) = true) := by
    rintro ⟨hl, hu, hm⟩
    have := hk ⟨(a ++ b).toNat - 0x1C0, by omega⟩ (by simp only; omega)
    simp only [hm] at this
    cases this
  refine trap_completes (own := ownSysWrsr d a b) h rfl ?_
  simp only [ownSysWrsr, if_neg h0, if_neg h1, if_neg hshoe, sysFault]

/-! ## SYS.halt (R139) -/

/-- A running launch that stands beside the current squad ends. -/
theorem endLaunch_cur {lid : Nat} (e : Ending) (hl : s.launch.lid = lid) (hr : s.launch.status = .running) :
    endLaunch lid e s = { s with
      launch := { s.launch with status := .stopping, ending := e },
      cmds := s.cmds.map (fun c => if c.k.lid = lid then { c with cancelled := true } else c) } := by
  have hc : s.isCurLaunch lid = true := by simp [State.isCurLaunch, hl, hr]
  simp only [endLaunch, State.updLaunch, hc, if_true, hr]

theorem sysHalt_ends (h : ReadyFor (.sysHalt c) s) (hem : s.sq.em ≠ 0#32) (hl : s.launch.lid = s.sq.key.lid)
    (hr : s.launch.status = .running) : Completes (.sysHalt c) s fun t => ∃ r, Issued s r ∧ t = { r with
      sq := { r.sq with status := .stopped, running := false, runPkts := [], wait := none, sst := none, syncw := none, late := [] }
      launch := { s.launch with status := .stopping, ending := ⟨4, 0, BitVec.ofNat 64 (s.sq.key.tmid * s.launch.lr.nsq + s.sq.key.sqid),
        BitVec.ofNat 64 (s.sq.pkt % 2 ^ 32 + s.sq.word * 2 ^ 32)⟩ }
      cmds := s.cmds.map (fun k => if k.k.lid = s.sq.key.lid then { k with cancelled := true } else k) } := by
  refine completes_of_done (own := ownSysHalt) h rfl (if_neg hem) ⟨retire 1 (bit31 (.sysHalt c)) s, issued_retire _ s, ?_⟩
  rw [stopSquad, endLaunch_cur (s := retire 1 (bit31 (.sysHalt c)) s) _ hl hr]
  rfl

end

/-- Settles O51, word by word from the lemmas above. -/
theorem systemWords : Obligations.SystemWords := by
  unfold Obligations.SystemWords
  intro c d a b s n
  refine ⟨fun x h hx => sysRdsr_reads h hx, fun h hx => sysRdsr_fault h hx, fun k x h => sysRead_counter h, ⟨?_, ?_, ?_, ?_, ?_⟩,
    sysRead_shoe, fun k h => sysRead_none h, fun k x h => sysRead_trap h, ?_, ?_, fun k h hn hm hs =>
    ⟨sysWrsr_shoe h hn hm hs, sysWrsr_shoeRefused h hn hm hs⟩, sysWrsr_fault, ?_, sysHalt_ends⟩
  case refine_1 => exact sysRead_of_cap (capValue_step _)
  case refine_2 => exact fun i hi => sysRead_of_cap (capValue_core _ hi)
  case refine_3 => exact fun i hi => sysRead_of_cap (capValue_channel _ hi)
  case refine_4 => exact sysRead_of_cap rfl
  case refine_5 => exact sysRead_of_cap rfl
  case refine_6 =>
    intro h hn
    exact completes_of_done (own := ownSysWrsr d a b) h rfl (if_pos hn) ⟨_, issued_retire _ s, rfl⟩
  case refine_7 =>
    intro h hn
    refine completes_of_done (own := ownSysWrsr d a b) (u := fun t => t.onSq (fun q => { q with tscr1 := uval s d })) h rfl ?_
      ⟨_, issued_retire _ s, rfl⟩
    rw [ownSysWrsr, if_neg (by omega), if_pos hn]
  case refine_8 => exact fun h hem => completes_of_done (own := ownSysHalt) h rfl (if_pos hem) (issued_retire _ s)

end Sys2Proof.Machine
end

/-! # Reset, boot, reports and the management window (R388, R389, R396, R397) -/

section
namespace Sys2Proof.Machine

-- One after the other, as above: the check's memory limit bounds the stacks of parallel elaboration.
set_option Elab.async false

section
variable {s : State}

theorem failed_iff : failed s = true ↔ s.part.bootst = 0xF#4 := by simp [failed]

theorem failed_eq_false (h : s.part.bootst ≠ 0xF#4) : failed s = false := by simp [failed, h]

/-! ## Reset, boot and reports -/

/-- What a reset clears and keeps. -/
theorem reset_completes (s : State) : Completes .reset s fun t => t.sq = State.reset.sq ∧ t.squads = [] ∧ t.teams = []
    ∧ t.launches = [] ∧ t.cmds = [] ∧ t.part.nqsize = 0#64 ∧ t.part.ntok = 0x3333#16 ∧ t.part.lcopol = 0#2 ∧ t.part.asids = []
    ∧ t.part.objs = [] ∧ t.part.lifetime = s.part.lifetime ∧ t.part.histograms = s.part.histograms ∧ t.part.hour = s.part.hour
    ∧ t.part.identityLeft = s.part.identityLeft ∧ t.part.attestLeft = s.part.attestLeft
    ∧ (t.part.bootst = 2#4 ∨ t.part.bootst = 0xF#4) ∧ t.mem = s.mem := by
  refine ⟨_, rfl, rfl, rfl, rfl, rfl, rfl, rfl, rfl, rfl, rfl, rfl, rfl, rfl, rfl, rfl, rfl, ?_, rfl⟩
  exact ite_eq_or_eq (Config.firmwareGood = true) 2#4 0xF#4

theorem freshKey_attestLeft (p : Part) : (freshKey p).attestLeft = if p.attestLeft = 0 then 1024 else p.attestLeft := by
  unfold freshKey; split <;> rfl

theorem freshKey_identityLeft (p : Part) :
    (freshKey p).identityLeft = if p.attestLeft = 0 then p.identityLeft - 1 else p.identityLeft := by
  unfold freshKey; split <;> rfl

/-- A fresh attestation key changes the state of the two trees alone. -/
theorem freshKey_only (p : Part) :
    freshKey p = { p with attestLeft := (freshKey p).attestLeft, identityLeft := (freshKey p).identityLeft } := by
  unfold freshKey; split <;> rfl

/-- A report names the part's state and uses up one leaf (R397). -/
theorem attestationReport_completes {nonce : List Byte} (hb : s.part.bootst = 3#4) (hn : nonce.length = 32)
    (hl : s.part.attestLeft ≠ 0 ∨ s.part.identityLeft ≠ 0) : Completes (.attestationReport nonce) s fun t =>
      t.part.attestLeft = (if s.part.attestLeft = 0 then 1024 else s.part.attestLeft) - 1
      ∧ t.part.identityLeft = (if s.part.attestLeft = 0 then s.part.identityLeft - 1 else s.part.identityLeft)
      ∧ (∃ sig, sig.length = 8 ∧ t.part.attestation =
          toBytes 32 Config.firmwareDigest.toNat ++ toBytes 4 s.part.fwver.toNat ++ capBytes s.part.caps ++ nonce ++ sig)
      ∧ t = { s with part := { s.part with
          attestLeft := t.part.attestLeft, identityLeft := t.part.identityLeft, attestation := t.part.attestation } } := by
  have hgo : (s.part.bootst != 3#4 || nonce.length != 32 || (s.part.attestLeft == 0 && s.part.identityLeft == 0)) = false := by
    simpa [hb, hn, or_iff_not_imp_left] using hl
  refine ⟨_, if_neg (by rw [hgo]; decide), ?_, freshKey_identityLeft _, ⟨_, length_toBytes 8 _, rfl⟩, ?_⟩
  · exact congrArg (· - 1) (freshKey_attestLeft _)
  · simp only [State.updPart]
    rw [freshKey_only s.part]

/-! ## Reading the window (R388, R389) -/

theorem bootstValue_toNat (p : Part) :
    (bootstValue p).toNat = p.bootst.toNat + p.fwver.toNat * 2 ^ 16 + (if p.badWrite then 2 ^ 63 else 0) := by
  have hb := p.bootst.isLt
  have hf := p.fwver.isLt
  refine Nat.mod_eq_of_lt ?_
  split <;> omega

theorem bootstValue_fields (p : Part) : (bootstValue p).getLsbD 63 = p.badWrite
    ∧ (bootstValue p).extractLsb' 0 4 = p.bootst ∧ (bootstValue p).extractLsb' 16 32 = p.fwver := by
  have hb := p.bootst.isLt
  have hf := p.fwver.isLt
  refine ⟨?_, BitVec.eq_of_toNat_eq ?_, BitVec.eq_of_toNat_eq ?_⟩
  · rw [← BitVec.testBit_toNat, bootstValue_toNat, Nat.testBit_eq_decide_div_mod_eq]
    cases p.badWrite
    · exact decide_eq_false (by rw [if_neg Bool.false_ne_true]; omega)
    · exact decide_eq_true (by rw [if_pos rfl]; omega)
  · rw [BitVec.extractLsb'_toNat, bootstValue_toNat, Nat.shiftRight_eq_div_pow]
    split <;> omega
  · rw [BitVec.extractLsb'_toNat, bootstValue_toNat, Nat.shiftRight_eq_div_pow]
    split <;> omega

/-- The CAP mirror starts at offset 0x800. -/
theorem windowValue_cap {p : Part} {n : Nat} {x : DWord} (h : capValue p.caps (0x100 + n) = some x) :
    windowValue p (0x800 + 8 * n) = x := by
  have out {m : Nat} (hm : m ∈ [0, 0x100, 0x108, 0x110, 0x118, 0x120, 0x200, 0x400, 0x408, 0x410, 0x418]) :
      ¬ 0x800 + 8 * n = m := by
    simp only [List.mem_cons, List.not_mem_nil, or_false] at hm
    omega
  have hkey : ¬ 0x800 + 8 * n < 0x400 := by omega
  have hmod : (0x800 + 8 * n) % 8 = 0 := by omega
  simp [windowValue, out, hkey, hmod, h]

/-! ## The notification ring (R389, R390) -/

theorem baseOf_eq (x : DWord) : baseOf x = BitVec.ofNat 64 (x.toNat % 2 ^ 52) := by
  apply BitVec.eq_of_toNat_eq
  simp [baseOf]

theorem sizeLegal_iff (x : DWord) : sizeLegal x = true ↔ ∃ i, i ≤ 10 ∧ x.toNat = 64 * 2 ^ i := by
  simp only [sizeLegal, List.contains_iff_mem, List.mem_map, List.mem_range, Nat.lt_succ_iff]
  exact exists_congr fun i => and_congr_right fun _ => eq_comm

theorem ringFree_iff (p : Part) : ringFree p = true ↔ p.nqsize = 0#64 ∨ p.nqtail = p.nqhead := by
  simp [ringFree]

theorem baseLegal_iff (s : State) (x : DWord) :
    baseLegal s x = true ↔ (baseOf x).toNat % 4096 = 0 ∧ placed s (baseOf x).toNat 4096 = true := by
  simp [baseLegal]

/-- While a ring stands, a posted record leaves where it stands and the held records. -/
theorem post_ring (bs : List Byte) (h : s.part.nqsize ≠ 0#64) : (post bs s).part.nqsize = s.part.nqsize
    ∧ (post bs s).part.nqbase = s.part.nqbase ∧ (post bs s).part.held = s.part.held := by
  unfold post
  rw [if_neg h]
  split <;> exact ⟨rfl, rfl, rfl⟩

theorem foldl_post_ring (l : List (List Byte)) (h : s.part.nqsize ≠ 0#64) :
    (l.foldl (fun t r => post r t) s).part.nqsize = s.part.nqsize
    ∧ (l.foldl (fun t r => post r t) s).part.nqbase = s.part.nqbase ∧ (l.foldl (fun t r => post r t) s).part.held = s.part.held := by
  induction l generalizing s with
  | nil => exact ⟨rfl, rfl, rfl⟩
  | cons r l ih =>
    obtain ⟨hs, hb, hh⟩ := post_ring r h
    obtain ⟨hs', hb', hh'⟩ := ih (s := post r s) (by rw [hs]; exact h)
    exact ⟨hs'.trans hs, hb'.trans hb, hh'.trans hh⟩

/-- A record posted to an empty ring that no closed port hides stands at the tail. -/
theorem post_empty {bs : List Byte} (h : s.part.nqsize ≠ 0#64) (he : s.part.nqtail = s.part.nqhead) (hw : s.mem.wf = true)
    (hp : ∀ p ∈ portsOf s (s.part.nqbase.toNat + 32 * (s.part.nqtail.toNat % s.part.nqsize.toNat)) 32, portUp s p = true) :
    (post bs s).part.nqtail = s.part.nqtail + 1#64
    ∧ Stored (namedCells s (s.part.nqbase.toNat + 32 * (s.part.nqtail.toNat % s.part.nqsize.toNat)) bs) s.mem (post bs s).mem := by
  have hroom : s.part.nqtail - s.part.nqhead ≠ s.part.nqsize := by rw [he, BitVec.sub_self]; exact h.symm
  have hup := List.all_eq_true.2 hp
  unfold post
  simp only [h, hroom, hup, if_false, Bool.not_true, decide_false, Bool.or_self, Bool.false_eq_true]
  exact ⟨rfl, fun a => Memory.read_writeCells hw _ a⟩

/-- A new ring takes effect, and the held records go into it. -/
theorem setRing_ring {base size : DWord} (h : size ≠ 0#64) : (setRing base size s).part.nqsize = size
    ∧ (setRing base size s).part.nqbase = base ∧ (setRing base size s).part.held = [] :=
  foldl_post_ring (s := s.updPart fun p => { p with nqbase := base, nqsize := size, held := [] }) s.part.held h

theorem size_ne_zero {size : DWord} (h : ∃ i, i ≤ 10 ∧ size.toNat = 64 * 2 ^ i) : size ≠ 0#64 := by
  rintro rfl
  obtain ⟨i, -, hi⟩ := h
  simp at hi

theorem ringSetup_eq (hb : s.part.bootst ≠ 0xF#4) (base size : DWord) : exec (.notificationRingSetup base size) s =
    if baseLegal s base && sizeLegal size && ringBacked s (baseOf base) size && ringFree s.part
    then .next (setRing (baseOf base) size s) else .next (refuseWrite s) :=
  if_neg (by simp [failed_eq_false hb])

/-- The conditions of R389 on a ring, as the statement writes them out (log 43). -/
def RingOk (s : State) (b size : DWord) : Prop :=
  b.toNat % 4096 = 0 ∧ placed s b.toNat 4096 = true ∧ placed s b.toNat (32 * size.toNat) = true
    ∧ (∃ i, i ≤ 10 ∧ size.toNat = 64 * 2 ^ i) ∧ (s.part.nqsize = 0#64 ∨ s.part.nqtail = s.part.nqhead)

theorem ringOk_iff (base size : DWord) :
    (baseLegal s base && sizeLegal size && ringBacked s (baseOf base) size && ringFree s.part) = true ↔ RingOk s (baseOf base) size := by
  simp only [Bool.and_eq_true, baseLegal_iff, sizeLegal_iff, ringFree_iff, ringBacked, RingOk]
  exact ⟨fun ⟨⟨⟨⟨hal, hp⟩, hn⟩, hr⟩, hf⟩ => ⟨hal, hp, hr, hn, hf⟩, fun ⟨hal, hp, hr, hn, hf⟩ => ⟨⟨⟨⟨hal, hp⟩, hn⟩, hr⟩, hf⟩⟩

theorem ringSetup_legal (hb : s.part.bootst ≠ 0xF#4) {base size : DWord} (hok : RingOk s (baseOf base) size) :
    Completes (.notificationRingSetup base size) s fun t => t.part.nqbase = baseOf base ∧ windowValue t.part 0x100 = baseOf base
      ∧ t.part.nqsize = size ∧ t.part.held = [] ∧ (s.part.held = [] → t.mem = s.mem)
      ∧ (∀ r, s.part.held = [r] → s.part.nqtail = s.part.nqhead → s.mem.wf = true →
          (∀ p ∈ portsOf s ((baseOf base).toNat + 32 * (s.part.nqtail.toNat % size.toNat)) 32, portUp s p = true) →
          t.part.nqtail = s.part.nqtail + 1#64
          ∧ Stored (namedCells s ((baseOf base).toNat + 32 * (s.part.nqtail.toNat % size.toNat)) r) s.mem t.mem) := by
  have ⟨_, _, _, hsize, _⟩ := hok
  have hz := size_ne_zero hsize
  obtain ⟨hs, hnb, hh⟩ := setRing_ring (s := s) (base := baseOf base) hz
  refine ⟨_, (ringSetup_eq hb base size).trans (if_pos ((ringOk_iff base size).2 hok)), hnb, hnb, hs, hh, fun he => ?_,
    fun r hr he hw hp => ?_⟩
  · simp only [setRing, he]; rfl
  · simp only [setRing, hr]
    exact post_empty (s := s.updPart fun p => { p with nqbase := baseOf base, nqsize := size, held := [] }) hz he hw hp

theorem ringSetup_illegal (hb : s.part.bootst ≠ 0xF#4) {base size : DWord} (hok : ¬ RingOk s (baseOf base) size) :
    exec (.notificationRingSetup base size) s = .next (refuseWrite s) :=
  (ringSetup_eq hb base size).trans (if_neg (mt (ringOk_iff base size).1 hok))

/-! ## Writes of the registers (R388) -/

theorem mgmtWrite_none (hb : s.part.bootst ≠ 0xF#4) {r : MgmtReg} {x : DWord} (h : mgmtWrite r x s = none) :
    exec (.mgmtRegisterWrite r x) s = .next (refuseWrite s) := by
  show execMgmtRegisterWrite r x s = _
  simp only [execMgmtRegisterWrite, failed_eq_false hb, Bool.false_eq_true, if_false, h]

theorem mgmtWrite_some (hb : s.part.bootst ≠ 0xF#4) {r : MgmtReg} {x : DWord} {t : State} (h : mgmtWrite r x s = some t) :
    exec (.mgmtRegisterWrite r x) s = .next t := by
  show execMgmtRegisterWrite r x s = _
  simp only [execMgmtRegisterWrite, failed_eq_false hb, Bool.false_eq_true, if_false, h]

/-- A register that a legal write sets, and whose other writes are refused: what `mgmtWrite` guards with `c`, the statement
writes out as `P`. -/
theorem guarded_write (hb : s.part.bootst ≠ 0xF#4) {r : MgmtReg} {x : DWord} {t : State} {c : Bool} {P : Prop}
    (h : mgmtWrite r x s = if c then some t else none) (hc : c = true ↔ P) :
    (P → exec (.mgmtRegisterWrite r x) s = .next t)
    ∧ (¬ P → exec (.mgmtRegisterWrite r x) s = .next (refuseWrite s)) :=
  ⟨fun hP => mgmtWrite_some hb (h.trans (if_pos (hc.2 hP))), fun hP => mgmtWrite_none hb (h.trans (if_neg (mt hc.1 hP)))⟩

theorem ofNat_mod_two_pow (x : DWord) (k : Nat) : BitVec.ofNat 64 (x.toNat % 2 ^ k) = (x.extractLsb' 0 k).setWidth 64 := by
  apply BitVec.eq_of_toNat_eq
  simp

theorem write_drain (hb : s.part.bootst ≠ 0xF#4) (x : DWord) : (x.toNat % 2 ^ 21 ≤ 2 ^ 20 → exec (.mgmtRegisterWrite .drain x) s =
      .next { s with part := { s.part with drain := BitVec.ofNat 64 (x.toNat % 2 ^ 21) } })
    ∧ (¬ x.toNat % 2 ^ 21 ≤ 2 ^ 20 → exec (.mgmtRegisterWrite .drain x) s = .next (refuseWrite s)) := by
  rw [ofNat_mod_two_pow]
  exact guarded_write hb rfl decide_eq_true_iff

theorem write_mxgate (hb : s.part.bootst ≠ 0xF#4) (x : DWord) : exec (.mgmtRegisterWrite .mxgate x) s =
    .next { s with part := { s.part with mxgate := BitVec.ofNat 64 (x.toNat % 2 ^ 16) } } := by
  rw [ofNat_mod_two_pow]
  exact mgmtWrite_some hb rfl

theorem write_pcap (hb : s.part.bootst ≠ 0xF#4) (x : DWord) : (600 ≤ x.toNat ∧ x.toNat ≤ 2400 →
      exec (.mgmtRegisterWrite .pcap x) s = .next { s with part := { s.part with pcap := x } })
    ∧ (¬ (600 ≤ x.toNat ∧ x.toNat ≤ 2400) → exec (.mgmtRegisterWrite .pcap x) s = .next (refuseWrite s)) :=
  guarded_write hb rfl (by simp)

/-- The ownership policy and its keys change until bit 1 of the policy locks them. -/
theorem write_lcopol (hb : s.part.bootst ≠ 0xF#4) (x : DWord) : (s.part.lcopol.getLsbD 1 = false →
      exec (.mgmtRegisterWrite .lcopol x) s = .next { s with part := { s.part with lcopol := x.setWidth 2 } })
    ∧ (¬ s.part.lcopol.getLsbD 1 = false → exec (.mgmtRegisterWrite .lcopol x) s = .next (refuseWrite s)) :=
  guarded_write hb rfl (by simp)

theorem write_lcokey (hb : s.part.bootst ≠ 0xF#4) (n : Fin 8) (d : Fin 4) (x : DWord) : (s.part.lcopol.getLsbD 1 = false →
      exec (.mgmtRegisterWrite (.lcokey n d) x) s = .next { s with part := { s.part with
        lcokeys := vset s.part.lcokeys n.val (vset (vget s.part.lcokeys n.val) d.val x) } })
    ∧ (¬ s.part.lcopol.getLsbD 1 = false →
      exec (.mgmtRegisterWrite (.lcokey n d) x) s = .next (refuseWrite s)) :=
  guarded_write hb rfl (by simp)

theorem write_nqhead (hb : s.part.bootst ≠ 0xF#4) (x : DWord) : ((s.part.nqtail - x).toNat ≤ (s.part.nqtail - s.part.nqhead).toNat →
      exec (.mgmtRegisterWrite .nqhead x) s = .next { s with part := { s.part with nqhead := x } })
    ∧ (¬ (s.part.nqtail - x).toNat ≤ (s.part.nqtail - s.part.nqhead).toNat →
      exec (.mgmtRegisterWrite .nqhead x) s = .next (refuseWrite s)) :=
  guarded_write hb rfl decide_eq_true_iff

theorem write_nqbase (hb : s.part.bootst ≠ 0xF#4) (x : DWord) :
    let b : DWord := BitVec.ofNat 64 (x.toNat % 2 ^ 52)
    let ok := b.toNat % 4096 = 0 ∧ placed s b.toNat 4096 = true ∧ placed s b.toNat (32 * s.part.nqsize.toNat) = true
      ∧ (s.part.nqsize = 0#64 ∨ s.part.nqtail = s.part.nqhead)
    (ok → exec (.mgmtRegisterWrite .nqbase x) s = .next { s with part := { s.part with nqbase := b } })
    ∧ (¬ ok → exec (.mgmtRegisterWrite .nqbase x) s = .next (refuseWrite s)) := by
  rw [← baseOf_eq]
  refine guarded_write hb rfl ?_
  simp only [Bool.and_eq_true, baseLegal_iff, ringFree_iff, ringBacked, and_assoc]

/-- A write of NQSIZE sets the ring up again at its base. -/
theorem write_nqsize (hb : s.part.bootst ≠ 0xF#4) (x : DWord) (hlt : s.part.nqbase.toNat < 2 ^ 52) (hal : s.part.nqbase.toNat % 4096 = 0)
    (hp : placed s s.part.nqbase.toNat 4096 = true) :
    exec (.mgmtRegisterWrite .nqsize x) s = exec (.notificationRingSetup s.part.nqbase x) s := by
  have hbase : baseOf s.part.nqbase = s.part.nqbase := by rw [baseOf_eq, Nat.mod_eq_of_lt hlt, BitVec.ofNat_toNat, BitVec.setWidth_eq]
  have hlegal : baseLegal s s.part.nqbase = true := by rw [baseLegal_iff, hbase]; exact ⟨hal, hp⟩
  rw [ringSetup_eq hb, hbase, hlegal, Bool.true_and]
  split
  next h => exact mgmtWrite_some hb (if_pos h)
  next h => exact mgmtWrite_none hb (if_neg h)

theorem write_window (hb : s.part.bootst ≠ 0xF#4) (base len : Nat) (port : Option Nat) (peer : Nat) (x : DWord) :
    let ok := 2 ^ 40 ≤ base ∧ base + len ≤ 2 ^ 52 ∧ peer + len ≤ 2 ^ 52
    (ok → exec (.mgmtRegisterWrite (.window base len port peer) x) s = .next { s with part := { s.part with
      windows := s.part.windows.filter (·.base != base) ++ (if len = 0 then [] else [⟨base, len, port, peer⟩]) } })
    ∧ (¬ ok → exec (.mgmtRegisterWrite (.window base len port peer) x) s = .next (refuseWrite s)) :=
  guarded_write hb rfl (by simp [and_assoc])

theorem write_contextPool (hb : s.part.bootst ≠ 0xF#4) (base len : Nat) (x : DWord) :
    (base + len ≤ hbmBytes s.part.caps → exec (.mgmtRegisterWrite (.contextPool base len) x) s =
      .next { s with part := { s.part with ctxPool := s.part.ctxPool ++ [(base, len)] } })
    ∧ (¬ base + len ≤ hbmBytes s.part.caps →
      exec (.mgmtRegisterWrite (.contextPool base len) x) s = .next (refuseWrite s)) :=
  guarded_write hb rfl decide_eq_true_iff

theorem write_promotionFrame (hb : s.part.bootst ≠ 0xF#4) (pa : Nat) (x : DWord) :
    let ok := pa % 2 ^ 26 = 0 ∧ inHbm s pa (2 ^ 26) = true
    (ok → exec (.mgmtRegisterWrite (.promotionFrame pa) x) s = .next { s with part := { s.part with promoPool := s.part.promoPool ++ [pa] } })
    ∧ (¬ ok → exec (.mgmtRegisterWrite (.promotionFrame pa) x) s = .next (refuseWrite s)) :=
  guarded_write hb rfl (by simp only [Bool.and_eq_true, decide_eq_true_eq])

theorem write_portAsid (hb : s.part.bootst ≠ 0xF#4) (port : Nat) (x : DWord) :
    let ok := port < 16 ∧ x.toNat < 1024
    (ok → exec (.mgmtRegisterWrite (.portAsid port) x) s = .next { s with part := { s.part with
      portAsids := (port, x.toNat) :: s.part.portAsids.filter (·.1 != port) } })
    ∧ (¬ ok → exec (.mgmtRegisterWrite (.portAsid port) x) s = .next (refuseWrite s)) :=
  guarded_write hb rfl (by simp only [Bool.and_eq_true, decide_eq_true_eq])

/-! ## NTOK (R280) -/

theorem ntokLegal_iff (x : BitVec 16) : ntokLegal x = true ↔ ∀ d, d < 4 → 1 ≤ ntokOf x d ∧ ntokOf x d ≤ 6 := by
  simp only [ntokLegal, List.all_cons, List.all_nil, Bool.and_true, Bool.and_eq_true, decide_eq_true_eq]
  constructor
  · rintro ⟨h0, h1, h2, h3⟩ d hd
    interval_cases d <;> assumption
  · intro h
    exact ⟨h 0 (by decide), h 1 (by decide), h 2 (by decide), h 3 (by decide)⟩

/-- A die of an updated part is an old one, updated where the number names it. -/
theorem mem_updDie {d : Nat} {f : Die → Die} {y : Die} (h : y ∈ (s.updDie d f).dies.toList) :
    ∃ q ∈ s.dies.toList, y = if q.id = d then f q else q := by
  simp only [State.updDie, Vector.toList_map, List.mem_map] at h
  obtain ⟨q, hq, rfl⟩ := h
  exact ⟨q, hq, rfl⟩

/-- Updates of listed dies give each of them a property of the update that later updates of the other dies leave alone. -/
theorem foldl_updDie_forall {f : Nat → Die → Die} {P : Die → Prop} (hP : ∀ y, P (f y.id y))
    (l : List Nat) (s : State) (h : ∀ y ∈ s.dies.toList, y.id ∉ l → P y) :
    ∀ y ∈ (l.foldl (fun t d => t.updDie d (f d)) s).dies.toList, P y := by
  induction l generalizing s with
  | nil => exact fun y hy => h y hy List.not_mem_nil
  | cons d l ih =>
    refine ih _ fun y hy hl => ?_
    obtain ⟨q, hq, rfl⟩ := mem_updDie hy
    split
    next e => subst e; exact hP q
    next e =>
      rw [if_neg e] at hl
      exact h q hq (List.not_mem_cons_of_ne_of_not_mem e hl)

theorem foldl_updDie_part (f : Nat → Die → Die) (l : List Nat) (s : State) :
    (l.foldl (fun t d => t.updDie d (f d)) s).part = s.part := by
  induction l generalizing s with
  | nil => rfl
  | cons d l ih => exact ih _

theorem setTokens_part (x : BitVec 16) (s : State) : (setTokens x s).part = { s.part with ntok := x } :=
  foldl_updDie_part _ _ _

/-- No die holds more tokens than its field of NTOK says. -/
theorem setTokens_tokens (x : BitVec 16) (s : State) :
    ∀ y ∈ (setTokens x s).dies.toList, y.id < 4 → y.tokens.length ≤ ntokOf x y.id := by
  refine foldl_updDie_forall (P := fun y => y.id < 4 → y.tokens.length ≤ ntokOf x y.id)
    (f := fun d y => { y with tokens := (y.tokens ++ (List.range 6).filter (fun k => !y.tokens.contains k)).take (ntokOf x d) })
    (fun y _ => ?_) [0, 1, 2, 3] _ (fun y _ hn h4 => ?_)
  · exact List.length_take_le _ _
  · simp only [List.mem_cons, List.not_mem_nil, or_false] at hn
    omega

theorem write_ntok (hb : s.part.bootst ≠ 0xF#4) (x : DWord)
    (h : ∀ d, d < 4 → 1 ≤ ntokOf (x.setWidth 16) d ∧ ntokOf (x.setWidth 16) d ≤ 6) :
    Completes (.mgmtRegisterWrite .ntok x) s fun t => t.part.ntok = x.setWidth 16
      ∧ t.part = { s.part with ntok := x.setWidth 16 } ∧ ∀ d ∈ t.dies.toList, d.id < 4 → d.tokens.length ≤ ntokOf (x.setWidth 16) d.id :=
  ⟨_, mgmtWrite_some hb (if_pos ((ntokLegal_iff _).2 h)), congrArg Part.ntok (setTokens_part _ s), setTokens_part _ s,
    setTokens_tokens _ s⟩

theorem write_ntok_illegal (hb : s.part.bootst ≠ 0xF#4) (x : DWord) {d : Nat} (hd : d < 4)
    (h : ntokOf (x.setWidth 16) d < 1 ∨ 6 < ntokOf (x.setWidth 16) d) :
    exec (.mgmtRegisterWrite .ntok x) s = .next (refuseWrite s) := by
  refine mgmtWrite_none hb (if_neg fun hl => ?_)
  have := (ntokLegal_iff _).1 hl d hd
  omega

/-! ## Entries of the ASID table (R354) -/

/-- A field of `len` bits from bit `k` on that holds zero. -/
theorem extractLsb'_eq_zero_iff (x : DWord) (k len : Nat) : x.extractLsb' k len = 0#len ↔ x.toNat / 2 ^ k % 2 ^ len = 0 := by
  rw [← BitVec.toNat_inj, BitVec.extractLsb'_toNat, Nat.shiftRight_eq_div_pow]
  simp

theorem extractLsb'_zero_bits (x : DWord) : x.extractLsb' 1 12 = 0#12 ↔ ∀ i, 1 ≤ i → i < 13 → x.getLsbD i = false := by
  constructor
  · intro h i h1 h13
    have := congrArg (fun y => y.getLsbD (i - 1)) h
    simp only [BitVec.getLsbD_extractLsb', BitVec.getLsbD_zero, show 1 + (i - 1) = i by omega, show i - 1 < 12 by omega, decide_true,
      Bool.true_and] at this
    exact this
  · intro h
    apply BitVec.eq_of_getLsbD_eq
    intro i hi
    simp [hi, h (1 + i) (by omega) (by omega)]

/-- Bits from `k` on are zero exactly where the value stays below 2^k. -/
theorem extractLsb'_high_zero (x : DWord) {k len : Nat} (h : k + len = 64) : x.extractLsb' k len = 0#len ↔ x.toNat < 2 ^ k := by
  have hx : x.toNat < 2 ^ k * 2 ^ len := by rw [← Nat.pow_add, h]; exact x.isLt
  rw [extractLsb'_eq_zero_iff, Nat.mod_eq_of_lt (Nat.div_lt_of_lt_mul hx)]
  exact Nat.div_eq_zero_iff_lt (Nat.two_pow_pos k)

/-- A word of an entry takes effect where `Q` holds of it, and else, or beyond the table, is refused. -/
theorem write_asid (hb : s.part.bootst ≠ 0xF#4) {n : Nat} {d : Fin 4} {x : DWord} {e : AsidEnt} {P Q : Prop} [Decidable P]
    (h : setAsid n d x s = if 1024 ≤ n then none else (if P then some e else none).map
      (fun e => s.updPart (fun p => { p with asids := p.asids.filter (·.n != n) ++ [e] }))) (hPQ : P ↔ Q) :
    (n < 1024 ∧ Q → exec (.mgmtRegisterWrite (.asid n d) x) s =
      .next { s with part := { s.part with asids := s.part.asids.filter (·.n != n) ++ [e] } })
    ∧ (¬ (n < 1024 ∧ Q) → exec (.mgmtRegisterWrite (.asid n d) x) s = .next (refuseWrite s)) := by
  refine guarded_write hb (c := decide (n < 1024 ∧ P)) (h.trans ?_) (by rw [decide_eq_true_iff, hPQ])
  by_cases hn : n < 1024
  · rw [if_neg (by omega)]
    by_cases hp : P
    · simp only [hn, hp, and_self, decide_true, if_true, Option.map_some]; rfl
    · simp [hn, hp]
  · rw [if_pos (by omega)]
    simp [hn]

end

/-- Settles O59, event by event from the lemmas above. -/
theorem managementEvents : Obligations.ManagementEvents := by
  unfold Obligations.ManagementEvents
  intro s refused writes
  refine ⟨reset_completes s, fun h => ⟨_, if_pos h, rfl⟩, fun h => if_neg h, fun nonce => attestationReport_completes, ?bootst,
    fun n x => windowValue_cap, fun h r x => if_pos (failed_iff.2 h), fun hb base size => ?ring, fun hb x => ?registers,
    fun h core base size => ⟨if_pos (failed_iff.2 h), if_pos (failed_iff.2 h)⟩, fun hb core => ?counters⟩
  case bootst =>
    obtain ⟨hbad, hboot, hver⟩ := bootstValue_fields s.part
    exact ⟨_, rfl, hbad, hboot, hver, rfl⟩
  case ring =>
    rw [← baseOf_eq]
    exact ⟨ringSetup_legal hb, ringSetup_illegal hb⟩
  case counters =>
    exact ⟨_, if_neg (by simp [failed_eq_false hb]), getCore_updCore s core _ fun _ => rfl, updCore_outside s core _⟩
  case registers =>
    obtain ⟨hdrain, hdrain'⟩ := write_drain hb x
    obtain ⟨hpcap, hpcap'⟩ := write_pcap hb x
    obtain ⟨hpol, hpol'⟩ := write_lcopol hb x
    obtain ⟨hhead, hhead'⟩ := write_nqhead hb x
    refine ⟨hdrain, hdrain', write_mxgate hb x, fun h h' => hpcap ⟨h, h'⟩, fun h => hpcap' (by omega), hpol,
      fun h => hpol' (by simp [h]), hhead, hhead', write_ntok hb x, fun d hd => write_ntok_illegal hb x hd,
      fun n d => (write_lcokey hb n d x).1, fun n d h => (write_lcokey hb n d x).2 (by simp [h]), fun off => mgmtWrite_some hb rfl,
      write_nqbase hb x, write_nqsize hb x, fun n d => ?asid, fun base len port peer => write_window hb base len port peer x,
      fun base len => ⟨(write_contextPool hb base len x).1, fun h => (write_contextPool hb base len x).2 (by omega)⟩,
      fun pa => write_promotionFrame hb pa x, mgmtWrite_some hb rfl, fun port => write_portAsid hb port x⟩
    match d with
    | 0 => exact write_asid hb rfl (and_congr (extractLsb'_zero_bits x) (extractLsb'_high_zero x rfl))
    | 1 =>
      have h16 : x.extractLsb' 32 16 = BitVec.ofNat 16 (x.toNat / 2 ^ 32) := by
        apply BitVec.eq_of_toNat_eq
        simp [BitVec.extractLsb'_toNat, Nat.shiftRight_eq_div_pow]
      rw [← h16]
      exact write_asid hb rfl (and_congr (not_congr (extractLsb'_eq_zero_iff x 32 16)) (extractLsb'_high_zero x rfl))
    | 2 =>
      refine write_asid hb rfl (and_congr ((extractLsb'_eq_zero_iff x 0 6).trans ?_) (extractLsb'_high_zero x rfl))
      rw [Nat.pow_zero, Nat.div_one]
      exact Iff.rfl
    | 3 =>
      rw [show BitVec.ofNat 32 x.toNat = x.setWidth 32 from rfl]
      exact write_asid hb rfl Iff.rfl

end Sys2Proof.Machine
end

/-! # The scheduler: the files, the runs and where they end (R70, R96, R97, R135, R342, R343) -/

section
namespace Sys2Proof.Machine

-- One after the other, as above: the check's memory limit bounds the stacks of parallel elaboration.
set_option Elab.async false

/-! ## Sorted lists and lists without repeated keys -/

section
variable {α : Type}

theorem mem_insertBy {before : α → α → Bool} {x y : α} {l : List α} : y ∈ insertBy before x l ↔ y = x ∨ y ∈ l := by
  induction l with
  | nil => simp [insertBy]
  | cons z r ih =>
    rw [insertBy]
    split
    · exact List.mem_cons
    · rw [List.mem_cons, ih, List.mem_cons, or_left_comm]

theorem mem_sortBy {before : α → α → Bool} {l : List α} {y : α} : y ∈ sortBy before l ↔ y ∈ l := by
  have h (acc : List α) : y ∈ l.foldl (fun acc x => insertBy before x acc) acc ↔ y ∈ acc ∨ y ∈ l := by
    induction l generalizing acc with
    | nil => simp
    | cons x r ih => rw [List.foldl_cons, ih, mem_insertBy, List.mem_cons, or_assoc, or_left_comm]
  exact (h []).trans (by simp)

/-- Sorted by a number, a list stays sorted when an element is inserted. -/
theorem insertBy_sorted {f : α → Nat} {x : α} {l : List α} (h : l.Pairwise (f · ≤ f ·)) :
    (insertBy (fun a b => decide (f a < f b)) x l).Pairwise (f · ≤ f ·) := by
  induction l with
  | nil => exact List.pairwise_singleton _ _
  | cons z r ih =>
    obtain ⟨hz, hr⟩ := List.pairwise_cons.1 h
    rw [insertBy]
    split
    next hlt =>
      have hxz : f x ≤ f z := by simp only [decide_eq_true_eq] at hlt; omega
      exact List.pairwise_cons.2 ⟨List.forall_mem_cons.2 ⟨hxz, fun y hy => hxz.trans (hz y hy)⟩, h⟩
    next hge =>
      have hzx : f z ≤ f x := by simp only [decide_eq_true_eq] at hge; omega
      refine List.pairwise_cons.2 ⟨fun y hy => ?_, ih hr⟩
      rcases mem_insertBy.1 hy with rfl | hy
      · exact hzx
      · exact hz y hy

theorem sortBy_sorted (f : α → Nat) (l : List α) : (sortBy (fun a b => decide (f a < f b)) l).Pairwise (f · ≤ f ·) :=
  l.foldlRecOn _ List.Pairwise.nil fun _ h _ _ => insertBy_sorted h

/-- The first of a list sorted by a number has the least. -/
theorem sortBy_head {f : α → Nat} {l : List α} {x : α} (h : (sortBy (fun a b => decide (f a < f b)) l).head? = some x) :
    x ∈ l ∧ ∀ y ∈ l, f x ≤ f y := by
  obtain ⟨r, hr⟩ := List.head?_eq_some_iff.1 h
  have hs := sortBy_sorted f l
  rw [hr] at hs
  refine ⟨mem_sortBy.1 (hr ▸ List.mem_cons_self), fun y hy => ?_⟩
  rcases List.mem_cons.1 (hr ▸ mem_sortBy.2 hy : y ∈ x :: r) with rfl | hy
  · exact le_rfl
  · exact (List.pairwise_cons.1 hs).1 y hy

variable {β : Type} [DecidableEq β] {key : α → β}

/-- Of a list without repeated keys each element is found by its key. -/
theorem find_of_nodup {l : List α} (hn : (l.map key).Nodup) {x : α} (hx : x ∈ l) : l.find? (fun y => key y == key x) = some x := by
  induction l with
  | nil => cases hx
  | cons y r ih =>
    obtain ⟨hy, hr⟩ := List.nodup_cons.1 hn
    rcases List.mem_cons.1 hx with rfl | hx
    · exact List.find?_cons_of_pos (beq_self_eq_true _)
    · have hne : ¬ (key y == key x) = true := fun e => hy (beq_iff_eq.1 e ▸ List.mem_map_of_mem hx)
      exact (List.find?_cons_of_neg (p := fun z => key z == key x) hne).trans (ih hr hx)

/-- An update by a key that is not there changes nothing. -/
theorem map_update_absent {l : List α} {k : β} (h : k ∉ l.map key) (f : α → α) :
    l.map (fun x => if key x = k then f x else x) = l := by
  refine (List.map_congr_left fun x hx => if_neg ?_).trans (List.map_id l)
  rintro rfl
  exact h (List.mem_map_of_mem hx)

/-- An update of the elements with one key adds at most one to those that a filter keeps. -/
theorem length_filter_map_le {l : List α} (hn : (l.map key).Nodup) (k : β) (f : α → α) (p : α → Bool) :
    ((l.map (fun x => if key x = k then f x else x)).filter p).length ≤ (l.filter p).length + 1 := by
  induction l with
  | nil => exact Nat.zero_le _
  | cons x r ih =>
    obtain ⟨hx, hr⟩ := List.nodup_cons.1 hn
    rw [List.map_cons]
    by_cases hk : key x = k
    · rw [if_pos hk, map_update_absent (hk ▸ hx)]
      calc ((f x :: r).filter p).length ≤ (r.filter p).length + 1 := by rw [List.filter_cons]; split <;> simp
        _ ≤ ((x :: r).filter p).length + 1 := by rw [List.filter_cons]; split <;> simp
    · rw [if_neg hk, List.filter_cons, List.filter_cons]
      have := ih hr
      split
      · simpa only [List.length_cons] using Nat.succ_le_succ this
      · exact this

end

section
variable {s : State}

/-! ## Squads and their keys -/

theorem findSq_mem {k : SquadKey} {q : Squad} (h : s.findSq k = some q) : q ∈ s.allSquads ∧ q.key = k :=
  ⟨List.mem_of_find?_eq_some h, beq_iff_eq.1 (List.find?_some (p := fun x : Squad => x.key == k) h)⟩

theorem findSq_of_mem (hn : (s.allSquads.map (·.key)).Nodup) {q : Squad} (h : q ∈ s.allSquads) : s.findSq q.key = some q :=
  find_of_nodup hn h

/-- A squad of the fast file and one of the slow file are two squads. -/
theorem key_ne_of_files {j k : SquadKey} {a b : Squad} (ha : s.findSq j = some a) (hb : s.findSq k = some b) (hfast : a.fast = true)
    (hslow : b.fast = false) : j ≠ k := by
  rintro rfl
  rw [Option.some.inj (ha.symm.trans hb), hslow] at hfast
  cases hfast

theorem mem_coreSquads {core : Nat} {q : Squad} (h : q ∈ s.coreSquads core) : q ∈ s.allSquads := List.mem_of_mem_filter h

/-! ## Contexts that move between the files (R70) -/

/-- The moves of contexts change the squads, and may count in a lifetime counter (R69, R403); no squad comes or goes. -/
structure Moves (s t : State) : Prop where
  only : t = { s with sq := t.sq, squads := t.squads, part := { s.part with lifetime := t.part.lifetime, hour := t.part.hour } }
  keys : t.allSquads.map (·.key) = s.allSquads.map (·.key)

theorem Moves.refl (s : State) : Moves s s := ⟨rfl, rfl⟩

theorem Moves.trans {s t u : State} (h : Moves s t) (h' : Moves t u) : Moves s u :=
  ⟨by rw [h'.only, h.only], h'.keys.trans h.keys⟩

theorem Moves.free {s t : State} (h : Moves s t) : t.free = s.free := by rw [h.only]

theorem Moves.nodup {s t : State} (h : Moves s t) (hn : (s.allSquads.map (·.key)).Nodup) : (t.allSquads.map (·.key)).Nodup :=
  h.keys ▸ hn

theorem keys_updSq (s : State) (k : SquadKey) {f : Squad → Squad} (hk : ∀ q, (f q).key = q.key) (hs : ∀ q, (f q).status = q.status) :
    (s.updSq k f).allSquads.map (·.key) = s.allSquads.map (·.key) := by
  have hmap : (s.squads.map (fun q => if q.key = k then f q else q)).map (·.key) = s.squads.map (·.key) := by
    rw [List.map_map]
    refine List.map_congr_left fun q _ => ?_
    simp only [Function.comp_apply]
    split
    · exact hk q
    · rfl
  unfold State.updSq State.allSquads
  split
  · simp only [hs]
    split
    · rfl
    · simp only [List.map_cons, hk]
  · simp only
    split
    · exact hmap
    · simp only [List.map_cons, hmap]

theorem moveSquad_moves (k : SquadKey) (place : Option Nat) (s : State) : Moves s (moveSquad k place s) := by
  have hu : Moves s (s.updSq k (moveFile place s.free)) := ⟨by rw [updSq_outside], keys_updSq s k (fun _ => rfl) fun _ => rfl⟩
  unfold moveSquad
  extract_lets t
  split
  · exact hu
  · exact hu.trans ⟨rfl, rfl⟩

theorem findSq_moveSquad (k : SquadKey) (place : Option Nat) (s : State) (j : SquadKey) : (moveSquad k place s).findSq j =
    if j = k then (s.findSq k).map (moveFile place s.free) else s.findSq j := by
  have hcount : (moveSquad k place s).findSq j = (s.updSq k (moveFile place s.free)).findSq j := by
    unfold moveSquad
    extract_lets t
    split <;> rfl
  rw [hcount]
  split
  next e => rw [e]; exact findSq_updSq s k _ (fun _ => rfl) fun _ h => h
  next e => exact findSq_updSq_other s k j _ e (fun _ => rfl) fun _ h => h

theorem getSq_moveSquad {k : SquadKey} {q : Squad} (h : s.findSq k = some q) (place : Option Nat) :
    (moveSquad k place s).getSq k = moveFile place s.free q :=
  getSq_of_find (by rw [findSq_moveSquad, if_pos rfl, h]; rfl)

/-- All squads after the move of one. -/
theorem allSquads_moveSquad (hn : (s.allSquads.map (·.key)).Nodup) (k : SquadKey) (place : Option Nat) :
    (moveSquad k place s).allSquads = s.allSquads.map (fun q => if q.key = k then moveFile place s.free q else q) := by
  have hcount : (moveSquad k place s).allSquads = (s.updSq k (moveFile place s.free)).allSquads := by
    unfold moveSquad
    extract_lets t
    split <;> rfl
  rw [hcount]
  unfold State.updSq State.allSquads State.isCur
  by_cases ha : s.sq.status = .absent
  · simp [ha]
  · by_cases hk : s.sq.key = k
    · have hothers : s.squads.map (fun q => if q.key = k then moveFile place s.free q else q) = s.squads := by
        simp only [State.allSquads, if_neg ha, List.map_cons, List.nodup_cons] at hn
        exact map_update_absent (hk ▸ hn.1) _
      have hst : (moveFile place s.free s.sq).status ≠ .absent := ha
      simp [ha, hk, hst, hothers]
    · simp [ha, hk]

theorem exchange_moves (out into : SquadKey) (s : State) : Moves s (exchange out into s) :=
  (moveSquad_moves _ _ _).trans (moveSquad_moves _ _ _)

/-- Two squads that change places. -/
theorem getSq_exchange {out into : SquadKey} {a b : Squad} (ha : s.findSq out = some a) (hb : s.findSq into = some b) (hne : out ≠ into) :
    (exchange out into s).getSq into = moveFile (some a.slot) s.free b
    ∧ (exchange out into s).getSq out = moveFile none s.free a := by
  have hinto : (moveSquad out none s).findSq into = some b := by rw [findSq_moveSquad, if_neg hne.symm, hb]
  have hout : (moveSquad out none s).findSq out = some (moveFile none s.free a) := by rw [findSq_moveSquad, if_pos rfl, ha]; rfl
  have hfree := (moveSquad_moves out none s).free
  unfold exchange
  rw [getSq_of_find ha]
  refine ⟨(getSq_moveSquad hinto _).trans (by rw [hfree]), getSq_of_find ?_⟩
  rw [findSq_moveSquad, if_neg hne, hout]

/-- A move of one context leaves the teams, and with them which squads stand on a core. -/
theorem coreSquads_moveSquad (hn : (s.allSquads.map (·.key)).Nodup) (k : SquadKey) (place : Option Nat) (core : Nat) :
    (moveSquad k place s).coreSquads core = (s.coreSquads core).map (fun q => if q.key = k then moveFile place s.free q else q) := by
  have hteam (t : TeamKey) : (moveSquad k place s).findTeam t = s.findTeam t := by
    unfold State.findTeam State.allTeams
    rw [(moveSquad_moves k place s).only]
  have hkey (q : Squad) : (if q.key = k then moveFile place s.free q else q).key = q.key := by split <;> rfl
  unfold State.coreSquads
  rw [allSquads_moveSquad hn, List.filter_map]
  simp only [Function.comp_def, hteam, hkey]

theorem nodup_coreSquads (hn : (s.allSquads.map (·.key)).Nodup) (core : Nat) : ((s.coreSquads core).map (·.key)).Nodup :=
  hn.sublist (List.filter_sublist.map _)

/-- The slow file takes at most the one context that moves. -/
theorem length_slowSquads_moveSquad (hn : (s.allSquads.map (·.key)).Nodup) (k : SquadKey) (place : Option Nat) (core : Nat) :
    (slowSquads (moveSquad k place s) core).length ≤ (slowSquads s core).length + 1 := by
  unfold slowSquads
  rw [coreSquads_moveSquad hn]
  exact length_filter_map_le (nodup_coreSquads hn core) k _ _

/-! ## Promotion at a run boundary (R342, R343) -/

theorem placeTaken_least {core : Nat} {out : Squad} (h : placeTaken s core = some out) : out ∈ s.coreSquads core ∧ out.fast = true
    ∧ out.running = false ∧ ∀ x ∈ s.coreSquads core, x.fast = true → x.running = false → standing s out ≤ standing s x := by
  obtain ⟨hmem, hleast⟩ := sortBy_head (f := standing s) h
  have hiff (x : Squad) : x ∈ (fastSquads s core).filter (fun q => !q.running)
      ↔ x ∈ s.coreSquads core ∧ x.fast = true ∧ x.running = false := by
    simp only [fastSquads, List.mem_filter, Bool.not_eq_true', and_assoc]
  obtain ⟨hcore, hfast, hrun⟩ := (hiff out).1 hmem
  exact ⟨hcore, hfast, hrun, fun x hx hf hr => hleast x ((hiff x).2 ⟨hx, hf, hr⟩)⟩

theorem standing_eq_zero {q : Squad} : standing s q = 0 ↔ active s q = false ∨ ready s q = false := by
  unfold standing
  cases active s q <;> cases ready s q <;> simp

theorem promote_moves (core : Nat) (q : Squad) (s : State) : Moves s (promote core q s) := by
  unfold promote
  split
  · exact moveSquad_moves _ _ _
  · split
    · exact Moves.refl s
    · split
      · exact exchange_moves _ _ _
      · exact Moves.refl s

theorem rotateIn_moves (core : Nat) (q : Squad) (s : State) : Moves s (rotateIn core q s) := by
  unfold rotateIn
  split
  · exact Moves.refl s
  · split
    · exact Moves.refl s
    · exact exchange_moves _ _ _

theorem foldl_moves {f : State → Squad → State} (hf : ∀ s q, Moves s (f s q)) (l : List Squad) (s : State) : Moves s (l.foldl f s) :=
  l.foldlRecOn f (Moves.refl s) fun _ h q _ => h.trans (hf _ q)

theorem promoteDue_moves (core : Nat) (s : State) : Moves s (promoteDue core s) :=
  (foldl_moves (fun _ _ => promote_moves _ _ _) _ s).trans (foldl_moves (fun _ _ => rotateIn_moves _ _ _) _ _)

theorem promoteDue_nil {core : Nat} (h : pendingReady s core = []) : promoteDue core s = s := by
  simp only [promoteDue, h]
  rfl

theorem promoteDue_one {core : Nat} {q : Squad} (h : pendingReady s core = [q]) :
    promoteDue core s = if 4 ≤ q.pended then rotateIn core q (promote core q s) else promote core q s := by
  have hsort : sortBy promotedBefore [q] = [q] := rfl
  simp only [promoteDue, h, hsort, List.filter_cons, List.filter_nil, promotionDue, decide_eq_true_eq]
  split <;> rfl

theorem promote_free {core i : Nat} {q : Squad} (hq : s.findSq q.key = some q) (hi : freePlace s core = some i) :
    (promote core q s).getSq q.key = moveFile (some i) s.free q := by
  simp only [promote, hi]
  exact getSq_moveSquad hq _

/-- With the fast file full, a pending squad takes the place of a squad that is not ready, or waits; one that is due takes
the place in any case. -/
theorem promote_full {core : Nat} {q out : Squad} (hn : (s.allSquads.map (·.key)).Nodup) (hq : s.findSq q.key = some q)
    (hslow : q.fast = false) (hf : freePlace s core = none) (ho : placeTaken s core = some out) :
    let gives := active s out = false ∨ ready s out = false
    (gives → (promote core q s).getSq q.key = moveFile (some out.slot) s.free q
      ∧ (promote core q s).getSq out.key = moveFile none s.free out)
    ∧ (¬ gives → promote core q s = s)
    ∧ (rotateIn core q s).getSq q.key = moveFile (some out.slot) s.free q
    ∧ (rotateIn core q s).getSq out.key = moveFile none s.free out := by
  obtain ⟨hmem, hfast, -, -⟩ := placeTaken_least ho
  have hout := findSq_of_mem hn (mem_coreSquads hmem)
  have hex := getSq_exchange hout hq (key_ne_of_files hout hq hfast hslow)
  have hp : promote core q s = if standing s out = 0 then exchange out.key q.key s else s := by simp only [promote, hf, ho]
  have hr : rotateIn core q s = exchange out.key q.key s := by simp [rotateIn, getSq_of_find hq, hslow, ho]
  rw [hp, hr, ← standing_eq_zero]
  exact ⟨fun h => by rw [if_pos h]; exact hex, fun h => if_neg h, hex⟩

/-! ## Demotion and promotion as events (R342) -/

theorem oldest_mem {l : List Squad} {q : Squad} (h : oldest l = some q) : q ∈ l := (sortBy_head (f := Squad.age) h).1

theorem mem_pendingReady {core : Nat} {q : Squad} (h : q ∈ pendingReady s core) : q ∈ s.coreSquads core ∧ q.fast = false := by
  simp only [pendingReady, List.mem_filter, Bool.and_eq_true, Bool.not_eq_true'] at h
  obtain ⟨hcore, ⟨⟨hfast, -⟩, -⟩, -⟩ := h
  exact ⟨hcore, hfast⟩

theorem toSlow_moves (core : Nat) (k : SquadKey) (s : State) : Moves s (toSlow core k s) := by
  unfold toSlow
  split
  · exact moveSquad_moves _ _ _
  · split
    · exact exchange_moves _ _ _
    · exact Moves.refl s

theorem toSlow_room {core : Nat} {k : SquadKey} (h : (slowSquads s core).length < 12) : toSlow core k s = moveSquad k none s := if_pos h

theorem toSlow_full {core : Nat} {k : SquadKey} {o : Squad} (h : 12 ≤ (slowSquads s core).length)
    (ho : oldest (pendingReady s core) = some o) : toSlow core k s = exchange k o.key s := by
  rw [toSlow, if_neg (by omega)]
  simp only [ho]

theorem toSlow_stays {core : Nat} {k : SquadKey} (h : 12 ≤ (slowSquads s core).length) (hp : pendingReady s core = []) :
    toSlow core k s = s := by
  rw [toSlow, if_neg (by omega), hp]
  rfl

/-- The other squads of a core that may be demoted with one of it. -/
def demotedWith (s : State) (k : SquadKey) : List Squad :=
  (fastSquads s (s.getTeam k.team).core).filter (fun x => x.key != k && demotable s x)

theorem squadDemotion_alone {k : SquadKey} {q : Squad} (hq : s.findSq k = some q) (hd : demotable s q = true)
    (ho : oldest (demotedWith s k) = none) : exec (.squadDemotion k) s = .next (toSlow (s.getTeam k.team).core k s) := by
  rw [demotedWith] at ho
  show execSquadDemotion k s = _
  simp only [execSquadDemotion, getSq_of_find hq, hd, if_true, ho]

theorem squadDemotion_pair {k : SquadKey} {q o : Squad} (hq : s.findSq k = some q) (hd : demotable s q = true)
    (ho : oldest (demotedWith s k) = some o) : exec (.squadDemotion k) s =
      .next (toSlow (s.getTeam k.team).core o.key (toSlow (s.getTeam k.team).core k s)) := by
  rw [demotedWith] at ho
  show execSquadDemotion k s = _
  simp only [execSquadDemotion, getSq_of_find hq, hd, if_true, ho]

/-- With two places left in the slow file the squad moves there, and with it the longest-waiting other one. -/
theorem squadDemotion_room {k : SquadKey} {q : Squad} (hn : (s.allSquads.map (·.key)).Nodup) (hq : s.findSq k = some q)
    (hd : demotable s q = true) (hroom : (slowSquads s (s.getTeam k.team).core).length < 11) :
    Completes (.squadDemotion k) s fun t => t.getSq k = moveFile none s.free q ∧ Moves s t
      ∧ ∀ o, oldest (demotedWith s k) = some o → t.getSq o.key = moveFile none s.free o := by
  have hslow := toSlow_room (k := k) (show (slowSquads s (s.getTeam k.team).core).length < 12 by omega)
  cases ho : oldest (demotedWith s k) with
  | none =>
    refine ⟨_, squadDemotion_alone hq hd ho, ?_⟩
    rw [hslow]
    exact ⟨getSq_moveSquad hq none, moveSquad_moves k none s, fun o h => by cases h⟩
  | some o =>
    have hmem := oldest_mem ho
    simp only [demotedWith, fastSquads, List.mem_filter, Bool.and_eq_true, bne_iff_ne, ne_eq] at hmem
    obtain ⟨⟨hcore, -⟩, hne, -⟩ := hmem
    have hm := moveSquad_moves k none s
    have hfo : (moveSquad k none s).findSq o.key = some o := by
      rw [findSq_moveSquad, if_neg hne, findSq_of_mem hn (mem_coreSquads hcore)]
    have hlen := length_slowSquads_moveSquad hn k none (s.getTeam k.team).core
    refine ⟨_, squadDemotion_pair hq hd ho, ?_⟩
    rw [hslow, toSlow_room (by omega)]
    refine ⟨getSq_of_find ?_, hm.trans (moveSquad_moves _ _ _), fun o' h => ?_⟩
    · rw [findSq_moveSquad, if_neg (Ne.symm hne), findSq_moveSquad, if_pos rfl, hq]; rfl
    · cases h
      rw [getSq_moveSquad hfo, hm.free]

/-- With the slow file full and no other squad to demote, the squad changes places with the oldest ready pending one, or stays. -/
theorem squadDemotion_full {k : SquadKey} {q : Squad} (hn : (s.allSquads.map (·.key)).Nodup) (hq : s.findSq k = some q)
    (hd : demotable s q = true) (hfast : q.fast = true) (hfull : 12 ≤ (slowSquads s (s.getTeam k.team).core).length)
    (halone : ∀ x ∈ fastSquads s (s.getTeam k.team).core, x.key ≠ k → demotable s x = false) :
    (pendingReady s (s.getTeam k.team).core = [] → exec (.squadDemotion k) s = .next s)
    ∧ (∀ o, oldest (pendingReady s (s.getTeam k.team).core) = some o → Completes (.squadDemotion k) s fun t =>
        t.getSq k = moveFile none s.free q ∧ t.getSq o.key = moveFile (some q.slot) s.free o ∧ Moves s t) := by
  have hnone : demotedWith s k = [] := by
    refine List.filter_eq_nil_iff.2 fun x hx => ?_
    by_cases hk : x.key = k
    · simp [hk]
    · simp [halone x hx hk]
  have he := squadDemotion_alone hq hd (show oldest (demotedWith s k) = none by rw [hnone]; rfl)
  refine ⟨fun hp => he.trans (by rw [toSlow_stays hfull hp]), fun o ho => ?_⟩
  obtain ⟨hcore, hslow⟩ := mem_pendingReady (oldest_mem ho)
  have hfo := findSq_of_mem hn (mem_coreSquads hcore)
  obtain ⟨hinto, hout⟩ := getSq_exchange hq hfo (key_ne_of_files hq hfo hfast hslow)
  rw [toSlow_full hfull ho] at he
  exact ⟨_, he, hout, hinto, exchange_moves _ _ _⟩

theorem squadPromotion_completes {k : SquadKey} {q : Squad} {i : Nat} (hq : s.findSq k = some q)
    (hi : freePlace s (s.getTeam k.team).core = some i) (ho : oldest (pendingReady s (s.getTeam k.team).core) = some q) :
    Completes (.squadPromotion k) s fun t => t.getSq k = moveFile (some i) s.free q ∧ Moves s t := by
  refine ⟨moveSquad k (some i) s, ?_, getSq_moveSquad hq _, moveSquad_moves _ _ _⟩
  show execSquadPromotion k s = _
  simp only [execSquadPromotion, hi, ho, (findSq_mem hq).2, if_true]

/-! ## Who wins the issue slot (R135, R342) -/

theorem mem_candidates {core : Nat} {k : SquadKey} :
    k ∈ candidates s core ↔ ∃ q ∈ s.coreSquads core, q.key = k ∧ active s q = true ∧ ready s q = true := by
  have hturn (l : List Squad) (n : Nat) (q : Squad) :
      q ∈ l.filter (fun q => decide (n < q.slot)) ++ l.filter (fun q => decide (q.slot ≤ n)) ↔ q ∈ l := by
    simp only [List.mem_append, List.mem_filter, decide_eq_true_eq, ← and_or_left]
    exact and_iff_left (Nat.lt_or_ge n q.slot)
  have hready (q : Squad) : q ∈ sortBy (fun a b => decide (a.slot < b.slot))
        ((s.coreSquads core).filter (fun q => active s q && ready s q))
      ↔ q ∈ s.coreSquads core ∧ active s q = true ∧ ready s q = true := by
    rw [mem_sortBy, List.mem_filter, Bool.and_eq_true]
  unfold candidates
  simp only [List.mem_map]
  refine exists_congr fun q => ?_
  split <;> simp only [hturn, hready] <;> tauto

theorem winner_candidate {core : Nat} {k : SquadKey} (h : winner s core = some k) :
    ∃ q ∈ s.coreSquads core, q.key = k ∧ active s q = true ∧ ready s q = true :=
  mem_candidates.1 (List.mem_of_find?_eq_some h)

/-- A squad that yielded waits for each ready squad that it named. -/
theorem winner_yields {core : Nat} {k y : SquadKey} (h : winner s core = some k) (hy : y ∈ (s.getSq k).yieldTo) {x : Squad}
    (hx : x ∈ s.coreSquads core) (hk : x.key = y) (ha : active s x = true) : ready s x = false := by
  by_contra hr
  have hcand : y ∈ candidates s core := mem_candidates.2 ⟨x, hx, hk, ha, by simpa using hr⟩
  have hno := List.find?_some h
  simp only [Bool.not_eq_true', List.any_eq_false, List.contains_iff_mem] at hno
  exact hno y hy hcand

/-! ## Bringing a squad beside its core -/

theorem focusCore_only (i : Nat) (s : State) : s.focusCore i = { s with core := (s.focusCore i).core, cores := (s.focusCore i).cores } := by
  unfold State.focusCore; split <;> rfl

theorem focusLaunch_only (l : Nat) (s : State) : s.focusLaunch l = { s with
    launch := (s.focusLaunch l).launch, launches := (s.focusLaunch l).launches, obj := (s.focusLaunch l).obj } := by
  unfold State.focusLaunch
  split
  · rfl
  · split <;> rfl

theorem focusTeam_only (t : TeamKey) (s : State) : s.focusTeam t = { s with
    team := (s.focusTeam t).team, teams := (s.focusTeam t).teams, core := (s.focusTeam t).core, cores := (s.focusTeam t).cores
    launch := (s.focusTeam t).launch, launches := (s.focusTeam t).launches, obj := (s.focusTeam t).obj } := by
  unfold State.focusTeam
  split
  · rfl
  · split
    · rfl
    · rw [focusLaunch_only, focusCore_only]

/-- Bringing a squad to the front changes neither memory, dies, commands nor the part. -/
theorem focus_outside (k : SquadKey) (s : State) :
    (s.focus k).mem = s.mem ∧ (s.focus k).dies = s.dies ∧ (s.focus k).part = s.part ∧ (s.focus k).cmds = s.cmds := by
  unfold State.focus
  split
  · exact ⟨rfl, rfl, rfl, rfl⟩
  · split
    · exact ⟨rfl, rfl, rfl, rfl⟩
    · rw [focusTeam_only]
      exact ⟨rfl, rfl, rfl, rfl⟩

theorem find_filter_other {j k : SquadKey} (hj : j ≠ k) (l : List Squad) :
    (l.filter (fun q => q.key != k)).find? (·.key == j) = l.find? (·.key == j) := by
  rw [List.find?_filter]
  refine List.find?_congr fun x _ => ?_
  by_cases hx : x.key = j
  · simp [hx, hj]
  · simp [hx]

/-- A squad that is found comes to the front, and every other one is still found among those behind it. -/
theorem focus_squads {k : SquadKey} {q : Squad} (h : s.findSq k = some q) :
    (s.focus k).sq = q ∧ ∀ j, j ≠ k → (s.focus k).squads.find? (·.key == j) = s.findSq j := by
  unfold State.findSq State.allSquads at h ⊢
  unfold State.focus State.isCur
  by_cases ha : s.sq.status = .absent
  · simp only [ha, if_true] at h ⊢
    rw [if_neg (by simp)]
    simp only [h]
    rw [focusTeam_only]
    exact ⟨rfl, fun j hj => find_filter_other hj _⟩
  · simp only [ha, if_false] at h ⊢
    by_cases hk : s.sq.key = k
    · rw [List.find?_cons_of_pos (by simpa using hk)] at h
      rw [if_pos (by simp [ha, hk])]
      refine ⟨Option.some.inj h, fun j hj => ?_⟩
      rw [List.find?_cons_of_neg]
      simpa [hk] using hj.symm
    · rw [List.find?_cons_of_neg (by simpa using hk)] at h
      rw [if_neg (by simp [hk])]
      simp only [h]
      rw [focusTeam_only]
      refine ⟨rfl, fun j hj => ?_⟩
      simp only [List.singleton_append, List.find?_cons, find_filter_other hj]

/-! ## The start of a run (R342) -/

/-- What a run that squad `k` starts on a core makes of another squad. -/
def passedBy (k : SquadKey) (core : Nat) (s : State) (q : Squad) : Squad :=
  let r := ((s.coreSquads core).map (fun x => (x.key, readyHere s x))).find? (·.1 == q.key)
  { q with
    yieldTo := q.yieldTo.filter (· != k)
    passed := match r with
      | none => q.passed
      | some r => if r.2 then q.passed + 1 else 0
    pended := match r with
      | none => q.pended
      | some r => if r.2 && !q.fast then q.pended + 1 else 0 }

theorem startRun_squads (k : SquadKey) (core : Nat) (s : State) :
    (startRun k core s).squads = (s.focus k).squads.map (passedBy k core s) := by
  unfold startRun
  extract_lets here t f
  show t.squads.map f = _
  rw [show t.squads = (s.focus k).squads by simp only [t]; rw [updCore_outside]]
  rfl

/-- A run passes by each other ready squad of the core, and one that was not ready begins anew. -/
theorem passedBy_counts (hn : (s.allSquads.map (·.key)).Nodup) (k : SquadKey) {core : Nat} {x : Squad} (hx : x ∈ s.coreSquads core) :
    (passedBy k core s x).passed = (if readyHere s x then x.passed + 1 else 0)
    ∧ (passedBy k core s x).pended = if readyHere s x = true ∧ x.fast = false then x.pended + 1 else 0 := by
  have hfind : ((s.coreSquads core).map (fun x => (x.key, readyHere s x))).find? (·.1 == x.key) = some (x.key, readyHere s x) := by
    rw [List.find?_map]
    exact congrArg (Option.map _) (find_of_nodup (nodup_coreSquads hn core) hx)
  refine ⟨by simp only [passedBy, hfind], ?_⟩
  simp only [passedBy, hfind]
  cases readyHere s x <;> cases x.fast <;> rfl

theorem startRun_sq {k : SquadKey} {q : Squad} (core : Nat) (h : s.findSq k = some q) : (startRun k core s).sq =
    { q with running := true, runPkts := [], wait := none, yieldTo := [], passed := 0, age := s.free } := by
  have hq : ((s.focus k).updCore core (fun c => { c with served := some k, turn := (s.getSq k).slot })).sq = q := by
    rw [updCore_outside]
    exact (focus_squads h).1
  rw [← hq]
  rfl

theorem startRun_core {k : SquadKey} {q : Squad} (core : Nat) (h : s.findSq k = some q) :
    ((startRun k core s).getCore core).served = some k ∧ ((startRun k core s).getCore core).turn = q.slot := by
  have hcore : (startRun k core s).getCore core = { (s.focus k).getCore core with served := some k, turn := (s.getSq k).slot } :=
    getCore_updCore (s.focus k) core (fun c => { c with served := some k, turn := (s.getSq k).slot }) fun _ => rfl
  rw [hcore, getSq_of_find h]
  exact ⟨rfl, rfl⟩

theorem startRun_outside (k : SquadKey) (core : Nat) (s : State) : (startRun k core s).mem = s.mem ∧ (startRun k core s).dies = s.dies
    ∧ (startRun k core s).part = s.part ∧ (startRun k core s).cmds = s.cmds := by
  unfold startRun
  extract_lets here t f
  have ht : t.mem = s.mem ∧ t.dies = s.dies ∧ t.part = s.part ∧ t.cmds = s.cmds := by
    simp only [t]
    rw [updCore_outside]
    exact focus_outside k s
  exact ht

theorem startRun_others (hn : (s.allSquads.map (·.key)).Nodup) {k : SquadKey} {q x : Squad} {core : Nat} (h : s.findSq k = some q)
    (hlive : q.status ≠ .absent) (hx : x ∈ s.coreSquads core) (hk : x.key ≠ k) :
    (startRun k core s).getSq x.key = passedBy k core s x := by
  have hsq := startRun_sq core h
  have hne : ((startRun k core s).sq.key == x.key) = false := by
    rw [hsq]
    simpa [(findSq_mem h).2] using hk.symm
  have hfind : (startRun k core s).findSq x.key = some (passedBy k core s x) := by
    have hst : (startRun k core s).sq.status ≠ .absent := by rw [hsq]; exact hlive
    rw [State.findSq, State.allSquads, if_neg hst, List.find?_cons_of_neg (by simp [hne]), startRun_squads, List.find?_map]
    have := (focus_squads h).2 x.key hk
    rw [findSq_of_mem hn (mem_coreSquads hx)] at this
    exact congrArg (Option.map (passedBy k core s)) this
  exact getSq_of_find hfind

theorem runIssue_goesOn {core : Nat} {k : SquadKey} (h : midRun s core = some k) : exec (.runIssue core) s = .next (s.focus k) := by
  show execRunIssue core s = _
  simp only [execRunIssue, h]

theorem runIssue_starts {core : Nat} {k : SquadKey} (h : midRun s core = none) (hw : winner (promoteDue core s) core = some k) :
    exec (.runIssue core) s = .next (startRun k core (promoteDue core s)) := by
  show execRunIssue core s = _
  simp only [execRunIssue, h, hw]

/-- The winner's run starts on what the promotions of the boundary leave. -/
theorem runIssue_completes (hn : (s.allSquads.map (·.key)).Nodup) {core : Nat} {k : SquadKey} {q : Squad} (h : midRun s core = none)
    (hw : winner (promoteDue core s) core = some k) (hq : (promoteDue core s).findSq k = some q) :
    let r := promoteDue core s
    Completes (.runIssue core) s fun t =>
      t.sq = { q with running := true, runPkts := [], wait := none, yieldTo := [], passed := 0, age := s.free }
      ∧ (t.getCore core).served = some k ∧ (t.getCore core).turn = q.slot
      ∧ (∀ x ∈ r.coreSquads core, x.key ≠ k → (t.getSq x.key).passed = (if readyHere r x then x.passed + 1 else 0)
        ∧ (t.getSq x.key).pended = if readyHere r x = true ∧ x.fast = false then x.pended + 1 else 0)
      ∧ t.mem = s.mem ∧ t.dies = s.dies ∧ t.part = r.part ∧ t.cmds = s.cmds := by
  have hm := promoteDue_moves core s
  have hn' := hm.nodup hn
  have hlive : q.status ≠ .absent := by
    obtain ⟨x, hx, hkey, ha, -⟩ := winner_candidate hw
    have hxq := findSq_of_mem hn' (mem_coreSquads hx)
    rw [hkey, hq] at hxq
    cases hxq
    simp only [active, Bool.and_eq_true, beq_iff_eq] at ha
    obtain ⟨⟨⟨-, hst⟩, -⟩, -⟩ := ha
    rw [hst]
    decide
  obtain ⟨hserved, hturn⟩ := startRun_core core hq
  obtain ⟨hmem, hdies, hpart, hcmds⟩ := startRun_outside k core (promoteDue core s)
  refine ⟨_, runIssue_starts h hw, by rw [startRun_sq core hq, hm.free], hserved, hturn, fun x hx hk => ?_, ?_, ?_, hpart, ?_⟩
  · rw [startRun_others hn' hq hlive hx hk]
    exact passedBy_counts hn' k hx
  · rw [hmem, hm.only]
  · rw [hdies, hm.only]
  · rw [hcmds, hm.only]

/-! ## Where a run ends (R97, R103) -/

/-- Bit 31 of a word's encoding. -/
theorem encode_bit31 {i : Instr} (hi : isWord i = true) : ∃ w, encode i = [w] ∧ w.getLsbD 31 = bit31 i := by
  cases i with
  | matrixKStep | singleKeyOperation | engineShoePublish | ticketFill | barSyncCompletion | shoeConfigure
  | producerWrite | mergeStep | shoeTakeServe | runIssue | squadDemotion | squadPromotion | squadRetirement
  | squadStop | powerTokenPass | subarrayPowerGate | subarrayWake | queueRecordTake | kernelNodeFire | recordNodeFire
  | recordNodeTimeout | conditionalNodeFire | whileNodeFire | launchStart | teamStart | launchCompletion
  | jobCompletion | graphRegistration | preemptionRequest | drainLimitExpiry | teamContextSave | teamResume
  | pageWalk | shootDown | promotion | migrationRequest | migrationCompletion | hostMemoryAccess | peerAccess
  | linkPortDown | throttle | reset | firmwareReady | attestationReport | bootstRead | notificationRingSetup
  | mgmtRegisterWrite | coreCounterClear | objectLoad | objectUnload | debugStop | causalExperiment
  | waitForGraphSample | registerParityFailure | dieL2Acceptance | homeAcceptance | linkRetrainComplete => cases hi
  | nop | seg | deal | fold | ret | yield | ifence | l1inv => exact ⟨_, rfl, fmtWS_bit_31 ..⟩
  | nxt | nxtc | nxti | eret => exact ⟨_, rfl, fmtWB_bit_31 ..⟩
  | call | callp | trap | brk | movk | movkh => exact ⟨_, rfl, fmtWK_bit_31 ..⟩
  | iaddi | andi | ori | xori | shli | shri | sari | iceqi | iclti | icltui => exact ⟨_, rfl, fmtWI_bit_31 ..⟩
  | ld | ldsx | st | ldsc | stsc | amo | amor | cas | fence | pf => exact ⟨_, rfl, fmtWM_bit_31 ..⟩
  | tld | tst | tmov | zrd => exact ⟨_, rfl, fmtWT_bit_31 ..⟩
  | zclr | zxf | mma | mmas => exact ⟨_, rfl, fmtWX_bit_31 ..⟩
  | engStk | engCpy | engDense | engSpar | engDsp | engCmb | engQapp | engGcond | engLvlw | engCancel | engHash | engKgrow
  | barArrive | barWait | barSync | sysRdsr | sysWrsr | sysHalt => exact ⟨_, rfl, fmtWE_bit_31 ..⟩
  | _ => exact ⟨_, rfl, fmtW3_bit_31 ..⟩

/-- A retiring chain of one word ends the run after word 2 where bit 31 is set or the packet is the eighth. -/
theorem retire_run (rb : Bool) (s : State) :
    let pkts := if s.sq.runPkts.head? = some s.sq.pkt then s.sq.runPkts else s.sq.pkt :: s.sq.runPkts
    let ends := 2 ≤ s.sq.word ∧ (rb = true ∨ 8 ≤ pkts.length)
    (ends → (retire 1 rb s).sq.running = false ∧ (retire 1 rb s).sq.runPkts = [])
    ∧ (¬ ends → (retire 1 rb s).sq.running = s.sq.running ∧ (retire 1 rb s).sq.runPkts = pkts) := by
  intro pkts ends
  have hfin : (decide (3 ≤ s.sq.word + 1) && (rb || decide (8 ≤ pkts.length))) = true ↔ ends := by
    simp only [Bool.and_eq_true, Bool.or_eq_true, decide_eq_true_eq, ends, Nat.succ_le_succ_iff]
  have hrun : (retire 1 rb s).sq.running = (s.sq.running && !(decide (3 ≤ s.sq.word + 1) && (rb || decide (8 ≤ pkts.length)))) := rfl
  have hpkts : (retire 1 rb s).sq.runPkts = if (decide (3 ≤ s.sq.word + 1) && (rb || decide (8 ≤ pkts.length))) then [] else pkts := rfl
  rw [hrun, hpkts]
  constructor
  · intro h
    rw [hfin.2 h]
    exact ⟨Bool.and_false _, rfl⟩
  · intro h
    rw [Bool.eq_false_iff.2 (mt hfin.1 h)]
    exact ⟨Bool.and_true _, rfl⟩

end

/-- Settles O52: the moves of contexts, the start of a run and the end of one, each by its lemma above. -/
theorem schedulerMoves : Obligations.SchedulerMoves := by
  unfold Obligations.SchedulerMoves
  refine ⟨fun s core k hn => ?files, fun i s hi h => ⟨fun u hu => ?ends, fun x hx => ?waits⟩⟩
  case files =>
    intro moved onlyMoves
    refine ⟨runIssue_goesOn, fun q h hw hq => ⟨(promoteDue_moves core s).only, runIssue_completes hn h hw hq⟩, fun h => ⟨?_, ?_⟩,
      promoteDue_nil, fun q => promoteDue_one, fun q hq hslow => ⟨fun i => promote_free hq, fun out => promote_full hn hq hslow⟩,
      fun out => placeTaken_least, fun q hq hfast hlive hrun hlong => ?_, fun q i hq hc hi ho => ?_⟩
    · obtain ⟨q, hq, hk, ha, hr⟩ := winner_candidate h
      simp only [active, Bool.and_eq_true, beq_iff_eq] at ha
      obtain ⟨⟨⟨hfast, hst⟩, -⟩, -⟩ := ha
      exact ⟨q, hq, hk, hfast, hst, hr⟩
    · exact fun y hy x hx hk ha => winner_yields h hy hx hk ha
    · have hd : demotable s q = true := by simp [demotable, hfast, hlive, hrun, hlong]
      refine ⟨fun hroom => ?_, fun hfull halone => ?_⟩
      · obtain ⟨t, he, hk, hm, ho⟩ := squadDemotion_room hn hq hd hroom
        exact ⟨t, he, hk, hm.only, ho⟩
      · obtain ⟨hnone, hsome⟩ := squadDemotion_full hn hq hd hfast hfull halone
        refine ⟨hnone, fun o ho => ?_⟩
        obtain ⟨t, he, hk, hko, hm⟩ := hsome o ho
        exact ⟨t, he, hk, hko, hm.only⟩
    · subst hc
      obtain ⟨t, he, hk, hm⟩ := squadPromotion_completes hq hi ho
      exact ⟨t, he, hk, hm.only⟩
  case ends =>
    obtain ⟨w, hw, h31⟩ := encode_bit31 hi
    refine ⟨retire 1 (bit31 i) s, w, issued_retire _ s, (exec_word hi s).trans (issueWord_done h hu), hw, ?_⟩
    rw [h31]
    exact retire_run (bit31 i) s
  case waits => exact (exec_word hi s).trans (issueWord_wait h hx)

end Sys2Proof.Machine
end

/-! # Float arithmetic and the cross-lane words (R47, R49, R170, R172, R175, R177, R190 to R195) -/

section
namespace Sys2Proof.Machine

-- One after the other, as above: the check's memory limit bounds the stacks of parallel elaboration.
set_option Elab.async false

section
variable {i : Instr} {own : State → WordOut} {d : Opnd} {s : State} {f : Nat → Word}

/-! ## New NaNs (R49, R172) -/

theorem nanReport_none {bad : Nat → Bool}
    (h : fmtNT s.sq.fmt = true → ∀ l, (if d.isS then l = 0 else s.sq.em.getLsbD l = true) → bad l = false) :
    nanReport d bad s = none := by
  unfold nanReport
  by_cases hnt : fmtNT s.sq.fmt = true
  · have hbad := h hnt
    by_cases hS : d.isS = true
    · simp only [if_pos hS] at hbad
      simp [hnt, hS, hbad 0 rfl]
    · simp only [if_neg hS] at hbad
      simp [hnt, hS, no_faulting_lanes _ _ hbad, lanesReport]
  · simp [hnt]

/-- A new NaN under NT ends the word in the trap of cause 0x0C: by lanes, or once for a uniform destination. -/
theorem nanReport_traps {bad : Nat → Bool} {P : Nat → Prop} (hP : ∀ l, bad l = true ↔ P l) (hr : ReadyFor i s)
    (he : exec i s = issueWord i own s) (hnt : fmtNT s.sq.fmt = true)
    (hex : ∃ l, (if d.isS then l = 0 else s.sq.em.getLsbD l = true) ∧ P l)
    (ho : ∀ r, nanReport d bad s = some r → own s = .trap r) :
    if d.isS then UniTrap 0x0C#8 0#64 i s else LaneTrap 0x0C#8 P (fun _ => 0#64) i s := by
  unfold nanReport at ho
  by_cases hS : d.isS = true
  · simp only [if_pos hS] at hex ⊢
    obtain ⟨l, rfl, hl⟩ := hex
    exact trap_completes hr he (ho _ (by simp [hnt, hS, (hP 0).2 hl]))
  · simp only [if_neg hS] at hex ⊢
    exact laneTrap_of hr he hP hex fun l r h => ho _ (by simp [hnt, hS, h, lanesReport])

/-- A word that traps where a lane of it becomes NaN anew, and else writes a 32-bit result. -/
theorem nanWord_outcome {bad : Nat → Bool} {P : Nat → Prop} (hP : ∀ l, bad l = true ↔ P l) (hr : ReadyFor i s)
    (hd : d.isS = true ∨ d.isV = true ∨ d.isP = true) (he : exec i s = issueWord i own s)
    (ho : own s = faultOr (nanReport d bad s) (putF d f s)) :
    ((fmtNT s.sq.fmt = true → ∀ l, (if d.isS then l = 0 else s.sq.em.getLsbD l = true) → ¬ P l) →
      Completes i s (Result32 d f s))
    ∧ (fmtNT s.sq.fmt = true → (∃ l, (if d.isS then l = 0 else s.sq.em.getLsbD l = true) ∧ P l) →
      if d.isS then UniTrap 0x0C#8 0#64 i s else LaneTrap 0x0C#8 P (fun _ => 0#64) i s) := by
  refine ⟨fun h => putF_completes f hd hr he ?_, fun hnt hex => nanReport_traps hP hr he hnt hex fun r h => ?_⟩
  · rw [ho, nanReport_none fun hnt l hl => Bool.eq_false_iff.2 fun hb => h hnt l hl ((hP l).1 hb), faultOr]
  · rw [ho, h, faultOr]

theorem noNewNaN_iff_no_lane {srcs : List Opnd} : NoNewNaN d srcs f s ↔ (fmtNT s.sq.fmt = true →
    ∀ l, (if d.isS then l = 0 else s.sq.em.getLsbD l = true) →
      ¬ (isNaN32 (f l) = true ∧ ∀ o ∈ srcs, isNaN32 (val32 s o l) = false)) := by
  simp [NoNewNaN]

theorem floatWord_outcome {srcs : List Opnd} {f : State → Nat → Word}
    (he : ∀ s, exec i s = issueWord i (fun s => floatWord d srcs (f s) s) s)
    (hd : i.wf = true → d.isS = true ∨ d.isV = true ∨ d.isP = true) : FloatWord i d srcs f := by
  intro s hr
  have h := nanWord_outcome (P := fun l => isNaN32 (f s l) = true ∧ ∀ o ∈ srcs, isNaN32 (val32 s o l) = false)
    (fun l => by simp) hr (hd hr.wf) (he s) rfl
  refine ⟨fun hn => h.1 (noNewNaN_iff_no_lane.1 hn), fun hn => ?_⟩
  rw [noNewNaN_iff_no_lane] at hn
  push Not at hn
  obtain ⟨hnt, l, hl, hbad⟩ := hn
  exact h.2 hnt ⟨l, hl, hbad⟩

end

/-- Settles O20: each word is a `floatWord` of its sources. -/
theorem floatArithmetic : Obligations.FloatArithmetic := by
  unfold Obligations.FloatArithmetic
  intro c e f d a b
  refine ⟨?fadd, ?fsub, ?fmul, ?ffma, ?frcp, ?frsq, ?fsqrt, ?fexp2, ?flog2⟩
  all_goals exact floatWord_outcome (fun _ => rfl) fun hw => (fpForm_dst hw).2

/-! ## FFMA.h2 (R175) -/

/-- A half becomes NaN anew exactly where its result is NaN and none of its three operands is. -/
theorem newNaN2_iff (d x y : Word) (h : Nat) : newNaN2 d x y h = true ↔ isNaN16 (fusedIn fp16 (half d h) (half x h) (half y h)) = true
    ∧ ¬ isNaN16 (half d h) = true ∧ ¬ isNaN16 (half x h) = true ∧ ¬ isNaN16 (half y h) = true := by
  simp [newNaN2, and_assoc]

theorem exists_lt_two {p : Nat → Prop} : (∃ k, k < 2 ∧ p k) ↔ p 0 ∨ p 1 := by
  simp only [Nat.exists_lt_succ_right, Nat.not_lt_zero, false_and, exists_false, false_or]

/-- Settles O21: the two halves of a word are the cases of a new NaN. -/
theorem floatPackedFma : Obligations.FloatPackedFma := by
  unfold Obligations.FloatPackedFma
  intro c e f d a b s hr h r nan bad
  refine nanWord_outcome (own := ownFfma d a b true) (P := bad) (fun l => ?_) hr (fpForm_dst hr.wf).2 rfl rfl
  rw [Bool.or_eq_true, ← exists_lt_two (p := fun k => newNaN2 (val32 s d l) (val32 s a l) (val32 s b l) k = true)]
  exact exists_congr fun k => and_congr_right' (newNaN2_iff _ _ _ k)

/-! ## The lanes' values together (R190 to R195) -/

section
variable {d a : Opnd} {s : State}

/-- The low five bits of an index select the lane that is read (R190, R193). -/
theorem extractLsb'_five {w : Nat} (x : BitVec w) : (x.extractLsb' 0 5).toNat = x.toNat % 32 := by
  simp

/-- The votes are the one mask whose lanes are active and not 0 (R194). -/
theorem votes_eq {m : Mask} (h : ∀ l, l < 32 → (m.getLsbD l = true ↔ s.sq.em.getLsbD l = true ∧ val32 s a l ≠ 0#32)) :
    votes a s = m := by
  apply BitVec.eq_of_getLsbD_eq
  intro l hl
  rw [votes, getLsbD_maskOf _ hl, Bool.eq_iff_iff, h l hl]
  simp

/-- Adding words one after the other comes to their sum modulo 2^32 (R195). -/
theorem foldl_add_word (g : Nat → Word) (ls : List Nat) (x : Word) :
    ls.foldl (fun x l => x + g l) x = x + BitVec.ofNat 32 (ls.map fun l => (g l).toNat).sum := by
  induction ls generalizing x with
  | nil => simp
  | cons l r ih => rw [List.foldl_cons, ih, List.map_cons, List.sum_cons, BitVec.ofNat_add, BitVec.ofNat_toNat, BitVec.setWidth_eq,
      BitVec.add_assoc]

theorem reduceAdd_int : reduceAdd false a s = BitVec.ofNat 32 ((Mask.list s.sq.em).map fun l => (val32 s a l).toNat).sum := by
  have h := foldl_add_word (val32 s a) (Mask.list s.sq.em) 0#32
  rwa [BitVec.zero_add] at h

/-- The lesser of two signed words, the first where they are equal. -/
def lesser (x y : Word) : Word := if y.slt x then y else x

theorem lesser_cases (x y : Word) : lesser x y = x ∨ lesser x y = y := by
  unfold lesser
  split
  · exact .inr rfl
  · exact .inl rfl

theorem lesser_toInt (x y : Word) : (lesser x y).toInt ≤ x.toInt ∧ (lesser x y).toInt ≤ y.toInt := by
  unfold lesser
  split
  next h => rw [BitVec.slt_iff_toInt_lt] at h; omega
  next h => rw [BitVec.slt_iff_toInt_lt] at h; omega

/-- The least of words taken one after the other is one of them, and none lies below it. -/
theorem foldl_lesser (g : Nat → Word) (ls : List Nat) (x : Word) :
    let m := ls.foldl (fun x l => lesser x (g l)) x
    (m = x ∨ ∃ l ∈ ls, m = g l) ∧ m.toInt ≤ x.toInt ∧ ∀ l ∈ ls, m.toInt ≤ (g l).toInt := by
  induction ls generalizing x with
  | nil => simp
  | cons l r ih =>
    obtain ⟨hmem, hx, hr⟩ := ih (lesser x (g l))
    obtain ⟨hleft, hright⟩ := lesser_toInt x (g l)
    refine ⟨?_, hx.trans hleft, List.forall_mem_cons.2 ⟨hx.trans hright, hr⟩⟩
    rcases hmem with h | ⟨k, hk, h⟩
    · rcases lesser_cases x (g l) with h' | h'
      · exact .inl (h.trans h')
      · exact .inr ⟨l, List.mem_cons_self, h.trans h'⟩
    · exact .inr ⟨k, List.mem_cons_of_mem _ hk, h⟩

theorem reduceMin_int {l : Nat} {r : List Nat} (h : Mask.list s.sq.em = l :: r) :
    reduceMin false a s = r.foldl (fun x k => lesser x (val32 s a k)) (val32 s a l) := by
  simp only [reduceMin, h, Bool.false_eq_true, if_false, lesser]

/-- The signed RDMIN is the value of an active lane, and no active lane has a lesser one (R195). -/
theorem reduceMin_least (hem : s.sq.em ≠ 0#32) : (∃ l, s.sq.em.getLsbD l = true ∧ reduceMin false a s = val32 s a l)
    ∧ ∀ l, s.sq.em.getLsbD l = true → (reduceMin false a s).toInt ≤ (val32 s a l).toInt := by
  simp only [← mem_maskList]
  cases h : Mask.list s.sq.em with
  | nil =>
    refine absurd (BitVec.eq_of_getLsbD_eq fun l _ => ?_) hem
    have hl : ¬ s.sq.em.getLsbD l = true := by rw [← mem_maskList, h]; exact List.not_mem_nil
    simpa using hl
  | cons l r =>
    rw [reduceMin_int h]
    obtain ⟨hmem, hl, hr⟩ := foldl_lesser (val32 s a) r (val32 s a l)
    refine ⟨?_, List.forall_mem_cons.2 ⟨hl, hr⟩⟩
    rcases hmem with h' | ⟨k, hk, h'⟩
    · exact ⟨l, List.mem_cons_self, h'⟩
    · exact ⟨k, List.mem_cons_of_mem _ hk, h'⟩

/-- RDADD.f becomes NaN while no active lane of its source is, under NT (R49). -/
def SumTraps (a : Opnd) (s : State) : Prop :=
  fmtNT s.sq.fmt = true ∧ isNaN32 (reduceAdd true a s) = true ∧ ∀ l, s.sq.em.getLsbD l = true → isNaN32 (val32 s a l) = false

theorem sumTraps_iff : (true && fmtNT s.sq.fmt && isNaN32 (reduceAdd true a s)
    && !(Mask.list s.sq.em).any (fun l => isNaN32 (val32 s a l))) = true ↔ SumTraps a s := by
  simp [SumTraps, mem_maskList, and_assoc]

theorem ownRdadd_int : ownRdadd d a false s = .done (putF d (fun _ => reduceAdd false a s) s) := by
  simp [ownRdadd]

theorem ownRdadd_sum (h : ¬ SumTraps a s) : ownRdadd d a true s = .done (putF d (fun _ => reduceAdd true a s) s) :=
  if_neg (sumTraps_iff.not.2 h)

theorem ownRdadd_trap (h : SumTraps a s) :
    ownRdadd d a true s = .trap ⟨0x0C#8, BitVec.ofNat 64 (lowest s.sq.em), 0#64, s.sq.em⟩ :=
  if_pos (sumTraps_iff.2 h)

end

/-- The destination of a word that admits a v register alone. -/
theorem dst_of_isV {d : Opnd} (h : d.isV = true) : d.isS = true ∨ d.isV = true ∨ d.isP = true := .inr (.inl h)

/-- Settles O25: each word writes its lanes' values, put together as the lemmas above say. -/
theorem crossLaneWords : Obligations.CrossLaneWords := by
  unfold Obligations.CrossLaneWords
  intro c e f d a b s
  refine ⟨fun h => ?shfl, fun h => ?shup, fun h => ?shdn, fun h => ?bcast, fun m hm => ⟨fun h => ?vany, fun h => ?vbal⟩,
    fun h => ?rdadd, ?rdaddf, fun m h => ?rdmin, reduceMin_least⟩
  case shfl =>
    refine putF_completes (own := ownShfl d a b) _ (dst_of_isV (Bool.and_elim_left h.wf)) h rfl ?_
    simp only [extractLsb'_five, ownShfl]
  case shup =>
    exact putF_completes (own := ownShup d a b) _ (dst_of_isV (Bool.and_elim_left (Bool.and_elim_left h.wf))) h rfl rfl
  case shdn =>
    exact putF_completes (own := ownShdn d a b) _ (dst_of_isV (Bool.and_elim_left (Bool.and_elim_left h.wf))) h rfl rfl
  case bcast =>
    refine putF_completes (own := ownBcast d a b) _ (dst_of_isV (Bool.and_elim_left (Bool.and_elim_left h.wf))) h rfl ?_
    simp only [extractLsb'_five, ownBcast]
  case vany =>
    refine putF_completes (own := ownVany d a) _ (.inr ((Bool.or_eq_true _ _).mp (Bool.and_elim_left h.wf))) h rfl ?_
    rw [ownVany, votes_eq hm]
  case vbal =>
    refine putF_completes (own := ownVbal d a) _ (dst_of_isV (Bool.and_elim_left h.wf)) h rfl ?_
    rw [ownVbal, votes_eq hm]
  case rdadd =>
    rw [← reduceAdd_int]
    exact putF_completes (own := ownRdadd d a false) _ (dst_of_isV (Bool.and_elim_left h.wf)) h rfl ownRdadd_int
  case rdaddf =>
    intro sum trap h
    exact ⟨fun ht => putF_completes (own := ownRdadd d a true) _ (dst_of_isV (Bool.and_elim_left h.wf)) h rfl (ownRdadd_sum ht),
      fun ht => trap_completes (own := ownRdadd d a true) h rfl (ownRdadd_trap ht)⟩
  case rdmin => exact putF_completes (own := ownRdmin d a m) _ (dst_of_isV (Bool.and_elim_left h.wf)) h rfl rfl

end Sys2Proof.Machine
end

/-! # The k-steps of matrix words (R40, R43, R48, R279) -/

section
namespace Sys2Proof.Machine

-- One after the other, as above: the check's memory limit bounds the stacks of parallel elaboration.
set_option Elab.async false

/-! ## Elements of a tile -/

/-- Patching replaces the bits of its field and no other. -/
theorem getLsbD_patch {n w : Nat} (x : BitVec n) (lo : Nat) (y : BitVec w) {k : Nat} (hk : k < n) :
    (patch x lo y).getLsbD k = if lo ≤ k ∧ k < lo + w then y.getLsbD (k - lo) else x.getLsbD k := by
  have hfield : ((BitVec.allOnes w).setWidth n <<< lo).getLsbD k = decide (lo ≤ k ∧ k < lo + w) := by
    rw [Bool.eq_iff_iff]
    simp [hk]
    omega
  have hnew : (y.setWidth n <<< lo).getLsbD k = (decide (lo ≤ k) && y.getLsbD (k - lo)) := by
    by_cases h : lo ≤ k
    · simp [hk, h, Nat.not_lt.2 h]
    · simp [h, Nat.lt_of_not_le h]
  rw [patch, BitVec.getLsbD_or, BitVec.getLsbD_and, BitVec.getLsbD_not, hfield, hnew]
  by_cases hlo : lo ≤ k
  · by_cases hhi : k < lo + w
    · simp [hk, hlo, hhi]
    · simp [hk, hlo, hhi, BitVec.getLsbD_of_ge y (k - lo) (by omega)]
  · simp [hk, hlo]

/-- Writing one element of a tile changes that element and no other; beyond column 63 there is none. -/
theorem zElem_zPut (t : Lanes (BitVec 2304)) (i c : Nat) (x : BitVec 36) {j e : Nat} (hj : j < 32) (he : e < 64) :
    zElem (zPut t i c x) j e = if i = j ∧ c = e then x else zElem t j e := by
  unfold zElem zPut
  rw [vget_vset]
  by_cases hi : i = j
  · subst hi
    rw [if_pos ⟨rfl, hj⟩]
    apply BitVec.eq_of_getLsbD_eq
    intro k hk
    rw [BitVec.getLsbD_extractLsb', getLsbD_patch _ _ _ (by omega)]
    by_cases hc : c = e
    · subst hc
      simp [hk]
    · have hout : ¬ (36 * c ≤ 36 * e + k ∧ 36 * e + k < 36 * c + 36) := by omega
      simp [hc, hout]
  · simp [hi]

/-! ## One k-step of a tile (R40) -/

section
variable (c : Core) (q : Squad) (arith : Nat) (r : MProg) (tile : Lanes (BitVec 2304)) (k : Nat)

/-- What `stepTile` does with one element, given by its row and column. -/
def stepElem (a : StepRes) (x : Nat × Nat) : StepRes :=
  let old := zElem tile x.1 x.2
  let y := elemStep c q arith r old k x.1 x.2
  { tile := zPut a.tile x.1 x.2 y.1
    clip := a.clip || y.2
    nans := if !fmtIA r.fmt && isNaN36 y.1 && !isNaN36 old then a.nans ++ [x] else a.nans }

/-- The elements that a word names: the rows of its mask by the columns of its stock descriptor. -/
def namedElems (r : MProg) : List (Nat × Nat) :=
  (Mask.list r.em).flatMap fun i => (List.range (sdNcol r.sd + 1)).map fun col => (i, col)

theorem mem_namedElems {i col : Nat} : (i, col) ∈ namedElems r ↔ r.em.getLsbD i = true ∧ col ≤ sdNcol r.sd := by
  simp [namedElems, mem_maskList]

theorem stepTile_eq : stepTile c q arith r tile k = (namedElems r).foldl (stepElem c q arith r tile k) ⟨tile, false, []⟩ := by
  rw [namedElems, List.foldl_flatMap]
  simp only [List.foldl_map]
  rfl

/-- Each element is read as it stood before the k-step, so neither the order of the elements nor a repeated one matters. -/
theorem zElem_foldl_stepElem (xs : List (Nat × Nat)) (a : StepRes) {i col : Nat} (hi : i < 32) (hc : col < 64) :
    zElem (xs.foldl (stepElem c q arith r tile k) a).tile i col =
      if (i, col) ∈ xs then (elemStep c q arith r (zElem tile i col) k i col).1 else zElem a.tile i col := by
  induction xs generalizing a with
  | nil => simp
  | cons x xs ih =>
    obtain ⟨j, e⟩ := x
    rw [List.foldl_cons, ih, stepElem, zElem_zPut _ _ _ _ hi hc]
    by_cases hx : j = i ∧ e = col
    · obtain ⟨rfl, rfl⟩ := hx
      simp
    · have hne : (i, col) ≠ (j, e) := fun h => hx ⟨(congrArg Prod.fst h).symm, (congrArg Prod.snd h).symm⟩
      simp [hx, hne]

theorem zElem_stepTile {i col : Nat} (hi : i < 32) (hc : col < 64) : zElem (stepTile c q arith r tile k).tile i col =
    if r.em.getLsbD i = true ∧ col ≤ sdNcol r.sd then (elemStep c q arith r (zElem tile i col) k i col).1 else zElem tile i col := by
  rw [stepTile_eq, zElem_foldl_stepElem c q arith r tile k _ _ hi hc]
  simp only [mem_namedElems]

end

section
variable {s : State} {core : Nat} {q : Squad} {tm : Team} {r : MProg} {rest : List MProg} {p : Nat}

/-! ## Setting a tile of a core -/

theorem lt_of_ownedTiles {owner : List (BitVec 8)} {sqid z : Nat} (h : (ownedTiles owner sqid)[z]? = some p) : p < 8 :=
  List.mem_range.1 (List.mem_filter.1 (List.mem_of_getElem? h)).1

theorem setTile_outside (core p : Nat) (tile : Lanes (BitVec 2304)) (ovf : Bool) (s : State) :
    setTile core p tile ovf s = { s with core := (setTile core p tile ovf s).core, cores := (setTile core p tile ovf s).cores } :=
  updCore_outside s core _

theorem z_getCore_setTile (core p : Nat) (tile : Lanes (BitVec 2304)) (ovf : Bool) (s : State) :
    ((setTile core p tile ovf s).getCore core).z = vset (s.getCore core).z p tile := by
  rw [setTile, getCore_updCore]
  exact fun _ => rfl

theorem getSq_setTile (core p : Nat) (tile : Lanes (BitVec 2304)) (ovf : Bool) (s : State) (k : SquadKey) :
    (setTile core p tile ovf s).getSq k = s.getSq k := by
  rw [setTile_outside]
  rfl

theorem getCore_updSq (s : State) (k : SquadKey) (f : Squad → Squad) (i : Nat) : (s.updSq k f).getCore i = s.getCore i := by
  rw [updSq_outside]
  rfl

/-! ## MATRIX_K_STEP -/

theorem exec_matrixKStep_one (core : Nat) (k : SquadKey) (s : State) : exec (.matrixKStep core [k]) s = .next (kStep core k s) := rfl

/-- A squad of a saved team, or one at its run boundary under a pre-emption, steps no more (R279). -/
theorem kStep_stopped (hq : s.findSq q.key = some q) (ht : s.findTeam q.key.team = some tm) (h : stepsStopped tm q = true) :
    kStep core q.key s = s := by
  simp only [kStep, getSq_of_find hq, State.getTeam, ht, Option.getD_some]
  split
  · rfl
  · split
    · rfl
    · exact if_pos (by simp [h])

/-- The arithmetic revision of the object that a squad runs (R46). -/
def arithOf (s : State) (q : Squad) : Nat := ((s.findObj (s.getLaunch q.key.lid).lr.obj).map (·.arith)).getD s.obj.arith

/-- The squad's words after a step of the oldest: it has made one step more, or leaves. -/
def stepWords (r : MProg) (rest : List MProg) : List MProg :=
  if (mshape r.word).steps ≤ r.done + 1 then rest else { r with done := r.done + 1 } :: rest

/-- The squad with other matrix words in its pipe. -/
def withWords (ws : List MProg) (q : Squad) : Squad := { q with mprog := ws }

/-- A step that meets no trap (R40, R48). -/
theorem kStep_steps (hq : s.findSq q.key = some q) (ht : s.findTeam q.key.team = some tm) (hcore : tm.core = core)
    (hrun : stepsStopped tm q = false) (hw : q.mprog = r :: rest) (hp : (ownedTiles tm.owner q.key.sqid)[(mshape r.word).z]? = some p)
    (htrick : trickMayStart s (s.getCore core) r = true)
    (hnan : fmtNT r.fmt = false ∨ (stepTile (s.getCore core) q (arithOf s q) r (vget (s.getCore core).z p) r.done).nans = []) :
    let c := s.getCore core
    let x := stepTile c q (arithOf s q) r (vget c.z p) r.done
    kStep core q.key s = setTile core p x.tile (c.ovf.getLsbD p || x.clip)
      (s.updSq q.key (withWords (stepWords r rest))) := by
  intro c x
  have hstop : (tm.core != core || stepsStopped tm q || !trickMayStart s c r) = false := by simp [hcore, hrun, c, htrick]
  have hnt : (fmtNT r.fmt && !x.nans.isEmpty) = false := by
    rcases hnan with h | h
    · rw [h, Bool.false_and]
    · rw [show x.nans = [] from h]; simp
  simp only [kStep, getSq_of_find hq, State.getTeam, ht, Option.getD_some, hw, hp]
  rw [if_neg (Bool.eq_false_iff.1 hstop)]
  exact if_neg (Bool.eq_false_iff.1 hnt)

/-- What a step changes: the tile, the squad's words, and nothing in memory, the dies or the part. -/
theorem setTile_withWords_effect (hq : s.findSq q.key = some q) (hp : p < 8) (tile : Lanes (BitVec 2304)) (ovf : Bool) (ws : List MProg) :
    let t := setTile core p tile ovf (s.updSq q.key (withWords ws))
    vget (t.getCore core).z p = tile ∧ (∀ k, k ≠ p → vget (t.getCore core).z k = vget (s.getCore core).z k)
      ∧ (t.getSq q.key).mprog = ws ∧ (∀ a, t.mem.read a = s.mem.read a) ∧ t.dies = s.dies ∧ t.part = s.part := by
  intro t
  have hz : (t.getCore core).z = vset (s.getCore core).z p tile := by rw [z_getCore_setTile, getCore_updSq]
  obtain ⟨hmem, hrest⟩ : t.mem = s.mem ∧ t.dies = s.dies ∧ t.part = s.part := by
    simp only [t]
    rw [setTile_outside, updSq_outside]
    exact ⟨rfl, rfl, rfl⟩
  refine ⟨?_, fun k hk => ?_, ?_, fun a => by rw [hmem], hrest⟩
  · rw [hz, vget_vset, if_pos ⟨rfl, hp⟩]
  · rw [hz, vget_vset, if_neg fun h => hk h.1.symm]
  · rw [getSq_setTile, getSq_updSq (f := withWords ws) hq (fun _ => rfl) fun _ h => h, withWords]

end

/-- Settles O40: the step sets the tile of `stepTile`, whose elements `zElem_stepTile` gives. -/
theorem matrixStep : Obligations.MatrixStep := by
  unfold Obligations.MatrixStep
  intro s core q tm r rest p hq ht
  refine ⟨fun h => ?stopped, fun hcore hrun hw hp htrick hnan => ?steps⟩
  case stopped =>
    have hstop : stepsStopped tm q = true := by
      rcases h with h | ⟨h, hq⟩
      · simp [stepsStopped, h]
      · simp [stepsStopped, h, hq]
    rw [exec_matrixKStep_one, kStep_stopped hq ht hstop]
  case steps =>
    refine ⟨_, exec_matrixKStep_one core q.key s, ?_⟩
    rw [kStep_steps hq ht hcore hrun hw hp htrick hnan]
    obtain ⟨htile, hother⟩ := setTile_withWords_effect (core := core) hq (lt_of_ownedTiles hp)
      (stepTile (s.getCore core) q (arithOf s q) r (vget (s.getCore core).z p) r.done).tile _ (stepWords r rest)
    refine ⟨fun i col hi hc => ?_, hother⟩
    rw [htile, zElem_stepTile _ _ _ _ _ _ hi hc]
    rfl

end Sys2Proof.Machine
end

/-! # Affine destinations and checked overflow (R52, R59, R60, R150, R152, R160, R162, Table 5-4) -/

section
namespace Sys2Proof.Machine
-- One after the other, as above: the check's memory limit bounds the stacks of parallel elaboration.
set_option Elab.async false

section
variable {s : State} {c e f m : Bool} {d a b : Opnd}

/-! ## Classes of operands (R57, R59) -/

theorem isA_of_affine_form {j : Cls} {aff : Bool} (h : intForm aff d j = true) (hd : d.isA = true) : aff = true ∧ j = .a := by
  cases d <;> simp [Opnd.isA] at hd
  cases j <;> simp_all [intForm, dstOk, Opnd.isS, Opnd.isV, Opnd.isP]

theorem affine_of_uniform (h : a.cls = .u) : affine s a = (uval s a, 0#64) := by
  cases a <;> simp_all [Opnd.cls, affine]

theorem val_of_uniform (h : a.cls = .u) (l : Nat) : val s a l = uval s a := by
  cases a <;> simp_all [Opnd.cls, val, uval]

/-! ## The one check of checked words (R60, R150) -/

/-- The check of a word with true value `tv`: once for a uniform destination, by lanes for an affine or varying one. -/
def overflowCheck (tv : Nat → Int → Int → Int) (d a b : Opnd) (s : State) : Option Report :=
  if d.isS then checkOverflow s true 64 (fun _ => tv 64 (uval s a).toInt (uval s b).toInt)
  else if d.isA then checkOverflow s false 64 (fun l => tv 64 (val s a l).toInt (val s b l).toInt)
  else checkOverflow s false 32 (fun l => tv 32 (val32 s a l).toInt (val32 s b l).toInt)

theorem overflowCheck_none {tv : Nat → Int → Int → Int} (h : InRange tv d a b s) : overflowCheck tv d a b s = none := by
  unfold overflowCheck
  unfold InRange FitsIn at h
  by_cases hS : d.isS = true
  · rw [if_pos hS] at h ⊢
    exact checkOverflow_uniform h
  · rw [if_neg hS] at h ⊢
    by_cases hA : d.isA = true
    · simp only [if_pos hA] at h ⊢
      exact checkOverflow_lanes h
    · simp only [if_neg hA] at h ⊢
      exact checkOverflow_lanes h

theorem toNat_toInt_emod_64 (y : BitVec 64) : (y.toInt % (64 : Nat)).toNat = shiftAmount 64 y := by
  unfold shiftAmount BitVec.toInt
  split <;> omega

theorem toNat_toInt_emod_32 (y : BitVec 32) : (y.toInt % (32 : Nat)).toNat = shiftAmount 32 y := by
  unfold shiftAmount BitVec.toInt
  split <;> omega

/-- The true value of a left shift. -/
def shlValue (w : Nat) (x y : Int) : Int := x * 2 ^ (y % w).toNat

theorem shl_amount_uniform (hw : (Instr.shl c d a b e f m).wf = true) (hA : d.isA = true) : b.cls = .u := by
  have ⟨haff, _⟩ := isA_of_affine_form (j := a.cls.join b.cls) hw hA
  simp at haff
  exact haff.2

/-- SHL checks its true values; the amount of an affine shift is uniform (Table 5-4). -/
theorem ownShl_eq (hw : (Instr.shl c d a b e f m).wf = true) : ownShl d a b m s =
    faultOr (if m then overflowCheck shlValue d a b s else none)
      (affOr d ((affine s a).1 <<< ((uval s b).toNat % 64), (affine s a).2 <<< ((uval s b).toNat % 64))
        (alu2 (fun w x y => x <<< shiftAmount w y) d a b s)) := by
  have hval : d.isA = true → ∀ l, val s b l = uval s b := fun hA => val_of_uniform (shl_amount_uniform hw hA)
  unfold ownShl overflowCheck shlValue
  simp only [toNat_toInt_emod_64, toNat_toInt_emod_32]
  cases m
  · rfl
  · by_cases hA : d.isA = true
    · simp [hval hA]; rfl
    · simp [hA]; rfl

/-! ## Affine destinations (R52, R59, Table 5-4) -/

theorem faultOr_affOr {r : Option Report} {x : DWord × DWord} {u : State → State} (hr : r = none) (hd : d.isA = true) :
    faultOr r (affOr d x u) = .done fun t => t.onSq (·.putAff d x.1 x.2) := by
  rw [hr, affOr, if_pos hd, faultOr]

/-- One factor of an affine product is uniform, and its stride is 0. -/
theorem imul_stride (hw : (Instr.imul c d a b e f m).wf = true) (hd : d.isA = true) :
    (if b.cls = .u then (affine s a).2 * (affine s b).1 else (affine s b).2 * (affine s a).1)
      = (affine s a).2 * (affine s b).1 + (affine s b).2 * (affine s a).1 := by
  obtain ⟨haff, hj⟩ := isA_of_affine_form (j := a.cls.join b.cls) hw hd
  cases ha : a.cls <;> cases hb : b.cls <;> simp [ha, hb, Cls.join] at haff hj
  case u.a => simp [affine_of_uniform ha]
  case a.u => simp [affine_of_uniform hb]

end

/-- Settles O12: each word's own effect on an affine destination, from the check of its true values. -/
theorem intAffine : Obligations.IntAffine := by
  unfold Obligations.IntAffine
  intro c e f m
  refine ⟨?iadd, ?isub, ?imul, ?shl, fun n => ?iaddi, ?prom⟩
  case iadd =>
    exact affine_of (fun d a b s => ownIadd d a b m s) (fun _ _ _ _ => rfl) fun d a b s hA hok h =>
      faultOr_affOr (checked2_none hok) hA
  case isub =>
    exact affine_of (fun d a b s => ownIsub d a b m s) (fun _ _ _ _ => rfl) fun d a b s hA hok h =>
      faultOr_affOr (checked2_none hok) hA
  case imul =>
    refine affine_of (fun d a b s => ownImul d a b m s) (fun _ _ _ _ => rfl) fun d a b s hA hok h => ?_
    rw [← imul_stride h.wf hA]
    exact faultOr_affOr (checked2_none hok) hA
  case shl =>
    refine affine_of (fun d a b s => ownShl d a b m s) (fun _ _ _ _ => rfl) fun d a b s hA hok h => ?_
    rw [ownShl_eq h.wf, affine_of_uniform (shl_amount_uniform h.wf hA)]
    refine faultOr_affOr ?_ hA
    split
    · exact overflowCheck_none (hok ‹_›)
    · rfl
  case iaddi =>
    exact affine_of (fun d a _ s => ownIaddi d a n s) (fun _ _ _ _ => rfl) fun d a b s hA _ h => by
      rw [ownIaddi, affOr, if_pos hA]
  case prom =>
    refine affine_of (fun d a b s => ownProm d a b m s) (fun _ _ _ _ => rfl) fun d a b s hA _ h => ?_
    have hw : promForm d a b f m = true := h.wf
    simp only [promForm, if_pos hA, Opnd.isUniform, Bool.and_eq_true, beq_iff_eq] at hw
    rw [ownProm, if_pos hA, affine_of_uniform hw.1.1, affine_of_uniform hw.1.2]

/-- A word whose first check is `overflowCheck` takes its report where a true value does not fit. -/
theorem overflowTraps_of {tv : Nat → Int → Int → Int} {i : Opnd → Opnd → Opnd → Instr} (own : Opnd → Opnd → Opnd → State → WordOut)
    (he : ∀ d a b s, exec (i d a b) s = issueWord (i d a b) (own d a b) s)
    (ho : ∀ d a b s, (i d a b).wf = true → ∃ u, own d a b s = faultOr (overflowCheck tv d a b s) u) : OverflowTraps tv i := by
  intro d a b s hn h
  refine overflow_traps h (he d a b s) hn fun r hr => ?_
  obtain ⟨u, hu⟩ := ho d a b s h.wf
  rw [hu, overflowCheck, hr, faultOr]

theorem checked2_true (tv : Int → Int → Int) (d a b : Opnd) (s : State) :
    checked2 true tv d a b s = overflowCheck (fun _ => tv) d a b s := rfl

/-- Settles O13: each word's first check is that of its true values. -/
theorem checkedOverflowTraps : Obligations.CheckedOverflowTraps := by
  unfold Obligations.CheckedOverflowTraps
  intro c e f
  refine ⟨?iadd, ?isub, ?imul, ?shl, ?iabs⟩
  case iadd =>
    exact overflowTraps_of (fun d a b => ownIadd d a b true) (fun _ _ _ _ => rfl) fun d a b s _ => ⟨_, by rw [ownIadd, checked2_true]⟩
  case isub =>
    exact overflowTraps_of (fun d a b => ownIsub d a b true) (fun _ _ _ _ => rfl) fun d a b s _ => ⟨_, by rw [ownIsub, checked2_true]⟩
  case imul =>
    exact overflowTraps_of (fun d a b => ownImul d a b true) (fun _ _ _ _ => rfl) fun d a b s _ => ⟨_, by rw [ownImul, checked2_true]⟩
  case shl =>
    exact overflowTraps_of (tv := shlValue) (fun d a b => ownShl d a b true) (fun _ _ _ _ => rfl) fun d a b s hw =>
      ⟨_, by rw [ownShl_eq hw, if_pos rfl]⟩
  case iabs =>
    exact overflowTraps_of (tv := fun _ x _ => x.natAbs) (fun d a _ => ownIabs d a true) (fun _ _ _ _ => rfl) fun d a b s _ => by
      have h0 : overflowCheck (fun _ x _ => (x.natAbs : Int)) d a .zero s = overflowCheck (fun _ x _ => x.natAbs) d a b s := by
        unfold overflowCheck; rfl
      exact ⟨_, by rw [ownIabs, checked2_true, h0]⟩

end Sys2Proof.Machine
end

/-! # RGET and a register that a held LDSC is still to write (R71, R167, R202) -/

section
namespace Sys2Proof.Machine
-- One after the other, as above: the check's memory limit bounds the stacks of parallel elaboration.
set_option Elab.async false

/-- A squad whose lane 8 is active and whose LDSC into v0 issued and has not read yet: v0 is full, and interlocked (R202). -/
def stHeldLoad : State := { State.reset with
  sq := { Squad.empty with
    em := 0x100#32, live := 0x100#32
    prods := [⟨0, .load true 2#2 false true true [(0, 0)], [.v 0], [], 0⟩] } }

/-- RGET of v0 by the index word 0x100, which is EM itself: index 0 of a bound of 1. -/
def rgetHeld : Instr := .rget false (.v 1) (.v 0) .em false false

theorem rgetHeld_ready : ReadyFor rgetHeld stHeldLoad where
  wf := rfl
  uniform := .inr rfl
  sources := by decide
  dests := by decide
  parity := rfl
  poison := rfl

theorem rgetHeld_index (l : Nat) : IndexFits 0 .em stHeldLoad l
    ∧ stHeldLoad.sq.isFull (.v (Fin.ofNat 64 (0 + indexOf .em stHeldLoad l))) = true := by
  have hw : val32 stHeldLoad .em l = 0x100#32 := rfl
  simp only [IndexFits, indexOf, hw]
  decide

theorem rgetHeld_waits : exec rgetHeld stHeldLoad = .next (waitHere .order stHeldLoad) :=
  (issueWord_wait rgetHeld_ready rfl : issueWord rgetHeld (ownRget (.v 1) (.v 0) .em false) stHeldLoad = _)

/-- Refutes O19: an indexed register that a held LDSC is still to write is full, and RGET waits for it instead of retiring. -/
theorem not_registerArrays : ¬ Obligations.RegisterArrays := by
  unfold Obligations.RegisterArrays
  intro h
  obtain ⟨hget, -, -⟩ := h false false false (.v 1) .em 0 stHeldLoad
  obtain ⟨t, ht, honly, -⟩ := hget rgetHeld_ready fun l _ => rgetHeld_index l
  obtain rfl : t = waitHere .order stHeldLoad := by
    have := ht.symm.trans rgetHeld_waits
    injection this
  exact absurd honly.retired.lclk (by decide)

end Sys2Proof.Machine
end

/-! # LDSC and the line that its squad read ahead (R196, R202, R206, R240) -/

section
namespace Sys2Proof.Machine
-- One after the other, as above: the check's memory limit bounds the stacks of parallel elaboration.
set_option Elab.async false

/-- A squad with lane 0 active, whose core holds a line of its team's scratch that the squad read ahead (R196, R206). -/
def stLineAhead : State := { State.reset with
  sq := { Squad.empty with status := .live, em := 1#32, live := 1#32 }
  team := { Team.empty with status := .running, scr := 64 }
  core := { Core.fresh 0 with ahead := [⟨⟨0, 0, 0⟩, 0, true, 0, []⟩] } }

/-- LDSC of four bytes at scratch address 0, which s0 holds. -/
def ldscLine : Instr := .ldsc false (.s 1) (.s 0) 2#2 false 0#6

theorem ldscLine_ready : ReadyFor ldscLine stLineAhead where
  wf := rfl
  uniform := .inr rfl
  sources := by decide
  dests := by decide
  parity := rfl
  poison := rfl

theorem ldscLine_passes : scratchChecks stLineAhead .read true stLineAhead.sq.em 4
    (accesses true (memAddr stLineAhead (.s 0) 0#6 2#2) stLineAhead) = none := by decide +kernel

/-- The read forgets what the squad had read ahead of the line (R240). -/
theorem ldscLine_forgets {t : State} (h : exec ldscLine stLineAhead = .next t) : t.core.ahead = [] := by
  have hown : ownLdsc (.s 1) (.s 0) 2#2 0#6 stLineAhead = .done _ :=
    congrArg (faultOr · _) ldscLine_passes
  have he := issueWord_done ldscLine_ready hown
  obtain rfl := Host.Outcome.next.inj (h.symm.trans he)
  rfl

/-- Refutes O26: an LDSC that reads at its issue also drops, from its core, the line that the squad had read ahead of it. -/
theorem not_loadIssue : ¬ Obligations.LoadIssue := by
  unfold Obligations.LoadIssue
  rintro ⟨-, hldsc⟩
  obtain ⟨-, -, hnow⟩ := hldsc false (.s 1) (.s 0) 2#2 false 0#6 stLineAhead ldscLine_ready ldscLine_passes
  obtain ⟨t, ht, -, -, houtside, -⟩ := hnow (by decide) (by decide) (by decide) (by decide) rfl rfl
  have hcore : t.core.ahead = stLineAhead.core.ahead := by rw [houtside]
  rw [ldscLine_forgets ht] at hcore
  exact absurd hcore (by decide)

end Sys2Proof.Machine
end

/-! # The checks of a word and of a chain (R62 to R69, R105 to R108) -/

section
namespace Sys2Proof.Machine
-- One after the other, as above: the check's memory limit bounds the stacks of parallel elaboration.
set_option Elab.async false

section
variable {s : State} {i : Instr} {own : State → WordOut} {o : Opnd}

/-! ## A word that a check stops (R62 to R69) -/

theorem issueWord_waits {w : Wait} (hwf : i.wf = true) (h : prelude i s = some (.wait w)) :
    issueWord i own s = .next (waitHere w s) := by
  simp only [issueWord, hwf, if_true, wordOut, h, Block.out]

theorem issueWord_traps {r : Report} (hwf : i.wf = true) (h : prelude i s = some (.trap r)) :
    issueWord i own s = .next (takeTrap r s.sq.pkt s.sq.word 0 1 s) := by
  simp only [issueWord, hwf, if_true, wordOut, h, Block.out]

theorem partBlock_partial {p : Option Nat} {code : Nat} (hp : p = some code) (h : s.sq.em ≠ s.sq.live) :
    partBlock s p = some (.trap ⟨0x02#8, s.sq.live.setWidth 64, BitVec.ofNat 64 code, s.sq.em⟩) := by
  simp [partBlock, hp, h]

theorem sourceBlock_append {pre post : List (Opnd × Bool)} (h : ∀ x ∈ pre, s.sq.settled x.1 = true) :
    sourceBlock s (pre ++ post) = sourceBlock s post := by
  induction pre with
  | nil => rfl
  | cons x r ih =>
    obtain ⟨hfull, hlock⟩ := settled_iff.1 (h x (by simp))
    simp [sourceBlock, hfull, hlock, ih fun y hy => h y (List.mem_cons_of_mem _ hy)]

theorem sourceBlock_empty {e : Bool} {post : List (Opnd × Bool)} (hfull : s.sq.isFull o = false) (hlock : s.sq.interlocked o = false) :
    sourceBlock s ((o, e) :: post) =
      some (if e then .trap ⟨0x04#8, o.code.setWidth 64, 0#64, s.sq.em⟩ else .wait (s.sq.waitOn o)) := by
  cases e <;> simp [sourceBlock, hfull, hlock]

theorem destBlock_append {pre post : List Opnd} (h : ∀ x ∈ pre, s.sq.settled x = true ∨ s.sq.pendingOn x = none) :
    destBlock s (pre ++ post) = destBlock s post := by
  induction pre with
  | nil => rfl
  | cons x r ih =>
    rw [List.cons_append, destBlock, ih fun y hy => h y (List.mem_cons_of_mem _ hy)]
    rcases h x (by simp) with hx | hx
    · obtain ⟨hfull, hlock⟩ := settled_iff.1 hx
      simp [hfull, hlock]
    · simp [hx, interlocked_of_free hx]

theorem destBlock_pending {post : List Opnd} (hfull : s.sq.isFull o = false) (hlock : s.sq.interlocked o = false)
    (hpend : (s.sq.pendingOn o).isSome = true) (hact : o.cls ≠ .v ∨ s.sq.em ≠ 0#32) :
    destBlock s (o :: post) = some (.wait (s.sq.waitOn o)) := by
  have hcond : (o.cls != .v || s.sq.em != 0#32) = true := by simpa only [Bool.or_eq_true, bne_iff_ne] using hact
  simp [destBlock, hfull, hlock, hpend, hcond]

theorem find_first_bad {α : Type} {p : α → Bool} {before after : List α} {w : α} (hb : ∀ y ∈ before, p y = false) (hw : p w = true) :
    (before ++ w :: after).find? p = some w := by
  rw [List.find?_append, List.find?_eq_none.2 fun y hy => by simp [hb y hy], List.find?_cons_of_pos hw]
  rfl

/-- The first bad word of the sources in order, each with its words for EM. -/
theorem poisonBlock_first {srcs : List (Opnd × Bool)} {pre post : List Opnd} {before after : List WordRef} {w : WordRef}
    (hsrcs : srcs.map (·.1) = pre ++ o :: post) (hpre : ∀ x ∈ pre, ∀ y ∈ wordsOf x s.sq.em, s.sq.isBad y = false)
    (hwords : wordsOf o s.sq.em = before ++ w :: after) (hbefore : ∀ y ∈ before, s.sq.isBad y = false) (hw : s.sq.isBad w = true) :
    poisonBlock s srcs = some (.trap ⟨0x05#8, poisonInfo w, 0#64, s.sq.em⟩) := by
  have hsome : (s.sq.uncorr.isEmpty && s.sq.poison.isEmpty) = false := by
    rw [Bool.and_eq_false_iff, List.isEmpty_eq_false_iff, List.isEmpty_eq_false_iff, ← not_and_or]
    rintro ⟨hu, hp⟩
    simp [Squad.isBad, hu, hp] at hw
  have hlist : srcs.flatMap (fun x => wordsOf x.1 s.sq.em)
      = (pre.flatMap (wordsOf · s.sq.em) ++ before) ++ w :: (after ++ post.flatMap (wordsOf · s.sq.em)) := by
    have hmap : srcs.flatMap (fun x => wordsOf x.1 s.sq.em) = (srcs.map (·.1)).flatMap (wordsOf · s.sq.em) := by rw [List.flatMap_map]
    rw [hmap, hsrcs, List.flatMap_append, List.flatMap_cons, hwords]
    simp only [List.append_assoc, List.cons_append]
  have hfind := find_first_bad (p := s.sq.isBad) (before := pre.flatMap (wordsOf · s.sq.em) ++ before)
    (after := after ++ post.flatMap (wordsOf · s.sq.em)) (w := w) (fun y hy => by
      rcases List.mem_append.1 hy with hy | hy
      · obtain ⟨x, hx, hy⟩ := List.mem_flatMap.1 hy
        exact hpre x hx y hy
      · exact hbefore y hy) hw
  rw [poisonBlock, hsome, if_neg Bool.false_ne_true, poisonReport, hlist, hfind]
  rfl

/-! ## The checks in their order (R63) -/

theorem prelude_partial {code : Nat} (hp : (usage s.sq.fmt i).part = some code) (h : s.sq.em ≠ s.sq.live) :
    prelude i s = some (.trap ⟨0x02#8, s.sq.live.setWidth 64, BitVec.ofNat 64 code, s.sq.em⟩) := by
  simp only [prelude, partBlock_partial hp h]

theorem prelude_source {b : Block} (hpart : (usage s.sq.fmt i).part = none ∨ s.sq.em = s.sq.live)
    (h : sourceBlock s (usage s.sq.fmt i).srcs = some b) : prelude i s = some b := by
  simp only [prelude, partBlock_of_uniform hpart, h]

theorem prelude_dest {b : Block} (hpart : (usage s.sq.fmt i).part = none ∨ s.sq.em = s.sq.live)
    (hsrcs : ∀ x ∈ (usage s.sq.fmt i).srcs, s.sq.settled x.1 = true) (hi : destElsewhere i = false)
    (h : destBlock s (usage s.sq.fmt i).dst = some b) : prelude i s = some b := by
  simp only [prelude, partBlock_of_uniform hpart, sourceBlock_of_full hsrcs, hi, Bool.false_eq_true, if_false, h]

theorem prelude_poison (hpart : (usage s.sq.fmt i).part = none ∨ s.sq.em = s.sq.live)
    (hsrcs : ∀ x ∈ (usage s.sq.fmt i).srcs, s.sq.settled x.1 = true)
    (hdst : ∀ x ∈ (usage s.sq.fmt i).dst, s.sq.settled x = true ∨ s.sq.pendingOn x = none)
    (hcross : crossLane i = false) (hi : poisonElsewhere i = false) : prelude i s = poisonBlock s (usage s.sq.fmt i).srcs := by
  simp only [prelude, partBlock_of_uniform hpart, sourceBlock_of_full hsrcs, destBlock_of_free hdst, ite_self, hi, poisonCheck, hcross,
    Bool.false_eq_true, if_false]

end

/-! ## The words that stand alone in a chain (R108) -/

/-- A word that decodes to one that stands alone. -/
def DecodesAlone (w : Word) : Prop := ∃ i c x p, decode w = .ok i ∧ (i = .seg ⟨c, x⟩ ∨ i = .deal ∨ (∃ n, i = .call c n)
  ∨ (∃ n, i = .callp c p n) ∨ i = .yield c ∨ (∃ n, i = .trap c n) ∨ (∃ n, i = .brk c n) ∨ (∃ m, i = .eret c m) ∨ i = .sysHalt c)

theorem standsAlone_iff (i : Instr) : standsAlone i = true ↔ ∃ c x p, i = .seg ⟨c, x⟩ ∨ i = .deal ∨ (∃ n, i = .call c n)
    ∨ (∃ n, i = .callp c p n) ∨ i = .yield c ∨ (∃ n, i = .trap c n) ∨ (∃ n, i = .brk c n) ∨ (∃ m, i = .eret c m) ∨ i = .sysHalt c := by
  cases i with
  | seg w => exact ⟨fun _ => ⟨w.c, w.slots, .zero, .inl rfl⟩, fun _ => rfl⟩
  | deal => exact ⟨fun _ => ⟨false, 0#8, .zero, by simp⟩, fun _ => rfl⟩
  | callp c p n => exact ⟨fun _ => ⟨c, 0#8, p, by simp⟩, fun _ => rfl⟩
  | call c | yield c | trap c | brk c | eret c | sysHalt c => exact ⟨fun _ => ⟨c, 0#8, .zero, by simp⟩, fun _ => rfl⟩
  | _ => simp [standsAlone]

theorem decodesAlone_iff (w : Word) : DecodesAlone w ↔ ∃ i, decode w = .ok i ∧ standsAlone i = true := by
  simp only [DecodesAlone, standsAlone_iff, ← exists_and_left]

theorem holdsAlone_iff {ws : List Word} (hn : 1 < ws.length) : holdsAlone ws = true ↔ ∃ w ∈ ws, DecodesAlone w := by
  simp only [holdsAlone, hn, decide_true, Bool.true_and, List.any_eq_true, decodesAlone_iff]
  refine exists_congr fun w => and_congr_right fun _ => ?_
  cases decode w with
  | error e => simp
  | ok i => simp

section
variable {s : State} {ws : List Word} {is : List Instr}

/-! ## A chain that traps as one (R105 to R108) -/

theorem issueMany_alone (h : holdsAlone ws = true) :
    issueMany ws s = .next (takeTrap (chainUndefined ws 0 s) s.sq.pkt s.sq.word 0 ws.length s) := by
  simp only [issueMany, h, if_true]

theorem issueMany_undefined (h : holdsAlone ws = false) {k : Nat} (hk : (ws.map goodWord).findIdx? (·.isNone) = some k) :
    issueMany ws s = .next (takeTrap (chainUndefined ws k s) s.sq.pkt s.sq.word k ws.length s) := by
  simp only [issueMany, h, Bool.false_eq_true, if_false, hk]

theorem findIdx_undefined {k : Nat} (hk : k < ws.length) (hbad : goodWord (ws.getD k 0#32) = none)
    (hgood : ∀ j, j < k → goodWord (ws.getD j 0#32) ≠ none) : (ws.map goodWord).findIdx? (·.isNone) = some k := by
  rw [List.findIdx?_eq_some_iff_getElem]
  refine ⟨by simpa using hk, ?_, fun j hj => ?_⟩
  · simpa [hk] using hbad
  · have := hgood j hj
    have hjl : j < ws.length := by omega
    simpa [hjl] using this

/-- Two words of a chain that may not stand in it together, the earlier first (R106). -/
def Clash (fmt : Word) (a b : Instr) : Prop :=
  (pipe a ≠ none ∧ pipe a = pipe b) ∨ (∃ r, r ∈ chainWrites fmt a ∧ r ∈ chainWrites fmt b) ∨ (∃ r, r ∈ seqWrites a ∧ r ∈ seqWrites b)

theorem conflicts_iff (fmt : Word) (a b : Instr) : conflicts fmt a b = true ↔ Clash fmt a b := by
  simp [conflicts, Clash, Option.isSome_iff_ne_none, List.any_eq_true, or_assoc]

theorem clashBefore_iff (fmt : Word) {k : Nat} (hk : k < is.length) :
    (is.take k).any (fun j => conflicts fmt j (is.getD k default)) = true
      ↔ ∃ j, j < k ∧ Clash fmt (is.getD j default) (is.getD k default) := by
  rw [List.any_eq_true]
  constructor
  · rintro ⟨a, ha, hc⟩
    obtain ⟨j, hj, rfl⟩ := List.getElem_of_mem ha
    have hjk : j < k := by simp at hj; omega
    refine ⟨j, hjk, ?_⟩
    rw [← conflicts_iff]
    have hjl : j < is.length := by omega
    simpa [hjl] using hc
  · rintro ⟨j, hj, hc⟩
    have hjl : j < is.length := by omega
    refine ⟨is.getD j default, ?_, (conflicts_iff _ _ _).2 hc⟩
    rw [List.mem_take_iff_getElem]
    exact ⟨j, by omega, by simp [hjl]⟩

theorem conflictAt_first {fmt : Word} {k : Nat} (hk : k < is.length)
    (hc : ∃ j, j < k ∧ Clash fmt (is.getD j default) (is.getD k default))
    (hfirst : ∀ k', k' < k → ∀ j, j < k' → ¬ Clash fmt (is.getD j default) (is.getD k' default)) : conflictAt fmt is = some k := by
  rw [conflictAt, List.find?_range_eq_some]
  refine ⟨(clashBefore_iff fmt hk).2 hc, by simpa using hk, fun k' hk' => ?_⟩
  rw [Bool.not_eq_true', ← Bool.not_eq_true, clashBefore_iff fmt (by omega)]
  rintro ⟨j, hj, h⟩
  exact hfirst k' hk' j hj h

theorem conflictAt_none {fmt : Word} (h : ∀ k, k < is.length → ∀ j, j < k → ¬ Clash fmt (is.getD j default) (is.getD k default)) :
    conflictAt fmt is = none := by
  rw [conflictAt, List.find?_range_eq_none]
  intro k hk
  rw [Bool.not_eq_true', ← Bool.not_eq_true, clashBefore_iff fmt hk]
  rintro ⟨j, hj, hc⟩
  exact h k hk j hj hc

theorem goodWords_eq (h : ws.map goodWord = is.map some) :
    (ws.map goodWord).findIdx? (·.isNone) = none ∧ (ws.map goodWord).map (·.getD default) = is := by
  rw [h]
  exact ⟨by simp [List.findIdx?_eq_none_iff], by simp⟩

theorem issueMany_conflict (h : holdsAlone ws = false) (hgood : ws.map goodWord = is.map some) {k : Nat}
    (hk : conflictAt s.sq.fmt is = some k) :
    issueMany ws s = .next (takeTrap ⟨0x1A#8, BitVec.ofNat 64 k, 0#64, s.sq.em⟩ s.sq.pkt s.sq.word k ws.length s) := by
  obtain ⟨hnone, his⟩ := goodWords_eq hgood
  simp only [issueMany, h, Bool.false_eq_true, if_false, hnone, his, hk]

/-! ## The outcomes of a chain's words (R105) -/

/-- Words that go on are passed in order, each behind the updates of those before it. -/
theorem chainOuts_passes {us : List (State → State)} {m : Nat} (hm : m ≤ is.length) (hu : m ≤ us.length)
    (h : ∀ k, k < m → chainWord s (us.take k).reverse (is.getD k default) = .done (us.getD k id)) :
    chainOuts s 0 is [] = chainOuts s m (is.drop m) (us.take m).reverse := by
  induction m with
  | zero => simp
  | succ m ih =>
    rw [ih (by omega) (by omega) fun k hk => h k (by omega), List.drop_eq_getElem_cons (by omega), chainOuts]
    have hword := h m (by omega)
    rw [List.getD_eq_getElem _ _ (by omega), List.getD_eq_getElem _ _ (by omega)] at hword
    rw [hword]
    have htake : us.take (m + 1) = us.take m ++ [us[m]] := by simp
    rw [htake, List.reverse_append]
    rfl

/-- The first word that does not go on ends the chain. -/
theorem chainOuts_stops {us : List (State → State)} {k : Nat} (hk : k < is.length) (hu : us.length = k)
    (h : ∀ j, j < k → chainWord s (us.take j).reverse (is.getD j default) = .done (us.getD j id)) {o : WordOut}
    (ho : chainWord s (us.take k).reverse (is.getD k default) = o) :
    (∀ x, o = .wait x → chainOuts s 0 is [] = .inl (k, .wait x)) ∧ (∀ r, o = .trap r → chainOuts s 0 is [] = .inl (k, .trap r)) := by
  rw [chainOuts_passes (Nat.le_of_lt hk) (by omega) h, List.drop_eq_getElem_cons hk, chainOuts]
  rw [List.getD_eq_getElem _ _ hk] at ho
  rw [ho]
  constructor <;> rintro x rfl <;> rfl

theorem issueMany_outs (h : holdsAlone ws = false) (hgood : ws.map goodWord = is.map some) (hc : conflictAt s.sq.fmt is = none) :
    (∀ k x, chainOuts s 0 is [] = .inl (k, .wait x) → issueMany ws s = .next (waitHere x s))
    ∧ (∀ k r, chainOuts s 0 is [] = .inl (k, .trap r) → issueMany ws s = .next (takeTrap r s.sq.pkt s.sq.word k ws.length s))
    ∧ (∀ us, s.sq.uncorr = [] → chainOuts s 0 is [] = .inr us →
        let t := us.foldl (fun t u => u t) (retire ws.length (s.sq.word + ws.length == 3 && (ws.getLastD 0#32).getLsbD 31) s)
        issueMany ws s = .next (noteIssue is s (if t.sq.late.isEmpty then t else waitHere .order t))) := by
  obtain ⟨hnone, his⟩ := goodWords_eq hgood
  have hmark : s.sq.uncorr = [] → is.foldl (fun t i => markPoison i t) s = s := fun hu => by
    clear hnone his hgood hc
    induction is with
    | nil => rfl
    | cons i r ih => rw [List.foldl_cons, markPoison_of_clean i hu, ih]
  refine ⟨fun k x ho => ?_, fun k r ho => ?_, fun us hu ho => ?_⟩
  · simp only [issueMany, h, Bool.false_eq_true, if_false, hnone, his, hc, ho]
  · simp only [issueMany, h, Bool.false_eq_true, if_false, hnone, his, hc, ho]
  · simp only [issueMany, h, Bool.false_eq_true, if_false, hnone, his, hc, ho, hmark hu]

/-! ## A word behind the words of its chain (R105, R225, R230, R256) -/

theorem chainWord_first (i : Instr) : chainWord s [] i = wordOut i (ownOf i) s := rfl

variable {done : List (State → State)} {i : Instr}

theorem chainWord_plain (h : isEng i = false) (hr : sstRecord i s = none) : chainWord s done i = wordOut i (ownOf i) s := by
  unfold chainWord
  split
  · rfl
  · simp [h, hr]

theorem isEng_of_sstRecord {r : SstRec} (h : sstRecord i s = some r) : isEng i = false := by
  cases i with
  | sst => rfl
  | _ => cases h

theorem chainWord_sst {r : SstRec} (h : sstRecord i s = some r) (hd : done ≠ []) :
    chainWord s done i = sstBehind s (done.foldr (fun u t => u t) s) done.length r (wordOut i (ownOf i) s) := by
  rw [chainWord, if_neg (by simpa using hd), isEng_of_sstRecord h, if_neg Bool.false_ne_true, h]

/-- An SST that neither waits nor traps by its own checks, behind the acquires of its chain. -/
theorem sstBehind_goes {t : State} {k : Nat} {r : SstRec} {o : WordOut} (ht : ∀ x, o ≠ .trap x) (hw : ∀ w, o ≠ .wait w) :
    sstBehind s t k r o =
      if r.todo.isEmpty || (newAcquires s t).isEmpty then o
      else if (newAcquires s t).any (·.barrier) then
        .done (addLate (.sst r s.sq.pkt s.sq.word k (chainFrom (packetWords s) s.sq.word).length))
      else if s.sq.prods.any (·.kind.orders) then .wait .order else o := by
  cases o with
  | trap x => exact absurd rfl (ht x)
  | wait w => exact absurd rfl (hw w)
  | done u | hold b w u | fail u x => rfl

theorem chainWord_eng (h : isEng i = true) (hd : done ≠ []) {f : State → State}
    (ho : wordOut i (ownOf i) (chainView s (afterWords s done)) = .done f) (hw : engWaits s (afterWords s done) = false) :
    chainWord s done i = .done (fun x => f (flushChain s.sq.seq x)) := by
  rw [chainWord, if_neg (by simpa using hd), if_pos h]
  simp only [ho, hw, Bool.false_eq_true, if_false]

theorem val_chainView (t : State) (o : Opnd) (l : Nat) : val (chainView s t) o l = val s o l := by
  cases o <;> rfl

end

/-- The report of a bad word of a register (Table 10-6). -/
theorem poisonInfo_of {w : WordRef} {info : Nat} (h : (∃ n l, w = .v n l ∧ info = n + l * 65536) ∨ (∃ n k, w = .s n k ∧ info = 64 + n + k * 65536)
    ∨ (∃ n k, w = .a n k ∧ info = 96 + n + k * 65536) ∨ (∃ n, w = .p n ∧ info = 112 + n)) : poisonInfo w = BitVec.ofNat 64 info := by
  rcases h with ⟨n, l, rfl, rfl⟩ | ⟨n, k, rfl, rfl⟩ | ⟨n, k, rfl, rfl⟩ | ⟨n, rfl, rfl⟩ <;> rfl

/-- Settles O5: the checks of a word, those of a chain, and the words behind others of their chain. -/
theorem issueChecks : Obligations.IssueChecks := by
  unfold Obligations.IssueChecks
  refine ⟨fun i s hi => ⟨exec_word hi s, fun hwf => ?undefined, fun code hwf hp hem => ?part, fun hwf hpart => ⟨?source, fun hsrcs => ⟨?dest, ?poison⟩⟩⟩,
    fun ws s hn => ⟨fun ha => ?alone, fun ha k hk hbad hgood => ?badWord, fun is ha hgood => ?chain⟩,
    fun s done i => ⟨?first, ?sst, val_chainView _, rfl, rfl, fun he hd f ho hw => chainWord_eng he hd ho hw⟩⟩
  case undefined =>
    obtain ⟨w, hw, -⟩ := encode_bit31 hi
    refine ⟨w, hw, ?_⟩
    rw [Traps, exec_word hi, issueWord_illFormed hwf, hw]
    rfl
  case part => rw [Traps, exec_word hi, issueWord_traps hwf (prelude_partial hp hem)]
  case source =>
    intro pre o e post heq hpre hfull hlock
    have hblock := prelude_source hpart (heq ▸ (sourceBlock_append hpre).trans (sourceBlock_empty hfull hlock))
    refine ⟨fun he => ?_, fun he => ?_⟩
    · rw [if_pos he] at hblock
      rw [Traps, exec_word hi, issueWord_traps hwf hblock]
    · rw [he, if_neg Bool.false_ne_true] at hblock
      rw [exec_word hi, issueWord_waits hwf hblock]
  case dest =>
    intro pre o post helse heq hpre hfull hlock hpend hact
    rw [exec_word hi, issueWord_waits hwf (prelude_dest hpart hsrcs helse
      (heq ▸ (destBlock_append hpre).trans (destBlock_pending hfull hlock hpend hact)))]
  case poison =>
    intro pre o post before w after info hdst hcross helse hmap hpre hwords hbefore hw hinfo
    rw [Traps, ← poisonInfo_of hinfo, exec_word hi, issueWord_traps hwf ((prelude_poison hpart hsrcs hdst hcross helse).trans
      (poisonBlock_first hmap hpre hwords hbefore hw))]
  case alone => exact issueMany_alone ((holdsAlone_iff hn).2 ha)
  case badWord =>
    have halone : holdsAlone ws = false := Bool.eq_false_iff.2 fun h => by
      obtain ⟨w, hw, h⟩ := (holdsAlone_iff hn).1 h
      exact ha w hw h
    exact issueMany_undefined halone (findIdx_undefined hk hbad hgood)
  case chain =>
    have halone : holdsAlone ws = false := Bool.eq_false_iff.2 fun h => by
      obtain ⟨w, hw, h⟩ := (holdsAlone_iff hn).1 h
      exact ha w hw h
    intro clash
    refine ⟨fun k hk hc hfirst => issueMany_conflict halone hgood (conflictAt_first hk hc hfirst), fun hfree => ?_⟩
    obtain ⟨hwait, htrap, hdone⟩ := issueMany_outs halone hgood (conflictAt_none hfree)
    refine ⟨fun us hu hlen ho => ?_, fun us k hk hlen ho => ?_⟩
    · have hall : chainOuts s 0 is [] = .inr us := by
        rw [chainOuts_passes (Nat.le_refl _) (Nat.le_of_eq hlen.symm) ho, List.drop_length, chainOuts, List.reverse_reverse, ← hlen, List.take_length]
      refine ⟨_, hdone us hu hall, ?_⟩
      simp only [← List.isEmpty_iff]
      exact noteIssue_noted is s _
    · obtain ⟨hw, ht⟩ := chainOuts_stops hk hlen ho rfl
      exact ⟨fun x hx => hwait k x (hw x hx), fun r hr => htrap k r (ht r hr)⟩
  case first =>
    rintro (⟨he, hr⟩ | rfl)
    · exact chainWord_plain he hr
    · exact chainWord_first i
  case sst =>
    intro r hr hd ht hw
    rw [chainWord_sst hr hd, sstBehind_goes ht hw]
    refine ⟨fun h => ?_, fun htodo hb => ?_, fun htodo ha hb => ?_⟩
    · rw [if_pos (by simpa using h)]
    · obtain ⟨f, hf, hfb⟩ := hb
      rw [if_neg (by simpa [htodo] using List.ne_nil_of_mem hf), if_pos (List.any_eq_true.2 ⟨f, hf, hfb⟩)]
    · rw [if_neg (by simpa [htodo] using ha), if_neg (by simpa using hb)]

end Sys2Proof.Machine
end

/-! # Objects and the debugger (R68, R372 to R377, R399 to R403) -/

section
namespace Sys2Proof.Machine
-- One after the other, as above: the check's memory limit bounds the stacks of parallel elaboration.
set_option Elab.async false

/-! ## Finding launches and teams after an update -/

theorem find_map_key {α : Type} (p : α → Bool) (f : α → α) (l : List α) (h : ∀ x, p (f x) = p x) :
    (l.map f).find? p = (l.find? p).map f := by
  have hp : p ∘ f = p := funext h
  rw [List.find?_map, hp]

section
variable (s : State) (lid : Nat)

theorem findLaunch_updLaunch (f : Launch → Launch) (hk : ∀ l, (f l).lid = l.lid)
    (hs : ∀ l, l.status ≠ .absent → (f l).status ≠ .absent) : (s.updLaunch lid f).findLaunch lid = (s.findLaunch lid).map f := by
  unfold State.updLaunch State.findLaunch State.allLaunches State.isCurLaunch
  by_cases hc : (s.launch.status != .absent && s.launch.lid == lid) = true
  · rw [if_pos hc]
    simp only [Bool.and_eq_true, bne_iff_ne, beq_iff_eq] at hc
    simp [hc.1, hs _ hc.1, hc.2, hk]
  · rw [if_neg hc]
    have hmap : (s.launches.map (fun l => if l.lid = lid then f l else l)).find? (·.lid == lid) = (s.launches.find? (·.lid == lid)).map f := by
      have := find_map_same (fun l : Launch => l.lid == lid) f s.launches (fun l h => by simp only [hk]; exact h)
      simpa using this
    by_cases ha : s.launch.status = .absent
    · simp [ha, hmap]
    · have hne : (s.launch.lid == lid) = false := by simpa [ha] using hc
      simp [ha, hne, hmap]

theorem findLaunch_updLaunch_other {k : Nat} (hj : k ≠ lid) (f : Launch → Launch) (hk : ∀ l, (f l).lid = l.lid)
    (hs : ∀ l, l.status ≠ .absent → (f l).status ≠ .absent) : (s.updLaunch lid f).findLaunch k = s.findLaunch k := by
  unfold State.updLaunch State.findLaunch State.allLaunches State.isCurLaunch
  by_cases hc : (s.launch.status != .absent && s.launch.lid == lid) = true
  · rw [if_pos hc]
    simp only [Bool.and_eq_true, bne_iff_ne, beq_iff_eq] at hc
    have : (s.launch.lid == k) = false := by rw [hc.2]; simpa using hj.symm
    simp [hc.1, hs _ hc.1, hk, this]
  · rw [if_neg hc]
    have hmap : (s.launches.map (fun l => if l.lid = lid then f l else l)).find? (·.lid == k) = s.launches.find? (·.lid == k) := by
      have := find_map_other (fun l : Launch => l.lid == lid) (fun l : Launch => l.lid == k) f s.launches (fun l h => by
        simp only [beq_iff_eq] at h; simp only [hk, h]; simpa using hj.symm)
      simpa using this
    by_cases ha : s.launch.status = .absent
    · simp [ha, hmap]
    · simp [ha, List.find?_cons, hmap]

theorem updLaunch_outside (f : Launch → Launch) :
    s.updLaunch lid f = { s with launch := (s.updLaunch lid f).launch, launches := (s.updLaunch lid f).launches } := by
  unfold State.updLaunch; split <;> rfl

theorem findTeam_updLaunch (f : Launch → Launch) (k : TeamKey) : (s.updLaunch lid f).findTeam k = s.findTeam k := by
  rw [updLaunch_outside]; rfl

/-- Every team of the part changed in one way. -/
def mapTeams (f : Team → Team) (s : State) : State := { s with team := f s.team, teams := s.teams.map f }

theorem findTeam_mapTeams (f : Team → Team) (hk : ∀ t, (f t).key = t.key) (hs : ∀ t, (f t).status = .absent ↔ t.status = .absent)
    (k : TeamKey) : (mapTeams f s).findTeam k = (s.findTeam k).map f := by
  have hall : (mapTeams f s).allTeams = s.allTeams.map f := by
    by_cases ha : s.team.status = .absent
    · simp [State.allTeams, mapTeams, hs, ha]
    · simp [State.allTeams, mapTeams, hs, ha]
  rw [State.findTeam, hall, find_map_key _ f _ (fun t => by rw [hk])]
  rfl

end

section
variable {s : State} {lid : Nat}

/-! ## Debugger stops (R399) -/

/-- A stop of a launch for a debugger, on one team. -/
def stopTeam (lid : Nat) (t : Team) : Team := if t.stops lid then t.stopped else t

theorem stopTeam_eq (lid : Nat) (t : Team) : stopTeam lid t =
    if t.key.lid = lid ∧ (t.status = .running ∨ t.status = .preempting ∨ t.status = .saved)
    then { t with status := if t.status = .running then .preempting else t.status, debugStop := true } else t := by
  simp [stopTeam, Team.stops, Team.stopped, or_assoc]

theorem stopTeam_key (lid : Nat) (t : Team) : (stopTeam lid t).key = t.key := by
  unfold stopTeam; split <;> rfl

theorem stopTeam_absent (lid : Nat) (t : Team) : (stopTeam lid t).status = .absent ↔ t.status = .absent := by
  rw [stopTeam_eq]
  by_cases h : t.key.lid = lid ∧ (t.status = .running ∨ t.status = .preempting ∨ t.status = .saved)
  · rw [if_pos h]
    obtain ⟨-, h | h | h⟩ := h <;> simp [h]
  · rw [if_neg h]

/-- A launch whose stop for a debugger is set or lifted. -/
def Launch.withStop (b : Bool) (l : Launch) : Launch := { l with debugStop := b }

theorem debugStopLaunch_eq (lid : Nat) (s : State) :
    debugStopLaunch lid s = nameStop lid 0xFFFF ((mapTeams (stopTeam lid) s).updLaunch lid (Launch.withStop true)) := rfl

/-- The stop is marked in the launch, which keeps its tile tasks. -/
theorem findLaunch_stopped {l : Launch} (h : s.findLaunch lid = some l) :
    ((mapTeams (stopTeam lid) s).updLaunch lid (Launch.withStop true)).findLaunch lid = some (l.withStop true) := by
  rw [findLaunch_updLaunch _ lid (Launch.withStop true) (fun _ => rfl) (fun _ h => h),
    show (mapTeams (stopTeam lid) s).findLaunch lid = some l from h, Option.map_some]

theorem debugStopLaunch_launch {l : Launch} (h : s.findLaunch lid = some l) :
    (debugStopLaunch lid s).findLaunch lid = some (l.withStop true) := findLaunch_stopped h

theorem debugStopLaunch_otherLaunch {k : Nat} (h : k ≠ lid) : (debugStopLaunch lid s).findLaunch k = s.findLaunch k :=
  findLaunch_updLaunch_other (mapTeams (stopTeam lid) s) lid h _ (fun _ => rfl) (fun _ h => h)

theorem debugStopLaunch_team (k : TeamKey) : (debugStopLaunch lid s).findTeam k = (s.findTeam k).map (stopTeam lid) :=
  (findTeam_updLaunch (mapTeams (stopTeam lid) s) lid _ k).trans
    (findTeam_mapTeams s _ (stopTeam_key lid) (stopTeam_absent lid) k)

theorem debugStopLaunch_outside {l : Launch} (h : s.findLaunch lid = some l) : debugStopLaunch lid s =
    { s with
      team := (debugStopLaunch lid s).team, teams := (debugStopLaunch lid s).teams
      launch := (debugStopLaunch lid s).launch, launches := (debugStopLaunch lid s).launches
      part := { s.part with stops := s.part.stops ++ l.tasks.map (fun x => ⟨x.1, x.2, 0xFFFF⟩) } } := by
  have hget : (((mapTeams (stopTeam lid) s).updLaunch lid (Launch.withStop true)).getLaunch lid).tasks = l.tasks := by
    rw [State.getLaunch, findLaunch_stopped h]
    rfl
  rw [debugStopLaunch_eq, nameStop, hget, updLaunch_outside]
  rfl

/-- Breakpoints of a launch disarmed, on one team: its stop is lifted. -/
def liftTeam (lid : Nat) (t : Team) : Team := if t.key.lid = lid then { t with debugStop := false } else t

theorem liftTeam_key (lid : Nat) (t : Team) : (liftTeam lid t).key = t.key := by
  unfold liftTeam; split <;> rfl

theorem liftTeam_absent (lid : Nat) (t : Team) : (liftTeam lid t).status = .absent ↔ t.status = .absent := by
  unfold liftTeam; split <;> rfl

theorem liftStop_eq (lid : Nat) (s : State) :
    liftStop lid s = (mapTeams (liftTeam lid) s).updLaunch lid (Launch.withStop false) := rfl

theorem liftStop_launch : (liftStop lid s).findLaunch lid = (s.findLaunch lid).map (Launch.withStop false) :=
  findLaunch_updLaunch (mapTeams (liftTeam lid) s) lid _ (fun _ => rfl) (fun _ h => h)

theorem liftStop_team (k : TeamKey) : (liftStop lid s).findTeam k = (s.findTeam k).map (liftTeam lid) :=
  (findTeam_updLaunch (mapTeams (liftTeam lid) s) lid _ k).trans (findTeam_mapTeams s _ (liftTeam_key lid) (liftTeam_absent lid) k)

theorem liftStop_outside : liftStop lid s = { s with
    team := (liftStop lid s).team, teams := (liftStop lid s).teams
    launch := (liftStop lid s).launch, launches := (liftStop lid s).launches } := by
  rw [liftStop_eq, updLaunch_outside]
  rfl

theorem exec_debugStop (target : StopTarget) (s : State) : exec (.debugStop target) s = execDebugStop target s := by
  rfl

theorem debugStop_launch (hf : failed s = false) (lid : Nat) :
    exec (.debugStop (.launch lid)) s = .next (debugStopLaunch lid s) := by
  rw [exec_debugStop, execDebugStop, hf, if_neg Bool.false_ne_true]

theorem debugStop_arm (hf : failed s = false) (lid : Nat) (b : Bool) : exec (.debugStop (.arm lid b)) s =
    .next ((if b then id else liftStop lid) (s.updLaunch lid (fun l => { l with bkpt := b }))) := by
  rw [exec_debugStop, execDebugStop, hf, if_neg Bool.false_ne_true]

theorem debugStop_noCommand (hf : failed s = false) {c : Nat} (h : s.findCmd c = none) : exec (.debugStop (.command c)) s = .next s := by
  rw [exec_debugStop, execDebugStop, hf, if_neg Bool.false_ne_true]
  simp only [h]

theorem debugStop_command (hf : failed s = false) {c : Nat} {x : Cmd} (h : s.findCmd c = some x) :
    exec (.debugStop (.command c)) s = .next (nameStop x.k.lid x.engine s) := by
  rw [exec_debugStop, execDebugStop, hf, if_neg Bool.false_ne_true]
  simp only [h]

theorem armed_completes (hf : failed s = false) {l : Launch} (h : s.findLaunch lid = some l) (b : Bool) :
    Completes (.debugStop (.arm lid b)) s fun t =>
      t.findLaunch lid = some { l with bkpt := b, debugStop := if b then l.debugStop else false }
      ∧ t = { s with launch := t.launch, launches := t.launches, team := t.team, teams := t.teams }
      ∧ ∀ tm : Team, s.findTeam tm.key = some tm → t.findTeam tm.key = some (
          if b = false ∧ tm.key.lid = lid then { tm with debugStop := false } else tm) := by
  refine ⟨_, debugStop_arm hf lid b, ?_⟩
  have harm := findLaunch_updLaunch s lid (fun l => { l with bkpt := b }) (fun _ => rfl) (fun _ h => h)
  rw [h] at harm
  cases b with
  | true =>
    refine ⟨harm, ?_, fun tm htm => ?_⟩
    · rw [if_pos rfl, id, updLaunch_outside]
    · rw [if_pos rfl, id, findTeam_updLaunch, htm]
      rfl
  | false =>
    simp only [Bool.false_eq_true, if_false, true_and]
    refine ⟨?_, ?_, fun tm htm => ?_⟩
    · rw [liftStop_launch, harm]
      rfl
    · rw [liftStop_outside, updLaunch_outside]
    · rw [liftStop_team, findTeam_updLaunch, htm]
      rfl

end

section
variable {s : State}

/-! ## The loaded objects stand in the part, which mapping leaves (R375) -/

theorem homeWrite_objs (cells : List (Nat × Byte)) (s : State) : (homeWrite cells s).part.objs = s.part.objs := rfl

theorem putEntry_objs (a : Nat) (e : DWord) (s : State) : (putEntry a e s).part.objs = s.part.objs := homeWrite_objs _ s

theorem mapFrom_objs {leaf : DWord} {k tab va : Nat} {fresh : List Nat} :
    ∀ r ∈ mapFrom leaf k tab va fresh s, r.2.part.objs = s.part.objs := by
  induction k generalizing tab fresh s with
  | zero => intro r hr; cases hr
  | succ k ih =>
    intro r hr
    simp only [mapFrom] at hr
    split at hr
    · cases hr
    · exact ih r hr
    · obtain ⟨-, hr⟩ := Option.mem_ite_none_left.1 hr
      split at hr
      · cases hr
        exact putEntry_objs _ _ _
      · split at hr
        · cases hr
        · rw [ih r hr, putEntry_objs, homeWrite_objs]

theorem mapPage_objs {asid va frame : Nat} {perm : DWord} {fresh : List Nat} :
    ∀ r ∈ mapPage asid va frame perm fresh s, r.2.part.objs = s.part.objs := by
  intro r hr
  obtain ⟨a, -, hr⟩ := Option.bind_eq_some_iff.1 hr
  exact mapFrom_objs r hr

theorem mapPages_objs {asid n va : Nat} {perm : DWord} {bs : List Byte} {x : List Nat × List Nat × State} :
    ∀ y ∈ mapPages asid perm n va bs x, y.2.2.part.objs = x.2.2.part.objs := by
  induction n generalizing va bs x with
  | zero => intro y hy; cases hy; rfl
  | succ n ih =>
    intro y hy
    obtain ⟨frames, fresh, s⟩ := x
    simp only [mapPages] at hy
    split at hy
    · cases hy
    · split at hy
      · cases hy
      next e =>
        have hpage := mapPage_objs _ e
        exact (ih y hy).trans hpage

theorem mapObject_objs {q : LoadRequest} {b : List Byte} {addr : Nat} {t : State} (h : mapObject q b addr s = some t) :
    t.part.objs = s.part.objs := by
  obtain ⟨z, hz, rfl⟩ := Option.map_eq_some_iff.1 h
  obtain ⟨y, hy, hz⟩ := Option.bind_eq_some_iff.1 hz
  refine (mapPages_objs z hz).trans (foldl_bind_forall (P := fun y => y.2.2.part.objs = s.part.objs)
    (fun x y hx z hz => (mapPages_objs z hz).trans hx) ?_ y hy)
  intro x hx
  cases hx
  rfl

theorem writeRegions_objs (q : LoadRequest) (b : List Byte) : (writeRegions q b s).part.objs = s.part.objs := by
  unfold writeRegions
  generalize q.regions.zipIdx = l
  induction l using List.reverseRecOn with
  | nil => rfl
  | append_singleton l r ih => rw [List.foldl_append]; exact ih

/-! ## Object loads (R375, R376) -/

theorem exec_objectLoad (req : LoadRequest) (s : State) : exec (.objectLoad req) s = execObjectLoad req s := by
  rfl

theorem objectLoad_unready {req : LoadRequest} (hb : s.part.bootst ≠ 3#4) : exec (.objectLoad req) s = .next s := by
  rw [exec_objectLoad, execObjectLoad, if_pos (bne_iff_ne.2 hb)]

theorem objectLoad_refusedEarly {req : LoadRequest} {r : Nat × Nat} (hb : s.part.bootst = 3#4) (hr : refusedEarly s req.bytes = some r) :
    exec (.objectLoad req) s = .next (refuseLoad r.1 r.2 s) := by
  rw [exec_objectLoad, execObjectLoad, if_neg (by simp [hb]), hr]

/-- An object that no check refuses is entered under its load address, in the place of one that stood there. -/
def enterObj (o : Obj) (s : State) : State :=
  s.updPart (fun p => { p with objs := p.objs.filter (fun (x : Obj) => x.addr != o.addr) ++ [o], loadReport := o.report })

theorem findObj_enterObj (o : Obj) (s : State) : (enterObj o s).findObj o.addr = some o := by
  have hnone : (s.part.objs.filter (fun x => x.addr != o.addr)).find? (·.addr == o.addr) = none := by
    rw [List.find?_eq_none]
    intro x hx
    simpa using (List.mem_filter.1 hx).2
  rw [enterObj, State.findObj, State.updPart_part, List.find?_append, hnone]
  simp

theorem findObj_enterObj_other {o : Obj} {a : Nat} (h : a ≠ o.addr) : (enterObj o s).findObj a = s.findObj a := by
  have hrest : (s.part.objs.filter (fun x => x.addr != o.addr)).find? (·.addr == a) = s.part.objs.find? (·.addr == a) := by
    rw [List.find?_filter]
    refine List.find?_congr fun x _ => ?_
    by_cases hx : x.addr = a
    · simp [hx, h]
    · simp [hx]
  have hne : (o.addr == a) = false := by simpa using h.symm
  rw [enterObj, State.findObj, State.updPart_part, List.find?_append, hrest]
  simp [hne, State.findObj]

theorem objectLoad_good {req : LoadRequest} {b : List Byte} {u : State} (hrel : b = relocate req.va (handlesOf req) (Config.freeAddress s.free) req.bytes)
    (hb : s.part.bootst = 3#4) (hearly : refusedEarly s req.bytes = none) (hfree : regionCount b ≤ regionsFree s req.asid)
    (hregions : firstFlaw (badRegions s b) = none) (hgood : requestGood s req b = true)
    (hmap : mapObject req b (req.frames.headD 0) s = some u) (hlaunches : firstFlaw (badLaunches u req.asid b) = none)
    (hsign : firstFlaw (badSignature s req.bytes) = none) :
    exec (.objectLoad req) s = .next (enterObj (loadedObj req b (req.frames.headD 0)) (writeRegions req b u)) := by
  rw [exec_objectLoad, execObjectLoad, if_neg (by simp [hb]), hearly]
  simp only [← hrel, Nat.not_lt.2 hfree, hregions, hgood, hmap, hlaunches, hsign, if_false, Bool.not_true, Bool.false_eq_true]
  rfl

/-! ## Object unloads (R377) -/

theorem exec_objectUnload (obj : Nat) (s : State) : exec (.objectUnload obj) s = execObjectUnload obj s := by
  rfl

/-- The descriptor of an unloaded object's region: VALID cleared and GEN raised, where it lies in memory. -/
def dropRegion (asid : Nat) (t : State) (r : Nat × BitVec 16) : State :=
  if !descBacked t asid r.1 then t
  else homeWrite (namedCells t (descAddr t asid r.1 + 5)
    (toBytes 1 ((readDesc t asid r.1).flags / 2 * 2) ++ toBytes 2 (((readDesc t asid r.1).gen + 1) % 65536))) t

/-- The pages of an unloaded object's section are unmapped and shot down. -/
def dropMap (asid : Nat) (t : State) (m : Nat × Nat) : State :=
  shootDown (some [asid]) m.1 (m.1 + 65536 * pagesOf m.2) (unmapPages asid (pagesOf m.2) m.1 t)

/-- The state with an object unloaded, which is entered no more. -/
def dropObj (addr : Nat) (o : Obj) (s : State) : State :=
  (o.maps.foldl (dropMap o.asid) (o.regions.foldl (dropRegion o.asid) s)).updPart
    (fun p => { p with objs := p.objs.filter (fun (x : Obj) => x.addr != addr) })

variable {addr : Nat} {o : Obj}

theorem objectUnload_inUse (h : s.findObj addr = some o) (hu : objInUse s o = true) : exec (.objectUnload addr) s = .next s := by
  rw [exec_objectUnload, execObjectUnload, h]
  simp only [hu, Bool.true_or, if_true]

theorem objectUnload_idle (h : s.findObj addr = some o) (hu : objInUse s o = false) (hw : ∀ r ∈ o.regions, unloadWaits s o.asid r.1 = false) :
    exec (.objectUnload addr) s = .next (dropObj addr o s) := by
  have hgo : o.regions.any (unloadWaits s o.asid ·.1) = false := List.any_eq_false.2 fun r hr => by simp [hw r hr]
  rw [exec_objectUnload, execObjectUnload, h]
  simp only [hu, hgo, Bool.or_self, Bool.false_eq_true, if_false]
  rfl

theorem findObj_dropObj : (dropObj addr o s).findObj addr = none := by
  rw [State.findObj, List.find?_eq_none]
  intro x hx
  simpa using (List.mem_filter.1 hx).2

theorem shootDown_mem (asids : Option (List Nat)) (lo hi : Nat) (s : State) : (shootDown asids lo hi s).mem = s.mem := rfl

theorem homeWrite_stored (hw : s.mem.wf = true) (cells : List (Nat × Byte)) : Stored cells s.mem (homeWrite cells s).mem :=
  fun a => Memory.read_writeCells hw cells a

theorem dropObj_region {r : Nat × BitVec 16} (hr : o.regions = [r]) (hm : o.maps = []) (hw : s.mem.wf = true)
    (hd : descBacked s o.asid r.1 = true) :
    Stored (namedCells s (descAddr s o.asid r.1 + 5) (toBytes 1 ((readDesc s o.asid r.1).flags / 2 * 2)
      ++ toBytes 2 (((readDesc s o.asid r.1).gen + 1) % 65536))) s.mem (dropObj addr o s).mem := by
  have hmem : (dropObj addr o s).mem = (dropRegion o.asid s r).mem := by rw [dropObj, hr, hm]; rfl
  rw [hmem, dropRegion, hd, if_neg (by decide)]
  exact homeWrite_stored hw _

/-- A page that a leaf of 64 KiB maps: its entry becomes 0. -/
theorem unmapPage_leaf {asid va a : Nat} {e : DWord} (n : Nat) (hwalk : walk s 0 asid va = some (e, 65536)) (ha : entryAddr s asid va = some a) :
    unmapPage asid va (n + 1) s = putEntry a 0#64 s := by
  simp only [unmapPage, hwalk, ha, if_true]

theorem dropObj_page {m : Nat × Nat} {a : Nat} {e : DWord} (hr : o.regions = []) (hm : o.maps = [m]) (hn : m.2 = 1) (hw : s.mem.wf = true)
    (ha : entryAddr s o.asid m.1 = some a) (hwalk : walk s 0 o.asid m.1 = some (e, 65536)) :
    Stored (namedCells s a (toBytes 8 0)) s.mem (dropObj addr o s).mem := by
  have hmem : (dropObj addr o s).mem = (unmapPage o.asid m.1 3 s).mem := by
    rw [dropObj, hr, hm, State.updPart_mem, List.foldl_nil, List.foldl_cons, List.foldl_nil, dropMap, shootDown_mem, hn]
    rfl
  rw [hmem, unmapPage_leaf 2 hwalk ha]
  exact homeWrite_stored hw _

/-! ## Wait-for samples (R402, R403) -/

theorem length_padTo {n : Nat} {b : List Byte} (h : b.length ≤ n) : (padTo n b).length = n := by
  rw [padTo, List.length_append, List.length_replicate]
  omega

theorem length_waitNote (s : State) (ks : List SquadKey) : (waitNote s ks).length = 32 := by
  have hsix : ((ks.take 6).flatMap (fun k => toBytes 4 (logicalIndex k (s.getLaunch ((ks.headD ⟨0, 0, 0⟩).lid)).lr.nsq))).length ≤ 24 := by
    rw [List.length_flatMap, List.map_congr_left fun k _ => length_toBytes 4 _, List.map_const', List.sum_replicate, List.length_take]
    simp only [smul_eq_mul]
    omega
  simp only [waitNote, List.length_append, length_toBytes, length_padTo hsix]

/-- The waits that a sample reports: squads that wait on no producer, then the cycles. -/
def foundWaits (s : State) : List (List SquadKey) :=
  let ks := (s.allSquads.filter (fun q => q.status == .live)).map (·.key)
  (ks.filter (fun k => waitsOnNothing s (s.getSq k))).map (fun k => [k])
    ++ dedup ((ks.map (fun k => sortBy keyBefore (waitCycle s k))).filter (fun c => !c.isEmpty))

/-- A report for each wait found, in order. -/
def postWaits (s : State) : State := (foundWaits s).foldl (fun t c => post (waitNote s c) t) s

theorem exec_waitForGraphSample (s : State) : exec .waitForGraphSample s = execWaitForGraphSample s := by
  rfl

theorem waitForGraphSample_unready (hb : s.part.bootst ≠ 3#4) : exec .waitForGraphSample s = .next s := by
  rw [exec_waitForGraphSample, execWaitForGraphSample, if_pos (bne_iff_ne.2 hb)]

theorem waitForGraphSample_ready (hb : s.part.bootst = 3#4) : exec .waitForGraphSample s =
    .next (if Config.freeBit s.free .hour then (postWaits s).updPart closeHour else postWaits s) := by
  rw [exec_waitForGraphSample, execWaitForGraphSample, if_neg (by simp [hb])]
  rfl

theorem postWaits_counted (s : State) : Counted s (postWaits s) :=
  foldl_counted _ (fun t c => post_counted (length_waitNote s c) t) _ _

/-- A squad that waits on a register is in no cycle. -/
theorem waitCycle_reg {q : Squad} {r : Opnd} {k : SquadKey} (hq : s.getSq k = q) (h : waitNow s q = some (.reg r)) : waitCycle s k = [] := by
  have hfor : waitsFor s q = [] := by simp only [waitsFor, h]
  have hreach : ∀ n, waitReach s n [] = [] := fun n => by cases n <;> rfl
  simp only [waitCycle, hq, hfor, hreach]
  rfl

theorem foundWaits_alone {q : Squad} {r : Opnd} (hall : s.allSquads = [q]) (hlive : q.status = .live) (h : waitNow s q = some (.reg r))
    (hfull : q.isFull r = false) (hpend : q.pendingOn r = none) : foundWaits s = [[q.key]] := by
  have hget : s.getSq q.key = q := getSq_of_find (by rw [State.findSq, hall]; simp)
  have hnothing : waitsOnNothing s q = true := by simp [waitsOnNothing, h, hfull, hpend]
  simp [foundWaits, hall, hlive, hget, hnothing, waitCycle_reg hget h, sortBy, dedup]

theorem postWaits_alone {q : Squad} {r : Opnd} (hall : s.allSquads = [q]) (hlive : q.status = .live) (h : waitNow s q = some (.reg r))
    (hfull : q.isFull r = false) (hpend : q.pendingOn r = none) (hring : s.part.nqsize = 0#64) (hheld : s.part.held = []) :
    (postWaits s).part.held = [waitNote s [q.key]] := by
  rw [postWaits, foundWaits_alone hall hlive h hfull hpend, List.foldl_cons, List.foldl_nil, post, if_pos hring, if_pos (by simp [hheld]),
    State.updPart_part, hheld, List.nil_append]

theorem hourBin_zero : hourBin 0 = none := rfl

/-- Bin b holds from 2^b events on, the last bin without an upper bound. -/
theorem hourBin_eq {n b : Nat} (hb : b ≤ 15) (hlo : 2 ^ b ≤ n) (hhi : b = 15 ∨ n < 2 ^ (b + 1)) : hourBin n = some b := by
  have hn : n ≠ 0 := fun h => absurd (h ▸ hlo) (by have := Nat.two_pow_pos b; omega)
  have hle : b ≤ n.log2 := (Nat.le_log2 hn).2 hlo
  rw [hourBin, if_neg hn]
  rcases hhi with rfl | hhi
  · rw [Nat.min_eq_left hle]
  · have hlt := (Nat.log2_lt hn).2 hhi
    rw [Nat.min_eq_right (by omega), Nat.le_antisymm (Nat.le_of_lt_succ hlt) hle]

theorem vget_ofFn {α : Type} [Inhabited α] {n i : Nat} (f : Fin n → α) (h : i < n) : vget (Vector.ofFn f) i = f ⟨i, h⟩ := by
  simp [vget, h]

theorem closeHour_hour (p : Part) {i : Nat} (h : i < 6) : vget (closeHour p).hour i = 0 := by
  simp [closeHour, vget, h]

theorem closeHour_quiet (p : Part) {i : Nat} (h : i < 6) (hn : vget p.hour i = 0) :
    vget (closeHour p).histograms i = vget p.histograms i := by
  rw [closeHour, vget_ofFn _ h]
  simp only [hn, hourBin_zero]

theorem closeHour_bin (p : Part) {i b : Nat} (h : i < 6) (hb : b ≤ 15) (hlo : 2 ^ b ≤ vget p.hour i)
    (hhi : b = 15 ∨ vget p.hour i < 2 ^ (b + 1)) :
    vget (vget (closeHour p).histograms i) b = vget (vget p.histograms i) b + 1 := by
  rw [closeHour, vget_ofFn _ h]
  simp only [hourBin_eq hb hlo hhi]
  rw [vget_vset, if_pos ⟨rfl, by omega⟩]

end

section
variable {s : State}

/-! ## Experiments and parity failures (R68, R401, R403) -/

theorem exec_causalExperiment (op : ExperimentOp) (s : State) : exec (.causalExperiment op) s = execCausalExperiment op s := by
  rfl

theorem experiment_starts (hf : failed s = false) {e : Experiment} (hlo : 1 ≤ e.delay) (hhi : e.delay ≤ 4096) (hpoints : e.points.length ≤ 4) :
    exec (.causalExperiment (.start e)) s = .next (s.updPart (fun p => { p with
      experiments := p.experiments ++ [(p.nextExperiment, e)]
      progress := p.progress ++ e.points.map (fun x => (p.nextExperiment, x.1, x.2, 0))
      nextExperiment := p.nextExperiment + 1 })) := by
  rw [exec_causalExperiment, execCausalExperiment, hf, if_neg Bool.false_ne_true]
  simp only [hlo, hhi, hpoints, decide_true, Bool.and_self, if_true]

theorem experiment_refused (hf : failed s = false) {e : Experiment} (h : e.delay < 1 ∨ 4096 < e.delay ∨ 4 < e.points.length) :
    exec (.causalExperiment (.start e)) s = .next s := by
  have hbad : ¬ (1 ≤ e.delay && e.delay ≤ 4096 && e.points.length ≤ 4) = true := by
    simp only [Bool.and_eq_true, decide_eq_true_eq]
    omega
  rw [exec_causalExperiment, execCausalExperiment, hf, if_neg Bool.false_ne_true]
  exact if_neg hbad

theorem experiment_stops (hf : failed s = false) (id : Nat) : exec (.causalExperiment (.stop id)) s =
    .next (s.updPart (fun p => { p with experiments := p.experiments.filter (·.1 != id) })) := by
  rw [exec_causalExperiment, execCausalExperiment, hf, if_neg Bool.false_ne_true]

theorem exec_registerParityFailure (target : ParityTarget) (s : State) :
    exec (.registerParityFailure target) s = execRegisterParityFailure target s := by
  rfl

/-- An accumulator element that is uncorrectable from now on. -/
def Core.markBad (x : Nat × Nat × Nat) (c : Core) : Core := { c with zbad := x :: c.zbad }

/-- A register word that is uncorrectable from now on. -/
def Squad.markBad (w : WordRef) (q : Squad) : Squad := { q with uncorr := if q.uncorr.contains w then q.uncorr else w :: q.uncorr }

theorem mem_markBad (w : WordRef) (q : Squad) : w ∈ (q.markBad w).uncorr := by
  rw [Squad.markBad]
  split
  next h => simpa using h
  · exact List.mem_cons_self

theorem parity_reg (hf : failed s = false) (k : SquadKey) (w : WordRef) : exec (.registerParityFailure (.reg k w)) s =
    .next (if Config.freeBit s.free .duplicate then s.countLife 0 else s.updSq k (Squad.markBad w)) := by
  rw [exec_registerParityFailure, execRegisterParityFailure, hf, if_neg Bool.false_ne_true]
  exact (apply_ite Host.Outcome.next _ _ _).symm

theorem parity_acc (hf : failed s = false) (core tile row col : Nat) : exec (.registerParityFailure (.acc core tile row col)) s =
    .next (s.updCore core (Core.markBad (tile, row, col))) := by
  rw [exec_registerParityFailure, execRegisterParityFailure, hf, if_neg Bool.false_ne_true]
  rfl

theorem parity_hbm (hf : failed s = false) {pa : Nat} (h : inHbm s pa 1 = true) :
    exec (.registerParityFailure (.hbm pa)) s = .next (s.countLife 2) := by
  rw [exec_registerParityFailure, execRegisterParityFailure, hf, if_neg Bool.false_ne_true]
  exact if_pos h

theorem failed_idle (hf : failed s = true) (target : StopTarget) (op : ExperimentOp) (what : ParityTarget) :
    exec (.debugStop target) s = .next s ∧ exec (.causalExperiment op) s = .next s ∧ exec (.registerParityFailure what) s = .next s :=
  ⟨by rw [exec_debugStop]; exact if_pos hf, by rw [exec_causalExperiment]; exact if_pos hf,
    by rw [exec_registerParityFailure]; exact if_pos hf⟩

theorem waitForGraphSample_completes (hb : s.part.bootst = 3#4) : Completes .waitForGraphSample s fun t =>
    let hour := Config.freeBit s.free .hour
    (hour = false → Counted s t)
    ∧ (∀ q o, s.allSquads = [q] → q.status = .live → waitNow s q = some (.reg o) → q.isFull o = false → q.pendingOn o = none →
        s.part.nqsize = 0#64 → s.part.held = [] → t.part.held = [waitNote s [q.key]])
    ∧ (hour = true → ∀ i, i < 6 → let n := vget s.part.hour i
        vget t.part.hour i = 0 ∧ (n = 0 → vget t.part.histograms i = vget s.part.histograms i)
        ∧ ∀ b, b ≤ 15 → 2 ^ b ≤ n → b = 15 ∨ n < 2 ^ (b + 1) →
            vget (vget t.part.histograms i) b = vget (vget s.part.histograms i) b + 1) := by
  refine ⟨_, waitForGraphSample_ready hb, fun hour => ?_, fun q o hall hlive hwait hfull hpend hring hheld => ?_, fun hour i hi => ?_⟩
  · rw [hour, if_neg Bool.false_ne_true]
    exact postWaits_counted s
  · rw [apply_ite State.part, apply_ite Part.held]
    exact (ite_self _).trans (postWaits_alone hall hlive hwait hfull hpend hring hheld)
  · have hkept := (postWaits_counted s).part
    have hhour : (postWaits s).part.hour = s.part.hour := by rw [hkept]
    have hhist : (postWaits s).part.histograms = s.part.histograms := by rw [hkept]
    rw [hour, if_pos rfl, State.updPart_part, ← hhour, ← hhist]
    exact ⟨closeHour_hour _ hi, closeHour_quiet _ hi, fun b hb hlo hhi => closeHour_bin _ hi hb hlo hhi⟩

end

/-- Settles O60: each event by the lemma that says what it does. -/
theorem objectAndDebugEvents : Obligations.ObjectAndDebugEvents := by
  unfold Obligations.ObjectAndDebugEvents
  intro s
  refine ⟨fun _ => objectLoad_unready, fun _ _ => objectLoad_refusedEarly, ?load, fun _ _ => objectUnload_inUse, ?unload,
    fun hb target op what => failed_idle (failed_iff.2 hb) target op what, fun hb => ?debug, waitForGraphSample_unready,
    waitForGraphSample_completes, fun hb => ?parity⟩
  case load =>
    intro req u b hb hearly hfree hregions hgood hmap hlaunches hsign
    refine ⟨_, objectLoad_good rfl hb hearly hfree hregions hgood hmap hlaunches hsign, findObj_enterObj _ _, fun a ha => ?_, rfl, fun hr => ?_⟩
    · rw [findObj_enterObj_other ha, State.findObj, writeRegions_objs, mapObject_objs hmap]
      rfl
    · rw [enterObj, State.updPart_mem, writeRegions, hr]
      rfl
  case unload =>
    intro addr o h hu hw
    exact ⟨_, objectUnload_idle h hu hw, findObj_dropObj, fun _ => dropObj_region,
      fun hr m a hm hn hwf ha ⟨_, hwalk⟩ => dropObj_page hr hm hn hwf ha hwalk⟩
  case debug =>
    have hf := failed_eq_false hb
    refine ⟨fun lid l h => ⟨_, debugStop_launch hf lid, debugStopLaunch_outside h, debugStopLaunch_launch h,
        fun k => debugStopLaunch_otherLaunch, fun tm htm => ?_⟩,
      fun c => debugStop_noCommand hf, fun c x => debugStop_command hf, fun lid l b h => armed_completes hf h b, fun e => experiment_starts hf, fun e => experiment_refused hf,
      experiment_stops hf⟩
    rw [debugStopLaunch_team, htm, Option.map_some, stopTeam_eq]
  case parity =>
    have hf := failed_eq_false hb
    refine ⟨fun k w q h => ⟨_, parity_reg hf k w, ?_⟩, fun core tile row col => ⟨_, parity_acc hf core tile row col, ?_, updCore_outside _ _ _⟩,
      fun pa => parity_hbm hf⟩
    · split
      · exact .inl rfl
      · refine .inr ⟨?_, updSq_outside _ _ _⟩
        rw [getSq_updSq (f := Squad.markBad w) h (fun _ => rfl) (fun _ h => h)]
        exact mem_markBad w q
    · rw [getCore_updCore s core (Core.markBad (tile, row, col)) fun _ => rfl]
      rfl

end Sys2Proof.Machine
end

/-! # Terminal traps (R91, R141, R340) -/

section
namespace Sys2Proof.Machine

-- One after the other, as above: the check's memory limit bounds the stacks of parallel elaboration.
set_option Elab.async false

section
variable {s : State} {r : Report} {pkt word chw clen : Nat}

theorem takeTrap_inHandler (h : inHandler s = true) : takeTrap r pkt word chw clen s = trapInTrap r s := if_pos h

theorem takeTrap_terminal (h : inHandler s = false) (ht : terminalAtEntry r s = true) :
    takeTrap r pkt word chw clen s = terminalReport r s := by
  rw [takeTrap, if_neg (Bool.eq_false_iff.1 h), if_pos ht]

theorem terminalAtEntry_iff : terminalAtEntry r s = true ↔
    r.cause = 0x09#8 ∨ s.obj.trapSuit = none ∨ ∃ l, s.sq.live.getLsbD l = true ∧ vget s.sq.depth l = 255#8 := by
  simp only [terminalAtEntry, Bool.or_eq_true, beq_iff_eq, Option.isNone_iff_eq_none, List.any_eq_true, mem_maskList, or_assoc]

/-- A terminal trap in the running launch that stands beside the squad (R141, R340). -/
theorem terminalReport_cur (hl : s.launch.lid = s.sq.key.lid) (hr : s.launch.status = .running) :
    terminalReport r s = { s with
      sq := { s.sq with
        tcause := r.cause.setWidth 64, tinfo0 := r.info0, tinfo1 := r.info1, tlanes := r.lanes.setWidth 64
        status := .stopped, running := false, runPkts := [], wait := none, sst := none, syncw := none, late := [] }
      launch := { s.launch with status := .stopping, ending := ⟨3, r.cause.toNat, r.info0, r.info1⟩ }
      cmds := s.cmds.map (fun c => if c.k.lid = s.sq.key.lid then { c with cancelled := true } else c) } := by
  have hl' : (setReport r s).launch.lid = (setReport r s).sq.key.lid := hl
  rw [terminalReport, terminalTrap, endLaunch_cur (s := setReport r s) _ hl' hr]
  rfl

end

/-- Settles O7: inside a handler the report is that of cause 0x17, else the word's own. -/
theorem terminalTraps : Obligations.TerminalTraps := by
  unfold Obligations.TerminalTraps
  intro s i r h hl hr ends
  refine ⟨fun hin => ?_, fun hin ht => ?_⟩
  · refine h.trans (congrArg Host.Outcome.next ?_)
    rw [takeTrap_inHandler hin, trapInTrap, terminalReport_cur hl hr]
    rfl
  · refine h.trans (congrArg Host.Outcome.next ?_)
    rw [takeTrap_terminal hin (terminalAtEntry_iff.2 ht), terminalReport_cur hl hr, BitVec.ofNat_toNat]

end Sys2Proof.Machine
end

/-! # Exits, segments, returns and yields (R77, R128 to R131, R135) -/

section
namespace Sys2Proof.Machine

-- One after the other, as above: the check's memory limit bounds the stacks of parallel elaboration.
set_option Elab.async false

/-! ## Masks -/

theorem maskOf_eq {m : Mask} {f : Nat → Bool} (h : ∀ l, l < 32 → (m.getLsbD l = true ↔ f l = true)) : maskOf f = m :=
  BitVec.eq_of_getLsbD_eq fun l hl => by rw [getLsbD_maskOf f hl]; exact Bool.eq_iff_iff.2 (h l hl).symm

theorem lowest_eq {m : Mask} {l : Nat} (h : IsLowest m l) : lowest m = l := by
  obtain ⟨hl, hmin⟩ := h
  have hs := maskList_sorted m
  have hmem : l ∈ Mask.list m := mem_maskList.2 hl
  rw [lowest]
  cases e : Mask.list m with
  | nil => rw [e] at hmem; cases hmem
  | cons k r =>
    rw [e] at hs hmem
    rcases List.mem_cons.1 hmem with rfl | hr
    · rfl
    · have hk : m.getLsbD k = true := mem_maskList.1 (e ▸ List.mem_cons_self)
      rw [hmin k ((List.pairwise_cons.1 hs).1 l hr)] at hk
      cases hk

section
variable {s : State}

/-- A state whose register files and F/E bits are as before keeps every register; that they are is seen by computing. -/
theorem RegsKept.same {t : State} (v : t.sq.v = s.sq.v := by rfl) (u : t.sq.s = s.sq.s := by rfl)
    (base : t.sq.abase = s.sq.abase := by rfl) (stride : t.sq.astride = s.sq.astride := by rfl) (p : t.sq.p = s.sq.p := by rfl)
    (fev : t.sq.fev = s.sq.fev := by rfl) (fes : t.sq.fes = s.sq.fes := by rfl) (fea : t.sq.fea = s.sq.fea := by rfl)
    (fep : t.sq.fep = s.sq.fep := by rfl) : RegsKept [] s t := by
  intro o ho _
  cases o with
  | v n => exact ⟨fun l => by simp only [val, Squad.vreg, v], by simp only [Squad.isFull, fev]⟩
  | s n => exact ⟨fun l => by simp only [val, u], by simp only [Squad.isFull, fes]⟩
  | a n => exact ⟨fun l => by simp only [val, Squad.areg, base, stride], by simp only [Squad.isFull, fea]⟩
  | p n => exact ⟨fun l => by simp only [val, p], by simp only [Squad.isFull, fep]⟩
  | _ => cases ho

/-! ## SEG (R77) -/

theorem segLanes_eq {m : Mask} {slots : BitVec 8} (h : ∀ l, l < 32 → (m.getLsbD l = true ↔ s.sq.live.getLsbD l = true
    ∧ s.sq.held.getLsbD l = false ∧ ∃ k, k < s.sq.hent.nslot ∧ slots.getLsbD k = true ∧ s.sq.hent.slotBlock k = some (vget s.sq.br l).toNat)) :
    segLanes s.sq slots = m := by
  refine maskOf_eq fun l hl => (h l hl).trans ?_
  simp only [Bool.and_eq_true, Bool.not_eq_true', List.any_eq_true, List.mem_range, beq_iff_eq, Squad.brOf, and_assoc]

theorem ownSeg_some {slots : BitVec 8} (h : segLanes s.sq slots ≠ 0#32) : ownSeg slots s = .done (fun t => t.onSq (fun q =>
    { q with em := segLanes s.sq slots, segSlots := slots
             brn := lanes fun l => if (segLanes s.sq slots).getLsbD l then q.brOf l else q.brnOf l })) := by
  simp only [ownSeg, if_neg h]

theorem ownSeg_none {slots : BitVec 8} (h : segLanes s.sq slots = 0#32) : ownSeg slots s = .done (fun t =>
    jumpTo (s.sq.hent.nextBoundary s.sq.pkt) (t.onSq (fun q =>
      { q with em := 0#32, segSlots := slots, brn := lanes fun l => if (0#32).getLsbD l then q.brOf l else q.brnOf l }))) := by
  simp only [ownSeg, h, if_true]

/-! ## Exits (R130, R131) -/

variable {tgt : Nat → DWord} {lanesAtFault : Bool}

/-- An active lane's target names no block of the suit, and not fold (R130). -/
def NamesNoBlock (tgt : Nat → DWord) (s : State) (l : Nat) : Prop :=
  s.sq.em.getLsbD l = true ∧ (suitAt s s.sq.suit).nblk ≤ (tgt l).toNat ∧ tgt l ≠ 63#64

theorem namesNoBlock_iff {l : Nat} : NamesNoBlock tgt s l ↔
    s.sq.em.getLsbD l = true ∧ (tgt l != 63#64 && decide ((suitAt s s.sq.suit).nblk ≤ (tgt l).toNat)) = true := by
  simp only [NamesNoBlock, Bool.and_eq_true, bne_iff_ne, decide_eq_true_eq, and_comm]

theorem exitTo_noBlock {m : Mask} {l : Nat} (hbad : ∃ k, k < 32 ∧ NamesNoBlock tgt s k)
    (hm : ∀ k, k < 32 → (m.getLsbD k = true ↔ s.sq.em.getLsbD k = true ∧ (lanesAtFault = true → NamesNoBlock tgt s k)))
    (hl : IsLowest m l) : exitTo tgt lanesAtFault s = .trap (deckFault 1 (tgt l) m) := by
  obtain ⟨k, -, hk⟩ := hbad
  obtain ⟨x, r, hlist, -, -, -, hmask⟩ := faulting_lanes s.sq.em (fun l => tgt l != 63#64 && decide ((suitAt s s.sq.suit).nblk ≤ (tgt l).toNat))
    ⟨k, namesNoBlock_iff.1 hk⟩
  have hls : (if lanesAtFault then maskOfList (x :: r) else s.sq.em) = m := by
    refine BitVec.eq_of_getLsbD_eq fun j hj => Bool.eq_iff_iff.2 (Iff.trans ?_ (hm j hj).symm)
    cases lanesAtFault with
    | false => simp
    | true =>
      rw [if_pos rfl, hmask j hj, ← namesNoBlock_iff]
      exact ⟨fun h => ⟨h.1, fun _ => h⟩, fun h => h.2 rfl⟩
  simp only [exitTo, hlist, hls, lowest_eq hl]

theorem badLanes_nil (h : ∀ l, ¬ NamesNoBlock tgt s l) :
    (Mask.list s.sq.em).filter (fun l => tgt l != 63#64 && decide ((suitAt s s.sq.suit).nblk ≤ (tgt l).toNat)) = [] :=
  no_faulting_lanes _ _ fun l hl => Bool.eq_false_iff.2 fun hp => h l (namesNoBlock_iff.2 ⟨hl, hp⟩)

theorem exitTo_done (h : ∀ l, ¬ NamesNoBlock tgt s l)
    (hf : trapFrameOnTop s = true → ∀ l, s.sq.em.getLsbD l = true → tgt l ≠ 63#64) :
    exitTo tgt lanesAtFault s = .done (fun t => t.onSq (fun q =>
      { q with brn := lanes fun l => if s.sq.em.getLsbD l then (tgt l).setWidth 6 else q.brnOf l })) := by
  have hnone : (if trapFrameOnTop s then (Mask.list s.sq.em).filter (fun l => tgt l == 63#64) else []) = [] := by
    split
    next hk => exact no_faulting_lanes _ _ fun l hl => beq_eq_false_iff_ne.2 (hf hk l hl)
    next => rfl
  simp only [exitTo, badLanes_nil h, hnone]

theorem exitTo_foldInTrap {l : Nat} (h : ∀ k, ¬ NamesNoBlock tgt s k) (hk : trapFrameOnTop s = true) (hl : s.sq.em.getLsbD l = true)
    (hfold : tgt l = 63#64) (hmin : ∀ k, k < l → s.sq.em.getLsbD k = true → tgt k ≠ 63#64) :
    exitTo tgt lanesAtFault s = .trap (deckFault 5 (BitVec.ofNat 64 l) s.sq.em) := by
  obtain ⟨x, r, hlist, hx, hxf, hxmin, -⟩ := faulting_lanes s.sq.em (fun l => tgt l == 63#64) ⟨l, hl, beq_iff_eq.2 hfold⟩
  have hxl : x = l := by
    rcases Nat.lt_trichotomy x l with hlt | heq | hgt
    · exact absurd (beq_iff_eq.1 hxf) (hmin x hlt hx)
    · exact heq
    · exact absurd ⟨hl, beq_iff_eq.2 hfold⟩ (hxmin l hgt)
  simp only [exitTo, badLanes_nil h, if_pos hk, hlist, hxl]

/-- What an exit does, for the four exit words: their targets lane by lane, and which lanes the report of a bad one names. -/
theorem exit_outcomes {i : Instr} {own : State → WordOut} (hi : ReadyFor i s) (he : exec i s = issueWord i own s)
    (ho : own s = exitTo tgt lanesAtFault s) {P : Prop} (hP : lanesAtFault = true ↔ P) :
    ((∀ l, s.sq.em.getLsbD l = true → (tgt l).toNat < (suitAt s s.sq.suit).nblk ∨ tgt l = 63#64) →
      (trapFrameOnTop s = true → ∀ l, s.sq.em.getLsbD l = true → tgt l ≠ 63#64) →
      Completes i s fun t => ∃ r, Issued s r ∧ t = { r with sq := { r.sq with
        brn := lanes fun l => if s.sq.em.getLsbD l then (tgt l).setWidth 6 else vget s.sq.brn l } })
    ∧ (∀ m l : _, (∃ k, k < 32 ∧ NamesNoBlock tgt s k) →
      (∀ k, k < 32 → (m.getLsbD k = true ↔ s.sq.em.getLsbD k = true ∧ (P → NamesNoBlock tgt s k))) → IsLowest m l →
      Traps i s ⟨0x07#8, 1#64, tgt l, m⟩)
    ∧ (∀ l, (∀ k, k < 32 → ¬ NamesNoBlock tgt s k) → trapFrameOnTop s = true → s.sq.em.getLsbD l = true → tgt l = 63#64 →
      (∀ k, k < l → s.sq.em.getLsbD k = true → tgt k ≠ 63#64) → Traps i s ⟨0x07#8, 5#64, BitVec.ofNat 64 l, s.sq.em⟩) := by
  refine ⟨fun hok hf => ?_, fun m l hbad hm hl => ?_, fun l hno hk hl hfold hmin => ?_⟩
  · refine completes_of_done hi he (ho.trans (exitTo_done (fun l hbad => ?_) hf)) ⟨_, issued_retire _ s, rfl⟩
    obtain ⟨hem, hblk, hne⟩ := hbad
    exact (hok l hem).elim (fun hlt => absurd hlt (Nat.not_lt.2 hblk)) hne
  · exact trap_completes hi he (ho.trans (exitTo_noBlock hbad (by rw [hP]; exact hm) hl))
  · exact trap_completes hi he (ho.trans (exitTo_foldInTrap (fun k hbad => hno k (BitVec.lt_of_getLsbD hbad.1) hbad) hk hl hfold hmin))

/-! ## RET and YIELD (R131, R135) -/

theorem ownRet_called (hf : s.sq.frames ≠ []) (hk : trapFrameOnTop s = false) : ownRet s = .done (fun t => t.onSq (fun q =>
    { q with brn := lanes fun l => if s.sq.em.getLsbD l then 63#6 else q.brnOf l, retd := q.retd ||| s.sq.em })) := by
  rw [ownRet, if_neg]
  simp [hf, hk]

theorem ownRet_elsewhere (h : s.sq.frames = [] ∨ trapFrameOnTop s = true) : ownRet s = .trap ⟨0x07#8, 3#64, 0#64, s.sq.em⟩ := by
  rw [ownRet, if_pos]
  · rfl
  · simpa using h

theorem mem_yieldTo (k : SquadKey) : k ∈ ((s.coreSquads s.core.id).filter (fun q => q.key != s.sq.key && q.fast && q.status == .live)).map (·.key)
    ↔ k ≠ s.sq.key ∧ ∃ q ∈ s.coreSquads s.core.id, q.key = k ∧ q.fast = true ∧ q.status = .live := by
  simp only [List.mem_map, List.mem_filter, Bool.and_eq_true, bne_iff_ne, beq_iff_eq]
  constructor
  · rintro ⟨q, ⟨hq, ⟨hne, hfast⟩, hlive⟩, rfl⟩
    exact ⟨hne, q, hq, rfl, hfast, hlive⟩
  · rintro ⟨hne, q, hq, rfl, hfast, hlive⟩
    exact ⟨q, ⟨hq, ⟨hne, hfast⟩, hlive⟩, rfl⟩

end

/-- Settles O46, word by word: the four exits are one lemma over their targets. -/
theorem flowWords : Obligations.FlowWords := by
  unfold Obligations.FlowWords
  intro c s
  refine ⟨fun h => ?nop, fun slots m h hm => ⟨fun hne => ?seg, fun hz => ?pass⟩, fun p bt bf e x hx h => ?exits, fun h hf hk => ?ret,
    fun h hbad => ?badRet, fun h => ?yield⟩
  case nop => exact completes_of_done h rfl rfl (issued_retire _ s)
  case seg =>
    have hseg := segLanes_eq hm
    exact completes_of_done h rfl (ownSeg_some (hseg ▸ hne)) ⟨_, issued_retire _ s, by rw [hseg]; rfl⟩
  case pass =>
    exact completes_of_done h rfl (ownSeg_none ((segLanes_eq hm).trans hz))
      ⟨rfl, rfl, rfl, rfl, .same, fun _ => rfl, fun _ => rfl, fun _ => rfl⟩
  case exits =>
    simp only [List.mem_cons, List.not_mem_nil, or_false] at hx
    rcases hx with rfl | rfl | rfl | rfl
    · exact exit_outcomes (lanesAtFault := false) h rfl rfl (by simp)
    · exact exit_outcomes (lanesAtFault := false) h rfl rfl (by simp)
    · exact exit_outcomes (lanesAtFault := true) h rfl rfl (by simp)
    · exact exit_outcomes (lanesAtFault := false) h rfl rfl (by simp)
  case ret => exact completes_of_done h rfl (ownRet_called hf hk) ⟨_, issued_retire _ s, rfl⟩
  case badRet => exact trap_completes h rfl (ownRet_elsewhere hbad)
  case yield => exact completes_of_done h rfl rfl ⟨⟨retire 1 (bit31 (.yield c)) s, issued_retire _ s, rfl⟩, mem_yieldTo⟩

end Sys2Proof.Machine
end

/-! # The deck as calls and deals read it (R82, R83, R99) -/

section
namespace Sys2Proof.Machine

-- One after the other, as above: the check's memory limit bounds the stacks of parallel elaboration.
set_option Elab.async false

/-! ## A deck image is read without the squad and the deck cache -/

/-- The state with another current squad and another deck cache: all that a dealt hand and the prefetcher change. -/
def State.withDealt (q : Squad) (d : List (Nat × Nat × Nat × Hand)) (s : State) : State :=
  { s with sq := q, core := { s.core with deck := d } }

section
variable (s : State) (q : Squad) (d : List (Nat × Nat × Nat × Hand)) (su : Suit)

theorem getCore_withDealt (i : Nat) : ∃ d', (s.withDealt q d).getCore i = { s.getCore i with deck := d' } := by
  unfold State.getCore State.withDealt
  split
  · exact ⟨d, rfl⟩
  · exact ⟨_, rfl⟩

theorem translate_withDealt (core asid va : Nat) : translate (s.withDealt q d) core asid va = translate s core asid va := by
  obtain ⟨d', hd⟩ := getCore_withDealt s q d core
  unfold translate
  rw [hd]
  rfl

theorem phys_withDealt (core asid va : Nat) : phys (s.withDealt q d) core asid va = phys s core asid va := by
  unfold phys
  rw [translate_withDealt]
  rfl

theorem coreByte_withDealt (core pa : Nat) : coreByte (s.withDealt q d) core pa = coreByte s core pa := by
  obtain ⟨d', hd⟩ := getCore_withDealt s q d core
  unfold coreByte
  rw [hd]
  rfl

theorem fetchBytes_withDealt (core asid va n : Nat) : fetchBytes (s.withDealt q d) core asid va n = fetchBytes s core asid va n := by
  obtain ⟨d', hd⟩ := getCore_withDealt s q d core
  have hb : coreByte (s.withDealt q d) core = coreByte s core := funext fun pa => coreByte_withDealt s q d core pa
  unfold fetchBytes
  simp only [phys_withDealt, hb, hd]
  rfl

theorem deckRead_withDealt (off n : Nat) : deckRead (s.withDealt q d) su off n = deckRead s su off n := fetchBytes_withDealt ..

theorem deckValue_withDealt (off n : Nat) : deckValue (s.withDealt q d) su off n = deckValue s su off n := by
  rw [deckValue, deckRead_withDealt, deckValue]

theorem withDeck_withDealt (off n : Nat) (k : List Byte → DeckRes) :
    withDeck (s.withDealt q d) su off n k = withDeck s su off n k := by
  have hdown : deckDown (s.withDealt q d) su off n = deckDown s su off n :=
    congrArg (List.find? · _) (funext fun va => by
      show Option.any _ (phys (s.withDealt q d) s.core.id s.launch.asid va) = _
      rw [phys_withDealt]
      rfl)
  rw [withDeck, hdown, deckRead_withDealt, withDeck]

theorem readHand_withDealt (h : Nat) : readHand (s.withDealt q d) su h = readHand s su h := by
  simp only [readHand, deckValue_withDealt, withDeck_withDealt]

theorem handEntry_withDealt (h : Nat) : handEntry (s.withDealt q d) su h = handEntry s su h := by
  simp only [handEntry, deckValue_withDealt, deckRead_withDealt]

theorem probe_withDealt (m : BitVec 64) (hbits fuel i : Nat) (seen : List Nat) :
    probe (s.withDealt q d) su m hbits fuel i seen = probe s su m hbits fuel i seen := by
  induction fuel generalizing i seen with
  | zero => simp only [probe, deckValue_withDealt]
  | succ n ih => simp only [probe, deckValue_withDealt, withDeck_withDealt, readHand_withDealt, ih]

/-- A lookup in the deck image depends neither on the current squad nor on the deck cache. -/
theorem imageLookup_withDealt (m : BitVec 64) : imageLookup (s.withDealt q d) su m = imageLookup s su m := by
  simp only [imageLookup, deckValue_withDealt, withDeck_withDealt, probe_withDealt]

end

section
variable {s : State} {su : Suit}

/-- What the prefetcher adds to the deck cache are entry hands of the suit's successors (R99). -/
theorem mem_prefetchHands {x : Nat × Nat × Nat × Hand} (hx : x ∈ (prefetchHands su s).core.deck) : x ∈ s.core.deck
    ∨ ∃ j ∈ su.succ, imageLookup s (suitAt s j) (blockMask (suitAt s j).entry) = .hit x.2.2.1 x.2.2.2 := by
  refine (List.foldlRecOn (motive := fun t => t = s.withDealt s.sq t.core.deck ∧ ∀ x ∈ t.core.deck, x ∈ s.core.deck
    ∨ ∃ j ∈ su.succ, imageLookup s (suitAt s j) (blockMask (suitAt s j).entry) = .hit x.2.2.1 x.2.2.2) su.succ _
    ⟨rfl, fun _ => .inl⟩ fun t ht j hj => ?_).2 x hx
  obtain ⟨hst, hmem⟩ := ht
  have hsuit : suitAt t j = suitAt s j := by rw [hst]; rfl
  have hlook : imageLookup t = imageLookup s := by
    funext su m
    rw [hst]
    exact imageLookup_withDealt ..
  dsimp only
  split
  · rw [hsuit, hlook]
    split
    next h e hhit =>
      obtain ⟨d, hd⟩ := noteHand_only (suitAt s j) h e t
      refine ⟨by rw [hd, hst]; rfl, fun y hy => ?_⟩
      rcases mem_noteHand hy with hold | hnew
      · exact hmem y hold
      · exact .inr ⟨j, hj, by rw [hnew]; exact hhit⟩
    next => exact ⟨hst, hmem⟩
  · exact ⟨hst, hmem⟩

end

/-! # CALL and CALLP (R89 to R91, R132, R405) -/

/-- The squad that has entered a suit by a call: the caller's frame resumes at the squad's position. -/
def Squad.called (i : Nat) (su : Suit) (callers : Mask) (h : Nat) (e : Hand) (q : Squad) : Squad :=
  { q with
    frames := saveFrame q false q.pkt q.word callers :: q.frames
    depth := lanes fun l => if callers.getLsbD l then vget q.depth l + 1#8 else vget q.depth l
    live := callers, held := 0#32, button := 0, suit := i, hand := h, hent := e, segSlots := 0#8, pkt := e.code, word := 0
    br := lanes fun l => if callers.getLsbD l then BitVec.ofNat 6 su.entry else vget q.br l
    brn := lanes fun l => if callers.getLsbD l then BitVec.ofNat 6 su.entry else vget q.brn l
    sqcall := q.sqcall + 1#64, running := false, runPkts := [] }

/-- The state after the call: the squad has entered the suit, and the deck cache has taken hands in. -/
def enterCall (i : Nat) (callers : Mask) (su : Suit) (h : Nat) (e : Hand) (t : State) : State :=
  let t := pushFrame (saveFrame t.sq false t.sq.pkt t.sq.word callers) t
  endRun (prefetchHands su (noteHand su h e (runHand h e (enterSuit i su.entry callers
    (t.onSq (fun q => { q with sqcall := q.sqcall + 1#64 }))))))

section
variable {s : State} {i : Nat} {callers : Mask}

theorem callSuit_none : callSuit i 0#32 s = .done endRun := rfl

theorem callSuit_deep {l : Nat} (hl : callers.getLsbD l = true) (hdeep : vget s.sq.depth l = 255#8) :
    ∃ m : Mask, (∀ k, k < 32 → (m.getLsbD k = true ↔ callers.getLsbD k = true ∧ vget s.sq.depth k = 255#8))
      ∧ callSuit i callers s = .trap ⟨0x06#8, BitVec.ofNat 64 i, 0#64, m⟩ := by
  obtain ⟨k, r, hlist, -, -, -, hm⟩ := faulting_lanes callers (fun l => vget s.sq.depth l == 255#8) ⟨l, hl, beq_iff_eq.2 hdeep⟩
  refine ⟨maskOfList (k :: r), fun j hj => (hm j hj).trans (and_congr_right' beq_iff_eq), ?_⟩
  have hne : callers ≠ 0#32 := by rintro rfl; simp at hl
  simp only [callSuit, if_neg hne, hlist]

section
variable (hne : callers ≠ 0#32) (hd : ∀ l, callers.getLsbD l = true → vget s.sq.depth l ≠ 255#8)
include hne hd

theorem callSuit_hit {h : Nat} {e : Hand} (hr : lookup s (suitAt s i) (blockMask (suitAt s i).entry) = .hit h e) :
    callSuit i callers s = .done (enterCall i callers (suitAt s i) h e) := by
  have hlist := no_faulting_lanes callers (fun l => vget s.sq.depth l == 255#8) fun l hl => beq_eq_false_iff_ne.2 (hd l hl)
  simp only [callSuit, if_neg hne, hlist, hr]
  rfl

/-- An entry hand that the deck does not give stops the call (R83, R393; logs 25 and 34). -/
theorem callSuit_stop {r : DeckRes} (hr : lookup s (suitAt s i) (blockMask (suitAt s i).entry) = r) (hno : ∀ h e, r ≠ .hit h e) :
    callSuit i callers s = .trap (deckStop s r) := by
  have hlist := no_faulting_lanes callers (fun l => vget s.sq.depth l == 255#8) fun l hl => beq_eq_false_iff_ne.2 (hd l hl)
  cases r with
  | hit h e => exact absurd rfl (hno h e)
  | miss off | bad off | down va => simp only [callSuit, if_neg hne, hlist, hr]

end

/-- What a call leaves: the squad that has entered the suit, and a deck cache that may have taken in the entry hand and
entry hands of the suit's successors (R99, log 8). -/
theorem enterCall_eq {su : Suit} {h : Nat} {e : Hand} {t : State} (hf : t.sq.frames.length < 8) :
    ∃ d, enterCall i callers su h e t = t.withDealt (t.sq.called i su callers h e) d
      ∧ ∀ x ∈ d, x ∈ t.core.deck ∨ x.2 = (e.mask.toNat, h, e) ∨ ∃ j ∈ su.succ,
        imageLookup t (suitAt t j) (blockMask (suitAt t j).entry) = .hit x.2.2.1 x.2.2.2 := by
  have hstart : enterCall i callers su h e t = endRun (prefetchHands su (noteHand su h e
      (t.withDealt { t.sq.called i su callers h e with running := t.sq.running, runPkts := t.sq.runPkts } t.core.deck))) := by
    simp only [enterCall, pushFrame, if_pos hf]
    rfl
  rw [hstart]
  generalize hq : { t.sq.called i su callers h e with running := t.sq.running, runPkts := t.sq.runPkts } = q
  obtain ⟨d, hd⟩ := noteHand_only su h e (t.withDealt q t.core.deck)
  obtain ⟨d', hd'⟩ := prefetchHands_only su (noteHand su h e (t.withDealt q t.core.deck))
  refine ⟨d', by rw [hd', hd, ← hq]; rfl, fun x hx => ?_⟩
  rcases mem_prefetchHands (su := su) (s := noteHand su h e (t.withDealt q t.core.deck)) (x := x) (by rw [hd']; exact hx) with hin | ⟨j, hj, hit⟩
  · exact (mem_noteHand hin).imp id .inl
  · have hnoted : noteHand su h e (t.withDealt q t.core.deck) = t.withDealt q d := hd
    rw [hnoted, imageLookup_withDealt] at hit
    exact .inr (.inr ⟨j, hj, hit⟩)

theorem ownCallp_ready {p : Opnd} {n : BitVec 17} {j : Instr} (h : ReadyFor j s) (hp : s.sq.settled p = true)
    (hc : ∀ l, l < 32 → (callers.getLsbD l = true ↔ s.sq.em.getLsbD l = true ∧ (val s p l).getLsbD 0 = true)) :
    ownCallp p n s = if s.obj.suits.length ≤ n.toNat then .trap (deckFault 4 (n.setWidth 64) s.sq.em)
      else callSuit n.toNat callers s := by
  have hsrc : sourceBlock s [(p, false)] = none := sourceBlock_of_full fun x hx => by rw [List.mem_singleton.1 hx]; exact hp
  have hpoison : poisonBlock s [(p, false)] = none := by simp only [poisonBlock, h.parity, h.poison, List.isEmpty_nil, Bool.and_self, if_true]
  have hmask : maskOf (fun l => s.sq.em.getLsbD l && (val s p l).getLsbD 0) = callers :=
    maskOf_eq fun l hl => (hc l hl).trans (Bool.and_eq_true_iff).symm
  simp only [ownCallp, hsrc, hpoison, hmask]

end

/-- Settles O48: both words are `callSuit` by their calling lanes, whose outcomes are the lemmas above. -/
theorem callWords : Obligations.CallWords := by
  unfold Obligations.CallWords
  intro c p n s i callers hform h
  obtain ⟨own, he, ho⟩ : ∃ own, exec i s = issueWord i own s ∧ own s = if s.obj.suits.length ≤ n.toNat
      then .trap (deckFault 4 (n.setWidth 64) s.sq.em) else callSuit n.toNat callers s := by
    rcases hform with ⟨rfl, rfl⟩ | ⟨rfl, hp, hc⟩
    · exact ⟨ownCall n, rfl, rfl⟩
    · exact ⟨ownCallp p n, rfl, ownCallp_ready h hp hc⟩
  have hgood : n.toNat < s.obj.suits.length → own s = callSuit n.toNat callers s := fun hn => ho.trans (if_neg (Nat.not_le.2 hn))
  have hstop : ∀ r, n.toNat < s.obj.suits.length → callers ≠ 0#32 → (∀ l, callers.getLsbD l = true → vget s.sq.depth l ≠ 255#8) →
      lookup s (suitAt s n.toNat) (blockMask (suitAt s n.toNat).entry) = r → (∀ h e, r ≠ .hit h e) → Traps i s (deckStop s r) := by
    exact fun r hn hne hd hr hno => trap_completes h he ((hgood hn).trans (callSuit_stop hne hd hr hno))
  refine ⟨fun hn => ?badIndex, fun hn hz => ?nobody, fun hn hdeep => ?deep, ?enters, ?badDeck, ?portDown⟩
  case badIndex => exact trap_completes h he (ho.trans (if_pos hn))
  case nobody =>
    subst hz
    exact completes_of_done h he ((hgood hn).trans callSuit_none) ⟨_, issued_retire _ s, rfl⟩
  case deep =>
    obtain ⟨l, -, hl, hdeep⟩ := hdeep
    obtain ⟨m, hm, hcall⟩ := callSuit_deep (i := n.toNat) hl hdeep
    rw [BitVec.ofNat_toNat] at hcall
    exact ⟨m, hm, trap_completes h he ((hgood hn).trans hcall)⟩
  case enters =>
    intro x e hn hne hd hf su entry hit
    have hdone : own s = .done (enterCall n.toNat callers su x e) := (hgood hn).trans (callSuit_hit hne hd hit)
    obtain ⟨d, hd', hmem⟩ := enterCall_eq (i := n.toNat) (callers := callers) (su := su) (h := x) (e := e) (t := retire 1 (bit31 i) s) hf
    refine completes_of_done h he hdone ⟨retire 1 (bit31 i) s, issued_retire _ s, ?_⟩
    rw [hd']
    refine ⟨fun y hy => ?_, rfl⟩
    have hlook : imageLookup (retire 1 (bit31 i) s) = imageLookup s := by
      funext su m
      exact imageLookup_withDealt s (retire 1 (bit31 i) s).sq s.core.deck su m
    have := hmem y hy
    rw [hlook] at this
    exact this
  case badDeck =>
    intro off hn hne hd su hr
    rcases hr with hr | hr
    · exact hstop (.bad off) hn hne hd hr nofun
    · exact hstop (.miss off) hn hne hd hr nofun
  case portDown => exact fun va hn hne hd hr => hstop (.down va) hn hne hd hr nofun

end Sys2Proof.Machine
end

/-! # DEAL (R84, R85, R95, R99, R101) -/

section
namespace Sys2Proof.Machine

-- One after the other, as above: the check's memory limit bounds the stacks of parallel elaboration.
set_option Elab.async false

/-! ## The lanes after a deal, and the called set (R84) -/

section
variable {q : Squad}

theorem dealt_br {l : Nat} (hl : l < 32) : vget (dealt q).br l =
    if q.live.getLsbD l = true ∧ q.held.getLsbD l = false then vget q.brn l else vget q.br l := by
  simp only [dealt, vget_lanes _ hl, Bool.and_eq_true, Bool.not_eq_true', Squad.brnOf, Squad.brOf]

theorem dealt_live {live : Mask} (h : ∀ l, l < 32 → (live.getLsbD l = true ↔ q.live.getLsbD l = true ∧
    (if q.live.getLsbD l = true ∧ q.held.getLsbD l = false then vget q.brn l else vget q.br l) ≠ 63#6)) : (dealt q).live = live := by
  refine maskOf_eq (f := fun l => q.live.getLsbD l && vget (dealt q).br l != 63#6) fun l hl => (h l hl).trans ?_
  rw [← dealt_br hl, Bool.and_eq_true, bne_iff_ne]

theorem getLsbD_blockMask {b k : Nat} (hk : k < 64) : (blockMask b).getLsbD k = decide (b = k) := by
  simp only [blockMask, BitVec.getLsbD_shiftLeft, BitVec.getLsbD_one, hk, decide_true, Bool.true_and]
  by_cases h : k < b
  · simp [h, Nat.ne_of_gt h]
  · have : (k - b = 0) = (b = k) := propext ⟨fun _ => by omega, fun _ => by omega⟩
    simp [h, this]

theorem getLsbD_foldl_blocks (f : Nat → Nat) (ls : List Nat) (m : BitVec 64) {k : Nat} (hk : k < 64) :
    (ls.foldl (fun m l => m ||| blockMask (f l)) m).getLsbD k = true ↔ m.getLsbD k = true ∨ ∃ l ∈ ls, f l = k := by
  induction ls generalizing m with
  | nil => simp
  | cons x r ih => simp only [List.foldl_cons, ih, BitVec.getLsbD_or, Bool.or_eq_true, getLsbD_blockMask hk, decide_eq_true_eq, or_assoc,
      List.exists_mem_cons_iff]

theorem calledSet_eq {m : BitVec 64} (h : ∀ b, b < 64 → (m.getLsbD b = true ↔ ∃ l, l < 32 ∧ q.live.getLsbD l = true ∧ (vget q.br l).toNat = b)) :
    calledSet q = m := by
  refine BitVec.eq_of_getLsbD_eq fun b hb => Bool.eq_iff_iff.2 ?_
  rw [calledSet, getLsbD_foldl_blocks _ _ _ hb, h b hb]
  simp only [BitVec.getLsbD_zero, Bool.false_eq_true, false_or, mem_maskList]
  exact exists_congr fun l => ⟨fun ⟨hl, hb⟩ => ⟨BitVec.lt_of_getLsbD hl, hl, hb⟩, fun ⟨_, hl, hb⟩ => ⟨hl, hb⟩⟩

end

/-- The block that the button chooses: the called block at the least cyclic distance from it (R85). -/
theorem buttonBlock_eq {m : BitVec 64} {button b : Nat} (hb : b < 63) (hm : m.getLsbD b = true) (hbut : button < 63)
    (hmin : ∀ b', b' < 63 → m.getLsbD b' = true → (b + 63 - button) % 63 ≤ (b' + 63 - button) % 63) : buttonBlock button m = b := by
  have hfind : ((List.range 63).map (fun i => (button + i) % 63)).find? (fun b => m.getLsbD b) = some b := by
    have hat : (button + (b + 63 - button) % 63) % 63 = b := by omega
    rw [List.find?_map, (List.find?_range_eq_some (i := (b + 63 - button) % 63)).2, Option.map_some, hat]
    refine ⟨by rw [Function.comp, hat]; exact hm, List.mem_range.2 (Nat.mod_lt _ (by decide)), fun j hj => ?_⟩
    rw [Function.comp, Bool.not_eq_true']
    refine Bool.eq_false_iff.2 fun hset => absurd (hmin _ (Nat.mod_lt _ (by decide)) hset) ?_
    omega
  rw [buttonBlock, hfind, Option.getD_some]

/-! ## What a DEAL comes to (R84, R85, R95) -/

/-- The lanes have moved and the deal is counted; the hand is still to run. -/
def afterDeal (t : State) : State := endRun (t.onSq (fun q => { dealt q with sqdeal := q.sqdeal + 1#64 }))

section
variable {s : State} {m : BitVec 64} {h : Nat} {e : Hand}

theorem ownDeal_retires (hz : calledSet (dealt s.sq) = 0#64) (hf : s.sq.frames = []) :
    ownDeal s = .done (fun t => (afterDeal t).onSq (fun q => { q with status := .retiring })) := by
  simp only [ownDeal, hz, hf, if_true]
  rfl

theorem ownDeal_endsFrame {f : Frame} {fs : List Frame} (hz : calledSet (dealt s.sq) = 0#64) (hf : s.sq.frames = f :: fs) :
    ownDeal s = .done (fun t => endFrame f (afterDeal t)) := by
  simp only [ownDeal, hz, hf, if_true]
  rfl

variable (hm : calledSet (dealt s.sq) = m) (hne : m ≠ 0#64)
include hm hne

theorem ownDeal_hit (hl : lookup s (suitAt s s.sq.suit) m = .hit h e) : ownDeal s = .done (fun t => runDealt none h e (afterDeal t)) := by
  simp only [ownDeal, hm, if_neg hne, hl]
  rfl

theorem ownDeal_misdeal {off b : Nat} (hl : lookup s (suitAt s s.sq.suit) m = .miss off) (hb : buttonBlock s.sq.button m = b)
    (hr : rowHand s (suitAt s s.sq.suit) m b none 8 0 = .hit h e) : ownDeal s = .done (fun t => runDealt (some b) h e (afterDeal t)) := by
  simp only [ownDeal, hm, if_neg hne, hl, hb, hr]
  rfl

theorem ownDeal_badRow {off b off' : Nat} (hl : lookup s (suitAt s s.sq.suit) m = .miss off) (hb : buttonBlock s.sq.button m = b)
    (hr : rowHand s (suitAt s s.sq.suit) m b none 8 0 = .bad off') : ownDeal s = .trap (deckStop s (.bad off')) := by
  simp only [ownDeal, hm, if_neg hne, hl, hb, hr]

theorem ownDeal_badDeck {off : Nat} (hl : lookup s (suitAt s s.sq.suit) m = .bad off) : ownDeal s = .trap (deckStop s (.bad off)) := by
  simp only [ownDeal, hm, if_neg hne, hl]

theorem ownDeal_portDown {va : Nat} (hl : lookup s (suitAt s s.sq.suit) m = .down va) : ownDeal s = .trap (deckStop s (.down va)) := by
  simp only [ownDeal, hm, if_neg hne, hl]

end

/-! ## Running the dealt hand (R84, R85, R101) -/

/-- The state in which a DEAL's hand is to run: only the squad differs, and of its fields only these. -/
theorem afterDeal_retire (s : State) (rb : Bool) : ∃ pkt word, afterDeal (retire 1 rb s) = { s with sq := { s.sq with
    br := (dealt s.sq).br, live := (dealt s.sq).live, held := 0#32, sqdeal := s.sq.sqdeal + 1#64, lclk := s.sq.lclk + 1#64
    wait := none, pkt := pkt, word := word, running := false, runPkts := [] } } := by
  refine ⟨(retire 1 rb s).sq.pkt, (retire 1 rb s).sq.word, ?_⟩
  simp only [afterDeal, endRun, State.onSq, retire]
  rfl

section
variable (s : State) (h : Nat) (e : Hand)

/-- A dealt hand changes the squad, the core's deck cache and counters, and counts in the part. -/
theorem runDealt_hit : ∃ d p, runDealt none h e s = { s with
    sq := { s.sq with hand := h, hent := e, segSlots := 0#8, pkt := e.code, word := 0 }
    core := { s.core with
      deck := d
      crdhit := if deckHit s (suitAt s s.sq.suit) h e then s.core.crdhit + 1#64 else s.core.crdhit
      crdmiss := if deckHit s (suitAt s s.sq.suit) h e then s.core.crdmiss else s.core.crdmiss + 1#64 }
    part := p } := by
  obtain ⟨d, hd⟩ := noteHand_only (suitAt s s.sq.suit) h e (runHand h e s)
  refine ⟨d, (runDealt none h e s).part, ?_⟩
  simp only [runDealt, Option.isSome_none, Bool.false_eq_true, if_false]
  rw [hd]
  rfl

/-- The lanes that a misdealt hand holds (R85). -/
def lanesHeld (e : Hand) (q : Squad) : Mask := maskOf (fun l => q.live.getLsbD l && !e.mask.getLsbD (q.brOf l).toNat)

/-- The squad that a misdeal by block `b` leaves, before its hand runs (R85). -/
def Squad.misdealt (e : Hand) (b : Nat) (q : Squad) : Squad :=
  { q with held := lanesHeld e q, button := (b + 1) % 63, sqmisd := q.sqmisd + 1#64
           sqheld := q.sqheld + BitVec.ofNat 64 (popCount (lanesHeld e q)) }

theorem runDealt_misdeal (b : Nat) : ∃ d p, runDealt (some b) h e s = { s with
    sq := { s.sq with
      held := lanesHeld e s.sq, button := (b + 1) % 63, sqmisd := s.sq.sqmisd + 1#64
      sqheld := s.sq.sqheld + BitVec.ofNat 64 (popCount (lanesHeld e s.sq))
      hand := h, hent := e, segSlots := 0#8, pkt := e.code, word := 0 }
    core := { s.core with
      deck := d
      crdhit := if deckHit s (suitAt s s.sq.suit) h e then s.core.crdhit + 1#64 else s.core.crdhit
      crdmiss := if deckHit s (suitAt s s.sq.suit) h e then s.core.crdmiss else s.core.crdmiss + 1#64
      crmisd := s.core.crmisd + 1#64 }
    part := p } := by
  let u := (s.onSq (Squad.misdealt e b)).countLife 3
  obtain ⟨d, hd⟩ := noteHand_only (suitAt u u.sq.suit) h e (runHand h e u)
  refine ⟨d, (runDealt (some b) h e s).part, ?_⟩
  have hrun : runDealt (some b) h e s = countProgress (countDeal (deckHit s (suitAt s s.sq.suit) h e) true
    (noteHand (suitAt u u.sq.suit) h e (runHand h e u))) := rfl
  rw [hrun, hd]
  rfl

variable {s h e}

theorem deckHit_held {su : Suit} (hc : cachedHand s su e.mask = some (h, e)) (hheld : stillHeld s su e.mask = true) :
    deckHit s su h e = true := by
  simp only [deckHit, hc, hheld, beq_self_eq_true, Bool.and_self]

end

/-- The cache that deals find their entries in is read without the squad (R99). -/
theorem deckHit_setSq (s : State) (q : Squad) (su : Suit) (h : Nat) (e : Hand) : deckHit { s with sq := q } su h e = deckHit s su h e := by
  have hplace : deckPlace { s with sq := q } su = deckPlace s su := phys_withDealt s q s.core.deck s.core.id s.launch.asid su.deck
  have hc : cachedHand { s with sq := q } su e.mask = cachedHand s su e.mask := by
    rw [cachedHand, hplace]
    rfl
  have hh : stillHeld { s with sq := q } su e.mask = stillHeld s su e.mask := by
    rw [stillHeld, hplace]
    rfl
  simp only [deckHit, hc, hh]

/-- A core that counts a deal counts it as a hit or as a miss, and as a hit where the cache serves it (R101). -/
theorem dealCounts {s : State} {su : Suit} {h : Nat} {e : Hand} {c : Core}
    (hit : c.crdhit = if deckHit s su h e then s.core.crdhit + 1#64 else s.core.crdhit)
    (miss : c.crdmiss = if deckHit s su h e then s.core.crdmiss else s.core.crdmiss + 1#64) :
    ((c.crdhit = s.core.crdhit + 1#64 ∧ c.crdmiss = s.core.crdmiss) ∨ (c.crdhit = s.core.crdhit ∧ c.crdmiss = s.core.crdmiss + 1#64))
    ∧ (cachedHand s su e.mask = some (h, e) → stillHeld s su e.mask = true → c.crdhit = s.core.crdhit + 1#64) := by
  refine ⟨?_, fun hc hheld => ?_⟩
  · rw [hit, miss]
    cases deckHit s su h e with
    | true => exact .inl ⟨rfl, rfl⟩
    | false => exact .inr ⟨rfl, rfl⟩
  · rw [hit, if_pos (deckHit_held hc hheld)]

/-! ## The end of a frame (R95; log 52) -/

theorem Frame.without_none (f : Frame) : f.without 0#32 = f := by
  have h : ~~~(0#32) = BitVec.allOnes 32 := rfl
  simp only [Frame.without, h, BitVec.and_allOnes]

theorem foldLanes_onChip {s : State} (ls : Mask) (hn : s.sq.nspill = 0) :
    foldLanes ls s = s.onSq (fun q => { q with frames := q.frames.map (·.without ls) }) := by
  unfold foldLanes
  split
  next h =>
    subst h
    simp only [Frame.without_none, List.map_id']
    rfl
  next => simp only [hn, List.range_zero, List.foldl_nil]

theorem refill_onChip {s : State} (hn : s.sq.nspill = 0) : refill s = s := if_pos hn

/-- The squad that resumes a frame at its place: the lanes that returned leave one level, and those that did not leave
every frame. -/
def Squad.resumed (f : Frame) (fs : List Frame) (e : Hand) (q : Squad) : Squad :=
  let folded := f.callers &&& ~~~q.retd
  { q with
    frames := fs.map (·.without folded)
    suit := f.suit, hand := f.hand, hent := e, segSlots := e.slotsAt f.rpkt, button := f.button
    held := f.held &&& ~~~folded, fmt := f.fmt, live := f.live &&& ~~~folded, em := f.em &&& ~~~folded
    br := f.brs, brn := f.brns
    depth := lanes fun l => if (f.callers &&& q.retd).getLsbD l then vget q.depth l - 1#8 else vget q.depth l
    retd := q.retd &&& ~~~(f.callers &&& q.retd)
    pkt := f.rpkt, word := f.rword, running := false, runPkts := [] }

theorem endFrame_onChip {s : State} {f : Frame} {fs : List Frame} (hf : s.sq.frames = f :: fs) (hn : s.sq.nspill = 0) :
    endFrame f s = skipEmpty (s.onSq (Squad.resumed f fs (handEntry s (suitAt s f.suit) f.hand))) := by
  have hentry : ∀ g : Squad → Squad, handEntry (s.onSq g) (suitAt s f.suit) f.hand = handEntry s (suitAt s f.suit) f.hand :=
    fun g => handEntry_withDealt s (g s.sq) s.core.deck (suitAt s f.suit) f.hand
  rw [endFrame, foldLanes_onChip _ hn, restoreFrame, refill_onChip (by exact hn)]
  have hsuit : ∀ g : Squad → Squad, suitAt (s.onSq g) = suitAt s := fun _ => rfl
  simp only [Frame.without, hsuit, hentry]
  simp only [State.onSq, hf, List.map_cons, List.drop_one, List.tail_cons, Squad.resumed]
  rfl

/-- Under an empty EM a resumed hand goes on at its next SEG or its DEAL; nothing but the position moves (R95). -/
theorem skipEmpty_eq (s : State) : ∃ pkt word, skipEmpty s = s.onSq (fun q => { q with pkt := pkt, word := word })
    ∧ (s.sq.em ≠ 0#32 → pkt = s.sq.pkt ∧ word = s.sq.word)
    ∧ (s.sq.em = 0#32 → word = 0 ∧ pkt = if s.sq.word = 0 ∧ s.sq.pkt = s.sq.hent.nextBoundary (s.sq.pkt - 1) then s.sq.pkt
        else s.sq.hent.nextBoundary s.sq.pkt) := by
  unfold skipEmpty
  split
  next h => exact ⟨_, _, rfl, fun hne => absurd h hne, fun _ => ⟨rfl, by simp only [Bool.and_eq_true, decide_eq_true_eq, beq_iff_eq]⟩⟩
  next h => exact ⟨s.sq.pkt, s.sq.word, rfl, fun _ => ⟨rfl, rfl⟩, fun hz => absurd hz h⟩

theorem and_not_and (x y : Mask) : x &&& ~~~(y &&& x) = x &&& ~~~y := by
  ext i
  simp only [BitVec.getElem_and, BitVec.getElem_not]
  cases x[i] <;> simp

/-- Settles O47: by the called set, the lookup, and for a misdeal the chosen row. -/
theorem dealWord : Obligations.DealWord := by
  unfold Obligations.DealWord
  intro s live m hready q br hlive hm su dealt' unread counts
  have hl : (dealt q).live = live := dealt_live hlive
  have hbr : ∀ l, l < 32 → vget (dealt q).br l = br l := fun l => dealt_br
  have hset : calledSet (dealt q) = m := calledSet_eq fun b hb => (hm b hb).trans
    (exists_congr fun l => and_congr_right fun hlt => by rw [hl, hbr l hlt])
  have hunread : ∀ off, ownDeal s = .trap (deckStop s (.bad off)) → unread off := fun off ho => trap_completes hready rfl ho
  refine ⟨?hit, ?miss, fun hz hf => ?retires, ?frame, fun off hne hlook => ?badDeck, fun va hne hlook => ?portDown⟩
  case hit =>
    intro h e hne hlook
    refine completes_of_done hready rfl (ownDeal_hit hset hne hlook) ?_
    obtain ⟨pkt, word, hafter⟩ := afterDeal_retire s (bit31 .deal)
    obtain ⟨d, p, hrun⟩ := runDealt_hit (afterDeal (retire 1 (bit31 .deal) s)) h e
    rw [hafter, deckHit_setSq] at hrun
    rw [hafter, hrun]
    exact ⟨⟨hbr, hl, rfl, rfl, rfl, rfl, rfl, rfl⟩, rfl, rfl, rfl, rfl, rfl, rfl, rfl, dealCounts (su := su) rfl rfl, rfl, .same,
      fun _ => rfl, fun _ => rfl, fun _ => rfl⟩
  case miss =>
    intro off off' h e b hne hlook hb hmb hmin hbut
    have hblock := buttonBlock_eq hb hmb hbut hmin
    refine ⟨fun hrow => hunread off' (ownDeal_badRow hset hne hlook hblock hrow), fun hrow => ?_⟩
    refine completes_of_done hready rfl (ownDeal_misdeal hset hne hlook hblock hrow) ?_
    obtain ⟨pkt, word, hafter⟩ := afterDeal_retire s (bit31 .deal)
    obtain ⟨d, p, hrun⟩ := runDealt_misdeal (afterDeal (retire 1 (bit31 .deal) s)) h e b
    rw [hafter, deckHit_setSq] at hrun
    rw [hafter, hrun]
    refine ⟨⟨hbr, hl, rfl, rfl, rfl, rfl, rfl, rfl⟩, fun l hlt => ?_, rfl, rfl, rfl, rfl, rfl, rfl, dealCounts (su := su) rfl rfl, rfl, .same,
      fun _ => rfl, fun _ => rfl, fun _ => rfl⟩
    dsimp only
    rw [lanesHeld, getLsbD_maskOf _ hlt, Bool.and_eq_true, Bool.not_eq_true', hl, Squad.brOf, hbr l hlt]
  case retires =>
    refine completes_of_done hready rfl (ownDeal_retires (hset.trans hz) hf) ?_
    obtain ⟨pkt, word, hafter⟩ := afterDeal_retire s (bit31 .deal)
    rw [hafter]
    exact ⟨⟨hbr, hl, rfl, rfl, rfl, rfl, rfl, rfl⟩, rfl, .same, fun _ => rfl, fun _ => rfl, fun _ => rfl⟩
  case frame =>
    intro f fs hz hf hn folded e
    refine completes_of_done hready rfl (ownDeal_endsFrame (hset.trans hz) hf) ?_
    obtain ⟨pkt, word, hafter⟩ := afterDeal_retire s (bit31 .deal)
    rw [hafter]
    generalize hq : ({ s.sq with
      br := (dealt s.sq).br, live := (dealt s.sq).live, held := 0#32, sqdeal := s.sq.sqdeal + 1#64, lclk := s.sq.lclk + 1#64
      wait := none, pkt := pkt, word := word, running := false, runPkts := [] } : Squad) = x
    have hframes : x.frames = f :: fs := by rw [← hq]; exact hf
    have hspill : x.nspill = 0 := by rw [← hq]; exact hn
    have hentry : handEntry { s with sq := x } (suitAt { s with sq := x } f.suit) f.hand = e :=
      handEntry_withDealt s x s.core.deck (suitAt s f.suit) f.hand
    rw [endFrame_onChip (s := { s with sq := x }) hframes hspill, hentry]
    obtain ⟨pkt', word', heq, hsome, hnone⟩ := skipEmpty_eq (State.onSq { s with sq := x } (Squad.resumed f fs e))
    rw [heq]
    subst hq
    refine ⟨rfl, rfl, rfl, rfl, rfl, rfl, rfl, rfl, rfl, rfl, rfl, and_not_and q.retd f.callers, fun l hlt => ?_, hsome, hnone, rfl,
      fun _ => rfl, fun _ => rfl, fun _ => rfl⟩
    refine (vget_lanes _ hlt).trans ?_
    simp only [BitVec.getLsbD_and, Bool.and_eq_true]
    rfl
  case badDeck => exact hunread off (ownDeal_badDeck hset hne hlook)
  case portDown => exact trap_completes hready rfl (ownDeal_portDown hset hne hlook)

end Sys2Proof.Machine
end

/-! # Retirement, stop, power tokens and gates (R96, R139, R141, R280, R281, R339, R340) -/

section
namespace Sys2Proof.Machine

-- One after the other, as above: the check's memory limit bounds the stacks of parallel elaboration.
set_option Elab.async false

/-! ## All squads after an update of one -/

theorem mem_allSquads_updSq {s : State} (hn : (s.allSquads.map (·.key)).Nodup) {k : SquadKey} {f : Squad → Squad}
    (hs : ∀ q, q.status ≠ .absent → (f q).status ≠ .absent) {x : Squad} (hx : x ∈ (s.updSq k f).allSquads) :
    ∃ y ∈ s.allSquads, x = if y.key = k then f y else y := by
  have hmapped : x ∈ s.allSquads.map (fun q => if q.key = k then f q else q) := by
    unfold State.updSq State.allSquads State.isCur at hx
    unfold State.allSquads at hn ⊢
    by_cases ha : s.sq.status = .absent
    · simpa [ha] using hx
    · by_cases hk : s.sq.key = k
      · have hothers : s.squads.map (fun q => if q.key = k then f q else q) = s.squads := by
          simp only [if_neg ha, List.map_cons, List.nodup_cons] at hn
          exact map_update_absent (hk ▸ hn.1) f
        simpa [ha, hk, hs _ ha, hothers] using hx
      · simpa [ha, hk] using hx
  obtain ⟨y, hy, rfl⟩ := List.mem_map.1 hmapped
  exact ⟨y, hy, rfl⟩

/-! ## A squad gives up its context, and the last one of a team its core (R96, R339) -/

/-- A squad that has left its core. -/
def Squad.released (q : Squad) : Squad :=
  { q with status := .retired, fast := false, running := false, wait := none, prods := [], fences := [] }

/-- A team without the tiles of one squad. -/
def Team.without (sqid : Nat) (t : Team) : Team := { t with owner := t.owner.map (fun o => if o.toNat = sqid then 0xFF#8 else o) }

section
variable {s : State} {k : SquadKey} {q : Squad} {tm : Team}

theorem dropAhead_outside (core : Nat) (k : SquadKey) (s : State) :
    dropAhead core k s = { s with core := (dropAhead core k s).core, cores := (dropAhead core k s).cores } := updCore_outside s core _

theorem releaseSquad_eq (k : SquadKey) (s : State) : releaseSquad k s =
    ((dropAhead (s.getTeam k.team).core k s).updSq k Squad.released).updTeam k.team (Team.without k.sqid) := rfl

theorem releaseSquad_outside (k : SquadKey) (s : State) : releaseSquad k s = { s with
    sq := (releaseSquad k s).sq, squads := (releaseSquad k s).squads, team := (releaseSquad k s).team, teams := (releaseSquad k s).teams
    core := (releaseSquad k s).core, cores := (releaseSquad k s).cores } := by
  rw [releaseSquad_eq, updTeam_outside, updSq_outside, dropAhead_outside]

theorem updSq_setCore (k : SquadKey) (f : Squad → Squad) (c : Core) (cs : List Core) (s : State) :
    State.updSq { s with core := c, cores := cs } k f = { s.updSq k f with core := c, cores := cs } := by
  by_cases hc : s.isCur k = true
  · rw [State.updSq, State.updSq, if_pos hc]
    exact if_pos hc
  · rw [State.updSq, State.updSq, if_neg hc]
    exact if_neg hc

/-- The squads, when one has been released. -/
theorem allSquads_releaseSquad (k : SquadKey) (s : State) : (releaseSquad k s).allSquads = (s.updSq k Squad.released).allSquads := by
  rw [releaseSquad_eq, updTeam_outside, dropAhead_outside, updSq_setCore]
  rfl

theorem findSq_releaseSquad (h : s.findSq k = some q) : (releaseSquad k s).findSq k = some q.released := by
  have hsame : (releaseSquad k s).findSq k = (s.updSq k Squad.released).findSq k := by
    unfold State.findSq
    rw [allSquads_releaseSquad]
  rw [hsame, findSq_updSq s k Squad.released (fun _ => rfl) (fun _ _ => nofun), h]
  rfl

theorem findTeam_releaseSquad (h : s.findTeam k.team = some tm) : (releaseSquad k s).findTeam k.team = some (tm.without k.sqid) := by
  have hsame : ((dropAhead (s.getTeam k.team).core k s).updSq k Squad.released).findTeam k.team = s.findTeam k.team := by
    rw [updSq_outside, dropAhead_outside]
    rfl
  rw [releaseSquad_eq, findTeam_updTeam _ _ (Team.without k.sqid) (fun _ => rfl) (fun _ h => h), hsame, h]
  rfl

/-- With a squad released, every squad of its team has gone where the others had. -/
theorem teamGone_releaseSquad (hn : (s.allSquads.map (·.key)).Nodup) (hall : ∀ x ∈ s.teamSquads k.team, x.key = k ∨ x.status = .retired) :
    ((releaseSquad k s).teamSquads k.team).all (fun q => q.status == .retired) = true := by
  rw [List.all_eq_true]
  intro x hx
  obtain ⟨hx, hteam⟩ := List.mem_filter.1 hx
  rw [allSquads_releaseSquad] at hx
  obtain ⟨y, hy, rfl⟩ := mem_allSquads_updSq (f := Squad.released) hn (fun _ _ => nofun) hx
  rw [beq_iff_eq]
  split
  next => rfl
  next hne =>
    rw [if_neg hne] at hteam
    exact (hall y (List.mem_filter.2 ⟨hy, hteam⟩)).resolve_left hne

end

section
variable {s : State} {t : TeamKey} {tm : Team} (counted : Bool)

/-- A team that has given its core up. -/
def Team.finished (t : Team) : Team := { t with status := .done }

/-- A launch of which one more team has retired, where it is to be counted. -/
def Launch.counting (counted : Bool) (l : Launch) : Launch := if counted then { l with retired := l.retired + 1 } else l

theorem closeTeam_gone (h : (s.teamSquads t).all (fun q => q.status == .retired) = true) :
    closeTeam t counted s = (s.updTeam t Team.finished).updLaunch t.lid (Launch.counting counted) := if_pos h

theorem closeTeam_outside : closeTeam t counted s = { s with
    team := (closeTeam t counted s).team, teams := (closeTeam t counted s).teams
    launch := (closeTeam t counted s).launch, launches := (closeTeam t counted s).launches } := by
  unfold closeTeam
  split
  · rw [updLaunch_outside, updTeam_outside]
  · rfl

theorem findSq_closeTeam (k : SquadKey) : (closeTeam t counted s).findSq k = s.findSq k := by
  rw [closeTeam_outside]
  rfl

/-- The team keeps its tiles' owners as it closes. -/
theorem findTeam_closeTeam (h : s.findTeam t = some tm) : ∃ tm', (closeTeam t counted s).findTeam t = some tm' ∧ tm'.owner = tm.owner := by
  by_cases hall : (s.teamSquads t).all (fun q => q.status == .retired) = true
  · rw [closeTeam_gone counted hall, findTeam_updLaunch, findTeam_updTeam s t Team.finished (fun _ => rfl) (fun _ _ => nofun), h]
    exact ⟨tm.finished, rfl, rfl⟩
  · rw [closeTeam, if_neg hall]
    exact ⟨tm, h, rfl⟩

theorem findTeam_settle (s : State) (k : TeamKey) : (settle s).findTeam k = s.findTeam k := rfl

theorem findLaunch_settle (s : State) (lid : Nat) : (settle s).findLaunch lid = s.findLaunch lid := rfl

end

/-! ## SQUAD_RETIREMENT (R96, R339) -/

section
variable {s : State} {q : Squad} {tm : Team}

theorem squadRetirement_eq (hq : s.findSq q.key = some q) (hst : q.status = .retiring) (hd : drained q = true) :
    exec (.squadRetirement q.key) s = .next (settle (closeTeam q.key.team ((s.getLaunch q.key.lid).status == .running) (releaseSquad q.key s))) := by
  show execSquadRetirement q.key s = _
  simp only [execSquadRetirement, getSq_of_find hq, hst, hd, beq_self_eq_true, Bool.and_self, if_true]

variable (counted : Bool)

/-- What a squad leaves that goes: memory and the dies as they were. -/
theorem goneSquad_outside (k : SquadKey) (s : State) : (settle (closeTeam k.team counted (releaseSquad k s))).mem = s.mem
    ∧ (settle (closeTeam k.team counted (releaseSquad k s))).dies = s.dies := by
  rw [settle_outside, closeTeam_outside, releaseSquad_outside]
  exact ⟨rfl, rfl⟩

theorem goneSquad_squad {k : SquadKey} (hq : s.findSq k = some q) :
    ((settle (closeTeam k.team counted (releaseSquad k s))).getSq k).status = .retired
    ∧ ((settle (closeTeam k.team counted (releaseSquad k s))).getSq k).prods = [] := by
  rw [getSq_settle ((findSq_closeTeam counted k).trans (findSq_releaseSquad hq))]
  exact ⟨rfl, rfl⟩

theorem goneSquad_owner {k : SquadKey} (ht : s.findTeam k.team = some tm) :
    ((settle (closeTeam k.team counted (releaseSquad k s))).getTeam k.team).owner
      = tm.owner.map (fun o => if o.toNat = k.sqid then 0xFF#8 else o) := by
  obtain ⟨tm', hfind, howner⟩ := findTeam_closeTeam counted (findTeam_releaseSquad ht)
  rw [State.getTeam, findTeam_settle, hfind, Option.getD_some, howner]
  rfl

/-- The last squad of a team completes it (R339). -/
theorem goneSquad_last {k : SquadKey} {l : Launch} (ht : s.findTeam k.team = some tm) (hl : s.findLaunch k.lid = some l)
    (hn : (s.allSquads.map (·.key)).Nodup) (hall : ∀ x ∈ s.teamSquads k.team, x.key = k ∨ x.status = .retired) :
    ((settle (closeTeam k.team counted (releaseSquad k s))).getTeam k.team).status = .done
    ∧ ((settle (closeTeam k.team counted (releaseSquad k s))).getLaunch k.lid).retired = if counted then l.retired + 1 else l.retired := by
  rw [closeTeam_gone counted (teamGone_releaseSquad hn hall)]
  generalize hr : releaseSquad k s = r
  have hteam : (r.updTeam k.team Team.finished).findTeam k.team = some (tm.without k.sqid).finished := by
    rw [findTeam_updTeam r k.team Team.finished (fun _ => rfl) (fun _ _ => nofun), ← hr, findTeam_releaseSquad ht]
    rfl
  have hlaunch : (r.updTeam k.team Team.finished).findLaunch k.lid = some l := by
    rw [updTeam_outside, ← hr, releaseSquad_outside]
    exact hl
  have hcount : ∀ l : Launch, (l.counting counted).lid = l.lid ∧ (l.counting counted).status = l.status := fun l => by
    cases counted <;> exact ⟨rfl, rfl⟩
  have hfind : ((r.updTeam k.team Team.finished).updLaunch k.lid (Launch.counting counted)).findLaunch k.lid = some (l.counting counted) := by
    rw [findLaunch_updLaunch _ _ _ (fun l => (hcount l).1) (fun l h => (hcount l).2 ▸ h), hlaunch]
    rfl
  constructor
  · rw [State.getTeam, findTeam_settle, findTeam_updLaunch, hteam]
    rfl
  · rw [State.getLaunch, findLaunch_settle, show k.team.lid = k.lid from rfl, hfind, Option.getD_some]
    cases counted <;> rfl

end

/-! ## SQUAD_STOP (R139, R141, R340; logs 22 and 31) -/

/-- A stopping squad without its matrix words and those of its takes that nothing can serve any more. -/
def Squad.withdrawn (keep : Nat → Bool → Bool) (q : Squad) : Squad :=
  { q with
    mprog := []
    prods := q.prods.filter (fun p => match p.kind with
      | .take n free => keep n.toNat free
      | _ => true) }

/-- A shoe without the takes of a squad that nothing can serve any more. -/
def Shoe.withdrawn (k : SquadKey) (keep : Nat → Bool → Bool) (n : Nat) (h : Shoe) : Shoe :=
  { h with
    ctakes := if keep n false then h.ctakes else h.ctakes.filter (fun x => x.1 != k)
    ptakes := if keep n true then h.ptakes else h.ptakes.filter (fun x => x.1 != k) }

section
variable {s : State} {k : SquadKey} {q : Squad} {tm : Team}

theorem withdraw_eq (k : SquadKey) (s : State) : withdraw k s = (s.updSq k (Squad.withdrawn (servable s k.team))).updTeam k.team
    (fun t => { t with shoes := Vector.ofFn (fun n => (vget t.shoes n.val).withdrawn k (servable s k.team) n.val) }) := rfl

theorem withdraw_outside (k : SquadKey) (s : State) : withdraw k s = { s with
    sq := (withdraw k s).sq, squads := (withdraw k s).squads, team := (withdraw k s).team, teams := (withdraw k s).teams } := by
  rw [withdraw_eq, updTeam_outside, updSq_outside]

theorem findSq_withdraw (h : s.findSq k = some q) : (withdraw k s).findSq k = some (q.withdrawn (servable s k.team)) := by
  have hsame : (withdraw k s).findSq k = (s.updSq k (Squad.withdrawn (servable s k.team))).findSq k := by
    rw [withdraw_eq, updTeam_outside]
    rfl
  rw [hsame, findSq_updSq s k (Squad.withdrawn (servable s k.team)) (fun _ => rfl) (fun _ h => h), h]
  rfl

/-- A take for which a slot stands ready is kept. -/
theorem servable_ready (ht : s.findTeam k.team = some tm) {n : Nat} {free : Bool}
    (h : (if free then (vget tm.shoes n).free else (vget tm.shoes n).filled) ≠ 0) : servable s k.team n free = true := by
  have hget : s.getTeam k.team = tm := by rw [State.getTeam, ht, Option.getD_some]
  simp only [servable, hget, Bool.or_eq_true, bne_iff_ne]
  exact .inl (.inl h)

theorem mem_prods_withdrawn {keep : Nat → Bool → Bool} {p : Prod} (hp : p ∈ q.prods)
    (h : ∀ n free, p.kind = .take n free → keep n.toNat free = true) : p ∈ (q.withdrawn keep).prods := by
  refine List.mem_filter.2 ⟨hp, ?_⟩
  split
  next n free hk => exact h n free hk
  next => rfl

/-- A squad that stops keeps its stores and its producers, those of its takes among them that a slot stands ready for. -/
theorem stopped_squad (hq : s.findSq q.key = some q) (ht : s.findTeam q.key.team = some tm) :
    let t := withdraw q.key (s.updSq q.key Squad.halted)
    (t.getSq q.key).status = .stopped ∧ (t.getSq q.key).mprog = [] ∧ (t.getSq q.key).sst = none ∧ (t.getSq q.key).storeq = q.storeq
    ∧ t.mem = s.mem ∧ (∀ p ∈ q.prods, (∀ n free, p.kind = .take n free →
        (if free then (vget tm.shoes n.toNat).free else (vget tm.shoes n.toNat).filled) ≠ 0) → p ∈ (t.getSq q.key).prods) := by
  intro t
  have hhalted : (s.updSq q.key Squad.halted).findSq q.key = some q.halted := by
    rw [findSq_updSq s q.key Squad.halted (fun _ => rfl) (fun _ _ => nofun), hq]
    rfl
  have hteam : (s.updSq q.key Squad.halted).findTeam q.key.team = some tm := by
    rw [updSq_outside]
    exact ht
  have hmem : t.mem = s.mem := by
    simp only [t]
    rw [withdraw_outside, updSq_outside]
  rw [getSq_of_find (findSq_withdraw hhalted)]
  exact ⟨rfl, rfl, rfl, rfl, hmem, fun p hp hready => mem_prods_withdrawn (q := q.halted) hp fun n free hk => servable_ready hteam (hready n free hk)⟩

variable (hq : s.findSq q.key = some q) (hl : (s.getLaunch q.key.lid).status = .stopping)
include hq hl

theorem squadStop_stops (hst : (q.status = .live ∧ q.running = false) ∨ q.status = .retiring) (hlate : q.late = [] ∨ q.syncw ≠ none) :
    exec (.squadStop q.key) s = .next (withdraw q.key (s.updSq q.key Squad.halted)) := by
  show execSquadStop q.key s = _
  have hcond : ((q.status == .live && !q.running) || q.status == .retiring) = true := by
    rcases hst with ⟨h, hr⟩ | h
    · rw [h, hr]; rfl
    · rw [h]; rfl
  have hlate' : (q.late.isEmpty || q.syncw.isSome) = true := by
    rcases hlate with h | h
    · rw [h]; rfl
    · rw [Option.isSome_iff_ne_none.2 h, Bool.or_true]
  simp only [execSquadStop, getSq_of_find hq, hl, bne_self_eq_false, Bool.false_eq_true, if_false, hcond, hlate', if_true]

theorem squadStop_leaves (hst : q.status = .stopped) (hd : drained ((withdraw q.key s).getSq q.key) = true) :
    exec (.squadStop q.key) s = .next (settle (closeTeam q.key.team false (releaseSquad q.key (withdraw q.key s)))) := by
  show execSquadStop q.key s = _
  have hcond : ((q.status == .live && !q.running) || q.status == .retiring) = false := by rw [hst]; rfl
  have hstopped : (q.status == .stopped) = true := by rw [hst]; rfl
  simp only [execSquadStop, getSq_of_find hq, hl, bne_self_eq_false, Bool.false_eq_true, if_false, hcond, hstopped, if_true, hd]

end

/-! ## Power tokens and gates (R280, R281) -/

section
variable {s : State} {die cluster : Nat} {d : Die}

theorem getDie_updDie (h : s.dies.toList.find? (·.id == die) = some d) {f : Die → Die} (hf : ∀ x, (f x).id = x.id) :
    (s.updDie die f).getDie die = f d := by
  have hmap := find_map_same (fun x : Die => x.id == die) f s.dies.toList fun x hx => by rw [hf]; exact hx
  simp only [beq_iff_eq] at hmap
  rw [State.getDie, State.updDie, Vector.toList_map, hmap, h]
  rfl

/-- A die whose cluster has passed its token to another. -/
def Die.passToken (cluster taker : Nat) (d : Die) : Die := { d with tokens := taker :: d.tokens.erase cluster }

theorem powerTokenPass_eq {j : Nat} (h : s.dies.toList.find? (·.id == die) = some d) (hhas : d.tokens.contains cluster = true)
    (h1 : 1 ≤ j) (h5 : j ≤ 5) (hfree : d.tokens.contains ((cluster + j) % 6) = false) (hwaits : clusterWaits s die ((cluster + j) % 6) = true)
    (hfirst : ∀ i, 1 ≤ i → i < j → d.tokens.contains ((cluster + i) % 6) = true ∨ clusterWaits s die ((cluster + i) % 6) = false) :
    exec (.powerTokenPass die cluster) s = .next (s.updDie die (Die.passToken cluster ((cluster + j) % 6))) := by
  show execPowerTokenPass die cluster s = _
  have hget : s.getDie die = d := by rw [State.getDie, h, Option.getD_some]
  have hfind : [1, 2, 3, 4, 5].find? ((fun x => !d.tokens.contains x && clusterWaits s die x) ∘ fun i => (cluster + i) % 6) = some j := by
    refine List.find?_range'_eq_some.2 ⟨?_, List.mem_range'_1.2 ⟨h1, (by omega : j < 1 + 5)⟩, fun i hi hij => ?_⟩
    · simp only [Function.comp, hfree, hwaits, Bool.not_false, Bool.and_self]
    · rcases hfirst i hi hij with h | h
      · simp only [Function.comp, h, Bool.not_true, Bool.false_and, Bool.not_false]
      · simp only [Function.comp, h, Bool.and_false, Bool.not_false]
  simp only [execPowerTokenPass, hget, hhas, if_true, List.find?_map, hfind, Option.map_some]
  rfl

/-- A sub-array's gate, shut and opened (R281). -/
def Core.gate (sub : Nat) (c : Core) : Core := { c with gated := c.gated ||| (1#4 <<< sub) }
def Core.wake (sub : Nat) (c : Core) : Core := { c with gated := c.gated &&& ~~~(1#4 <<< sub) }

theorem subarrayPowerGate_off {core sub : Nat} (h : failed s = true ∨ s.part.mxgate = 0#64) : exec (.subarrayPowerGate core sub) s = .next s :=
  if_pos (by rcases h with h | h <;> simp [h])

theorem subarrayPowerGate_on {core sub : Nat} (hf : failed s = false) (hg : s.part.mxgate ≠ 0#64) :
    exec (.subarrayPowerGate core sub) s = .next (s.updCore core (Core.gate sub)) := if_neg (by simp [hf, hg])

theorem subarrayWake_on {core sub : Nat} (hf : failed s = false) : exec (.subarrayWake core sub) s = .next (s.updCore core (Core.wake sub)) :=
  if_neg (Bool.eq_false_iff.1 hf)

end

/-- Settles O53: retirement and stop through what a squad leaves as it goes, and the power events by their updates. -/
theorem squadEndsAndPower : Obligations.SquadEndsAndPower := by
  unfold Obligations.SquadEndsAndPower
  intro s q tm hq ht
  refine ⟨fun hst hd => ?retires, fun hl hst hlate => ⟨_, squadStop_stops hq hl hst hlate, stopped_squad hq ht⟩, fun hl hst hd => ?leaves, ?token,
    fun core sub hf => ⟨subarrayPowerGate_off (.inl hf), if_pos hf⟩, fun core sub hf hg => ⟨_, subarrayPowerGate_on hf hg, ?gated, updCore_outside _ _ _⟩,
    fun core sub hg => subarrayPowerGate_off (.inr hg), fun core sub hf => ⟨_, subarrayWake_on hf, ?woken, updCore_outside _ _ _⟩⟩
  case retires =>
    obtain ⟨hstatus, hprods⟩ := goneSquad_squad ((s.getLaunch q.key.lid).status == .running) hq
    obtain ⟨hmem, hdies⟩ := goneSquad_outside ((s.getLaunch q.key.lid).status == .running) q.key s
    refine ⟨_, squadRetirement_eq hq hst hd, hstatus, hprods, hmem, hdies, goneSquad_owner _ ht, fun l hn hall hl => ?_⟩
    have hget : s.getLaunch q.key.lid = l := by rw [State.getLaunch, hl, Option.getD_some]
    have hlast := goneSquad_last ((s.getLaunch q.key.lid).status == .running) ht hl hn hall
    rw [hget] at hlast ⊢
    simpa only [beq_iff_eq] using hlast
  case leaves =>
    refine ⟨_, squadStop_leaves hq hl hst hd, (goneSquad_squad _ (findSq_withdraw hq)).1, (goneSquad_outside _ _ _).1.trans ?_⟩
    rw [withdraw_outside]
  case token =>
    intro die cluster d j h hhas h1 h5 next hfree hwaits hfirst
    refine ⟨_, powerTokenPass_eq h hhas h1 h5 hfree hwaits hfirst, ?_, updDie_outside _ _ _⟩
    rw [getDie_updDie h (f := Die.passToken cluster (next j)) fun _ => rfl, Die.passToken]
  case gated => rw [getCore_updCore s core (Core.gate sub) fun _ => rfl, Core.gate]
  case woken => rw [getCore_updCore s core (Core.wake sub) fun _ => rfl, Core.wake]

end Sys2Proof.Machine
end

/-! # A step of a run in progress (R97, R102 to R104, R123) -/

section
namespace Sys2Proof.Machine

-- One after the other, as above: the check's memory limit bounds the stacks of parallel elaboration.
set_option Elab.async false

/-! ## The chain at the position (R103) -/

section
variable {ws : List Word} {w : Nat}

theorem chainFrom_one (h : w = 2 ∨ (ws.getD w 0#32).getLsbD 31 = false) : chainFrom ws w = [ws.getD w 0#32] := by
  rw [chainFrom, if_pos]
  rcases h with rfl | h
  · rfl
  · rw [h, Bool.not_false, Bool.or_true]

theorem chainFrom_two (hw : w < 2) (h : (ws.getD w 0#32).getLsbD 31 = true) (h' : ¬ (w = 0 ∧ (ws.getD (w + 1) 0#32).getLsbD 31 = true)) :
    chainFrom ws w = [ws.getD w 0#32, ws.getD (w + 1) 0#32] := by
  simp only [chainFrom, h, Bool.not_true, Bool.or_false, decide_eq_true_eq, if_neg (Nat.not_le.2 hw)]
  refine if_pos ?_
  by_cases h0 : w = 0
  · rw [Bool.eq_false_iff.2 fun hc => h' ⟨h0, hc⟩, Bool.not_false, Bool.or_true]
  · rw [decide_eq_true (by omega : 2 ≤ w + 1), Bool.true_or]

theorem chainFrom_three (h0 : w = 0) (h : (ws.getD w 0#32).getLsbD 31 = true) (h' : (ws.getD (w + 1) 0#32).getLsbD 31 = true) :
    chainFrom ws w = [ws.getD w 0#32, ws.getD (w + 1) 0#32, ws.getD (w + 2) 0#32] := by
  subst h0
  simp only [chainFrom, h, h', Bool.not_true, Bool.or_false, Nat.zero_add]
  rfl

end

section
variable {s f : State}

/-! ## From the step to the chain -/

/-- Remembering a fetch changes the packet buffer alone. -/
theorem noteFetch_only (asid va n : Nat) (s : State) :
    ∃ ic, noteFetch s.core.id asid va n s = { s with core := { s.core with icache := ic } } := by
  unfold noteFetch
  split
  · split
    · exact ⟨s.core.icache, rfl⟩
    · exact ⟨_, if_pos rfl⟩
  · exact ⟨s.core.icache, rfl⟩

/-- While nothing is due and no word that has begun holds the squad, a step issues the next chain of its run. -/
theorem step_issues (hag : s.agenda = []) (hlive : s.sq.status = .live) (hrun : s.sq.running = true) (hsst : s.sq.sst = none)
    (hsync : s.sq.syncw = none) (hmp : s.sq.mprog = []) (hlate : s.sq.late = []) : step s = tick (issueChain s) := by
  have hon : runsOn s = true := by rw [runsOn, hlive, hrun]; rfl
  have hgo : continueRun s = issueChain s := by
    simp only [continueRun, hsst, hsync, hmp, hlate, Option.any_none, Option.isSome_none, List.any_nil, List.isEmpty_nil,
      Bool.not_true, Bool.false_eq_true, if_false]
  simp only [step, hag, hon, if_true, hgo]

variable (hff : fetchFault s = none) (hf : noteFetch s.core.id s.launch.asid (packetVa s s.sq.pkt) 12 s = f)
include hff hf

theorem issueChain_word {w : Word} {i : Instr} (hc : chainFrom (packetWords s) s.sq.word = [w]) (hd : decode w = .ok i) :
    issueChain s = noted [i] f (exec i f) := by
  simp only [issueChain, hff, hf, hc, hd]

theorem issueChain_undecodable {w : Word} {e : Reject} (hc : chainFrom (packetWords s) s.sq.word = [w]) (hd : decode w = .error e) :
    issueChain s = .next (takeTrap (undefinedReport w f) f.sq.pkt f.sq.word 0 1 f) := by
  simp only [issueChain, hff, hf, hc, hd]

theorem issueChain_many {w w' : Word} {ws : List Word} (hc : chainFrom (packetWords s) s.sq.word = w :: w' :: ws) :
    issueChain s = issueMany (w :: w' :: ws) f := by
  simp only [issueChain, hff, hf, hc]

end

/-! ## The bytes of the packet (R102) -/

section
variable {s : State} {va pa n : Nat}

theorem map_span_shift {α : Type} {g h : Nat → α} (hg : ∀ b, b < n → g (va + b) = h (pa + b)) : (span va n).map g = (span pa n).map h := by
  induction n generalizing va pa with
  | zero => rfl
  | succ n ih =>
    rw [span, span, List.map_cons, List.map_cons, ih fun b hb => ?_]
    · exact congrArg (· :: _) (hg 0 (Nat.succ_pos n))
    · simpa only [Nat.add_assoc, Nat.add_comm 1 b] using hg (b + 1) (Nat.succ_lt_succ hb)

/-- With nothing buffered and nothing on its way to memory, the bytes fetched are those of memory. -/
theorem fetchBytes_memory {asid : Nat} (hic : s.core.icache = []) (hmerged : s.core.merged = [])
    (hpend : (s.getDie (dieOf s.core.id)).pend = []) (hn : 0 < n) (hphys : ∀ b, b < n → phys s s.core.id asid (va + b) = some (pa + b)) :
    fetchBytes s s.core.id asid va n = some (s.mem.bytes pa n) := by
  have hcore : s.getCore s.core.id = s.core := if_pos rfl
  have hbyte : ∀ a, coreByte s s.core.id a = s.mem.read a := fun a => by
    simp only [coreByte, dieByte, hcore, hmerged, hpend, pendingByte, List.foldl_nil, Option.getD_none]
  have hbytes : (span va n).map (fun a => ((phys s s.core.id asid a).map (coreByte s s.core.id)).getD 0#8) = s.mem.bytes pa n :=
    map_span_shift fun b hb => by rw [hphys b hb, Option.map_some, Option.getD_some, hbyte]
  simp only [fetchBytes, show phys s s.core.id asid va = some pa from hphys 0 hn, hcore, hic, List.find?_nil, hbytes]

/-- Word `j` of a packet is the four bytes of memory at its place. -/
theorem packetWords_memory {j : Nat} (hbytes : fetchBytes s s.core.id s.launch.asid (packetVa s s.sq.pkt) 12 = some (s.mem.bytes pa 12)) (hj : j < 3) :
    (packetWords s).getD j 0#32 = BitVec.ofNat 32 (ofBytes (s.mem.bytes (pa + 4 * j) 4)) := by
  simp only [packetWords, packetAt, hbytes, Option.getD_some]
  interval_cases j <;> rfl

end

/-- Settles O4: the step issues the chain at the position, whose length the continuation bits give. -/
theorem stepRunsTheWord : Obligations.StepRunsTheWord := by
  unfold Obligations.StepRunsTheWord
  intro s word w ticked hag hlive hrun hsst hsync hmp hlate hff hlt
  obtain ⟨ic, hf⟩ := noteFetch_only s.launch.asid (packetVa s s.sq.pkt) 12 s
  have hstep := step_issues hag hlive hrun hsst hsync hmp hlate
  have hticks : ∀ u, issueChain s = .next u → ticked u := fun u hu => hstep.trans (congrArg tick hu)
  refine ⟨ic, ?_⟩
  intro f
  refine ⟨fun hone => ⟨fun i hd t ht => ?word, fun e hd => ?undecodable⟩, fun hlt hcont => ?chain, fun pa hic hmerged hpend hphys k hk => ?bytes⟩
  case word =>
    refine ⟨noteIssue [i] f t, noteIssue_noted [i] f t, hticks _ ?_⟩
    rw [issueChain_word hff hf (chainFrom_one hone) hd, ht, noted]
  case undecodable => exact hticks _ (issueChain_undecodable hff hf (chainFrom_one hone) hd)
  case chain =>
    intro ws t ht
    refine hticks t (Eq.trans ?_ ht)
    by_cases h3 : s.sq.word = 0 ∧ (word 1).getLsbD 31 = true
    · have hws : ws = [w, word 1, word 2] := if_pos h3
      rw [hws]
      exact issueChain_many hff hf (chainFrom_three h3.1 hcont h3.2)
    · have hws : ws = [w, word 1] := if_neg h3
      rw [hws]
      exact issueChain_many hff hf (chainFrom_two hlt hcont h3)
  case bytes => exact packetWords_memory (fetchBytes_memory hic hmerged hpend (by decide) hphys) hk

end Sys2Proof.Machine
end


/-! # Encoding and decoding (R111 to R123) -/

section
namespace Sys2Proof

/-- Every word instruction decodes from its encoding, each by its own law. -/
theorem Laws.Encoding.decodes : ∀ i : Instr, Laws.Encoding.Statement i
  | .nop .. => nop _ | .seg .. => seg _ | .nxt .. => nxt _ _ | .nxtc .. => nxtc _ _ _ _ _ | .nxti .. => nxti _ _ _ | .deal => deal
  | .fold .. => fold _ | .call .. => call _ _ | .callp .. => callp _ _ _ | .ret .. => ret _ | .trap .. => trap _ _ | .eret .. => eret _ _
  | .brk .. => brk _ _ | .emset .. => emset _ _ _ | .emget .. => emget _ _ _ | .yield .. => yield _ | .iadd .. => iadd _ _ _ _ _ _ _
  | .isub .. => isub _ _ _ _ _ _ _ | .imul .. => imul _ _ _ _ _ _ _ | .imulh .. => imulh _ _ _ _ _ _ _ | .imad .. => imad _ _ _ _ _ _ _
  | .imin .. => imin _ _ _ _ _ _ _ | .imax .. => imax _ _ _ _ _ _ _ | .iabs .. => iabs _ _ _ _ _ | .and .. => and _ _ _ _ _ _
  | .or .. => or _ _ _ _ _ _ | .xor .. => xor _ _ _ _ _ _ | .shl .. => shl _ _ _ _ _ _ _ | .shr .. => shr _ _ _ _ _ _
  | .sar .. => sar _ _ _ _ _ _ | .iaddmin .. => iaddmin _ _ _ _ _ _ | .cmov .. => cmov _ _ _ _ _ _ | .iceq .. => iceq _ _ _ _ _ _
  | .icne .. => icne _ _ _ _ _ _ | .iclt .. => iclt _ _ _ _ _ _ | .icle .. => icle _ _ _ _ _ _ | .icltu .. => icltu _ _ _ _ _ _
  | .icleu .. => icleu _ _ _ _ _ _ | .popc .. => popc _ _ _ _ | .clz .. => clz _ _ _ _ | .brev .. => brev _ _ _ _
  | .bfx .. => bfx _ _ _ _ _ _ _ | .bfi .. => bfi _ _ _ _ _ _ | .idiv .. => idiv _ _ _ _ _ _ _ | .irem .. => irem _ _ _ _ _ _ _
  | .aget .. => aget _ _ _ _ _ | .rget .. => rget _ _ _ _ _ _ | .rput .. => rput _ _ _ _ _ | .iaddi .. => iaddi _ _ _ _
  | .andi .. => andi _ _ _ _ | .ori .. => ori _ _ _ _ | .xori .. => xori _ _ _ _ | .shli .. => shli _ _ _ _ | .shri .. => shri _ _ _ _
  | .sari .. => sari _ _ _ _ | .iceqi .. => iceqi _ _ _ _ | .iclti .. => iclti _ _ _ _ | .icltui .. => icltui _ _ _ _
  | .movk .. => movk _ _ _ | .movkh .. => movkh _ _ _ | .prom .. => prom _ _ _ _ _ _ _ | .demu .. => demu _ _ _ _ _
  | .uniq .. => uniq _ _ _ _ _ _ | .sete .. => sete _ _ _ | .fadd .. => fadd _ _ _ _ _ _ | .fsub .. => fsub _ _ _ _ _ _
  | .fmul .. => fmul _ _ _ _ _ _ | .ffma .. => ffma _ _ _ _ _ _ _ | .fmin .. => fmin _ _ _ _ _ _ | .fmax .. => fmax _ _ _ _ _ _
  | .frcp .. => frcp _ _ _ _ | .frsq .. => frsq _ _ _ _ | .fsqrt .. => fsqrt _ _ _ _ | .fexp2 .. => fexp2 _ _ _ _
  | .flog2 .. => flog2 _ _ _ _ | .fceq .. => fceq _ _ _ _ _ _ | .fclt .. => fclt _ _ _ _ _ _ | .fcle .. => fcle _ _ _ _ _ _
  | .fclass .. => fclass _ _ _ _ | .frnd .. => frnd _ _ _ _ _ _ | .cvtfi .. => cvtfi _ _ _ _ _ _ _ | .cvtif .. => cvtif _ _ _ _ _
  | .cvtn .. => cvtn _ _ _ _ _ _ | .cvtw .. => cvtw _ _ _ _ _ _ | .cvth .. => cvth _ _ _ _ _ _ _ | .setfmt .. => setfmt _ _ _
  | .getfmt .. => getfmt _ _ | .rand .. => rand _ _ _ _ _ _ _ | .shfl .. => shfl _ _ _ _ _ _ | .shup .. => shup _ _ _ _ _ _
  | .shdn .. => shdn _ _ _ _ _ _ | .bcast .. => bcast _ _ _ _ _ _ | .vany .. => vany _ _ _ _ | .vbal .. => vbal _ _ _ _
  | .rdadd .. => rdadd _ _ _ _ _ | .rdmin .. => rdmin _ _ _ _ _ | .ld .. => ld _ _ _ _ _ _ _ | .ldsx .. => ldsx _ _ _ _ _ _ _
  | .st .. => st _ _ _ _ _ _ | .ldsc .. => ldsc _ _ _ _ _ _ | .stsc .. => stsc _ _ _ _ _ _ | .amo .. => amo _ _ _ _ _ _ _
  | .amor .. => amor _ _ _ _ _ _ _ | .cas .. => cas _ _ _ _ _ _ | .fence .. => fence _ _ _ | .ifence .. => ifence _
  | .pf .. => pf _ _ _ _ _ _ | .l1inv .. => l1inv _ | .shtake .. => shtake _ _ _ _ | .shput .. => shput _ _ _ _ | .shqry .. => shqry _ _ _
  | .waite .. => waite _ _ _ | .tld .. => tld _ _ _ _ _ _ _ _ | .tst .. => tst _ _ _ _ _ _ _ _ | .tmov .. => tmov _ _ _ _ _ _ _ _
  | .zclr .. => zclr _ _ _ | .zrd .. => zrd _ _ _ _ _ _ _ | .zxf .. => zxf _ _ _ _ _ | .mma .. => mma _ _ _ _ _ _ _
  | .mmas .. => mmas _ _ _ _ _ _ _ _ | .matrixKStep .. => matrixKStep _ _ | .sld .. => sld _ _ _ _ _ _ _ | .sst .. => sst _ _ _ _ _ _ _
  | .scur .. => scur _ _ _ _ _ _ | .snxt .. => snxt _ _ _ _ _ _ | .sisx .. => sisx _ _ _ _ _ _
  | .singleKeyOperation .. => singleKeyOperation _ | .engStk .. => engStk _ _ _ _ | .engCpy .. => engCpy _ _ _ _
  | .engDense .. => engDense _ _ _ _ | .engSpar .. => engSpar _ _ _ _ | .engDsp .. => engDsp _ _ _ | .engCmb .. => engCmb _ _ _ _
  | .engQapp .. => engQapp _ _ _ _ | .engGcond .. => engGcond _ _ _ _ | .engLvlw .. => engLvlw _ _ _ _
  | .engCancel .. => engCancel _ _ _ _ | .engHash .. => engHash _ _ _ | .engKgrow .. => engKgrow _ _ _ _
  | .engineShoePublish .. => engineShoePublish _ | .ticketFill .. => ticketFill _ | .barArrive .. => barArrive _ _ _ _
  | .barWait .. => barWait _ _ _ | .barSync .. => barSync _ _ _ | .barSyncCompletion .. => barSyncCompletion _
  | .sysRdsr .. => sysRdsr _ _ _ _ | .sysWrsr .. => sysWrsr _ _ _ _ | .shoeConfigure .. => shoeConfigure _ _ _ | .sysHalt .. => sysHalt _
  | .producerWrite .. => producerWrite _ _ | .mergeStep .. => mergeStep _ _ | .shoeTakeServe .. => shoeTakeServe _ _ _
  | .runIssue .. => runIssue _ | .squadDemotion .. => squadDemotion _ | .squadPromotion .. => squadPromotion _
  | .squadRetirement .. => squadRetirement _ | .squadStop .. => squadStop _ | .powerTokenPass .. => powerTokenPass _ _
  | .subarrayPowerGate .. => subarrayPowerGate _ _ | .subarrayWake .. => subarrayWake _ _ | .queueRecordTake .. => queueRecordTake _ _
  | .kernelNodeFire .. => kernelNodeFire _ _ | .recordNodeFire .. => recordNodeFire _ _ | .recordNodeTimeout .. => recordNodeTimeout _ _
  | .conditionalNodeFire .. => conditionalNodeFire _ _ | .whileNodeFire .. => whileNodeFire _ _ | .launchStart .. => launchStart _
  | .teamStart .. => teamStart _ | .launchCompletion .. => launchCompletion _ | .jobCompletion .. => jobCompletion _
  | .graphRegistration .. => graphRegistration _ _ _ _ | .preemptionRequest .. => preemptionRequest _ _
  | .drainLimitExpiry .. => drainLimitExpiry _ | .teamContextSave .. => teamContextSave _ | .teamResume .. => teamResume _ _
  | .pageWalk .. => pageWalk _ _ _ | .shootDown .. => shootDown _ _ _ | .promotion .. => promotion _ _ _
  | .migrationRequest .. => migrationRequest _ _ _ | .migrationCompletion .. => migrationCompletion _ _
  | .hostMemoryAccess .. => hostMemoryAccess _ _ | .peerAccess .. => peerAccess _ _ _ | .linkPortDown .. => linkPortDown _
  | .throttle .. => throttle _ _ _ | .reset => reset | .firmwareReady => firmwareReady | .attestationReport .. => attestationReport _
  | .bootstRead => bootstRead | .notificationRingSetup .. => notificationRingSetup _ _ | .mgmtRegisterWrite .. => mgmtRegisterWrite _ _
  | .coreCounterClear .. => coreCounterClear _ | .objectLoad .. => objectLoad _ | .objectUnload .. => objectUnload _
  | .debugStop .. => debugStop _ | .causalExperiment .. => causalExperiment _ | .waitForGraphSample => waitForGraphSample
  | .registerParityFailure .. => registerParityFailure _ | .dieL2Acceptance .. => dieL2Acceptance _ _
  | .homeAcceptance .. => homeAcceptance _ _ | .linkRetrainComplete .. => linkRetrainComplete _

namespace Machine

-- One after the other, as above: the check's memory limit bounds the stacks of parallel elaboration.
set_option Elab.async false

/-- The words of the encoding of a word instruction decode to it. -/
theorem decode_of_encode {i : Instr} {w : Word} (hi : isWord i = true) (h : encode i = [w]) : decode w = .ok i := by
  obtain ⟨v, hv, hd⟩ := Laws.Encoding.decodes i hi
  rw [hv] at h
  cases h
  exact hd

/-- The table's bit numbering is that of the word. -/
theorem decodeTableWord_of_decode {i : Instr} {w : Word} (h : decode w = .ok i) : decodeTableWord 32 w.toNat = some i := by
  rw [decodeTableWord, if_pos (Nat.le_refl 32), BitVec.ofNat_toNat, BitVec.setWidth_eq, h]

/-- Settles O2: each word instruction is one word, by its law in `Laws.Encoding`; the table reader reads the same word. -/
theorem encodeThenDecode : Obligations.EncodeThenDecode := by
  unfold Obligations.EncodeThenDecode
  intro i hi
  obtain ⟨w, he, hd⟩ := Laws.Encoding.decodes i hi
  exact ⟨w, he, hd, decodeTableWord_of_decode hd⟩

/-- Settles O1: each of the words is the encoding of its instruction, so that it decodes to it. -/
theorem wordsDecode : Obligations.WordsDecode := by
  unfold Obligations.WordsDecode
  exact ⟨decode_of_encode rfl rfl, decode_of_encode rfl rfl, decode_of_encode rfl rfl, decode_of_encode rfl rfl, decode_of_encode rfl rfl,
    decode_of_encode rfl rfl, decode_of_encode rfl rfl, decode_of_encode rfl rfl, decode_of_encode rfl rfl⟩

/-! ## The fields of a word (R113, Table 9-3)

Each format divides all 32 bits: a word is the one in that format with certain fields exactly where it has these fields. -/

/-- A bit of a word is a field of width 1. -/
theorem ofBool_getLsbD (w : Word) (k : Nat) : BitVec.ofBool (w.getLsbD k) = w.extractLsb' k 1 :=
  BitVec.eq_of_getLsbD_eq fun j hj => by
    obtain rfl := Nat.lt_one_iff.1 hj
    simp

section
variable {w : Word}

theorem fmtW3_eq_iff {c : Bool} {op d a b : BitVec 7} {e f m : Bool} :
    fmtW3 c op d a b e f m = w ↔ c = w.getLsbD 31 ∧ op = w.extractLsb' 24 7 ∧ d = w.extractLsb' 17 7 ∧ a = w.extractLsb' 10 7
      ∧ b = w.extractLsb' 3 7 ∧ e = w.getLsbD 2 ∧ f = w.getLsbD 1 ∧ m = w.getLsbD 0 := by
  constructor
  · rintro rfl
    simp only [fmtW3_bit_31, fmtW3_field_24_7, fmtW3_field_17_7, fmtW3_field_10_7, fmtW3_field_3_7, fmtW3_bit_2, fmtW3_bit_1,
      fmtW3_bit_0, and_self]
  · rintro ⟨rfl, rfl, rfl, rfl, rfl, rfl, rfl, rfl⟩
    simp only [fmtW3, ofBool_getLsbD, BitVec.extractLsb'_append_extractLsb'_eq_extractLsb']
    exact BitVec.extractLsb'_eq_self

theorem fmtWI_eq_iff {c : Bool} {op d a : BitVec 7} {i : BitVec 10} :
    fmtWI c op d a i = w ↔ c = w.getLsbD 31 ∧ op = w.extractLsb' 24 7 ∧ d = w.extractLsb' 17 7 ∧ a = w.extractLsb' 10 7
      ∧ i = w.extractLsb' 0 10 := by
  constructor
  · rintro rfl
    simp only [fmtWI_bit_31, fmtWI_field_24_7, fmtWI_field_17_7, fmtWI_field_10_7, fmtWI_field_0_10, and_self]
  · rintro ⟨rfl, rfl, rfl, rfl, rfl⟩
    simp only [fmtWI, ofBool_getLsbD, BitVec.extractLsb'_append_extractLsb'_eq_extractLsb']
    exact BitVec.extractLsb'_eq_self

theorem fmtWK_eq_iff {c : Bool} {op d : BitVec 7} {i : BitVec 17} :
    fmtWK c op d i = w ↔ c = w.getLsbD 31 ∧ op = w.extractLsb' 24 7 ∧ d = w.extractLsb' 17 7 ∧ i = w.extractLsb' 0 17 := by
  constructor
  · rintro rfl
    simp only [fmtWK_bit_31, fmtWK_field_24_7, fmtWK_field_17_7, fmtWK_field_0_17, and_self]
  · rintro ⟨rfl, rfl, rfl, rfl⟩
    simp only [fmtWK, ofBool_getLsbD, BitVec.extractLsb'_append_extractLsb'_eq_extractLsb']
    exact BitVec.extractLsb'_eq_self

theorem fmtWM_eq_iff {c : Bool} {op d b : BitVec 7} {z : BitVec 2} {o e : Bool} {n : BitVec 6} :
    fmtWM c op d b z o e n = w ↔ c = w.getLsbD 31 ∧ op = w.extractLsb' 24 7 ∧ d = w.extractLsb' 17 7 ∧ b = w.extractLsb' 10 7
      ∧ z = w.extractLsb' 8 2 ∧ o = w.getLsbD 7 ∧ e = w.getLsbD 6 ∧ n = w.extractLsb' 0 6 := by
  constructor
  · rintro rfl
    simp only [fmtWM_bit_31, fmtWM_field_24_7, fmtWM_field_17_7, fmtWM_field_10_7, fmtWM_field_8_2, fmtWM_bit_7, fmtWM_bit_6,
      fmtWM_field_0_6, and_self]
  · rintro ⟨rfl, rfl, rfl, rfl, rfl, rfl, rfl, rfl⟩
    simp only [fmtWM, ofBool_getLsbD, BitVec.extractLsb'_append_extractLsb'_eq_extractLsb']
    exact BitVec.extractLsb'_eq_self

theorem fmtWT_eq_iff {c : Bool} {op : BitVec 7} {t : BitVec 3} {l : Bool} {x i : BitVec 5} {v : BitVec 7} {e : Bool} {f : BitVec 2} :
    fmtWT c op t l x i v e f = w ↔ c = w.getLsbD 31 ∧ op = w.extractLsb' 24 7 ∧ t = w.extractLsb' 21 3 ∧ l = w.getLsbD 20
      ∧ x = w.extractLsb' 15 5 ∧ i = w.extractLsb' 10 5 ∧ v = w.extractLsb' 3 7 ∧ e = w.getLsbD 2 ∧ f = w.extractLsb' 0 2 := by
  constructor
  · rintro rfl
    simp only [fmtWT_bit_31, fmtWT_field_24_7, fmtWT_field_21_3, fmtWT_bit_20, fmtWT_field_15_5, fmtWT_field_10_5,
      fmtWT_field_3_7, fmtWT_bit_2, fmtWT_field_0_2, and_self]
  · rintro ⟨rfl, rfl, rfl, rfl, rfl, rfl, rfl, rfl, rfl⟩
    simp only [fmtWT, ofBool_getLsbD, BitVec.extractLsb'_append_extractLsb'_eq_extractLsb']
    exact BitVec.extractLsb'_eq_self

theorem fmtWX_eq_iff {c : Bool} {op : BitVec 7} {z a : BitVec 3} {b s : BitVec 5} {t f : BitVec 3} {e m : Bool} :
    fmtWX c op z a b s t f e m = w ↔ c = w.getLsbD 31 ∧ op = w.extractLsb' 24 7 ∧ z = w.extractLsb' 21 3
      ∧ a = w.extractLsb' 18 3 ∧ b = w.extractLsb' 13 5 ∧ s = w.extractLsb' 8 5 ∧ t = w.extractLsb' 5 3 ∧ f = w.extractLsb' 2 3
      ∧ e = w.getLsbD 1 ∧ m = w.getLsbD 0 := by
  constructor
  · rintro rfl
    simp only [fmtWX_bit_31, fmtWX_field_24_7, fmtWX_field_21_3, fmtWX_field_18_3, fmtWX_field_13_5, fmtWX_field_8_5,
      fmtWX_field_5_3, fmtWX_field_2_3, fmtWX_bit_1, fmtWX_bit_0, and_self]
  · rintro ⟨rfl, rfl, rfl, rfl, rfl, rfl, rfl, rfl, rfl, rfl⟩
    simp only [fmtWX, ofBool_getLsbD, BitVec.extractLsb'_append_extractLsb'_eq_extractLsb']
    exact BitVec.extractLsb'_eq_self

theorem fmtWB_eq_iff {c : Bool} {op p : BitVec 7} {t f : BitVec 6} {k : BitVec 4} {e : Bool} :
    fmtWB c op p t f k e = w ↔ c = w.getLsbD 31 ∧ op = w.extractLsb' 24 7 ∧ p = w.extractLsb' 17 7 ∧ t = w.extractLsb' 11 6
      ∧ f = w.extractLsb' 5 6 ∧ k = w.extractLsb' 1 4 ∧ e = w.getLsbD 0 := by
  constructor
  · rintro rfl
    simp only [fmtWB_bit_31, fmtWB_field_24_7, fmtWB_field_17_7, fmtWB_field_11_6, fmtWB_field_5_6, fmtWB_field_1_4,
      fmtWB_bit_0, and_self]
  · rintro ⟨rfl, rfl, rfl, rfl, rfl, rfl, rfl⟩
    simp only [fmtWB, ofBool_getLsbD, BitVec.extractLsb'_append_extractLsb'_eq_extractLsb']
    exact BitVec.extractLsb'_eq_self

theorem fmtWS_eq_iff {c : Bool} {op : BitVec 7} {s : BitVec 8} {z : BitVec 16} :
    fmtWS c op s z = w ↔ c = w.getLsbD 31 ∧ op = w.extractLsb' 24 7 ∧ s = w.extractLsb' 16 8 ∧ z = w.extractLsb' 0 16 := by
  constructor
  · rintro rfl
    simp only [fmtWS_bit_31, fmtWS_field_24_7, fmtWS_field_16_8, fmtWS_field_0_16, and_self]
  · rintro ⟨rfl, rfl, rfl, rfl⟩
    simp only [fmtWS, ofBool_getLsbD, BitVec.extractLsb'_append_extractLsb'_eq_extractLsb']
    exact BitVec.extractLsb'_eq_self

theorem fmtWE_eq_iff {c : Bool} {op d : BitVec 7} {a b : BitVec 5} {n : BitVec 7} :
    fmtWE c op d a b n = w ↔ c = w.getLsbD 31 ∧ op = w.extractLsb' 24 7 ∧ d = w.extractLsb' 17 7 ∧ a = w.extractLsb' 12 5
      ∧ b = w.extractLsb' 7 5 ∧ n = w.extractLsb' 0 7 := by
  constructor
  · rintro rfl
    simp only [fmtWE_bit_31, fmtWE_field_24_7, fmtWE_field_17_7, fmtWE_field_12_5, fmtWE_field_7_5, fmtWE_field_0_7, and_self]
  · rintro ⟨rfl, rfl, rfl, rfl, rfl, rfl⟩
    simp only [fmtWE, ofBool_getLsbD, BitVec.extractLsb'_append_extractLsb'_eq_extractLsb']
    exact BitVec.extractLsb'_eq_self

/-! ## Parts of a field -/

theorem bit_eq_field {k : Nat} {b : Bool} (h : w.getLsbD k = b) : BitVec.ofBool b = w.extractLsb' k 1 := by
  rw [← h, ofBool_getLsbD]

/-- Two fields side by side are one. -/
theorem append_eq_field {s n l : Nat} {x : BitVec n} {y : BitVec l} (hx : x = w.extractLsb' (s + l) n)
    (hy : y = w.extractLsb' s l) : x ++ y = w.extractLsb' s (n + l) := by
  rw [hx, hy, BitVec.extractLsb'_append_extractLsb'_eq_extractLsb' rfl]

/-! ## What the decoder may answer without ignoring a bit -/

/-- An answer for `w` that ignores no bit of it: an error, or a word instruction whose encoding is `w` itself. -/
def Lossless (w : Word) (r : Except Reject Instr) : Prop := ∀ i, r = .ok i → isWord i = true ∧ encode i = [w]

theorem lossless_ok {i : Instr} {v : Word} (hi : isWord i = true) (he : encode i = [v]) (hv : v = w) : Lossless w (.ok i) := by
  rintro _ ⟨⟩
  rw [he, hv]
  exact ⟨hi, rfl⟩

theorem lossless_error (e : Reject) : Lossless w (.error e) := by
  rintro _ ⟨⟩

/-- Where the decoder refuses a word unless `p`, its answer may rest on `p`. -/
theorem lossless_ite {p : Prop} [Decidable p] {r : Except Reject Instr} {e : Reject} (h : p → Lossless w r) :
    Lossless w (if p then r else .error e) := by
  split
  · next hp => exact h hp
  · exact lossless_error e

/-- A word that decodes has passed the check of its zero fields. -/
theorem ok_of_ite {p : Prop} [Decidable p] {r : Except Reject Instr} {e : Reject} {i : Instr}
    (h : (if p then r else .error e) = .ok i) : p ∧ r = .ok i := by
  split at h
  · next hp => exact ⟨hp, h⟩
  · cases h

/-! ## Opcodes whose fields fill the word

For each opcode, `decode` is its row of the opcode map. The operands it names have the codes that the word holds, so that the
encoding has the fields of the word, and the lemma of its format says that it is the word. -/

/-- The opcodes without a zero field, those with a divided field or a function field apart. -/
def opsFull : List (BitVec 7) :=
  [0x08#7, 0x10#7, 0x11#7, 0x12#7, 0x13#7, 0x14#7, 0x15#7, 0x16#7, 0x1B#7, 0x29#7, 0x2B#7, 0x2C#7, 0x30#7, 0x31#7, 0x32#7, 0x33#7,
   0x34#7, 0x35#7, 0x36#7, 0x37#7, 0x38#7, 0x39#7, 0x3A#7, 0x3C#7, 0x43#7, 0x50#7, 0x54#7, 0x57#7, 0x60#7, 0x61#7, 0x70#7, 0x71#7,
   0x78#7, 0x79#7]

theorem decode_lossless_full (h : w.extractLsb' 24 7 ∈ opsFull) : Lossless w (decode w) := by
  generalize hop : w.extractLsb' 24 7 = op at h
  fin_cases h <;> rw [decode, hop] <;>
    exact lossless_ok rfl rfl (by
      simp only [fmtW3_eq_iff, fmtWI_eq_iff, fmtWK_eq_iff, fmtWM_eq_iff, fmtWT_eq_iff, hop, Opnd.code_ofCode, and_self])

/-! ## Opcodes with zero fields

The decoder refuses the word unless they are zero, which is how the encoder sets them (R112, R114). -/

/-- The control and integer opcodes with zero fields. -/
def opsZeroLow : List (BitVec 7) :=
  [0x00#7, 0x01#7, 0x02#7, 0x03#7, 0x04#7, 0x06#7, 0x07#7, 0x09#7, 0x0A#7, 0x0B#7, 0x0C#7, 0x0D#7, 0x0E#7, 0x0F#7, 0x17#7, 0x18#7,
   0x19#7, 0x1A#7, 0x1C#7, 0x1D#7, 0x1E#7, 0x1F#7, 0x20#7, 0x21#7, 0x22#7, 0x23#7, 0x24#7, 0x25#7, 0x26#7, 0x27#7, 0x28#7, 0x2A#7,
   0x2D#7, 0x2E#7, 0x2F#7, 0x3D#7, 0x3E#7, 0x3F#7]

/-- The float, lane, memory, matrix and sparse opcodes with zero fields. -/
def opsZeroHigh : List (BitVec 7) :=
  [0x40#7, 0x41#7, 0x42#7, 0x44#7, 0x45#7, 0x46#7, 0x47#7, 0x48#7, 0x49#7, 0x4A#7, 0x4B#7, 0x4C#7, 0x4D#7, 0x4E#7, 0x4F#7, 0x51#7,
   0x52#7, 0x53#7, 0x55#7, 0x56#7, 0x58#7, 0x59#7, 0x5A#7, 0x5B#7, 0x5C#7, 0x5D#7, 0x5E#7, 0x5F#7, 0x62#7, 0x63#7, 0x64#7, 0x69#7,
   0x6A#7, 0x6B#7, 0x6C#7, 0x6D#7, 0x6E#7, 0x6F#7, 0x73#7, 0x74#7, 0x75#7, 0x76#7, 0x77#7, 0x7A#7, 0x7B#7, 0x7C#7]

theorem decode_lossless_zeroLow (h : w.extractLsb' 24 7 ∈ opsZeroLow) : Lossless w (decode w) := by
  generalize hop : w.extractLsb' 24 7 = op at h
  fin_cases h <;> rw [decode, hop] <;>
    exact lossless_ite fun hz => lossless_ok rfl rfl (by
      simp only [fmtW3_eq_iff, fmtWK_eq_iff, fmtWB_eq_iff, fmtWS_eq_iff, hop, hz, Opnd.code_ofCode, and_self])

theorem decode_lossless_zeroHigh (h : w.extractLsb' 24 7 ∈ opsZeroHigh) : Lossless w (decode w) := by
  generalize hop : w.extractLsb' 24 7 = op at h
  fin_cases h <;> rw [decode, hop] <;>
    exact lossless_ite fun hz => lossless_ok rfl rfl (by
      simp only [fmtW3_eq_iff, fmtWM_eq_iff, fmtWT_eq_iff, fmtWX_eq_iff, fmtWS_eq_iff, hop, hz, Opnd.code_ofCode, and_self])

/-! ## Opcodes that divide a field of their format (R118, R119) -/

theorem decode_lossless_movkh (hop : w.extractLsb' 24 7 = 0x3B#7) : Lossless w (decode w) := by
  rw [decode, hop]
  exact lossless_ite fun hz => lossless_ok rfl rfl (fmtWK_eq_iff.2
    ⟨rfl, hop.symm, Opnd.code_ofCode _, append_eq_field (bit_eq_field hz) rfl⟩)

theorem decode_lossless_tmov (hop : w.extractLsb' 24 7 = 0x72#7) : Lossless w (decode w) := by
  rw [decode, hop]
  exact lossless_ite fun hz => lossless_ok rfl rfl (fmtWT_eq_iff.2
    ⟨rfl, hop.symm, rfl, rfl, rfl, rfl, Opnd.code_ofCode _, rfl, append_eq_field (bit_eq_field hz) (bit_eq_field rfl)⟩)

/-- AMO and AMOR. -/
def opsAmo : List (BitVec 7) := [0x65#7, 0x66#7]

theorem decode_lossless_amo (h : w.extractLsb' 24 7 ∈ opsAmo) : Lossless w (decode w) := by
  generalize hop : w.extractLsb' 24 7 = op at h
  fin_cases h <;> rw [decode, hop] <;>
    exact lossless_ite fun hz => lossless_ok rfl rfl (fmtWM_eq_iff.2
      ⟨rfl, hop.symm, Opnd.code_ofCode _, Opnd.code_ofCode _, rfl, hz.symm, rfl, append_eq_field rfl rfl⟩)

theorem decode_lossless_cas (hop : w.extractLsb' 24 7 = 0x67#7) : Lossless w (decode w) := by
  rw [decode, hop]
  exact lossless_ite fun ⟨ho, hp⟩ => lossless_ok rfl rfl (fmtWM_eq_iff.2
    ⟨rfl, hop.symm, Opnd.code_ofCode _, Opnd.code_ofCode _, rfl, ho.symm, rfl, append_eq_field hp.symm rfl⟩)

theorem decode_lossless_fence (hop : w.extractLsb' 24 7 = 0x68#7) : Lossless w (decode w) := by
  rw [decode, hop]
  exact lossless_ite fun ⟨hd, hb, hs, ho, he, h5⟩ => lossless_ok rfl rfl (fmtWM_eq_iff.2
    ⟨rfl, hop.symm, hd.symm, hb.symm, hs.symm, ho.symm, he.symm, append_eq_field (append_eq_field (bit_eq_field h5) rfl) rfl⟩)

/-! ## ENG, SYS and BAR: a function field, whose reserved values are refused (R120 to R122) -/

theorem decode_engine_reserved (hop : w.extractLsb' 24 7 = 0x7D#7) (h : 12 ≤ (w.extractLsb' 0 7).toNat) :
    decode w = .error .reservedFunction := by
  obtain ⟨n, hn⟩ := Nat.exists_eq_add_of_le' h
  rw [decode, hop, hn]
  rfl

theorem decode_system_reserved (hop : w.extractLsb' 24 7 = 0x7F#7) (h : 3 ≤ (w.extractLsb' 0 7).toNat) :
    decode w = .error .reservedFunction := by
  obtain ⟨n, hn⟩ := Nat.exists_eq_add_of_le' h
  rw [decode, hop, hn]
  rfl

/-- The engine functions with both s registers; DSP and HASH (4 and 10) have one. -/
def fnsEngine : List (BitVec 7) := [0#7, 1#7, 2#7, 3#7, 5#7, 6#7, 7#7, 8#7, 9#7, 11#7]

theorem decode_lossless_engineFull (hop : w.extractLsb' 24 7 = 0x7D#7) (h : w.extractLsb' 0 7 ∈ fnsEngine) :
    Lossless w (decode w) := by
  generalize hf : w.extractLsb' 0 7 = fn at h
  fin_cases h <;> rw [decode, hop, hf] <;>
    exact lossless_ok rfl rfl (fmtWE_eq_iff.2 ⟨rfl, hop.symm, Opnd.code_ofCode _, rfl, rfl, hf.symm⟩)

theorem decode_lossless_engineOne (hop : w.extractLsb' 24 7 = 0x7D#7) (h : w.extractLsb' 0 7 ∈ [4#7, 10#7]) :
    Lossless w (decode w) := by
  generalize hf : w.extractLsb' 0 7 = fn at h
  fin_cases h <;> rw [decode, hop, hf] <;>
    exact lossless_ite fun hz => lossless_ok rfl rfl (fmtWE_eq_iff.2 ⟨rfl, hop.symm, Opnd.code_ofCode _, rfl, hz.symm, hf.symm⟩)

theorem decode_lossless_engine (hop : w.extractLsb' 24 7 = 0x7D#7) : Lossless w (decode w) := by
  have hrows : ∀ fn : BitVec 7, fn ∈ fnsEngine ∨ fn ∈ [4#7, 10#7] ∨ 12 ≤ fn.toNat := by decide
  obtain h | h | h := hrows (w.extractLsb' 0 7)
  · exact decode_lossless_engineFull hop h
  · exact decode_lossless_engineOne hop h
  · rw [decode_engine_reserved hop h]
    exact lossless_error _

theorem decode_lossless_system (hop : w.extractLsb' 24 7 = 0x7F#7) : Lossless w (decode w) := by
  have hrows : ∀ fn : BitVec 7, fn ∈ [0#7, 1#7] ∨ fn = 2#7 ∨ 3 ≤ fn.toNat := by decide
  obtain h | hf | h := hrows (w.extractLsb' 0 7)
  · generalize hf : w.extractLsb' 0 7 = fn at h
    fin_cases h <;> rw [decode, hop, hf] <;>
      exact lossless_ok rfl rfl (fmtWE_eq_iff.2 ⟨rfl, hop.symm, Opnd.code_ofCode _, rfl, rfl, hf.symm⟩)
  · rw [decode, hop, hf]
    exact lossless_ite fun ⟨hd, ha, hb⟩ => lossless_ok rfl rfl (fmtWE_eq_iff.2
      ⟨rfl, hop.symm, hd.symm, ha.symm, hb.symm, hf.symm⟩)
  · rw [decode_system_reserved hop h]
    exact lossless_error _

theorem decode_lossless_barrier (hop : w.extractLsb' 24 7 = 0x7E#7) : Lossless w (decode w) := by
  have hrows : ∀ fn : BitVec 2, fn = 0#2 ∨ fn = 1#2 ∨ fn = 2#2 ∨ fn = 3#2 := by decide
  rw [decode, hop]
  by_cases h6 : w.getLsbD 6 = true
  · rw [if_pos h6]
    exact lossless_error _
  rw [if_neg h6]
  have h6 := bit_eq_field (Bool.eq_false_iff.2 h6)
  obtain hf | hf | hf | hf := hrows (w.extractLsb' 0 2) <;> rw [hf]
  · exact lossless_ite fun hb => lossless_ok rfl rfl (fmtWE_eq_iff.2
      ⟨rfl, hop.symm, Opnd.code_ofCode _, rfl, hb.symm, append_eq_field (append_eq_field h6 rfl) hf.symm⟩)
  · exact lossless_ite fun ⟨hd, ha⟩ => lossless_ok rfl rfl (fmtWE_eq_iff.2
      ⟨rfl, hop.symm, hd.symm, ha.symm, rfl, append_eq_field (append_eq_field h6 rfl) hf.symm⟩)
  · exact lossless_ite fun ⟨hd, hb⟩ => lossless_ok rfl rfl (fmtWE_eq_iff.2
      ⟨rfl, hop.symm, hd.symm, rfl, hb.symm, append_eq_field (append_eq_field h6 rfl) hf.symm⟩)
  · exact lossless_error _

/-! ## Every word -/

/-- R117: the 128 opcodes, by what their fields are. -/
theorem opcode_rows : ∀ op : BitVec 7, op ∈ opsFull ∨ op ∈ opsZeroLow ∨ op ∈ opsZeroHigh ∨ op ∈ opsAmo ∨ op = 0x3B#7 ∨ op = 0x72#7
    ∨ op = 0x67#7 ∨ op = 0x68#7 ∨ op = 0x7D#7 ∨ op = 0x7E#7 ∨ op = 0x7F#7 ∨ op = 0x05#7 := by
  decide

/-- R112, R114: whatever is no DEAL is decoded without ignoring a bit. -/
theorem decode_lossless (hdeal : w.extractLsb' 24 7 ≠ 0x05#7) : Lossless w (decode w) := by
  obtain h | h | h | h | hmovkh | htmov | hcas | hfence | heng | hbar | hsys | h5 := opcode_rows (w.extractLsb' 24 7)
  · exact decode_lossless_full h
  · exact decode_lossless_zeroLow h
  · exact decode_lossless_zeroHigh h
  · exact decode_lossless_amo h
  · exact decode_lossless_movkh hmovkh
  · exact decode_lossless_tmov htmov
  · exact decode_lossless_cas hcas
  · exact decode_lossless_fence hfence
  · exact decode_lossless_engine heng
  · exact decode_lossless_barrier hbar
  · exact decode_lossless_system hsys
  · exact absurd h5 hdeal

/-- A DEAL is encoded with bit 31 clear, and its other bits are those of the word (log 13). -/
theorem decode_deal {i : Instr} (hop : w.extractLsb' 24 7 = 0x05#7) (h : decode w = .ok i) :
    i = .deal ∧ encode .deal = [w &&& 0x7FFFFFFF#32] := by
  rw [decode, hop] at h
  obtain ⟨⟨hs, hz⟩, hi⟩ := ok_of_ite h
  cases hi
  refine ⟨rfl, congrArg (fun v => [v]) (fmtWS_eq_iff.2 ?_)⟩
  simp [hop, hs, hz, BitVec.extractLsb'_and]

end

/-- Settles O3: a word that is no DEAL is the encoding of what it decodes to; a DEAL's loses bit 31. -/
theorem decodeThenEncode : Obligations.DecodeThenEncode := by
  unfold Obligations.DecodeThenEncode
  intro w i h
  by_cases hop : w.extractLsb' 24 7 = 0x05#7
  · obtain ⟨rfl, he⟩ := decode_deal hop h
    rw [if_pos rfl, he]
    exact ⟨rfl, rfl⟩
  · obtain ⟨hi, he⟩ := decode_lossless hop i h
    rw [if_neg, he]
    · exact ⟨hi, rfl⟩
    · rintro rfl
      cases he
      exact hop (fmtWS_field_24_7 ..)

end Machine
end Sys2Proof
end

/-! # Taking a trap (R99, R140) -/

section
namespace Sys2Proof.Machine

-- One after the other, as above: the check's memory limit bounds the stacks of parallel elaboration.
set_option Elab.async false

section
variable (s : State) (q : Squad) (su : Suit) (m : BitVec 64)

theorem deckPlace_setSq : deckPlace { s with sq := q } su = deckPlace s su :=
  phys_withDealt s q s.core.deck s.core.id s.launch.asid su.deck

theorem cachedHand_setSq : cachedHand { s with sq := q } su m = cachedHand s su m := by
  rw [cachedHand, deckPlace_setSq]
  rfl

theorem stillHeld_setSq : stillHeld { s with sq := q } su m = stillHeld s su m := by
  rw [stillHeld, deckPlace_setSq]
  rfl

theorem imageLookup_setSq : imageLookup { s with sq := q } su m = imageLookup s su m := imageLookup_withDealt s q s.core.deck su m

/-- A lookup reads the core's deck cache and the deck image, and nothing of the squad (R82, R99). -/
theorem lookup_setSq : lookup { s with sq := q } su m = lookup s su m := by
  simp only [lookup, cachedHand_setSq, stillHeld_setSq, imageLookup_setSq]

end

/-- Once a hand runs, the deck cache may take it in, with entry hands of the suit's successors (R99; log 8). -/
theorem deckTakesIn (s : State) (q : Squad) (su : Suit) (h : Nat) (e : Hand) :
    ∃ d, prefetchHands su (noteHand su h e { s with sq := q }) = s.withDealt q d
      ∧ ∀ x ∈ d, x ∈ s.core.deck ∨ x.2 = (e.mask.toNat, h, e) ∨ ∃ j ∈ su.succ,
        imageLookup s (suitAt s j) (blockMask (suitAt s j).entry) = .hit x.2.2.1 x.2.2.2 := by
  obtain ⟨d, hd⟩ := noteHand_only su h e { s with sq := q }
  obtain ⟨d', hd'⟩ := prefetchHands_only su (noteHand su h e { s with sq := q })
  refine ⟨d', by rw [hd', hd]; rfl, fun x hx => ?_⟩
  rcases mem_prefetchHands (su := su) (s := noteHand su h e { s with sq := q }) (x := x) (by rw [hd']; exact hx) with hin | ⟨j, hj, hit⟩
  · exact (mem_noteHand hin).imp id .inl
  · have hnoted : noteHand su h e { s with sq := q } = s.withDealt q d := hd
    rw [hnoted, imageLookup_withDealt] at hit
    exact .inr (.inr ⟨j, hj, hit⟩)

/-- The squad that has taken a trap with a report, into suit `ts`: it is to run hand `h`. Its
position, with the words of its chain, is `tpos`, and `deal` says whether it stood at a DEAL (R140). -/
def Squad.trapped (r : Report) (tpos : DWord) (deal : Bool) (ts : Nat) (su : Suit) (h : Nat) (e : Hand) (q : Squad) : Squad :=
  { q with
    th := thValue q, tpos := tpos, tem := q.em.setWidth 64
    tcause := r.cause.setWidth 64, tinfo0 := r.info0, tinfo1 := r.info1, tlanes := r.lanes.setWidth 64, tdeal := deal
    frames := saveFrame q true q.pkt q.word q.live :: q.frames
    depth := lanes fun l => if q.live.getLsbD l then vget q.depth l + 1#8 else vget q.depth l
    held := 0#32, button := 0, suit := ts, hand := h, hent := e, segSlots := 0#8, pkt := e.code, word := 0
    br := lanes fun l => if q.live.getLsbD l then BitVec.ofNat 6 su.entry else vget q.br l
    brn := lanes fun l => if q.live.getLsbD l then BitVec.ofNat 6 su.entry else vget q.brn l
    running := false, runPkts := [], wait := none }

/-- A trap that is not terminal enters the trap suit, whose entry hand its lookup finds (R140). -/
theorem takeTrap_enters {s : State} {r : Report} {chw clen ts h : Nat} {e : Hand} (hin : inHandler s = false)
    (hterm : terminalAtEntry r s = false) (hts : s.obj.trapSuit = some ts) (hf : s.sq.frames.length < 8)
    (hit : lookup s (suitAt s ts) (blockMask (suitAt s ts).entry) = .hit h e) :
    takeTrap r s.sq.pkt s.sq.word chw clen s = prefetchHands (suitAt s ts) (noteHand (suitAt s ts) h e
      { s with sq := s.sq.trapped r (toValue s.sq.pkt s.sq.word chw clen) (dealAt s.sq.pkt s.sq.word s) ts (suitAt s ts) h e }) := by
  have hpush : ∀ f, pushFrame f (setTrapRegs r s.sq.pkt s.sq.word chw clen s)
      = (setTrapRegs r s.sq.pkt s.sq.word chw clen s).onSq (fun q => { q with frames := f :: q.frames }) := fun _ => if_pos hf
  rw [takeTrap, if_neg (Bool.eq_false_iff.1 hin), if_neg (Bool.eq_false_iff.1 hterm)]
  simp only [hts, Option.getD_some, hpush]
  simp only [enterSuit, endRun, State.onSq, setTrapRegs, setReport, lookup_setSq, hit]
  rfl

theorem toValue_oneWord (pkt word : Nat) : toValue pkt word 0 1 = BitVec.ofNat 64 (pkt % 2 ^ 32 + word * 2 ^ 32 + 2 ^ 36) := by
  rw [toValue, Nat.zero_mul, Nat.add_zero, Nat.one_mul]

/-- Settles O6: the trap is not terminal, and the trap suit's entry hand is found. -/
theorem trapEntry : Obligations.TrapEntry := by
  unfold Obligations.TrapEntry
  intro s i r ts h e htrap hin hcause hts hdepth hf hit q entry
  have hterm : terminalAtEntry r s = false := by
    refine Bool.eq_false_iff.2 fun ht => ?_
    rcases terminalAtEntry_iff.1 ht with h9 | hnone | ⟨l, hl, hdeep⟩
    · exact hcause h9
    · rw [hts] at hnone
      cases hnone
    · exact hdepth l hl hdeep
  obtain ⟨d, hd, hmem⟩ := deckTakesIn s (q.trapped r (toValue q.pkt q.word 0 1) (dealAt q.pkt q.word s) ts (suitAt s ts) h e) (suitAt s ts) h e
  refine ⟨d, hmem, htrap.trans (congrArg Host.Outcome.next ?_)⟩
  rw [takeTrap_enters hin hterm hts hf hit, hd, toValue_oneWord]
  rfl

end Sys2Proof.Machine
end

/-! # Bit fields and division (R140, R158, R159) -/

section
namespace Sys2Proof.Machine

-- One after the other, as above: the check's memory limit bounds the stacks of parallel elaboration.
set_option Elab.async false

/-! ## The field between two shifts (R158) -/

section
variable {w pos len : Nat} {x : BitVec w}

/-- A field moved to the top of the word, and then down to bit 0. -/
theorem toNat_fieldOnTop (h : pos + len ≤ w) :
    (x <<< (w - (pos + len))).toNat / 2 ^ (w - len) = x.toNat / 2 ^ pos % 2 ^ len := by
  have hw : 2 ^ w = 2 ^ (w - (pos + len)) * (2 ^ pos * 2 ^ len) := by
    rw [← pow_add, ← pow_add, Nat.sub_add_cancel h]
  have hl : 2 ^ (w - len) = 2 ^ (w - (pos + len)) * 2 ^ pos := by
    rw [← pow_add]
    congr 1
    omega
  rw [BitVec.toNat_shiftLeft, Nat.shiftLeft_eq, Nat.mul_comm x.toNat, hw, hl, Nat.mul_mod_mul_left,
    Nat.mul_div_mul_left _ _ (Nat.two_pow_pos _), Nat.mod_mul_right_div_self]

/-- Without sign extension, or of no bits, a field is shifted down with zeros. -/
theorem extractField_unsigned (h : pos + len ≤ w) {m : Bool} (hm : ¬ (m = true ∧ len ≠ 0)) :
    extractField m w x pos len = (x <<< (w - (pos + len))) >>> (w - len) := by
  have hs : (m && decide (0 < len)) = false := by simpa [Nat.pos_iff_ne_zero] using hm
  have hfits : x.toNat / 2 ^ pos % 2 ^ len < 2 ^ w :=
    (Nat.mod_lt _ (Nat.two_pow_pos _)).trans_le (Nat.pow_le_pow_right (by decide) (by omega))
  rw [extractField, hs, Bool.false_and, if_neg Bool.false_ne_true]
  refine BitVec.eq_of_toNat_eq ?_
  rw [BitVec.toNat_ushiftRight, Nat.shiftRight_eq_div_pow, toNat_fieldOnTop h, BitVec.toNat_ofNat, Nat.mod_eq_of_lt hfits]

/-- With sign extension it is shifted down with copies of its highest bit: the word with the field on top is negative exactly
where that bit is set. -/
theorem extractField_signed (h : pos + len ≤ w) (hl : len ≠ 0) :
    extractField true w x pos len = (x <<< (w - (pos + len))).sshiftRight (w - len) := by
  have hf := toNat_fieldOnTop (x := x) h
  rw [BitVec.sshiftRight, BitVec.toInt_eq_toNat_cond, Int.shiftRight_eq_div_pow, extractField]
  generalize (x <<< (w - (pos + len))).toNat = y at *
  generalize x.toNat / 2 ^ pos % 2 ^ len = f at *
  have hw : 2 ^ w = 2 ^ (w - len) * 2 ^ len := by rw [← pow_add, Nat.sub_add_cancel (by omega)]
  have hlen : 2 ^ len = 2 * 2 ^ (len - 1) := by rw [← pow_succ', Nat.sub_add_cancel (by omega)]
  have hsign : 2 * y < 2 ^ w ↔ f < 2 ^ (len - 1) := by
    rw [hw, hlen, Nat.mul_left_comm, Nat.mul_lt_mul_left (by decide), Nat.mul_comm (2 ^ (w - len)),
      ← Nat.div_lt_iff_lt_mul (Nat.two_pow_pos _), hf]
  by_cases hlt : f < 2 ^ (len - 1)
  · rw [if_pos (hsign.2 hlt), if_neg (by simp [hlt]), ← Int.natCast_ediv, hf, BitVec.ofInt_natCast]
  · have hdown : ((y : Int) - (2 ^ w : Nat)) / (2 ^ (w - len) : Nat) = f - 2 ^ len := by
      rw [hw, Nat.cast_mul, Int.sub_mul_ediv_left _ _ (by positivity), ← Int.natCast_ediv, hf, Nat.cast_pow, Nat.cast_ofNat]
    rw [if_neg (mt hsign.1 hlt), if_pos (by simp; omega), hdown]

/-- BFX of a field inside the width, between the two shifts. -/
theorem extractField_eq {m : Bool} {y : BitVec w} (h : fieldEnd y ≤ w) : extractField m w x (fieldPos y) (fieldLen y) =
    if m = true ∧ (y.extractLsb' 8 6).toNat ≠ 0 then (x <<< (w - fieldEnd y)).sshiftRight (w - (y.extractLsb' 8 6).toNat)
    else (x <<< (w - fieldEnd y)) >>> (w - (y.extractLsb' 8 6).toNat) := by
  split
  next hm =>
    obtain ⟨rfl, hl⟩ := hm
    exact extractField_signed h hl
  next hm => exact extractField_unsigned h hm

end

/-! ## Division (R159) -/

theorem idiv_eq (m : Bool) {w : Nat} (x y : BitVec w) : (if m then x.udiv y else x.sdiv y) =
    if m then BitVec.ofNat w (x.toNat / y.toNat) else BitVec.ofInt w (x.toInt.tdiv y.toInt) := by
  cases m with
  | true => exact BitVec.udiv_def
  | false =>
    refine BitVec.eq_of_toInt_eq ?_
    rw [if_neg Bool.false_ne_true, if_neg Bool.false_ne_true, BitVec.toInt_sdiv, BitVec.toInt_ofInt]

theorem irem_eq (m : Bool) {w : Nat} (x y : BitVec w) : (if m then x.umod y else x.srem y) =
    if m then BitVec.ofNat w (x.toNat % y.toNat) else BitVec.ofInt w (x.toInt.tmod y.toInt) := by
  cases m with
  | true => exact BitVec.umod_def
  | false =>
    rw [if_neg Bool.false_ne_true, if_neg Bool.false_ne_true, ← BitVec.toInt_srem, BitVec.ofInt_toInt]

/-! ## The checks that stop them (R140) -/

section
variable {i : Instr} {own : State → WordOut} {d a b : Opnd} {s : State}

theorem exists_lane_of_not {bad : Nat → Prop} (h : ¬ ∀ l, s.sq.em.getLsbD l = true → ¬ bad l) : ∃ l, s.sq.em.getLsbD l = true ∧ bad l := by
  simpa using h

theorem fieldsFit_lanes (hS : d.isS = false) : FieldsFit d a b s ↔ ∀ l, s.sq.em.getLsbD l = true → ¬ 32 < fieldEnd (val32 s b l) := by
  simp [FieldsFit, hS]

theorem nonZero_lanes (hS : d.isS = false) : NonZero d a b s ↔ ∀ l, s.sq.em.getLsbD l = true → ¬ val32 s b l = 0#32 := by
  simp [NonZero, hS]

/-- A word whose first check is that of its field descriptors. -/
theorem badField_traps {u : State → State} (hn : ¬ FieldsFit d a b s) (h : ReadyFor i s) (he : exec i s = issueWord i own s)
    (ho : own s = faultOr (fieldBounds d b s) u) : if d.isS then UniTrap 0x12#8 (uval s b) i s
      else LaneTrap 0x12#8 (fun l => 32 < fieldEnd (val32 s b l)) (fun l => (val32 s b l).setWidth 64) i s := by
  cases hS : d.isS with
  | true =>
    have hout : 64 < fieldPos (uval s b) + fieldLen (uval s b) := Nat.lt_of_not_le fun hle => hn (by
      rw [FieldsFit, if_pos hS]
      exact hle)
    refine trap_completes h he (ho.trans ?_)
    simp only [fieldBounds, hS, if_true, if_pos hout, faultOr]
  | false =>
    refine laneTrap_of h he (fun l => decide_eq_true_iff) (exists_lane_of_not (mt (fieldsFit_lanes hS).2 hn)) fun l r hlist => ho.trans ?_
    have hlist' : (Mask.list s.sq.em).filter (fun l => decide (32 < fieldPos (val32 s b l) + fieldLen (val32 s b l))) = l :: r := hlist
    simp only [fieldBounds, hS, Bool.false_eq_true, if_false, hlist', faultOr]

/-- A word whose first check is that of its divisor. -/
theorem zeroDivisor_traps {u : State → State} (hn : ¬ NonZero d a b s) (h : ReadyFor i s) (he : exec i s = issueWord i own s)
    (ho : own s = faultOr (divideCheck d b s) u) : if d.isS then UniTrap 0x13#8 0#64 i s
      else LaneTrap 0x13#8 (fun l => val32 s b l = 0#32) (fun _ => 0#64) i s := by
  cases hS : d.isS with
  | true =>
    have hzero : uval s b = 0#64 := by simpa [NonZero, hS] using hn
    refine trap_completes h he (ho.trans ?_)
    simp only [divideCheck, hS, if_true, if_pos hzero, faultOr]
  | false =>
    refine laneTrap_of h he (fun l => beq_iff_eq) (exists_lane_of_not (mt (nonZero_lanes hS).2 hn)) fun l r hlist => ho.trans ?_
    simp only [divideCheck, hS, Bool.false_eq_true, if_false, hlist, lanesReport, faultOr]

/-! ## BFX -/

/-- A result is that of its values where the word writes them. -/
theorem Result.congr {x y : DWord} {f g : Nat → Word} {t : State} (h : Result d x f s t) (hu : d.isS = true → x = y)
    (hl : d.isS = false → ∀ l, s.sq.em.getLsbD l = true → f l = g l) : Result d y g s t := by
  unfold Result at h ⊢
  cases hS : d.isS with
  | true =>
    rw [hS, if_pos rfl] at h
    rw [if_pos rfl, ← hu hS]
    exact h
  | false =>
    rw [hS, if_neg Bool.false_ne_true] at h
    rw [if_neg Bool.false_ne_true]
    obtain ⟨hval, hfull⟩ := h
    refine ⟨fun l hlt => (hval l hlt).trans ?_, hfull⟩
    split
    next hem => rw [hl hS l hem]
    next => rfl

theorem bfx_completes {c e f m : Bool} (hA : d.isA = false) (hfit : FieldsFit d a b s) (h : ReadyFor (.bfx c d a b e f m) s) :
    Completes (.bfx c d a b e f m) s fun t => OnlyRegs [d] s t ∧ Result d
      (extractField m 64 (uval s a) (fieldPos (uval s b)) (fieldLen (uval s b)))
      (fun l => extractField m 32 (val32 s a l) (fieldPos (val32 s b l)) (fieldLen (val32 s b l))) s t := by
  refine alu2_completes (own := ownBfx d a b m) (fun w x y => extractField m w x (fieldPos y) (fieldLen y)) (intForm_dst h.wf hA) h rfl ?_
  rw [ownBfx, fieldBounds_none hfit, faultOr]

end

/-- Settles O16: BFX by the field between two shifts, the divisions by those of the library, and the two checks by lanes. -/
theorem fieldsAndDivision : Obligations.FieldsAndDivision := by
  unfold Obligations.FieldsAndDivision
  intro c e f m
  refine ⟨fun d a b s hA hfit h => ?bfx, ?idiv, ?irem, fun d a b s i hi hn h => ?badField, fun d a b s i hi hn h => ?zero⟩
  case bfx =>
    obtain ⟨t, ht, hregs, hres⟩ := bfx_completes hA hfit h
    refine ⟨t, ht, hregs, hres.congr (fun hS => extractField_eq ?_) fun hS l hl => extractField_eq ?_⟩
    · simpa only [FieldsFit, if_pos hS] using hfit
    · exact Nat.le_of_not_lt ((fieldsFit_lanes hS).1 hfit l hl)
  case idiv =>
    exact twoSource_of (fun d a b => ownIdiv d a b m) (fun _ _ _ _ => rfl) (fun _ _ _ => intForm_dst) fun d a b s _ hnz _ =>
      ⟨_, fun _ => idiv_eq m, by rw [ownIdiv, divideCheck_none hnz, faultOr]⟩
  case irem =>
    exact twoSource_of (fun d a b => ownIrem d a b m) (fun _ _ _ _ => rfl) (fun _ _ _ => intForm_dst) fun d a b s _ hnz _ =>
      ⟨_, fun _ => irem_eq m, by rw [ownIrem, divideCheck_none hnz, faultOr]⟩
  case badField =>
    rcases hi with rfl | rfl
    · exact badField_traps (own := ownBfx d a b m) hn h rfl rfl
    · exact badField_traps (own := ownBfi d a b) hn h rfl rfl
  case zero =>
    rcases hi with rfl | rfl
    · exact zeroDivisor_traps (own := ownIdiv d a b m) hn h rfl rfl
    · exact zeroDivisor_traps (own := ownIrem d a b m) hn h rfl rfl

end Sys2Proof.Machine
end

/-! # TRAP, BRK and ERET (R136, R137, R399) -/

section
namespace Sys2Proof.Machine

-- One after the other, as above: the check's memory limit bounds the stacks of parallel elaboration.
set_option Elab.async false

section
variable {s : State} {n : BitVec 17} {lid : Nat}

/-! ## BRK and the debugger (R136, R399) -/

theorem ownBrk_unarmed (h : s.launch.bkpt = false) : ownBrk n s = .trap ⟨0x16#8, n.setWidth 64, 0#64, s.sq.em⟩ :=
  if_neg (Bool.eq_false_iff.1 h)

theorem ownBrk_armed (h : s.launch.bkpt = true) : ownBrk n s = .done (fun t => endRun (debugStopLaunch s.sq.key.lid t)) := if_pos h

/-- A stop changes teams and launches, and names the tile tasks of its launch, of which there are none where it is not found. -/
theorem debugStopLaunch_names (lid : Nat) (s : State) : debugStopLaunch lid s =
    { s with
      team := (debugStopLaunch lid s).team, teams := (debugStopLaunch lid s).teams
      launch := (debugStopLaunch lid s).launch, launches := (debugStopLaunch lid s).launches
      part := { s.part with stops := s.part.stops ++ (s.getLaunch lid).tasks.map (fun x => ⟨x.1, x.2, 0xFFFF⟩) } } := by
  have htasks : (((mapTeams (stopTeam lid) s).updLaunch lid (Launch.withStop true)).getLaunch lid).tasks = (s.getLaunch lid).tasks := by
    rw [State.getLaunch, findLaunch_updLaunch _ lid (Launch.withStop true) (fun _ => rfl) (fun _ h => h), State.getLaunch]
    show (((s.findLaunch lid).map (Launch.withStop true)).getD Launch.empty).tasks = _
    cases s.findLaunch lid with
    | none => rfl
    | some l => rfl
  rw [debugStopLaunch_eq, nameStop, htasks, updLaunch_outside]
  rfl

theorem debugStopLaunch_curLaunch (hl : s.launch.lid = lid) (hs : s.launch.status ≠ .absent) :
    (debugStopLaunch lid s).launch = { s.launch with debugStop := true } := by
  have hc : (mapTeams (stopTeam lid) s).isCurLaunch lid = true := by
    simp only [State.isCurLaunch, Bool.and_eq_true, bne_iff_ne, beq_iff_eq]
    exact ⟨hs, hl⟩
  rw [debugStopLaunch_eq, nameStop, State.updLaunch, if_pos hc]
  rfl

theorem debugStopLaunch_curTeam : (debugStopLaunch lid s).team = stopTeam lid s.team := by
  rw [debugStopLaunch_eq, nameStop, updLaunch_outside]
  rfl

theorem debugStopLaunch_teams : (debugStopLaunch lid s).teams = s.teams.map (stopTeam lid) := by
  rw [debugStopLaunch_eq, nameStop, updLaunch_outside]
  rfl

theorem stopTeam_running {t : Team} (hk : t.key.lid = lid) (hs : t.status = .running) :
    stopTeam lid t = { t with status := .preempting, debugStop := true } := by
  rw [stopTeam_eq, if_pos ⟨hk, .inl hs⟩, if_pos hs]

theorem stopTeam_stopping {t : Team} (hk : t.key.lid = lid) (hs : t.status = .preempting ∨ t.status = .saved) :
    stopTeam lid t = { t with debugStop := true } := by
  have hne : t.status ≠ .running := by rcases hs with hs | hs <;> simp [hs]
  rw [stopTeam_eq, if_pos ⟨hk, .inr hs⟩, if_neg hne]

/-! ## ERET (R137) -/

variable {k : BitVec 4}

theorem ownEret_outside (h : s.sq.frames.head?.any (·.trapKind) = false) : ownEret k s = .trap ⟨0x07#8, 3#64, 0#64, s.sq.em⟩ := by
  rw [ownEret]
  split
  next f fs hf =>
    have hk : f.trapKind = false := by rw [← h, hf]; rfl
    exact if_neg (Bool.eq_false_iff.1 hk)
  next => rfl

/-- The state that ERET leaves: the frame's, at the trapped chain or past it. -/
def leaveHandler (f : Frame) (k : BitVec 4) (deal : Bool) (t : State) : State :=
  let t := returnFromTrap f (k == 1#4 && !deal) t
  if k = 1#4 then t.onSq (fun q => { q with mkeep := none }) else t

theorem ownEret_handler {f : Frame} {fs : List Frame} (hf : s.sq.frames = f :: fs) (hk : f.trapKind = true) :
    ownEret k s = .done (leaveHandler f k s.sq.tdeal) := by
  rw [ownEret, hf]
  exact if_pos hk

/-- The packet and the word at which ERET goes on: past the trapped chain where it skips it, which it never does to a DEAL. -/
def resumeAt (f : Frame) (k : BitVec 4) (deal : Bool) (q : Squad) : Nat × Nat :=
  let w := f.rword + (if k = 1#4 ∧ deal = false then (q.tpos.extractLsb' 36 2).toNat else 0)
  if 3 ≤ w then (f.rpkt + 1, 0) else (f.rpkt, w)

/-- The squad that a frame's state has come back to, at a position: `leave` are the lanes that go up one level. -/
def Squad.restored (f : Frame) (fs : List Frame) (leave : Mask) (e : Hand) (pos : Nat × Nat) (q : Squad) : Squad :=
  { q with
    frames := fs
    suit := f.suit, hand := f.hand, hent := e, segSlots := e.slotsAt pos.1, button := f.button, held := f.held, fmt := f.fmt
    live := f.live, em := f.em, br := f.brs, brn := f.brns
    depth := lanes fun l => if leave.getLsbD l then vget q.depth l - 1#8 else vget q.depth l
    pkt := pos.1, word := pos.2, running := false, runPkts := [] }

theorem restoreFrame_onChip {f : Frame} {fs : List Frame} {leave : Mask} (pkt word : Nat) (hf : s.sq.frames = f :: fs)
    (hn : s.sq.nspill = 0) : restoreFrame f leave 0#32 pkt word s
      = s.onSq (Squad.restored f fs leave (handEntry s (suitAt s f.suit) f.hand) (pkt, word)) := by
  have hret : s.sq.retd &&& ~~~(0#32) = s.sq.retd := BitVec.and_allOnes
  rw [restoreFrame, refill_onChip (by exact hn)]
  simp only [State.onSq, Squad.restored, hf, hret, List.drop_one, List.tail_cons]

/-- What ERET leaves while no frame is spilled. -/
theorem leaveHandler_onChip {f : Frame} {fs : List Frame} {deal : Bool} (hf : s.sq.frames = f :: fs) (hn : s.sq.nspill = 0) :
    ∃ e kept, leaveHandler f k deal s = s.onSq fun q =>
      { Squad.restored f fs f.callers e (resumeAt f k deal s.sq) q with mkeep := kept } := by
  have hskip : (if (k == 1#4 && !deal) = true then (s.sq.tpos.extractLsb' 36 2).toNat else 0)
      = if k = 1#4 ∧ deal = false then (s.sq.tpos.extractLsb' 36 2).toNat else 0 := by
    simp only [Bool.and_eq_true, beq_iff_eq, Bool.not_eq_true']
  have hpos : ∀ w, (if 3 ≤ w then f.rpkt + 1 else f.rpkt, if 3 ≤ w then 0 else w) = if 3 ≤ w then (f.rpkt + 1, 0) else (f.rpkt, w) := by
    intro w
    split <;> rfl
  refine ⟨handEntry s (suitAt s f.suit) f.hand, if k = 1#4 then none else s.sq.mkeep, ?_⟩
  simp only [leaveHandler, returnFromTrap, hskip, restoreFrame_onChip _ _ hf hn, hpos]
  split <;> rfl

end

/-- Settles O49, word by word. -/
theorem trapWords : Obligations.TrapWords := by
  unfold Obligations.TrapWords
  intro c n s
  refine ⟨fun h => ?trap, fun h hb => ?unarmed, fun h hb => ?armed, fun k h hout => ?outside, fun k f fs h hf hk hn => ?handler⟩
  case trap => exact trap_completes (own := ownTrap n) h rfl rfl
  case unarmed => exact trap_completes h rfl (ownBrk_unarmed hb)
  case armed =>
    refine completes_of_done h rfl (ownBrk_armed hb) ⟨⟨retire 1 (bit31 (.brk c n)) s, issued_retire _ s, ?_⟩,
      fun hl hs => debugStopLaunch_curLaunch hl hs, fun hk hs => ?_, fun hk hs => ?_, fun tm htm hk => ⟨fun hs => ?_, fun hs => ?_⟩⟩
    · rw [debugStopLaunch_names]
      rfl
    · exact debugStopLaunch_curTeam.trans (stopTeam_running hk hs)
    · exact debugStopLaunch_curTeam.trans (stopTeam_stopping hk hs)
    · rw [← stopTeam_running hk hs, endRun_teams, debugStopLaunch_teams]
      exact List.mem_map_of_mem htm
    · rw [← stopTeam_stopping hk hs, endRun_teams, debugStopLaunch_teams]
      exact List.mem_map_of_mem htm
  case outside => exact trap_completes h rfl (ownEret_outside hout)
  case handler =>
    obtain ⟨e, kept, hleft⟩ := leaveHandler_onChip (s := retire 1 (bit31 (.eret c k)) s) (k := k) (deal := s.sq.tdeal) hf hn
    refine completes_of_done h rfl (ownEret_handler hf hk) ?_
    rw [hleft]
    simp only [State.onSq, Squad.restored, true_and]
    exact ⟨rfl, fun l hl => vget_lanes _ hl, rfl, rfl, .same, fun _ => rfl, fun _ => rfl, fun _ => rfl⟩

end Sys2Proof.Machine
end

/-! # EMSET, EMGET, SETFMT and GETFMT (R36, R129, R133, R134, R186, R187) -/

section
namespace Sys2Proof.Machine

-- One after the other, as above: the check's memory limit bounds the stacks of parallel elaboration.
set_option Elab.async false

section
variable {s : State} {a d : Opnd} {x : Mask}

/-- The source of EMSET, as a mask: a p register by its lanes, and else the low word of a uniform value (R133). -/
theorem ownEmset_eq (hp : a.isP = true → ∀ l, l < 32 → x.getLsbD l = (val s a l).getLsbD 0)
    (hu : a.isP = false → x = (uval s a).setWidth 32) :
    ownEmset a s = .done (fun t => t.onSq (fun q => { q with em := segmentSet s.sq &&& x })) := by
  cases h : a.isP with
  | true =>
    have hx : maskOf (fun l => (val s a l).getLsbD 0) = x := maskOf_eq fun l hl => by rw [hp h l hl]
    simp only [ownEmset, h, if_true, hx]
  | false => simp only [ownEmset, h, Bool.false_eq_true, if_false, ← hu h]

theorem ownEmget_eq (m : Bool) : ownEmget d m s = .done (putF d (fun _ => if m then s.sq.held else segmentSet s.sq) s) := rfl

theorem ownSetfmt_legal (h : fmtLegal ((uval s a).setWidth 32) = true) :
    ownSetfmt a s = .done (fun t => t.onSq (fun q => { q with fmt := (uval s a).setWidth 32 })) := if_pos h

theorem ownSetfmt_illegal (h : fmtLegal ((uval s a).setWidth 32) = false) :
    ownSetfmt a s = .trap ⟨0x14#8, ((uval s a).setWidth 32).setWidth 64, 0#64, s.sq.em⟩ := if_neg (Bool.eq_false_iff.1 h)

/-- The destinations of EMGET and GETFMT. -/
theorem dst_of_vs (h : (d.isV || d.isS) = true) : d.isS = true ∨ d.isV = true ∨ d.isP = true :=
  (Bool.or_eq_true_iff.1 h).elim (fun hv => .inr (.inl hv)) .inl

end

/-- Settles O50, word by word; the segment set that EMSET and EMGET read is that of the latest SEG's slots. -/
theorem maskAndFormatWords : Obligations.MaskAndFormatWords := by
  unfold Obligations.MaskAndFormatWords
  intro c e d a s seg hseg
  have hset : segmentSet s.sq = seg := segLanes_eq hseg
  refine ⟨fun x hp hu h => ?emset, fun m h => ?emget, fun h hl => ?legal, fun h hl => ?illegal, fun h => ?getfmt⟩
  case emset => exact completes_of_done h rfl (ownEmset_eq hp hu) ⟨_, issued_retire _ s, by rw [hset]; rfl⟩
  case emget =>
    rw [← hset]
    exact putF_completes _ (dst_of_vs h.wf) h rfl (ownEmget_eq m)
  case legal => exact completes_of_done h rfl (ownSetfmt_legal hl) ⟨_, issued_retire _ s, rfl⟩
  case illegal => exact trap_completes h rfl (ownSetfmt_illegal hl)
  case getfmt => exact putF_completes _ (dst_of_vs h.wf) h rfl rfl

end Sys2Proof.Machine
end

/-! # Integer words of two sources and of one (R146, R150 to R154, R160) -/

section
namespace Sys2Proof.Machine

-- One after the other, as above: the check's memory limit bounds the stacks of parallel elaboration.
set_option Elab.async false

/-! ## Words by their shape

A word of one source, or of a source and an immediate, is one of two sources that leaves the second unread. -/

section
variable {ok : Opnd → Opnd → Opnd → State → Prop} {op op' : (w : Nat) → BitVec w → BitVec w → BitVec w}
  {i : Opnd → Opnd → Opnd → Instr}

theorem alu1_eq_alu2 (op : (w : Nat) → BitVec w → BitVec w) (d a b : Opnd) (s : State) :
    alu1 op d a s = alu2 (fun w x _ => op w x) d a b s := rfl

theorem aluImm_eq_alu2 (op : (w : Nat) → BitVec w → BitVec w → BitVec w) (d a b : Opnd) (n : BitVec 10) (s : State) :
    aluImm op d a n s = alu2 (fun w x _ => op w x (n.signExtend w)) d a b s := rfl

theorem twoSource_of_alu2
    (ho : ∀ d a b s, d.isA = false → ok d a b s → (i d a b).wf = true → ownOf (i d a b) s = .done (alu2 op' d a b s))
    (hop : ∀ w x y, op' w x y = op w x y)
    (hw : ∀ d a b, (i d a b).wf = true → d.isA = false → d.isS = true ∨ d.isV = true ∨ d.isP = true := by
      exact fun _ _ _ => intForm_dst)
    (hi : ∀ d a b, isWord (i d a b) = true := by exact fun _ _ _ => rfl) : TwoSource ok op i :=
  twoSource_of (fun d a b => ownOf (i d a b)) (fun d a b s => exec_word (hi d a b) s) hw
    fun d a b s hA hok h => ⟨op', hop, ho d a b s hA hok h.wf⟩

theorem twoSource_of_alu1 {op' : (w : Nat) → BitVec w → BitVec w}
    (ho : ∀ d a b s, d.isA = false → ok d a b s → ownOf (i d a b) s = .done (alu1 op' d a s))
    (hop : ∀ w x y, op' w x = op w x y)
    (hw : ∀ d a b, (i d a b).wf = true → d.isA = false → d.isS = true ∨ d.isV = true ∨ d.isP = true := by
      exact fun _ _ _ => intForm_dst)
    (hi : ∀ d a b, isWord (i d a b) = true := by exact fun _ _ _ => rfl) : TwoSource ok op i :=
  twoSource_of_alu2 (fun d a b s hA hok _ => (ho d a b s hA hok).trans (congrArg _ (alu1_eq_alu2 op' d a b s))) hop hw hi

theorem twoSource_of_aluImm {n : BitVec 10}
    (ho : ∀ d a b s, d.isA = false → ok d a b s → ownOf (i d a b) s = .done (aluImm op' d a n s))
    (hop : ∀ w x y, op' w x (n.signExtend w) = op w x y)
    (hw : ∀ d a b, (i d a b).wf = true → d.isA = false → d.isS = true ∨ d.isV = true ∨ d.isP = true := by
      exact fun _ _ _ => intForm_dst)
    (hi : ∀ d a b, isWord (i d a b) = true := by exact fun _ _ _ => rfl) : TwoSource ok op i :=
  twoSource_of_alu2 (fun d a b s hA hok _ => (ho d a b s hA hok).trans (congrArg _ (aluImm_eq_alu2 op' d a b n s))) hop hw hi

end

/-- A word whose check passes writes its result, where its destination is not affine. -/
theorem faultOr_alu {r : Option Report} {d : Opnd} {x : DWord × DWord} {u : State → State} (hr : r = none) (hd : d.isA = false) :
    faultOr r (affOr d x u) = .done u := by
  rw [hr, affOr, hd, if_neg Bool.false_ne_true, faultOr]

/-- The class of an immediate shift, whose amount is checked as well (R160). -/
theorem shiftForm_dst {d : Opnd} {j : Cls} {p : Bool} (h : (intForm false d j && p) = true) (hd : d.isA = false) :
    d.isS = true ∨ d.isV = true ∨ d.isP = true := intForm_dst (Bool.and_elim_left h) hd

/-! ## Arithmetic as that of the integers (R152) -/

section
variable {w : Nat} (x y : BitVec w)

theorem add_eq_ofInt : x + y = BitVec.ofInt w (x.toInt + y.toInt) := by
  rw [BitVec.ofInt_add, BitVec.ofInt_toInt, BitVec.ofInt_toInt]

theorem sub_eq_ofInt : x - y = BitVec.ofInt w (x.toInt - y.toInt) := by
  rw [Int.sub_eq_add_neg, BitVec.ofInt_add, BitVec.ofInt_neg, BitVec.ofInt_toInt, BitVec.ofInt_toInt, ← BitVec.sub_eq_add_neg]

theorem mul_eq_ofInt : x * y = BitVec.ofInt w (x.toInt * y.toInt) := by
  rw [BitVec.ofInt_mul, BitVec.ofInt_toInt, BitVec.ofInt_toInt]

theorem shiftLeft_eq_ofNat (n : Nat) : x <<< n = BitVec.ofNat w (x.toNat * 2 ^ n) :=
  BitVec.eq_of_toNat_eq (by rw [BitVec.toNat_shiftLeft, BitVec.toNat_ofNat, Nat.shiftLeft_eq])

theorem ushiftRight_eq_ofNat (n : Nat) : x >>> n = BitVec.ofNat w (x.toNat / 2 ^ n) := by
  rw [← Nat.shiftRight_eq_div_pow, ← BitVec.toNat_ushiftRight, BitVec.ofNat_toNat, BitVec.setWidth_eq]

theorem sshiftRight_eq_ofInt (n : Nat) : x.sshiftRight n = BitVec.ofInt w (x.toInt / 2 ^ n) := by
  rw [BitVec.sshiftRight, Int.shiftRight_eq_div_pow, Nat.cast_pow, Nat.cast_ofNat]

/-- The magnitude of a word: where it is negative, its negation. -/
theorem natAbs_eq : (if x.msb then 0#w - x else x) = BitVec.ofInt w x.toInt.natAbs := by
  by_cases h : x.toInt < 0
  · rw [BitVec.msb_eq_toInt, if_pos (decide_eq_true h), BitVec.zero_sub, Int.ofNat_natAbs_of_nonpos h.le, BitVec.ofInt_neg,
      BitVec.ofInt_toInt]
  · rw [BitVec.msb_eq_toInt, if_neg (by simpa using h), Int.natAbs_of_nonneg (Int.not_lt.1 h), BitVec.ofInt_toInt]

/-! ## Comparisons (R152, R153) -/

theorem bit_eq {p : Bool} {P : Prop} [Decidable P] (h : p = true ↔ P) : bit w p = if P then 1#w else 0#w := if_congr h rfl rfl

/-- IMIN and IMAX take `x` where it stands on their side of `y`, in the order that the word names. -/
theorem pick_eq {p q : Bool} {P Q : Prop} [Decidable P] [Decidable Q] (m : Bool) (hp : p = true ↔ P) (hq : q = true ↔ Q) :
    (if (if m then p else q) then x else y) = if m then (if P then x else y) else if Q then x else y := by
  cases m with
  | true => exact (if_congr hp rfl rfl : (if p = true then x else y) = _)
  | false => exact (if_congr hq rfl rfl : (if q = true then x else y) = _)

end

/-- Settles O11: each word works on its two values by an operation of the library, in the terms of the integers above. -/
theorem intTwoSource : Obligations.IntTwoSource := by
  unfold Obligations.IntTwoSource
  intro c e f m
  refine ⟨?iadd, ?isub, ?imul, ?imulh, ?imin, ?imax, ?and, ?or, ?xor, ?shl, ?shr, ?sar, ?iceq, ?icne, ?iclt, ?icle, ?icltu, ?icleu⟩
  case iadd => exact twoSource_of_alu2 (fun _ _ _ _ hA hok _ => faultOr_alu (checked2_none hok) hA) fun _ => add_eq_ofInt
  case isub => exact twoSource_of_alu2 (fun _ _ _ _ hA hok _ => faultOr_alu (checked2_none hok) hA) fun _ => sub_eq_ofInt
  case imul => exact twoSource_of_alu2 (fun _ _ _ _ hA hok _ => faultOr_alu (checked2_none hok) hA) fun _ => mul_eq_ofInt
  case shl =>
    refine twoSource_of_alu2 (fun d a b s hA hok hw => ?_) fun w x y => shiftLeft_eq_ofNat x (shiftAmount w y)
    refine (ownShl_eq hw).trans (faultOr_alu ?_ hA)
    split
    next hm => exact overflowCheck_none (hok hm)
    next => rfl
  case imin => exact twoSource_of_alu2 (fun _ _ _ _ _ _ _ => rfl) fun _ x y => pick_eq x y m decide_eq_true_iff decide_eq_true_iff
  case imax => exact twoSource_of_alu2 (fun _ _ _ _ _ _ _ => rfl) fun _ x y => pick_eq x y m decide_eq_true_iff decide_eq_true_iff
  case shr => exact twoSource_of_alu2 (fun _ _ _ _ _ _ _ => rfl) fun w x y => ushiftRight_eq_ofNat x (shiftAmount w y)
  case sar => exact twoSource_of_alu2 (fun _ _ _ _ _ _ _ => rfl) fun w x y => sshiftRight_eq_ofInt x (shiftAmount w y)
  case imulh | and | or | xor => exact twoSource_of_alu2 (fun _ _ _ _ _ _ _ => rfl) fun _ _ _ => rfl
  case iceq => exact twoSource_of_alu2 (fun _ _ _ _ _ _ _ => rfl) fun _ _ _ => bit_eq beq_iff_eq
  case icne => exact twoSource_of_alu2 (fun _ _ _ _ _ _ _ => rfl) fun _ _ _ => bit_eq bne_iff_ne
  case iclt | icle | icltu | icleu => exact twoSource_of_alu2 (fun _ _ _ _ _ _ _ => rfl) fun _ _ _ => bit_eq decide_eq_true_iff

/-! ## Counts of bits (R154) -/

/-- Counting the bits that satisfy `p`, one after the other. -/
theorem foldl_count (p : Nat → Bool) (ls : List Nat) (n : Nat) :
    ls.foldl (fun k i => if p i then k + 1 else k) n = n + (ls.filter p).length := by
  induction ls generalizing n with
  | nil => rfl
  | cons i r ih =>
    rw [List.foldl_cons, ih, List.filter_cons]
    split
    · rw [List.length_cons]; omega
    · rfl

theorem popCount_eq {w : Nat} (x : BitVec w) : popCount x = ((List.range w).filter (fun i => x.getLsbD i)).length :=
  (foldl_count (fun i => x.getLsbD i) (List.range w) 0).trans (Nat.zero_add _)

/-- The leading zeros are the bits above the highest one that is set, which is that of the logarithm. -/
theorem leadingZeros_eq {w : Nat} (x : BitVec w) :
    leadingZeros w x = ((List.range w).find? (fun i => x.getLsbD (w - 1 - i))).getD w := by
  unfold leadingZeros
  by_cases h : x.toNat = 0
  · have hnone : (List.range w).find? (fun i => x.getLsbD (w - 1 - i)) = none := by simp [BitVec.getLsbD, h]
    rw [if_pos h, hnone, Option.getD_none]
  · have hlog : x.toNat.log2 < w := (Nat.log2_lt h).2 x.isLt
    have hsome : (List.range w).find? (fun i => x.getLsbD (w - 1 - i)) = some (w - 1 - x.toNat.log2) := by
      refine List.find?_range_eq_some.2 ⟨?_, List.mem_range.2 (by omega), fun j hj => ?_⟩
      · rw [show w - 1 - (w - 1 - x.toNat.log2) = x.toNat.log2 by omega]
        exact Nat.testBit_log2 h
      · have hhigh : x.toNat < 2 ^ (w - 1 - j) := (Nat.log2_lt h).1 (by omega)
        rw [Bool.not_eq_true', BitVec.getLsbD, Nat.testBit_lt_two_pow hhigh]
    rw [if_neg h, hsome, Option.getD_some]

/-- Settles O14: a word of one source, or of a source and an immediate, by the same operations. -/
theorem intOneSource : Obligations.IntOneSource := by
  unfold Obligations.IntOneSource
  intro c e m n
  refine ⟨?iabs, ?popc, ?clz, ?brev, ?iaddi, ?andi, ?ori, ?xori, ?shli, ?shri, ?sari, ?iceqi, ?iclti, ?icltui⟩
  case iabs =>
    refine twoSource_of_alu1 (fun d a b s _ hok => ?_) fun _ x _ => natAbs_eq x
    exact congrArg (faultOr · _) (checked2_none (b := .zero) hok)
  case popc => exact twoSource_of_alu1 (fun _ _ _ _ _ _ => rfl) fun _ x _ => congrArg _ (popCount_eq x)
  case clz => exact twoSource_of_alu1 (fun _ _ _ _ _ _ => rfl) fun _ x _ => congrArg _ (leadingZeros_eq x)
  case brev => exact twoSource_of_alu1 (fun _ _ _ _ _ _ => rfl) fun _ _ _ => rfl
  case iaddi => exact twoSource_of_aluImm (fun _ _ _ _ hA _ => faultOr_alu rfl hA) fun _ _ _ => rfl
  case andi | ori | xori => exact twoSource_of_aluImm (fun _ _ _ _ _ _ => rfl) fun _ _ _ => rfl
  case shli =>
    exact twoSource_of_alu1 (fun _ _ _ _ _ _ => rfl) (fun _ x _ => shiftLeft_eq_ofNat x n.toNat) fun _ _ _ => shiftForm_dst
  case shri =>
    exact twoSource_of_alu1 (fun _ _ _ _ _ _ => rfl) (fun _ x _ => ushiftRight_eq_ofNat x n.toNat) fun _ _ _ => shiftForm_dst
  case sari =>
    exact twoSource_of_alu1 (fun _ _ _ _ _ _ => rfl) (fun _ x _ => sshiftRight_eq_ofInt x n.toNat) fun _ _ _ => shiftForm_dst
  case iceqi => exact twoSource_of_aluImm (fun _ _ _ _ _ _ => rfl) fun _ _ _ => bit_eq beq_iff_eq
  case iclti | icltui => exact twoSource_of_aluImm (fun _ _ _ _ _ _ => rfl) fun _ _ _ => bit_eq decide_eq_true_iff

end Sys2Proof.Machine
end

/-! # Integer words that also read their destination (R9, R148, R155 to R158, R161) -/

section
namespace Sys2Proof.Machine

-- One after the other, as above: the check's memory limit bounds the stacks of parallel elaboration.
set_option Elab.async false

/-! ## Classes of operands (R57) -/

section
variable {d : Opnd}

theorem isV_of_isEven (h : d.isEven = true) : d.isV = true := by
  cases d with
  | v n => rfl
  | _ => cases h

theorem isV_up (h : d.isV = true) : (d.up 1).isV = true := by
  cases d with
  | v n => rfl
  | _ => cases h

theorem isS_isA_of_isV (h : d.isV = true) : d.isS = false ∧ d.isA = false := by
  cases d with
  | v n => exact ⟨rfl, rfl⟩
  | _ => cases h

theorem isA_of_isS (h : d.isS = true) : d.isA = false := by
  cases d with
  | s n => rfl
  | _ => cases h

theorem isS_of_isA (h : d.isA = true) : d.isS = false := by
  cases d with
  | a n => rfl
  | _ => cases h

end

/-! ## Pairs (R9) -/

section
variable {s : State} {d : Opnd} {m : Mask} {f : Nat → DWord}

/-- The registers of a pair are two. -/
theorem up_ne_self (h : d.isEven = true) : d.up 1 ≠ d := by
  cases d with
  | v n =>
    simp only [Opnd.up, ne_eq, Opnd.v.injEq, Fin.ext_iff, Fin.val_ofNat]
    omega
  | _ => cases h

theorem pair_of_isV (h : d.isV = true) : d.pair = [d, d.up 1] := if_pos h

/-- A pair holds its low word in the register named and its high word in the one above. -/
theorem val64_eq_append (h : d.isEven = true) (l : Nat) : val64 s d l = val32 s (d.up 1) l ++ val32 s d l := by
  cases d with
  | v n =>
    have hn : n.val + 1 < 64 := by
      simp only [Opnd.isEven, beq_iff_eq] at h
      omega
    simp only [val64, Opnd.up, val32, val, Fin.val_ofNat, Nat.mod_eq_of_lt hn, BitVec.setWidth_setWidth_of_le, Nat.reduceLeDiff,
      BitVec.setWidth_eq]
  | _ => cases h

theorem append_halves (x : DWord) : x.extractLsb' 32 32 ++ x.setWidth 32 = x := by
  rw [BitVec.setWidth_eq_extractLsb' (by decide), BitVec.extractLsb'_append_extractLsb'_eq_extractLsb' (by decide),
    BitVec.extractLsb'_eq_self]

theorem val32_held32 (h : d.isV = true) (x : Word) : (held32 d x).setWidth 32 = x := by
  cases d with
  | v n => exact (BitVec.setWidth_setWidth_of_le x (by decide)).trans (BitVec.setWidth_eq x)
  | _ => cases h

/-- A write of a pair is one of its low words and one of its high words. -/
theorem onSq_putPair : s.onSq (·.putPair d m f)
    = (s.onSq (·.putLanes d m fun l => (f l).setWidth 32)).onSq (·.putLanes (d.up 1) m fun l => (f l).extractLsb' 32 32) := rfl

theorem val_putPair (hV : d.isV = true) (o : Opnd) (l : Nat) : val (s.onSq (·.putPair d m f)) o l =
    if o = d.up 1 ∧ m.getLsbD l then held32 (d.up 1) ((f l).extractLsb' 32 32)
    else if o = d ∧ m.getLsbD l then held32 d ((f l).setWidth 32) else val s o l := by
  rw [onSq_putPair, val_putLanes _ _ _ _ _ _ (.inl (isV_up hV)), val_putLanes _ _ _ _ _ _ (.inl hV)]

theorem val_putPair_other (hV : d.isV = true) {o : Opnd} (ho : o ∉ d.pair) (l : Nat) :
    val (s.onSq (·.putPair d m f)) o l = val s o l := by
  rw [pair_of_isV hV, List.mem_cons, List.mem_singleton, not_or] at ho
  rw [val_putPair hV, if_neg fun h => ho.2 h.1, if_neg fun h => ho.1 h.1]

/-- A write of a pair changes its lanes' 64-bit values in the lanes of its mask. -/
theorem val64_putPair (hd : d.isEven = true) (l : Nat) :
    val64 (s.onSq (·.putPair d m f)) d l = if m.getLsbD l then f l else val64 s d l := by
  have hV := isV_of_isEven hd
  by_cases hm : m.getLsbD l = true
  · rw [val64_eq_append hd, val32, val32, val_putPair hV, val_putPair hV, if_pos ⟨rfl, hm⟩,
      if_neg fun h => up_ne_self hd h.1.symm, if_pos ⟨rfl, hm⟩, val32_held32 (isV_up hV), val32_held32 hV, append_halves, if_pos hm]
  · rw [val64_eq_append hd, val64_eq_append hd, val32, val32, val_putPair hV, val_putPair hV, if_neg fun h => hm h.2,
      if_neg fun h => hm h.2, if_neg fun h => hm h.2, if_neg fun h => hm h.2, if_neg hm, val32, val32]

theorem isFull_putPair (hV : d.isV = true) (q : Squad) (r : Opnd) :
    (q.putPair d m f).isFull r = if r ∈ d.pair ∧ m ≠ 0#32 then true else q.isFull r := by
  rw [Squad.putPair, isFull_putLanes _ _ _ _ _ (.inl (isV_up hV)), isFull_putLanes _ _ _ _ _ (.inl hV), pair_of_isV hV]
  by_cases hm : m = 0#32
  · simp only [hm, ne_eq, not_true, and_false, if_false]
  · simp only [hm, ne_eq, not_false_iff, and_true, List.mem_cons, List.not_mem_nil, or_false, or_comm (a := r = d), ite_or]

theorem sameButRegs_putPair {q : Squad} (hu : q.uncorr = []) (hp : q.poison = []) : SameButRegs q (q.putPair d m f) := by
  have hlow := sameButRegs_putLanes hu hp d m fun l => (f l).setWidth 32
  exact hlow.trans (sameButRegs_putLanes (by rw [hlow.eq]; exact hu) (by rw [hlow.eq]; exact hp) _ _ _)

theorem val64_retire (hd : d.isEven = true) (n : Nat) (rb : Bool) (l : Nat) : val64 (retire n rb s) d l = val64 s d l := by
  cases d with
  | v n => rfl
  | _ => cases hd

/-- A 64-bit result of class V. -/
theorem pair_write (hu : s.sq.uncorr = []) (hp : s.sq.poison = []) (rb : Bool) (hd : d.isEven = true) (f : Nat → DWord) :
    OnlyRegs d.pair s ((retire 1 rb s).onSq (·.putPair d s.sq.em f))
      ∧ PairResult d f s ((retire 1 rb s).onSq (·.putPair d s.sq.em f)) := by
  have hV := isV_of_isEven hd
  refine ⟨onlyRegs_of_write (sameButRegs_putPair (q := (retire 1 rb s).sq) hu hp) fun o ho hne => ⟨fun l => ?_, ?_⟩,
    fun l _ => ?_, fun o ho => ?_⟩
  · rw [val_putPair_other hV hne, val_retire _ _ _ _ _ ho]
  · rw [State.onSq_sq, isFull_putPair hV, if_neg fun h => hne h.1, isFull_retire]
  · rw [val64_putPair hd, val64_retire hd]
  · rw [State.onSq_sq, isFull_putPair hV, isFull_retire]
    by_cases h : s.sq.em = 0#32 <;> simp [h, ho]

variable {i : Instr} {own : State → WordOut}

/-- A word whose own effect is a 64-bit result of class V. -/
theorem putPair_completes (hd : d.isEven = true) (h : ReadyFor i s) (he : exec i s = issueWord i own s)
    (ho : own s = .done fun t => t.onSq (·.putPair d s.sq.em f)) :
    Completes i s fun t => OnlyRegs d.pair s t ∧ PairResult d f s t :=
  completes_of_done h he ho (pair_write h.parity h.poison _ hd f)

/-- A word whose own effect is the one value of a uniform destination. -/
theorem putU_completes {x : DWord} (hd : d.isS = true) (h : ReadyFor i s) (he : exec i s = issueWord i own s)
    (ho : own s = .done fun t => t.onSq (·.putU d x)) : Completes i s fun t => OnlyRegs [d] s t ∧ UniResult d x t :=
  completes_of_done h he ho (uniform_write h.parity h.poison _ hd x)

/-- A word whose own effect is a 32-bit result of class V. -/
theorem putLanes_completes {f : Nat → Word} (hd : d.isV = true ∨ d.isP = true) (h : ReadyFor i s)
    (he : exec i s = issueWord i own s) (ho : own s = .done fun t => t.onSq (·.putLanes d s.sq.em f)) :
    Completes i s fun t => OnlyRegs [d] s t ∧ LaneResult d f s t :=
  completes_of_done h he ho (lanes_write h.parity h.poison _ hd f)

end

/-! ## Words by their shape -/

section
variable {ok : Opnd → Opnd → Opnd → State → Prop} {op op' : (w : Nat) → BitVec w → BitVec w → BitVec w → BitVec w}
  {i : Opnd → Opnd → Opnd → Instr}

theorem threeSource_of_alu3
    (ho : ∀ d a b s, d.isA = false → ok d a b s → ownOf (i d a b) s = .done (alu3 op' d a b s))
    (hop : ∀ w d x y, op' w d x y = op w d x y)
    (hw : ∀ d a b, (i d a b).wf = true → d.isA = false → d.isS = true ∨ d.isV = true ∨ d.isP = true := by
      exact fun _ _ _ => intForm_dst)
    (hi : ∀ d a b, isWord (i d a b) = true := by exact fun _ _ _ => rfl) : ThreeSource ok op i :=
  threeSource_of (fun d a b => ownOf (i d a b)) (fun d a b s => exec_word (hi d a b) s) hw
    fun d a b s hA hok _ => ⟨op', hop, ho d a b s hA hok⟩

/-- MOVKH is a word of one source, its destination. -/
theorem alu1_eq_alu3 (op : (w : Nat) → BitVec w → BitVec w) (d a b : Opnd) (s : State) :
    alu1 op d d s = alu3 (fun w d _ _ => op w d) d a b s := rfl

end

/-! ## The inserted field (R158) -/

section
variable {w : Nat}

/-- The bits of a field, as BFI masks them. -/
def fieldMask (y : BitVec w) : BitVec w := BitVec.ofNat w ((2 ^ fieldLen y - 1) * 2 ^ fieldPos y)

theorem getLsbD_fieldMask (y : BitVec w) {k : Nat} (hk : k < w) :
    (fieldMask y).getLsbD k = decide (fieldPos y ≤ k ∧ k < fieldPos y + fieldLen y) := by
  rw [fieldMask, BitVec.getLsbD_ofNat, Nat.testBit_mul_two_pow, Nat.testBit_two_pow_sub_one, Bool.eq_iff_iff]
  simp only [Bool.and_eq_true, decide_eq_true_iff]
  omega

theorem insertField_eq (d x y : BitVec w) : (d &&& ~~~(fieldMask y)) ||| ((x <<< fieldPos y) &&& fieldMask y) =
    BitVec.ofFnLE fun i : Fin w => if (y.extractLsb' 0 6).toNat ≤ i.val ∧ i.val < fieldEnd y
      then x.getLsbD (i.val - (y.extractLsb' 0 6).toNat) else d.getLsbD i.val := by
  refine BitVec.eq_of_getLsbD_eq fun k hk => ?_
  change _ = (BitVec.ofFnLE fun i : Fin w => if fieldPos y ≤ i.val ∧ i.val < fieldPos y + fieldLen y
    then x.getLsbD (i.val - fieldPos y) else d.getLsbD i.val).getLsbD k
  rw [BitVec.getLsbD_ofFnLE, dif_pos hk, BitVec.getLsbD_or, BitVec.getLsbD_and, BitVec.getLsbD_not, BitVec.getLsbD_and,
    getLsbD_fieldMask y hk, BitVec.getLsbD_shiftLeft]
  by_cases h : fieldPos y ≤ k ∧ k < fieldPos y + fieldLen y
  · have hle : ¬ k < fieldPos y := by omega
    simp [h, hk, hle]
  · simp [h, hk]

end

/-- Settles O15: the words by their own operation on the three values, IMAD by the one value or the pair that it writes. -/
theorem intThreeSource : Obligations.IntThreeSource := by
  unfold Obligations.IntThreeSource
  intro c e f
  refine ⟨?iaddmin, ?cmov, fun k => ?movkh, ?bfi, fun d a b s hS h => ?imad, fun m d a b s hV h => ?imadPair⟩
  case iaddmin => exact threeSource_of_alu3 (fun _ _ _ _ _ _ => rfl) fun _ _ _ _ => if_congr BitVec.slt_iff_toInt_lt rfl rfl
  case cmov =>
    refine threeSource_of_alu3 (fun _ _ _ _ _ _ => rfl) fun w d x y => ?_
    rw [ite_not]
    exact if_congr (beq_iff_eq.trans BitVec.toNat_eq) rfl rfl
  case movkh =>
    refine threeSource_of_alu3 (fun d a b s _ _ => congrArg WordOut.done (alu1_eq_alu3 _ d a b s)) (fun _ d _ _ => ?_)
      (fun d _ _ h _ => (Bool.or_eq_true_iff.1 h).imp_right .inl)
    rw [shiftLeft_eq_ofNat]
  case bfi =>
    exact threeSource_of_alu3 (fun _ _ b s _ hfit => congrArg (faultOr · _) (fieldBounds_none hfit)) fun _ => insertField_eq
  case imad =>
    refine putU_completes (own := ownImad d a b false) hS h rfl ?_
    rw [ownImad, if_pos hS]
  case imadPair =>
    have hS := (isS_isA_of_isV hV).1
    have heven : d.isEven = true := by
      have hform : imadForm d a b m = true := h.wf
      rwa [imadForm, hS, if_neg Bool.false_ne_true] at hform
    refine putPair_completes (own := ownImad d a b m) heven h rfl ?_
    rw [ownImad, hS, if_neg Bool.false_ne_true]
    cases m <;> rfl

end Sys2Proof.Machine
end

/-! # Moves between the classes, and full/empty control (R161, R162, R164 to R166) -/

section
namespace Sys2Proof.Machine

-- One after the other, as above: the check's memory limit bounds the stacks of parallel elaboration.
set_option Elab.async false

/-! ## The lanes of a mask, lowest first -/

section
variable {m : Mask} {l : Nat}

theorem maskList_zero : Mask.list 0#32 = [] := rfl

theorem IsLowest.maskList (h : IsLowest m l) : ∃ r, Mask.list m = l :: r := by
  have hmem : l ∈ Mask.list m := mem_maskList.2 h.1
  have hlow := lowest_eq h
  rw [lowest] at hlow
  cases e : Mask.list m with
  | nil => rw [e] at hmem; cases hmem
  | cons k r =>
    rw [e, List.headD_cons] at hlow
    exact ⟨r, by rw [hlow]⟩

end

/-! ## PROM, UNIQ and SETE -/

section
variable {c e f m : Bool} {d a b : Opnd} {s : State}

/-- A destination of PROM that is not affine is a v or p register. -/
theorem promForm_lanes (h : promForm d a b f false = true) (hA : d.isA = false) : d.isV = true ∨ d.isP = true := by
  simp only [promForm, hA, Bool.false_eq_true, if_false, Bool.and_eq_true, Bool.or_eq_true] at h
  exact h.2

/-- PROM.d writes a pair. -/
theorem promForm_pair (h : promForm d a b f true = true) : d.isEven = true := by
  unfold promForm at h
  split at h
  · simp at h
  · exact Bool.and_elim_right h

/-- The lanes among which UNIQ finds its word: those of EM that the second source leaves (R164). -/
theorem uniqLanes_eq {m : Mask} (h : ∀ l, m.getLsbD l = true ↔ s.sq.em.getLsbD l = true ∧ (uval s b).getLsbD l = false) :
    s.sq.em &&& ~~~((uval s b).setWidth 32) = m := by
  refine BitVec.eq_of_getLsbD_eq fun l hl => Bool.eq_iff_iff.2 ?_
  rw [h l]
  simp [hl]

theorem ownUniq_none (h : ∀ l, (0#32).getLsbD l = true ↔ s.sq.em.getLsbD l = true ∧ (uval s b).getLsbD l = false) :
    ownUniq d a b s = .done fun t => t.onSq (·.putU d 0#64) := by
  simp only [ownUniq, uniqLanes_eq h, maskList_zero]

theorem ownUniq_lowest {m k : Mask} {l : Nat}
    (h : ∀ l, m.getLsbD l = true ↔ s.sq.em.getLsbD l = true ∧ (uval s b).getLsbD l = false) (hl : IsLowest m l)
    (hk : ∀ j, j < 32 → (k.getLsbD j = true ↔ m.getLsbD j = true ∧ val32 s a j = val32 s a l)) :
    ownUniq d a b s = .done fun t => t.onSq (·.putU d ((k : Word) ++ val32 s a l)) := by
  obtain ⟨r, hr⟩ := hl.maskList
  have hsame : maskOf (fun j => m.getLsbD j && val32 s a j == val32 s a l) = k := maskOf_eq fun j hj => by
    rw [hk j hj, Bool.and_eq_true, beq_iff_eq]
  simp only [ownUniq, uniqLanes_eq h, hr, hsame]

theorem issueWord_done_of_prelude {i : Instr} {own : State → WordOut} {u : State → State} (hw : i.wf = true)
    (hpre : prelude i s = none) (hu : s.sq.uncorr = []) (ho : own s = .done u) :
    issueWord i own s = .next (u (retire 1 (bit31 i) s)) := by
  simp only [issueWord, hw, if_true, wordOut, hpre, ho, markPoison_of_clean i hu]

/-- SETE waits for no producer of its register (R166). -/
theorem prelude_sete (hem : d.isS = true ∨ d.isA = true → s.sq.em = s.sq.live) (hu : s.sq.uncorr = []) (hp : s.sq.poison = []) :
    prelude (.sete c d m) s = none := by
  have hpart : partBlock s (partCode d) = none := by
    refine partBlock_of_uniform ?_
    unfold partCode
    split
    next h => exact .inr (hem (Bool.or_eq_true_iff.1 h))
    next => exact .inl rfl
  have husage : usage s.sq.fmt (.sete c d m) = ⟨[], [d], partCode d⟩ := rfl
  have hdst : destElsewhere (.sete c d m) = true := rfl
  simp only [prelude, husage, hpart, sourceBlock, hdst, if_true, poisonCheck_of_clean _ _ hu hp, ite_self]

theorem sete_runs (hw : (Instr.sete c d m).wf = true) (hem : d.isS = true ∨ d.isA = true → s.sq.em = s.sq.live)
    (hu : s.sq.uncorr = []) (hp : s.sq.poison = []) :
    exec (.sete c d m) s = .next ((retire 1 (bit31 (.sete c d m)) s).onSq (·.setFE d m)) :=
  (exec_word rfl s).trans (issueWord_done_of_prelude (u := fun t => t.onSq (·.setFE d m)) hw
    (prelude_sete hem hu hp) hu rfl)

end

/-- Settles O17, word by word. -/
theorem movesBetweenClasses : Obligations.MovesBetweenClasses := by
  unfold Obligations.MovesBetweenClasses
  intro c e f d a b s
  refine ⟨fun n h => ?movk, fun hA h => ?prom, fun h => ?promPair, fun m h hm => ⟨?uniqNone, fun l k hl hk => ?uniq⟩,
    fun m h => ?aget, fun m hw hem hu hp => ?sete⟩
  case movk => exact putU_completes (own := ownMovk d n) h.wf h rfl rfl
  case prom =>
    refine putLanes_completes (own := ownProm d a b false) (promForm_lanes h.wf hA) h rfl ?_
    rw [ownProm, hA, if_neg Bool.false_ne_true, if_neg Bool.false_ne_true]
  case promPair =>
    have heven := promForm_pair h.wf
    refine putPair_completes (own := ownProm d a b true) heven h rfl ?_
    rw [ownProm, (isS_isA_of_isV (isV_of_isEven heven)).2, if_neg Bool.false_ne_true, if_pos rfl]
  case uniqNone =>
    rintro rfl
    exact putU_completes (own := ownUniq d a b) (Bool.and_elim_right h.wf) h rfl (ownUniq_none hm)
  case uniq => exact putU_completes (own := ownUniq d a b) (Bool.and_elim_right h.wf) h rfl (ownUniq_lowest hm hl hk)
  case aget => exact putU_completes (own := ownAget d a m) (Bool.and_elim_left h.wf) h rfl rfl
  case sete =>
    have hfe (r : Opnd) := isFull_setFE (retire 1 (bit31 (.sete c d m)) s).sq d r m hw
    refine ⟨_, sete_runs hw hem hu hp, _, issued_retire _ s, rfl, ?_, fun o ho => ?_⟩
    · exact (hfe d).trans (if_pos rfl)
    · exact (hfe o).trans ((if_neg ho).trans (isFull_retire 1 _ s o))

end Sys2Proof.Machine
end

/-! # DEMU (R60, R140, R163) -/

section
namespace Sys2Proof.Machine

-- One after the other, as above: the check's memory limit bounds the stacks of parallel elaboration.
set_option Elab.async false

section
variable {c e m : Bool} {d a : Opnd} {s : State} {l0 : Nat} {base st : DWord}

/-- The second lane of a mask is the lowest of the others. -/
theorem isLowest_others {em : Mask} {l1 : Nat} {r : List Nat} (h : Mask.list em = l0 :: l1 :: r) :
    IsLowest (em &&& ~~~(1#32 <<< l0)) l1 := by
  have hsorted := maskList_sorted em
  rw [h, List.pairwise_cons, List.pairwise_cons] at hsorted
  obtain ⟨hfirst, hsecond, -⟩ := hsorted
  have hmem {k : Nat} : k ∈ l0 :: l1 :: r ↔ em.getLsbD k = true := h ▸ mem_maskList
  have hl1 : em.getLsbD l1 = true := hmem.1 (List.mem_cons_of_mem _ List.mem_cons_self)
  have hothers {k : Nat} (hk : k < 32) : (em &&& ~~~(1#32 <<< l0)).getLsbD k = if k = l0 then false else em.getLsbD k :=
    getLsbD_mark em l0 k false hk
  have hlt : l1 < 32 := BitVec.lt_of_getLsbD hl1
  refine ⟨?_, fun k hk => ?_⟩
  · rw [hothers hlt, if_neg (hfirst l1 List.mem_cons_self).ne', hl1]
  · rw [hothers (hk.trans hlt)]
    split
    · rfl
    next hne =>
      refine Bool.eq_false_iff.2 fun hin => ?_
      rcases List.mem_cons.1 (hmem.2 hin) with h0 | hrest
      · exact hne h0
      · rcases List.mem_cons.1 hrest with h1 | hr
        · omega
        · exact absurd (hsecond k hr) (by omega)

/-! ## What the destination takes (R163) -/

theorem demuValue_uniform (hS : d.isS = true) (hl : IsLowest s.sq.em l0) :
    demuValue d a s = (BitVec.ofInt 64 (val32 s a l0).toInt, 0#64) := by
  obtain ⟨r, hr⟩ := hl.maskList
  cases r with
  | nil => simp only [demuValue, hr]
  | cons l1 r => simp only [demuValue, hr, hS, if_true]

/-- The stride is 0 for one lane, and else that of the two lowest; the base is the value that it gives lane 0. -/
theorem demuValue_affine {st : Int} (hA : d.isA = true) (hl : IsLowest s.sq.em l0)
    (hone : (∀ l, s.sq.em.getLsbD l = true → l = l0) → st = 0)
    (htwo : ∀ l1, IsLowest (s.sq.em &&& ~~~(1#32 <<< l0)) l1 → st = ((val32 s a l1).toInt - (val32 s a l0).toInt).tdiv (l1 - l0)) :
    demuValue d a s = (BitVec.ofInt 64 ((val32 s a l0).toInt - l0 * st), BitVec.ofInt 64 st) := by
  have hS := isS_of_isA hA
  obtain ⟨r, hr⟩ := hl.maskList
  cases r with
  | nil =>
    have hst : st = 0 := hone fun l h => List.mem_singleton.1 (hr ▸ mem_maskList.2 h)
    simp only [demuValue, hr, hst, mul_zero, sub_zero]
    rfl
  | cons l1 r => simp only [demuValue, hr, hS, Bool.false_eq_true, if_false, htwo l1 (isLowest_others hr)]

/-! ## The checked form (R60, R163) -/

/-- What an affine destination of `base` and `st` gives lane `l`. -/
def lineAt (base st : DWord) (l : Nat) : DWord := base + BitVec.ofNat 64 l * st

theorem ownDemu_eq (hv : demuValue d a s = (base, st)) : ownDemu d a m s = faultOr
      (if m then lanesReport 0x03#8 ((Mask.list s.sq.em).filter fun l => (val32 s a l).signExtend 64 != lineAt base st l)
        else none)
      (if d.isA then fun t => t.onSq (·.putAff d base st) else fun t => t.onSq (·.putU d base)) := by
  simp only [ownDemu, hv, lineAt]

theorem ownDemu_done (hv : demuValue d a s = (base, st))
    (hok : m = true → ∀ l, s.sq.em.getLsbD l = true → lineAt base st l = BitVec.ofInt 64 (val32 s a l).toInt) :
    ownDemu d a m s = .done (if d.isA then fun t => t.onSq (·.putAff d base st) else fun t => t.onSq (·.putU d base)) := by
  rw [ownDemu_eq hv]
  cases m with
  | false => rfl
  | true =>
    rw [if_pos rfl, no_faulting_lanes _ _ fun l hl => by rw [hok rfl l hl]; exact bne_self_eq_false _, lanesReport, faultOr]

theorem demu_traps {bad : Nat → Prop} (hv : demuValue d a s = (base, st)) (h : ReadyFor (.demu c d a e true) s)
    (hbad : ∀ l, lineAt base st l ≠ BitVec.ofInt 64 (val32 s a l).toInt ↔ bad l)
    (hex : ∃ l, s.sq.em.getLsbD l = true ∧ bad l) : LaneTrap 0x03#8 bad (fun _ => 0#64) (.demu c d a e true) s := by
  refine laneTrap_of (own := ownDemu d a true) (p := fun l => (val32 s a l).signExtend 64 != lineAt base st l) h rfl
    (fun l => ?_) hex fun l r hlist => ?_
  · rw [bne_iff_ne, ne_comm, ← hbad l]
    rfl
  · rw [ownDemu_eq hv, if_pos rfl, hlist, lanesReport, faultOr]

/-- Without a stride every lane is given the base; two words sign-extended are equal where they are. -/
theorem lineAt_zero_eq (x y : Word) (l : Nat) :
    lineAt (BitVec.ofInt 64 y.toInt) 0#64 l = BitVec.ofInt 64 x.toInt ↔ x.toInt = y.toInt := by
  have hline : lineAt (BitVec.ofInt 64 y.toInt) 0#64 l = BitVec.ofInt 64 y.toInt := by
    rw [lineAt, BitVec.mul_zero, BitVec.add_zero]
  rw [hline, ← BitVec.toInt_inj]
  change (y.signExtend 64).toInt = (x.signExtend 64).toInt ↔ _
  rw [BitVec.toInt_signExtend_of_le (by decide), BitVec.toInt_signExtend_of_le (by decide), eq_comm]

end

/-- Settles O18: what the destination takes, and the lanes whose words differ from what it gives them. -/
theorem demuResult : Obligations.DemuResult := by
  unfold Obligations.DemuResult
  intro c e m d a s l0 hl h X
  refine ⟨?form, fun hS hok => ?uniform, fun hS hm hex => ?uniformTrap, fun hA st hone htwo => ?affine⟩
  case form =>
    change (a.isV && (d.isS || d.isA)) = true ↔ _
    rw [Bool.and_eq_true, Bool.or_eq_true]
  case uniform =>
    refine putU_completes (own := ownDemu d a m) hS h rfl ?_
    rw [ownDemu_done (demuValue_uniform hS hl) fun hm l hem => (lineAt_zero_eq _ _ l).2 (hok hm l hem), isA_of_isS hS,
      if_neg Bool.false_ne_true]
  case uniformTrap =>
    subst hm
    exact demu_traps (demuValue_uniform hS hl) h (fun l => (lineAt_zero_eq _ _ l).not) hex
  case affine =>
    have hv := demuValue_affine hA hl hone htwo
    refine ⟨fun hok => ?_, fun hm hex => ?_⟩
    · refine affine_completes (own := ownDemu d a m) (BitVec.ofInt 64 (X l0 - l0 * st), BitVec.ofInt 64 st) hA h rfl ?_
      rw [ownDemu_done hv hok, if_pos hA]
    · subst hm
      exact demu_traps hv h (fun _ => Iff.rfl) hex

end Sys2Proof.Machine
end

/-! # Float comparisons, conversions and RAND (R170, R176, R178 to R185, R188, R189) -/

section
namespace Sys2Proof.Machine

-- One after the other, as above: the check's memory limit bounds the stacks of parallel elaboration.
set_option Elab.async false

/-! ## Destinations of 32-bit results (R170, R178) -/

section
variable {d a b : Opnd}

/-- A form without an affine join has no affine destination. -/
theorem intForm_plain_dst {j : Cls} (h : intForm false d j = true) : d.isS = true ∨ d.isV = true ∨ d.isP = true :=
  intForm_dst h (Bool.eq_false_iff.2 fun hA => Bool.false_ne_true (isA_of_affine_form h hA).1)

theorem dst_of_fpForm {j : Cls} (h : fpForm d j = true) : d.isS = true ∨ d.isV = true ∨ d.isP = true := (fpForm_dst h).2

/-- A float word whose second source is uniform, as the form says first (R180, R181, R183, R184). -/
theorem dst_of_and_fpForm {j : Cls} {p : Bool} (h : (p && fpForm d j) = true) : d.isS = true ∨ d.isV = true ∨ d.isP = true :=
  dst_of_fpForm (Bool.and_elim_right h)

/-- The forms of RAND and of RAND.st end alike, in a float form (R188, R189). -/
theorem rand_dst {c e f m : Bool} (h : (Instr.rand c d a b e f m).wf = true) : d.isS = true ∨ d.isV = true ∨ d.isP = true := by
  cases m with
  | true => exact dst_of_and_fpForm h
  | false => exact dst_of_and_fpForm h

end

/-! ## Compares (R178) -/

/-- A compare writes 1 exactly where its condition holds. -/
theorem compareF_eq {p : Word → Word → Bool} {P : Word → Word → Prop} [∀ x y, Decidable (P x y)] (h : ∀ x y, p x y = true ↔ P x y)
    (d a b : Opnd) (s : State) :
    compareF p d a b s = .done (putF d (fun l => if P (val32 s a l) (val32 s b l) then 1#32 else 0#32) s) := by
  simp only [compareF, h]

/-- Equal numbers are those of which neither lies below the other; a NaN is comparable to none. -/
theorem equal_iff (x y : Word) : ((num32 x).lt (num32 y) == some false && (num32 y).lt (num32 x) == some false) = true ↔
    (num32 x).lt (num32 y) = some false ∧ (num32 y).lt (num32 x) = some false := by
  rw [Bool.and_eq_true, beq_iff_eq, beq_iff_eq]

/-- Settles O22: each word's own effect is one write of a 32-bit result, and the compares' conditions are those of `Num.lt`. -/
theorem floatSelection : Obligations.FloatSelection := by
  unfold Obligations.FloatSelection
  intro c e f d a b s
  refine ⟨fun h => ?fmin, fun h => ?fmax, fun h => ?fceq, fun h => ?fclt, fun h => ?fcle, fun h => ?fclass, fun h => ?frnd⟩
  case fmin => exact putF_completes (own := ownFmin d a b) _ (dst_of_fpForm h.wf) h rfl rfl
  case fmax => exact putF_completes (own := ownFmax d a b) _ (dst_of_fpForm h.wf) h rfl rfl
  case fceq =>
    exact putF_completes (own := ownFceq d a b) _ (intForm_plain_dst h.wf) h rfl (compareF_eq equal_iff d a b s)
  case fclt =>
    exact putF_completes (own := ownFclt d a b) _ (intForm_plain_dst h.wf) h rfl (compareF_eq (fun _ _ => beq_iff_eq) d a b s)
  case fcle =>
    exact putF_completes (own := ownFcle d a b) _ (intForm_plain_dst h.wf) h rfl (compareF_eq (fun _ _ => beq_iff_eq) d a b s)
  case fclass => exact putF_completes (own := ownFclass d a) _ (dst_of_fpForm h.wf) h rfl rfl
  case frnd => exact putF_completes (own := ownFrnd d a b) _ (dst_of_and_fpForm h.wf) h rfl rfl

/-! ## Conversions (R181 to R185) -/

section
variable {d a b : Opnd} {s : State}

/-- CVTIF rounds the number that the word is: a natural number under .u, and else one that bears the word's sign (R182). -/
theorem ownCvtif_eq (m : Bool) : ownCvtif d a m s = .done (putF d (fun l =>
    if m then roundFp32 (.fin false (val32 s a l).toNat 0)
    else roundFp32 (.fin (val32 s a l).msb (val32 s a l).toInt.natAbs 0)) s) := by
  cases m with
  | true =>
    have hpos (x : Word) : decide ((x.toNat : Int) < 0) = false := decide_eq_false (Int.not_lt.2 (Int.natCast_nonneg _))
    simp only [ownCvtif, if_true, hpos, Int.natAbs_natCast]
  | false => simp only [ownCvtif, Bool.false_eq_true, if_false, BitVec.msb_eq_toInt]

/-- CVTN writes its byte under a binary8 or the INT8 format (R183). -/
theorem ownCvtn_done (hOF : isBinary8 (fmtOF s.sq.fmt) = true ∨ fmtOF s.sq.fmt = 0x18) : ownCvtn d a b s = .done (putF d
    (fun l => patch (val32 s d l) (8 * ((uval s b).toNat % 4)) (narrow s.sq.fmt (val32 s a l))) s) := by
  refine if_neg ?_
  rw [Bool.and_eq_true, Bool.not_eq_true', bne_iff_ne, not_and_or, Bool.not_eq_false, not_not]
  exact hOF

theorem ownCvtn_trap (h8 : isBinary8 (fmtOF s.sq.fmt) = false) (hInt : fmtOF s.sq.fmt ≠ 0x18) :
    ownCvtn d a b s = .trap (formatReport s.sq.fmt s) := by
  refine if_pos ?_
  rw [Bool.and_eq_true, Bool.not_eq_true', bne_iff_ne]
  exact ⟨h8, hInt⟩

end

/-- Settles O23: each conversion writes one 32-bit result, and the formats that CVTN and CVTW refuse are their own check. -/
theorem floatConversions : Obligations.FloatConversions := by
  unfold Obligations.FloatConversions
  intro c e f m d a b s
  refine ⟨fun h => ?cvtfi, fun h => ?cvtif, fun h hOF => ?cvtn, fun h h8 hInt => ?cvtnTrap, fun h hAF => ?cvtw, fun h hAF => ?cvtwTrap,
    fun h => ?cvth⟩
  case cvtfi => exact putF_completes (own := ownCvtfi d a b m) _ (dst_of_and_fpForm h.wf) h rfl rfl
  case cvtif => exact putF_completes (own := ownCvtif d a m) _ (dst_of_fpForm h.wf) h rfl (ownCvtif_eq m)
  case cvtn => exact putF_completes (own := ownCvtn d a b) _ (dst_of_and_fpForm h.wf) h rfl (ownCvtn_done hOF)
  case cvtnTrap => exact trap_completes (own := ownCvtn d a b) h rfl (ownCvtn_trap h8 hInt)
  case cvtw => exact putF_completes (own := ownCvtw d a b) _ (dst_of_and_fpForm h.wf) h rfl (if_neg hAF)
  case cvtwTrap => exact trap_completes (own := ownCvtw d a b) h rfl (if_pos hAF)
  case cvth => exact putF_completes (own := ownCvth d a b m) _ (dst_of_fpForm h.wf) h rfl rfl

/-! ## The function of RAND (R188) -/

/-- A word and its own upper bits, shifted down by `n`. -/
def xorShift (n : Nat) (x : Word) : Word := x ^^^ (x >>> n)

/-- The half of the seed that round `i` adds. -/
def seedHalf (seed : DWord) (i : Nat) : Word := if i % 2 = 0 then seed.extractLsb' 0 32 else seed.extractLsb' 32 32

/-- A round with its key and its constant as R188 writes them. -/
def mixRound (seed : DWord) (x : Word) (i : Nat) : Word :=
  (xorShift 13 (xorShift 16 (x + seedHalf seed i + BitVec.ofNat 32 ((i + 1) * 0x6A5D39E1)) * 0x3C6EF35B#32)).rotateLeft 5

/-- Trunc((i + 1) × C, 32) is the product of the two words. -/
theorem randRound_eq (seed : DWord) (x : Word) (i : Nat) : randRound (seedHalf seed i) i x = mixRound seed x i := by
  rw [mixRound, BitVec.ofNat_mul]
  rfl

/-- The value is that of eight rounds on the counter, and the low half of the seed. -/
theorem randValue_eq (seed : DWord) (counter : Word) :
    randValue seed counter = (List.range 8).foldl (mixRound seed) counter ^^^ seedHalf seed 0 := by
  have hlow : seed.setWidth 32 = seed.extractLsb' 0 32 := BitVec.setWidth_eq_extractLsb' (by decide)
  have hround : (fun x i => randRound (seedHalf seed i) i x) = mixRound seed := funext₂ (randRound_eq seed)
  rw [← hround, randValue, hlow]
  rfl

/-! ## The bounds of a stream (R189) -/

section
variable {i : Instr} {own : State → WordOut} {d b : Opnd} {s : State} {u : State → State}

/-- Every offset that the word reads lies in its stream: nothing is reported. -/
theorem streamBounds_none
    (h : ∀ l, (if d.isS then l = 0 else s.sq.em.getLsbD l = true) → (val32 s b l).toNat < s.launch.lr.rcount) :
    streamBounds d b s = none := by
  cases hS : d.isS with
  | true =>
    have h0 : ¬ s.launch.lr.rcount ≤ (val32 s b 0).toNat := Nat.not_le.2 (h 0 (by rw [hS, if_pos rfl]))
    rw [streamBounds, hS, if_pos rfl, if_neg h0]
  | false =>
    have hin (l : Nat) (hl : s.sq.em.getLsbD l = true) : decide (s.launch.lr.rcount ≤ (val32 s b l).toNat) = false :=
      decide_eq_false (Nat.not_le.2 (h l (by rw [hS, if_neg Bool.false_ne_true]; exact hl)))
    simp only [streamBounds, hS, Bool.false_eq_true, if_false, no_faulting_lanes _ _ hin]

/-- A word whose first check is that of its offsets. -/
theorem badOffset_traps (hr : ReadyFor i s) (he : exec i s = issueWord i own s)
    (hex : ∃ l, (if d.isS then l = 0 else s.sq.em.getLsbD l = true) ∧ s.launch.lr.rcount ≤ (val32 s b l).toNat)
    (ho : own s = faultOr (streamBounds d b s) u) : if d.isS then UniTrap 0x12#8 ((val32 s b 0).setWidth 64) i s
      else LaneTrap 0x12#8 (fun l => s.launch.lr.rcount ≤ (val32 s b l).toNat) (fun l => (val32 s b l).setWidth 64) i s := by
  cases hS : d.isS with
  | true =>
    simp only [hS, if_true] at hex
    obtain ⟨l, rfl, hout⟩ := hex
    refine trap_completes hr he (ho.trans ?_)
    simp only [streamBounds, hS, if_true, if_pos hout, faultOr]
  | false =>
    simp only [hS, Bool.false_eq_true, if_false] at hex
    refine laneTrap_of hr he (fun l => decide_eq_true_iff) hex fun l r hlist => ho.trans ?_
    simp only [streamBounds, hS, Bool.false_eq_true, if_false, hlist, faultOr]

end

/-- Settles O24: RAND by the function of R188, RAND.st by the same function inside the bounds of its stream. -/
theorem randomStreams : Obligations.RandomStreams := by
  unfold Obligations.RandomStreams
  intro k xored round value c e f d a b s
  have hvalue : randValue = value := funext₂ randValue_eq
  rw [← hvalue]
  refine ⟨fun h => ?seed, fun h hin => ?stream, fun h hout => ?outside⟩
  case seed => exact putF_completes (own := ownRand d a b false) _ (rand_dst h.wf) h rfl rfl
  case stream =>
    refine putF_completes (own := ownRand d a b true) _ (rand_dst h.wf) h rfl ?_
    rw [ownRand, if_pos rfl, streamBounds_none hin, faultOr]
  case outside => exact badOffset_traps (own := ownRand d a b true) h rfl hout rfl

end Sys2Proof.Machine
end

/-! # Words that order accesses, prefetch and wait (R213 to R216, R222) -/

section
namespace Sys2Proof.Machine

-- One after the other, as above: the check's memory limit bounds the stacks of parallel elaboration.
set_option Elab.async false

section
variable {s : State} {i : Instr} {own : State → WordOut}

/-- A word whose own outcome is a wait. -/
theorem waits_of_wait {w : Wait} (h : ReadyFor i s) (he : exec i s = issueWord i own s) (ho : own s = .wait w) :
    exec i s = .next (waitHere w s) :=
  he.trans (issueWord_wait h ho)

/-- A state whose memories are as before keeps every byte; that they are is seen by computing. -/
theorem BytesKept.same {t : State} (mem : t.mem = s.mem := by rfl) (scratch : t.team.scratch = s.team.scratch := by rfl)
    (stock : t.core.stock = s.core.stock := by rfl) : BytesKept s t :=
  ⟨fun a => by rw [mem], fun a => by rw [scratch], fun a => by rw [stock]⟩

/-! ## FENCE and the acquires of other words (R213, R234) -/

theorem dropAhead_cur (k : SquadKey) (s : State) :
    dropAhead s.core.id k s = { s with core := { s.core with ahead := s.core.ahead.filter (·.k != k) } } := by
  rw [dropAhead, State.updCore, if_pos rfl]

/-- A fence joins its squad's; one that holds later loads back drops what the squad read ahead (R196, R213). -/
theorem pushFence_eq (f : FenceRec) (s : State) : pushFence f s = settle { s with
    core := { s.core with ahead := if f.acq || f.full then s.core.ahead.filter (·.k != s.sq.key) else s.core.ahead }
    sq := { s.sq with fences := s.sq.fences ++ [f], seq := s.sq.seq + 1 } } := by
  unfold pushFence
  congr 1
  cases f.acq || f.full
  · rfl
  · rw [if_pos rfl, if_pos rfl, dropAhead_cur]
    rfl

/-- A fence changes no register. -/
theorem regsKept_pushFence (f : FenceRec) (s : State) : RegsKept [] s (pushFence f s) := by
  rw [pushFence_eq]
  exact RegsKept.same

theorem bytesKept_pushFence (f : FenceRec) (s : State) : BytesKept s (pushFence f s) := by
  rw [pushFence_eq]
  exact BytesKept.same

/-- The registers that a word keeps behind its retirement are those of the state in which it issued. -/
theorem RegsKept.of_retire {ds : List Opnd} {rb : Bool} {t : State} (h : RegsKept ds (retire 1 rb s) t) : RegsKept ds s t :=
  fun o ho hn => ⟨fun l => ((h o ho hn).1 l).trans (val_retire 1 rb s o l ho), (h o ho hn).2.trans (isFull_retire 1 rb s o)⟩

/-- Of the three kinds of fence, the release alone lets later loads pass. -/
theorem fence_holds_loads : ∀ k : BitVec 2, (k != 1#2 || k == 2#2) = !decide (k = 1#2) := by decide

theorem fence_completes {c : Bool} {k : BitVec 2} {g : BitVec 3} (h : ReadyFor (.fence c k g) s) :
    Completes (.fence c k g) s fun t => ∃ r, Issued s r ∧ t = settle { r with
        core := { r.core with ahead := if k = 1#2 then r.core.ahead else r.core.ahead.filter (·.k != s.sq.key) }
        sq := { r.sq with
          fences := r.sq.fences ++ [⟨s.sq.key, s.sq.seq, k != 1#2, k != 0#2, k == 2#2, false, false, fscopeOf g, none, none⟩]
          seq := s.sq.seq + 1 } } ∧ RegsKept [] s t ∧ BytesKept s t := by
  refine completes_of_done (own := ownFence k g) h rfl rfl ⟨retire 1 (bit31 (.fence c k g)) s, issued_retire _ s, ?_,
    (regsKept_pushFence _ _).of_retire, bytesKept_pushFence _ _⟩
  refine (pushFence_eq _ _).trans ?_
  simp only [fence_holds_loads, Bool.not_eq_true', decide_eq_false_iff_not, ite_not]
  rfl

/-! ## IFENCE and L1INV (R214, R216) -/

theorem ifence_completes {c : Bool} (h : ReadyFor (.ifence c) s) (hh : storesHome s.sq.seq s = true) :
    Completes (.ifence c) s fun t => ∃ r, Issued s r ∧ t = { r with core := { r.core with icache := [], deck := [] } } :=
  completes_of_done (own := ownIfence) h rfl (if_pos hh) ⟨retire 1 (bit31 (.ifence c)) s, issued_retire _ s, if_pos hh⟩

theorem ifence_waits {c : Bool} (h : ReadyFor (.ifence c) s) (hh : storesHome s.sq.seq s = false) :
    exec (.ifence c) s = .next (waitHere .order s) :=
  waits_of_wait (own := ownIfence) h rfl (if_neg (Bool.eq_false_iff.1 hh))

theorem l1inv_completes {c : Bool} (h : ReadyFor (.l1inv c) s) :
    Completes (.l1inv c) s fun t => ∃ r, Issued s r ∧ t = { r with core := { r.core with l1 := [] } } :=
  completes_of_done (own := ownL1inv) h rfl rfl ⟨retire 1 (bit31 (.l1inv c)) s, issued_retire _ s, rfl⟩

/-! ## PF (R215) -/

/-- A filled line of an L1 changes the cores alone. -/
theorem fillL1_outside (core pa : Nat) (s : State) :
    ∃ c cs, fillL1 core pa s = { s with core := c, cores := cs } := by
  unfold fillL1
  split
  · exact ⟨s.core, s.cores, rfl⟩
  · exact ⟨_, _, updCore_outside _ _ _⟩

theorem foldl_fillL1_outside {α : Type} (core : State → Nat) (pa : State → α → Nat) (l : List α) (s : State) :
    ∃ c cs, l.foldl (fun t a => fillL1 (core t) (pa t a) t) s = { s with core := c, cores := cs } := by
  induction l generalizing s with
  | nil => exact ⟨s.core, s.cores, rfl⟩
  | cons a r ih =>
    obtain ⟨c, cs, h⟩ := fillL1_outside (core s) (pa s a) s
    obtain ⟨c', cs', h'⟩ := ih (fillL1 (core s) (pa s a) s)
    exact ⟨c', cs', by rw [List.foldl_cons, h', h]⟩

/-- A prefetch fills lines and counts accesses. -/
theorem pf_effect (b : Opnd) (z : BitVec 2) (o : Bool) (n : BitVec 6) (s : State) :
    ∃ u : State → State, ownPf b z o n s = .done u ∧ ∀ t, ∃ c cs, Counted { t with core := c, cores := cs } (u t) := by
  refine ⟨_, rfl, fun t => ?_⟩
  by_cases ho : o = true
  · exact ⟨t.core, t.cores, by simpa only [if_pos ho] using countAccesses_counted _ _ _ t⟩
  · obtain ⟨c, cs, h⟩ := foldl_fillL1_outside (fun t => t.core.id)
      (fun t (a : Nat × Nat) => (phys t t.core.id t.launch.asid a.2).getD 0)
      ((accesses b.isS (memAddr s b n z) s).filter (fun a => prefetchable s a.2)) t
    exact ⟨c, cs, by simpa only [if_neg ho, h] using countAccesses_counted _ _ _ _⟩

theorem pf_completes {c : Bool} {b : Opnd} {z : BitVec 2} {o e : Bool} {n : BitVec 6} (h : ReadyFor (.pf c b z o e n) s)
    (hm : s.mem.wf = true) : Completes (.pf c b z o e n) s fun t =>
      t.sq = { s.sq with lclk := t.sq.lclk, wait := t.sq.wait, pkt := t.sq.pkt, word := t.sq.word, running := t.sq.running, runPkts := t.sq.runPkts }
      ∧ Retired s t ∧ ∀ a, OutsideRing s a → t.mem.read a = s.mem.read a := by
  obtain ⟨u, hu, hc⟩ := pf_effect b z o n s
  refine completes_of_done (own := ownPf b z o n) h rfl hu ?_
  obtain ⟨c', cs, hcnt⟩ := hc (retire 1 (bit31 (.pf c b z o e n)) s)
  have hsq : (u (retire 1 (bit31 (.pf c b z o e n)) s)).sq = (retire 1 (bit31 (.pf c b z o e n)) s).sq := by rw [hcnt.outside]
  obtain ⟨hlclk, hnext⟩ := retired_retire (bit31 (.pf c b z o e n)) s
  refine ⟨?_, ⟨?_, ?_⟩, hcnt.memory hm⟩
  · rw [hsq]; rfl
  · rw [hsq]; exact hlclk
  · rw [hsq]; exact hnext

/-! ## WAITE (R222) -/

/-- WAITE reads no word, so that it marks none. -/
theorem markPoison_waite (c : Bool) (a b : Opnd) (s : State) : markPoison (.waite c a b) s = s := by
  have hw (l : List Opnd) : l.flatMap (fun o => wordsOf o 0#32) = [] := by simp [wordsOf]
  simp [markPoison, lanesOfWord, hw]

theorem prelude_waite (c : Bool) (a b : Opnd) (s : State) :
    prelude (.waite c a b) s = sourceBlock s [(a, false), (b, false)] := by
  cases h : sourceBlock s [(a, false), (b, false)] <;> simp [prelude, usage, partBlock, destBlock, destElsewhere, poisonElsewhere, h]

theorem waite_completes {c : Bool} {a b : Opnd} (hwf : (Instr.waite c a b).wf = true) (ha : s.sq.settled a = true)
    (hb : s.sq.settled b = true) : Completes (.waite c a b) s fun t =>
      t = { s with sq := t.sq } ∧ Retired s t ∧ t.sq.uncorr = s.sq.uncorr ∧ t.sq.poison = s.sq.poison
      ∧ (∀ o l, o.isReg = true → val t o l = val s o l) ∧ ∀ o, t.sq.isFull o = s.sq.isFull o := by
  have hpre : prelude (.waite c a b) s = none := by
    rw [prelude_waite]
    exact sourceBlock_of_full (by simp [ha, hb])
  refine ⟨retire 1 (bit31 (.waite c a b)) s, ?_, rfl, retired_retire _ s, rfl, rfl,
    fun o l ho => val_retire 1 _ s o l ho, fun o => isFull_retire 1 _ s o⟩
  show issueWord (.waite c a b) ownWaite s = _
  simp only [issueWord, hwf, if_true, wordOut, hpre, ownWaite, markPoison_waite, id]

/-- WAITE waits for the first of its two registers that is empty. -/
theorem waite_waits {c : Bool} {a b x : Opnd} {pre post : List (Opnd × Bool)} (hwf : (Instr.waite c a b).wf = true)
    (hsrcs : [(a, false), (b, false)] = pre ++ (x, false) :: post) (hpre : ∀ y ∈ pre, s.sq.settled y.1 = true)
    (hx : s.sq.isFull x = false) (hl : s.sq.interlocked x = false) :
    exec (.waite c a b) s = .next (waitHere (s.sq.waitOn x) s) := by
  refine issueWord_waits (own := ownWaite) hwf ?_
  rw [prelude_waite, hsrcs, sourceBlock_append hpre, sourceBlock_empty hx hl]
  rfl

end

/-- Settles O33, word by word from the lemmas above. -/
theorem orderingWords : Obligations.OrderingWords := by
  unfold Obligations.OrderingWords
  intro c s
  refine ⟨fun k g h => fence_completes h, ifence_completes, ifence_waits, l1inv_completes, fun b z o e n h hm => pf_completes h hm,
    fun a b hwf ha hb => waite_completes hwf ha hb, fun a b hwf ha hb hl => ?second, fun a b hwf ha hl => ?first⟩
  case second => exact waite_waits (pre := [(a, false)]) (post := []) hwf rfl (by simp [ha]) hb hl
  case first => exact waite_waits (pre := []) (post := [(b, false)]) hwf rfl (by simp) ha hl

end Sys2Proof.Machine
end

/-! # Accesses and their checks (R198, R199, R208, R341, R356) -/

section
namespace Sys2Proof.Machine

-- One after the other, as above: the check's memory limit bounds the stacks of parallel elaboration.
set_option Elab.async false

section
variable {s : State} {uni : Bool} {addr : Nat → Nat} {acc : List (Nat × Nat)} {k : AccKind} {n : Nat}

/-! ## The accesses of a word (R198) -/

theorem accesses_none (h : s.sq.em = 0#32) (uni : Bool) (addr : Nat → Nat) : accesses uni addr s = [] := if_pos h

theorem accesses_uniform (h : s.sq.em ≠ 0#32) : accesses true addr s = [(lowest s.sq.em, addr (lowest s.sq.em))] := by
  rw [accesses, if_neg h, if_pos rfl]

theorem accesses_varying : accesses false addr s = (Mask.list s.sq.em).map fun l => (l, addr l) := by
  unfold accesses
  split
  · rw [‹s.sq.em = 0#32›]
    rfl
  · rfl

theorem exists_lane {m : Mask} (h : m ≠ 0#32) : ∃ l, m.getLsbD l = true := by
  by_contra hn
  simp only [not_exists, Bool.not_eq_true] at hn
  exact h (BitVec.eq_of_getLsbD_eq fun l _ => by rw [hn l, BitVec.getLsbD_zero])

theorem isLowest_lowest {m : Mask} (h : m ≠ 0#32) : IsLowest m (lowest m) := by
  obtain ⟨l0, hl0⟩ := exists_lane h
  obtain ⟨l, -, -, hl, -, hmin, -⟩ := faulting_lanes m (fun _ => true) ⟨l0, hl0, rfl⟩
  have hlow : IsLowest m l := ⟨hl, fun k hk => Bool.eq_false_iff.2 fun hk' => hmin k hk ⟨hk', rfl⟩⟩
  exact lowest_eq hlow ▸ hlow

theorem isEmpty_accesses (uni : Bool) (addr : Nat → Nat) (s : State) : (accesses uni addr s).isEmpty = decide (s.sq.em = 0#32) := by
  by_cases h : s.sq.em = 0#32
  · rw [accesses_none h, decide_eq_true h]
    rfl
  · rw [decide_eq_false h]
    cases uni with
    | true => rw [accesses_uniform h]; rfl
    | false =>
      obtain ⟨l, hl⟩ := exists_lane h
      rw [accesses_varying, List.isEmpty_map, List.isEmpty_eq_false_iff]
      exact List.ne_nil_of_mem (mem_maskList.2 hl)

/-! ## One check over the accesses of a word (R140, R199) -/

/-- The lanes on whose behalf a word makes an access: the lowest of EM alone for a U join, and else every lane of EM. -/
def AccessLane (em : Mask) (uni : Bool) (l : Nat) : Prop := if uni then IsLowest em l else em.getLsbD l = true

/-- What a check of R199 comes to: nothing where no access fails it, and else the report of the lowest lane that does. -/
structure Decides (em : Mask) (uni : Bool) (addr : Nat → Nat) (c : Check) (r : Option Report) : Prop where
  passes : (∀ l, AccessLane em uni l → ¬ c.bad (addr l)) → r = none
  fails : ∀ l m, AccessLane em uni l → c.bad (addr l) → (∀ k, k < l → AccessLane em uni k → ¬ c.bad (addr k)) →
    (∀ k, k < 32 → (m.getLsbD k = true ↔ em.getLsbD k = true ∧ (uni = true ∨ c.bad (addr k)))) →
    r = some ⟨c.cause, c.info0 l (addr l), c.info1 l (addr l), m⟩

theorem mask_ext {m m' : Mask} {P : Nat → Prop} (h : ∀ k, k < 32 → (m.getLsbD k = true ↔ P k))
    (h' : ∀ k, k < 32 → (m'.getLsbD k = true ↔ P k)) : m = m' :=
  BitVec.eq_of_getLsbD_eq fun k hk => Bool.eq_iff_iff.2 ((h k hk).trans (h' k hk).symm)

variable {c : Check} {bad : Nat → Bool} {cause : BitVec 8} {f : Nat → Nat → DWord × DWord}

theorem checkLanes_uniform (hbad : ∀ va, bad va = true ↔ c.bad va) (hcause : cause = c.cause)
    (hinfo : ∀ l va, c.bad va → f l va = (c.info0 l va, c.info1 l va)) :
    Decides s.sq.em true addr c (checkLanes true s.sq.em (accesses true addr s) bad cause f) where
  passes h := by
    by_cases hem : s.sq.em = 0#32
    · rw [accesses_none hem]
      rfl
    · have hgood : bad (addr (lowest s.sq.em)) = false := Bool.eq_false_iff.2 fun hb => h _ (isLowest_lowest hem) ((hbad _).1 hb)
      simp only [accesses_uniform hem, checkLanes, List.filter, hgood]
  fails l m hl hb _ hm := by
    have hlow : IsLowest s.sq.em l := hl
    have hem : s.sq.em ≠ 0#32 := fun h => by rw [h] at hlow; cases hlow.1.symm.trans BitVec.getLsbD_zero
    have hmask : s.sq.em = m := mask_ext (fun _ _ => Iff.rfl) fun k hk => (hm k hk).trans (by simp)
    rw [accesses_uniform hem, lowest_eq hlow, checkLanes]
    simp only [List.filter, (hbad _).2 hb, hinfo l _ hb, hcause, if_true, hmask]

theorem checkLanes_varying (hbad : ∀ va, bad va = true ↔ c.bad va) (hcause : cause = c.cause)
    (hinfo : ∀ l va, c.bad va → f l va = (c.info0 l va, c.info1 l va)) :
    Decides s.sq.em false addr c (checkLanes false s.sq.em (accesses false addr s) bad cause f) := by
  have hfilter : (accesses false addr s).filter (fun a => bad a.2) =
      ((Mask.list s.sq.em).filter fun l => bad (addr l)).map fun l => (l, addr l) := by
    rw [accesses_varying, List.filter_map]
    rfl
  refine ⟨fun h => ?passes, fun l m hl hb hmin hm => ?fails⟩
  case passes =>
    rw [checkLanes, hfilter, no_faulting_lanes]
    · rfl
    · exact fun l hl => Bool.eq_false_iff.2 fun hb => h l hl ((hbad _).1 hb)
  case fails =>
    obtain ⟨l', r, hlist, hl', hb', hmin', hm'⟩ := faulting_lanes s.sq.em (fun l => bad (addr l)) ⟨l, hl, (hbad _).2 hb⟩
    obtain rfl : l' = l := by
      rcases Nat.lt_trichotomy l' l with hlt | heq | hgt
      · exact absurd ((hbad _).1 hb') (hmin l' hlt hl')
      · exact heq
      · exact absurd ⟨hl, (hbad _).2 hb⟩ (hmin' l hgt)
    have hmask : maskOfList (l' :: r) = m := mask_ext hm' fun k hk => (hm k hk).trans (by simp [hbad])
    rw [checkLanes, hfilter, hlist]
    simp only [List.map_cons, List.map_map, Function.comp_def, List.map_id', hinfo l' _ hb, hcause, Bool.false_eq_true, if_false, hmask]

theorem checkLanes_decides (uni : Bool) (hbad : ∀ va, bad va = true ↔ c.bad va) (hcause : cause = c.cause)
    (hinfo : ∀ l va, c.bad va → f l va = (c.info0 l va, c.info1 l va)) :
    Decides s.sq.em uni addr c (checkLanes uni s.sq.em (accesses uni addr s) bad cause f) :=
  match uni with
  | true => checkLanes_uniform hbad hcause hinfo
  | false => checkLanes_varying hbad hcause hinfo

/-! ## Checks in their order (R199) -/

theorem firstOf_none_cons (l : List (Option Report)) : firstOf (none :: l) = firstOf l := rfl

theorem firstOf_passes {em : Mask} {cs : List Check} {rs : List (Option Report)} (h : List.Forall₂ (Decides em uni addr) cs rs)
    (hp : ∀ c ∈ cs, ∀ l, AccessLane em uni l → ¬ c.bad (addr l)) : firstOf rs = none := by
  induction h with
  | nil => rfl
  | cons hd _ ih =>
    rw [hd.passes (hp _ List.mem_cons_self), firstOf_none_cons]
    exact ih fun c hc => hp c (List.mem_cons_of_mem _ hc)

/-- Of several checks the first that an access fails reports. -/
theorem firstOf_fails {em : Mask} {pre post : List Check} {rs : List (Option Report)}
    (h : List.Forall₂ (Decides em uni addr) (pre ++ c :: post) rs) (hpre : ∀ x ∈ pre, ∀ l, AccessLane em uni l → ¬ x.bad (addr l))
    {l : Nat} {m : Mask} (hl : AccessLane em uni l) (hb : c.bad (addr l)) (hmin : ∀ k, k < l → AccessLane em uni k → ¬ c.bad (addr k))
    (hm : ∀ k, k < 32 → (m.getLsbD k = true ↔ em.getLsbD k = true ∧ (uni = true ∨ c.bad (addr k)))) :
    firstOf rs = some ⟨c.cause, c.info0 l (addr l), c.info1 l (addr l), m⟩ := by
  induction pre generalizing rs with
  | nil =>
    cases h with
    | cons hd _ =>
      rw [hd.fails l m hl hb hmin hm]
      rfl
  | cons x pre ih =>
    cases h with
    | cons hd ht =>
      rw [hd.passes (hpre x List.mem_cons_self), firstOf_none_cons]
      exact ih ht fun y hy => hpre y (List.mem_cons_of_mem _ hy)

/-! ## The checks of memory and of scratch -/

theorem kind_eq (k : AccKind) : k.kind = if k = .read then 0#64 else 1#64 := by cases k <;> rfl

theorem not_inLease_iff (leases : List (Nat × Nat)) (va n : Nat) : (!inLease leases va n) = true ↔
    ∃ j, j < n ∧ ∀ r ∈ leases, va + j < r.1 ∨ r.1 + r.2 ≤ va + j := by
  have hspan : ∀ (n a x : Nat), x ∈ span a n ↔ ∃ j, j < n ∧ x = a + j := by
    intro n
    induction n with
    | zero => simp [span]
    | succ n ih =>
      intro a x
      rw [span, List.mem_cons, ih]
      constructor
      · rintro (rfl | ⟨j, hj, rfl⟩)
        · exact ⟨0, by omega, rfl⟩
        · exact ⟨j + 1, by omega, by omega⟩
      · rintro ⟨j, hj, rfl⟩
        cases j with
        | zero => exact .inl rfl
        | succ j => exact .inr ⟨j, by omega, by omega⟩
  simp only [inLease, Bool.not_eq_true', List.all_eq_false, hspan, Bool.not_eq_true, List.any_eq_false, Bool.and_eq_true,
    decide_eq_true_eq, not_and, Nat.not_lt]
  constructor
  · rintro ⟨_, ⟨j, hj, rfl⟩, h⟩
    exact ⟨j, hj, fun r hr => by have := h r hr; omega⟩
  · rintro ⟨j, hj, h⟩
    exact ⟨_, ⟨j, hj, rfl⟩, fun r hr hle => by have := h r hr; omega⟩

/-- What a page lacks, and the KIND of the fault (R356, R393). -/
theorem permFault_iff (s : State) (k : AccKind) (va : Nat) :
    ((permFault s s.core.id s.launch.asid k va).isSome = true ↔ Lacks s k va)
      ∧ (Lacks s k va → permFault s s.core.id s.launch.asid k va = some (lacksKind s k va)) := by
  unfold permFault Lacks lacksKind
  cases translate s s.core.id s.launch.asid va with
  | none => cases k <;> simp [AccKind.kind]
  | some l =>
    have hdown : (∃ p, peerPort s (physOf l va) = some p ∧ portUp s p = false) ↔ reachable s (physOf l va) = false := by
      unfold reachable
      cases peerPort s (physOf l va) <;> simp
    simp only [hdown]
    cases k <;> cases leafR l.1 <;> cases leafW l.1 <;> cases reachable s (physOf l va) <;> simp

theorem lock_entry (o : Option RangeLock) :
    (o.map fun r => BitVec.ofNat 64 r.entry).getD 0#64 = BitVec.ofNat 64 ((o.map (·.entry)).getD 0) := by
  cases o <;> rfl

theorem memChecks_decide (s : State) (k : AccKind) (uni : Bool) (n : Nat) (addr : Nat → Nat) :
    ∃ rs, memChecks s k uni s.sq.em n n (accesses uni addr s) = firstOf rs
      ∧ List.Forall₂ (Decides s.sq.em uni addr) (memoryChecks s k n) rs := by
  refine ⟨_, rfl, .cons ?align (.cons ?high (.cons ?lease (.cons ?page (.cons ?lock .nil))))⟩
  case align => exact checkLanes_decides uni (fun _ => bne_iff_ne) rfl fun _ _ _ => rfl
  case high => exact checkLanes_decides uni (fun _ => decide_eq_true_iff) rfl fun _ _ _ => by rw [kind_eq]
  case lease => exact checkLanes_decides uni (fun va => not_inLease_iff _ va n) rfl fun _ _ _ => by rw [kind_eq]
  case page =>
    exact checkLanes_decides uni (fun va => (permFault_iff s k va).1) rfl fun _ va h => by rw [(permFault_iff s k va).2 h]; rfl
  case lock => exact checkLanes_decides uni (fun va => Option.isSome_iff_ne_none) rfl fun _ va _ => by rw [lock_entry]

theorem scratchChecks_decide (s : State) (k : AccKind) (uni : Bool) (n : Nat) (addr : Nat → Nat) :
    ∃ rs, scratchChecks s k uni s.sq.em n (accesses uni addr s) = firstOf rs
      ∧ List.Forall₂ (Decides s.sq.em uni addr) (teamScratchChecks s k n) rs := by
  refine ⟨_, rfl, .cons ?align (.cons ?bound (.cons ?lock .nil))⟩
  case align => exact checkLanes_decides uni (fun _ => bne_iff_ne) rfl fun _ _ _ => rfl
  case bound => exact checkLanes_decides uni (fun _ => decide_eq_true_iff) rfl fun _ _ _ => rfl
  case lock => exact checkLanes_decides uni (fun va => Option.isSome_iff_ne_none) rfl fun _ va _ => by rw [lock_entry]

/-! ## Words that trap by their checks -/

theorem AccessLane.em_ne_zero {em : Mask} {l : Nat} (h : AccessLane em uni l) : em ≠ 0#32 := by
  have hl : em.getLsbD l = true := by
    cases uni with
    | true => exact h.1
    | false => exact h
  rintro rfl
  cases hl.symm.trans BitVec.getLsbD_zero

/-- A word whose checks are those of a list, and which traps by what they report. -/
theorem checks_decide_word {i : Instr} {cs : List Check} {r : Option Report} (hr : ∃ rs, r = firstOf rs ∧ List.Forall₂ (Decides s.sq.em uni addr) cs rs)
    (ht : s.sq.em ≠ 0#32 → ∀ x, r = some x → Traps i s x) : TrapsFirst i s uni addr cs ∧ (PassesAll s uni addr cs → r = none) := by
  obtain ⟨rs, rfl, hd⟩ := hr
  refine ⟨fun pre c post l m hcs hpre hl hb hmin hm => ?_, firstOf_passes hd⟩
  subst hcs
  exact ht (AccessLane.em_ne_zero (uni := uni) hl) _ (firstOf_fails hd hpre hl hb hmin hm)

variable {i : Instr} {own : State → WordOut} {u : State → State} {x : Report}

theorem faultOr_trap {r : Option Report} (h : ReadyFor i s) (he : exec i s = issueWord i own s) (ho : own s = faultOr r u)
    (hx : r = some x) : Traps i s x :=
  trap_completes h he (ho.trans (congrArg (faultOr · u) hx))

/-! ## Atomics outside DET launches, and their turns inside (R198, R212, R345) -/

variable {det : Option Report} {b : Opnd} {z g : BitVec 2} {opn : BitVec 4} {cas : Nat → Option DWord} {y : Nat → DWord}
  {regs : List Opnd}

theorem atomicWord_empty (h : s.sq.em = 0#32) : atomicWord det uni b z g opn cas y regs s = .done id := by
  simp only [atomicWord, isEmpty_accesses, h, decide_true, if_true]

theorem atomicWord_violation (h : s.sq.em ≠ 0#32) : atomicWord (some x) uni b z g opn cas y regs s = .trap x := by
  simp only [atomicWord, isEmpty_accesses, h, decide_false, Bool.false_eq_true, if_false]

theorem atomicWord_turn (h : s.sq.em ≠ 0#32) (ht : turnHeld (g == 0#2) s = true) :
    atomicWord none uni b z g opn cas y regs s = .wait .turn := by
  simp only [atomicWord, isEmpty_accesses, h, decide_false, Bool.false_eq_true, if_false, ht, if_true]

/-- The queue entries of an atomic, one for each access. -/
def atomicKinds (g : BitVec 2) (n : Nat) (opn : BitVec 4) (cas : Nat → Option DWord) (y : Nat → DWord) (ret : Bool)
    (acc : List (Nat × Nat)) : List SKind :=
  acc.map fun a => .atomic a.1 a.2 (scopeOf g) n opn (cas a.1) (y a.1) ret

/-- An atomic that has its turn: its checks, then its entries, and a producer where it returns a value. -/
theorem atomicWord_checked (h : s.sq.em ≠ 0#32) (ht : turnHeld (g == 0#2) s = false) :
    atomicWord none uni b z g opn cas y regs s =
      let acc := accesses uni (memAddr s b 0#6 z) s
      let ks := atomicKinds g (memBytes z) opn cas y (!regs.isEmpty) acc
      faultOr (memChecks s .atomic uni s.sq.em (memBytes z) (memBytes z) acc) fun t =>
        countAccesses t.core.id t.launch.asid (acc.map (·.2)) (if regs.isEmpty then enqueue ks t
          else (addProd (.atomic z uni) regs t).onSq fun q => { q with storeq := q.storeq ++ ks.map fun k => ⟨t.sq.seq, k⟩ }) := by
  simp only [atomicWord, isEmpty_accesses, h, decide_false, Bool.false_eq_true, if_false, ht]
  rfl

theorem turnHeld_free (team : Bool) (h : s.launch.lr.det = false) : turnHeld team s = false := by
  rw [turnHeld, h, Bool.false_and]

theorem detViolation_none {i : Instr} (h : s.launch.lr.det = true → g = 0#2) : detViolation i g s = none := by
  cases hd : s.launch.lr.det with
  | false => simp [detViolation, hd]
  | true => simp [detViolation, hd, h hd]

theorem ownAmor_eq (c : Bool) (d b : Opnd) (z : BitVec 2) (e : Bool) (p : BitVec 4) (h : s.launch.lr.det = true → g = 0#2) :
    ownAmor c d b z e p g s = atomicWord none (uJoin d b) b z g p (fun _ => none) (datum s d z) (wide z d) s := by
  rw [ownAmor, detViolation_none h]

theorem ownCas_eq (c : Bool) (d b : Opnd) (z : BitVec 2) (e : Bool) (h : s.launch.lr.det = true → g = 0#2) : ownCas c d b z e g s =
    atomicWord none d.isS b z g 8#4 (fun l => some (casExpected d z s l)) (casNew d z s) (wide z d) s := by
  rw [ownCas, detViolation_none h]

theorem atomic_checks_trap (h : ReadyFor i s) (hd : s.launch.lr.det = false) (he : exec i s = issueWord i own s)
    (ho : own s = atomicWord none uni b z g opn cas y regs s) (hem : s.sq.em ≠ 0#32)
    (hx : memChecks s .atomic uni s.sq.em (memBytes z) (memBytes z) (accesses uni (memAddr s b 0#6 z) s) = some x) :
    Traps i s x :=
  faultOr_trap h he (ho.trans (atomicWord_checked hem (turnHeld_free _ hd))) hx

end

/-- Settles O27: each word traps by what its checks report, and the checks report as R199 says. -/
theorem accessChecks : Obligations.AccessChecks := by
  unfold Obligations.AccessChecks
  refine ⟨fun c d b z o e n m p g s i k uni hi h => checks_decide_word (memChecks_decide s k uni (memBytes z) (memAddr s b m z)) ?memory,
    fun c d b z e n s i k uni hi h => checks_decide_word (scratchChecks_decide s k uni (memBytes z) (memAddr s b n z)) ?scratch⟩
  case memory =>
    intro hem x hx
    rcases hi with ⟨rfl, rfl, rfl, rfl⟩ | ⟨rfl, rfl, rfl, rfl⟩ | ⟨rfl, rfl, rfl, rfl⟩ | ⟨rfl, rfl, rfl, rfl, hd⟩ | ⟨rfl, rfl, rfl, rfl, hd⟩
      | ⟨rfl, rfl, rfl, rfl, hd⟩
    · exact faultOr_trap (own := ownLd d b z o m) h rfl rfl hx
    · exact faultOr_trap (own := ownLdsx d b z o m) h rfl rfl hx
    · exact faultOr_trap (own := ownSt d b z m) h rfl rfl hx
    · exact atomic_checks_trap (own := ownAmo d b z p g) h hd rfl rfl hem hx
    · exact atomic_checks_trap (own := ownAmor c d b z e p g) h hd rfl (ownAmor_eq c d b z e p fun hd' => by simp [hd] at hd') hem hx
    · exact atomic_checks_trap (own := ownCas c d b z e g) h hd rfl (ownCas_eq c d b z e fun hd' => by simp [hd] at hd') hem hx
  case scratch =>
    intro _ x hx
    rcases hi with ⟨rfl, rfl, rfl⟩ | ⟨rfl, rfl, rfl⟩
    · exact faultOr_trap (own := ownLdsc d b z n) h rfl rfl hx
    · exact faultOr_trap (own := ownStsc d b z n) h rfl rfl hx

end Sys2Proof.Machine
end

/-! # Stores and atomics join their squad's queue (R198, R200, R204, R206, R209 to R212, R345) -/

section
namespace Sys2Proof.Machine

-- One after the other, as above: the check's memory limit bounds the stacks of parallel elaboration.
set_option Elab.async false

section
variable {s : State} {i : Instr} {own : State → WordOut} {u : State → State} {uni : Bool} {addr : Nat → Nat}

/-! ## Stores -/

theorem faultOr_none {r : Option Report} (u : State → State) (h : r = none) : faultOr r u = .done u := by rw [h]; rfl

/-- A word that makes no access under an empty EM only retires (R198). -/
theorem noAccess_issued (h : ReadyFor i s) (he : exec i s = issueWord i own s) (ho : own s = .done id) : Completes i s (Issued s) :=
  completes_of_done h he ho (issued_retire _ s)

/-- A word that makes its accesses by an update, where its checks pass. -/
theorem accesses_word {r : Option Report} {P : State → Prop} (h : ReadyFor i s) (he : exec i s = issueWord i own s)
    (ho : own s = faultOr r (if (accesses uni addr s).isEmpty then id else u)) (hr : r = none)
    (hP : s.sq.em ≠ 0#32 → P (u (retire 1 (bit31 i) s))) :
    (s.sq.em = 0#32 → Completes i s (Issued s)) ∧ (s.sq.em ≠ 0#32 → Completes i s P) := by
  rw [faultOr_none _ hr, isEmpty_accesses] at ho
  constructor
  · intro hem
    exact noAccess_issued h he (by rw [ho, decide_eq_true hem, if_pos rfl])
  · intro hem
    exact completes_of_done h he (by rw [ho, decide_eq_false hem, if_neg Bool.false_ne_true]) (hP hem)

end

/-- Settles O29: each of the two stores enqueues the cells of its lanes where its checks pass. -/
theorem storeIssue : Obligations.StoreIssue := by
  unfold Obligations.StoreIssue
  intro c d b z e n s acc cells
  refine ⟨fun h hc => ?memory, fun h hc => ?scratch⟩
  case memory =>
    exact accesses_word (own := ownSt d b z n) h rfl rfl hc fun _ =>
      ⟨retire 1 (bit31 (.st c d b z e n)) s, _, issued_retire _ s, countAccesses_counted _ _ _ _, rfl⟩
  case scratch =>
    exact accesses_word (own := ownStsc d b z n) h rfl rfl hc fun _ =>
      ⟨retire 1 (bit31 (.stsc c d b z e n)) s, issued_retire _ s, rfl⟩

section
variable {s : State}

/-! ## The turn of a DET launch (R345) -/

/-- A counted squad of the launch, or at team scope of the team, that stands before the current one holds the turn. -/
theorem turnHeld_of_before {team : Bool} {q : Squad} (hdet : s.launch.lr.det = true) (hq : q ∈ s.allSquads)
    (hlid : q.key.lid = s.sq.key.lid) (hne : q.key ≠ s.sq.key) (hteam : team = true → q.key.team = s.sq.key.team)
    (hst : q.status = .live ∨ q.status = .retiring) (hun : uncounted s q = false)
    (hbefore : q.lclk.toNat < s.sq.lclk.toNat ∨ (q.lclk = s.sq.lclk ∧ (q.key.tmid < s.sq.key.tmid
      ∨ (q.key.tmid = s.sq.key.tmid ∧ q.key.sqid ≤ s.sq.key.sqid)))) : turnHeld team s = true := by
  have hnot : myTurn team s = false := by
    refine List.all_eq_false.2 ⟨q, List.mem_filter.2 ⟨hq, ?_⟩, ?_⟩
    · have ht : (!team || q.key.team == s.sq.key.team) = true := by
        cases team with
        | false => rfl
        | true => simp [hteam rfl]
      simp [hlid, hne, ht, hst, hun]
    · simp only [Bool.or_eq_true, Bool.and_eq_true, decide_eq_true_eq, beq_iff_eq, not_or, not_and, Nat.not_lt]
      rcases hbefore with h | ⟨hl, h | ⟨ht, hs⟩⟩
      · exact ⟨by omega, fun he => by rw [he] at h; omega⟩
      · exact ⟨by rw [hl], fun _ => ⟨by omega, fun he => by omega⟩⟩
      · exact ⟨by rw [hl], fun _ => ⟨by omega, fun _ => hs⟩⟩
  simp [turnHeld, hdet, hnot]

/-! ## Atomics -/

variable {g : BitVec 2}

theorem detViolation_some {i : Instr} {w : Word} (hw : encode i = [w]) (hdet : s.launch.lr.det = true) (hg : g ≠ 0#2) :
    detViolation i g s = some ⟨0x11#8, w.setWidth 64, 0#64, s.sq.em⟩ := by
  simp [detViolation, hw, hdet, hg]

/-- Of the three atomics, those that return a value meet the check of R212; each is `atomicWord` under that check. -/
theorem atomic_own {c : Bool} {d b : Opnd} {z : BitVec 2} {e : Bool} {p : BitVec 4} {i : Instr}
    (hi : i = .amo c d b z e p g ∨ i = .amor c d b z e p g ∨ i = .cas c d b z e g) (s : State) :
    ∃ own w, exec i s = issueWord i own s ∧ encode i = [w]
      ∧ ∃ uni opn cas y regs, own s = atomicWord (if i = .amo c d b z e p g then none else detViolation i g s) uni b z g opn cas y regs s := by
  rcases hi with rfl | rfl | rfl
  · exact ⟨ownAmo d b z p g, _, rfl, rfl, _, _, _, _, _, by rw [if_pos rfl]; rfl⟩
  · exact ⟨ownAmor c d b z e p g, _, rfl, rfl, _, _, _, _, _, by rw [if_neg nofun]; rfl⟩
  · exact ⟨ownCas c d b z e g, _, rfl, rfl, _, _, _, _, _, by rw [if_neg nofun]; rfl⟩

/-- The registers that a producer will write are empty, and the squad's others keep their bits. -/
theorem isFull_foldl_setFE (regs : List Opnd) (hreg : ∀ o ∈ regs, o.isReg = true) (q : Squad) (o : Opnd) :
    (regs.foldl (fun q o => q.setFE o false) q).isFull o = (q.isFull o && !decide (o ∈ regs)) := by
  induction regs generalizing q with
  | nil => simp
  | cons r rs ih =>
    rw [List.foldl_cons, ih fun x hx => hreg x (List.mem_cons_of_mem _ hx), isFull_setFE _ _ _ _ (hreg r List.mem_cons_self)]
    by_cases h : o = r <;> simp [h]

theorem wide_isReg {z : BitVec 2} {d : Opnd} (h : d.isReg = true) : ∀ o ∈ wide z d, o.isReg = true := by
  intro o ho
  cases d with
  | v n =>
    simp only [wide, Opnd.pair, Opnd.isV, if_true] at ho
    split at ho
    · rcases List.mem_cons.1 ho with rfl | ho
      · rfl
      · rw [List.mem_singleton.1 ho]; rfl
    · rw [List.mem_singleton.1 ho]; rfl
  | _ =>
    simp only [wide, Opnd.pair, Opnd.isV, Bool.false_eq_true, if_false, ite_self] at ho
    rw [List.mem_singleton.1 ho]
    exact h

theorem wide_ne_nil (z : BitVec 2) (d : Opnd) : (wide z d).isEmpty = false := by
  unfold wide Opnd.pair
  split
  · split <;> rfl
  · rfl

theorem Counted.sq {r t : State} (h : Counted r t) : t.sq = r.sq := by rw [h.outside]

/-- The entries of an atomic in its squad's queue, under its place of program order. -/
def atomicEntries (seq : Nat) (g : BitVec 2) (n : Nat) (opn : BitVec 4) (cas : Nat → Option DWord) (y : Nat → DWord) (ret : Bool)
    (acc : List (Nat × Nat)) : List SEntry :=
  acc.map fun a => ⟨seq, .atomic a.1 a.2 (scopeOf g) n opn (cas a.1) (y a.1) ret⟩

theorem map_atomicKinds (seq : Nat) (g : BitVec 2) (n : Nat) (opn : BitVec 4) (cas : Nat → Option DWord) (y : Nat → DWord) (ret : Bool)
    (acc : List (Nat × Nat)) : (atomicKinds g n opn cas y ret acc).map (fun k => (⟨seq, k⟩ : SEntry)) = atomicEntries seq g n opn cas y ret acc :=
  List.map_map

variable {i : Instr} {own : State → WordOut} {uni : Bool} {b d : Opnd} {z : BitVec 2} {opn : BitVec 4} {cas : Nat → Option DWord}
  {y : Nat → DWord}

/-- The state of a word that returns values, before its accesses are counted. -/
def State.returning (uni : Bool) (z : BitVec 2) (d : Opnd) (es : List SEntry) (r : State) : State :=
  (addProd (.atomic z uni) (wide z d) r).onSq fun q => { q with storeq := q.storeq ++ es }

theorem returning_empties (hd : d.isReg = true) (es : List SEntry) (r : State) {o : Opnd} (ho : o ∈ wide z d) :
    (r.returning uni z d es).sq.isFull o = false := by
  have hfull := isFull_foldl_setFE (wide z d) (wide_isReg hd) r.sq o
  rw [decide_eq_true ho, Bool.not_true, Bool.and_false] at hfull
  cases o <;> exact hfull

/-- A word that returns values, behind its checks: its entries in the queue, and its registers empty. -/
theorem returning_completes (h : ReadyFor i s) (he : exec i s = issueWord i own s) (hd : d.isReg = true)
    (ho : own s = atomicWord none uni b z g opn cas y (wide z d) s) (hem : s.sq.em ≠ 0#32) (ht : turnHeld (g == 0#2) s = false)
    (hc : memChecks s .atomic uni s.sq.em (memBytes z) (memBytes z) (accesses uni (memAddr s b 0#6 z) s) = none) :
    Completes i s fun t => ∃ r, Issued s r ∧ Counted (r.returning uni z d
        (atomicEntries s.sq.seq g (memBytes z) opn cas y true (accesses uni (memAddr s b 0#6 z) s))) t
      ∧ ∀ o ∈ wide z d, t.sq.isFull o = false := by
  rw [atomicWord_checked hem ht] at ho
  simp only [wide_ne_nil, Bool.false_eq_true, if_false, Bool.not_false, map_atomicKinds] at ho
  have hcnt := countAccesses_counted s.core.id s.launch.asid ((accesses uni (memAddr s b 0#6 z) s).map (·.2))
    ((retire 1 (bit31 i) s).returning uni z d (atomicEntries s.sq.seq g (memBytes z) opn cas y true (accesses uni (memAddr s b 0#6 z) s)))
  refine completes_of_done h he (ho.trans (faultOr_none _ hc)) ⟨retire 1 (bit31 i) s, issued_retire _ s, hcnt, fun o hoo => ?_⟩
  exact (congrArg (Squad.isFull · o) hcnt.sq).trans (returning_empties hd _ _ hoo)

/-- A word that returns nothing, behind its checks. -/
theorem nonReturning_completes (h : ReadyFor i s) (he : exec i s = issueWord i own s)
    (ho : own s = atomicWord none uni b z g opn cas y [] s) (hem : s.sq.em ≠ 0#32) (ht : turnHeld (g == 0#2) s = false)
    (hc : memChecks s .atomic uni s.sq.em (memBytes z) (memBytes z) (accesses uni (memAddr s b 0#6 z) s) = none) :
    Completes i s fun t => ∃ r, Issued s r ∧ Counted { r with sq := { r.sq with
      storeq := r.sq.storeq ++ atomicEntries s.sq.seq g (memBytes z) opn cas y false (accesses uni (memAddr s b 0#6 z) s)
      seq := s.sq.seq + 1 } } t := by
  rw [atomicWord_checked hem ht] at ho
  simp only [List.isEmpty_nil, if_true, Bool.not_true, enqueue, map_atomicKinds] at ho
  exact completes_of_done h he (ho.trans (faultOr_none _ hc)) ⟨retire 1 (bit31 i) s, issued_retire _ s, countAccesses_counted _ _ _ _⟩

/-- AMOR and CAS write registers. -/
theorem amor_dst {c e : Bool} {p : BitVec 4} (h : (Instr.amor c d b z e p g).wf = true) : d.isReg = true := by
  have h : amorForm d b z = true := (Bool.and_eq_true_iff.1 h).1
  cases d <;> simp_all [amorForm, Opnd.isReg, Opnd.isS, Opnd.isV, Opnd.isEven]

theorem cas_dst {c e : Bool} (h : (Instr.cas c d b z e g).wf = true) : d.isReg = true := by
  have h : casForm d b z = true := h
  cases d <;> simp_all [casForm, Opnd.isReg]

end

/-- Settles O31: the three atomics are `atomicWord`, whose outcomes the lemmas above state in its order. -/
theorem atomicIssue : Obligations.AtomicIssue := by
  unfold Obligations.AtomicIssue
  intro c d b z e p g s det
  refine ⟨fun i hi h => ?_, fun hem ht => ⟨?amo, ?cas⟩⟩
  · obtain ⟨own, w, he, hw, uni, opn, cas, y, regs, ho⟩ := atomic_own hi s
    refine ⟨fun hem => ?empty, fun hem hdet hg hne => ⟨w, hw, ?violation⟩, fun q hq hem hdet hret hlid hkey hteam hst hun hb => ?turn⟩
    case empty => exact noAccess_issued h he (ho.trans (atomicWord_empty hem))
    case violation =>
      rw [if_neg hne, detViolation_some hw hdet hg] at ho
      exact trap_completes h he (ho.trans (atomicWord_violation hem))
    case turn =>
      have hnone : (if i = .amo c d b z e p g then none else detViolation i g s) = none := by
        rcases hret with hg | hamo
        · rw [detViolation_none fun _ => hg, ite_self]
        · exact if_pos hamo
      rw [hnone] at ho
      refine waits_of_wait h he (ho.trans (atomicWord_turn hem (turnHeld_of_before hdet hq hlid hkey (fun hg => hteam ?_) hst hun hb)))
      exact beq_iff_eq.1 hg
  case amo =>
    intro acc hacc hc ks
    subst hacc
    exact ⟨fun h => nonReturning_completes (own := ownAmo d b z p g) h rfl rfl hem ht hc,
      fun h hdet => returning_completes (own := ownAmor c d b z e p g) h rfl (amor_dst h.wf) (ownAmor_eq c d b z e p hdet) hem ht hc⟩
  case cas =>
    intro acc hacc hc ks
    subst hacc
    exact fun h hdet => returning_completes (own := ownCas c d b z e g) h rfl (cas_dst h.wf) (ownCas_eq c d b z e hdet) hem ht hc

end Sys2Proof.Machine
end

/-! # Shoes (R217 to R221, R225, R234, R247) -/

section
namespace Sys2Proof.Machine

-- One after the other, as above: the check's memory limit bounds the stacks of parallel elaboration.
set_option Elab.async false

section
variable {s : State}

/-! ## What stays in a squad when its fences are settled (R213, R234) -/

theorem findSq_cur (h : s.sq.status ≠ .absent) : s.findSq s.sq.key = some s.sq := by
  simp [State.findSq, State.allSquads, h]

/-- A fence of the current squad whose acquire still waits stays. -/
theorem fence_stays {f : FenceRec} (hst : s.sq.status ≠ .absent) (hk : f.k = s.sq.key) (hf : f ∈ s.sq.fences)
    (hw : acquireWaits s.sq f = true) : f ∈ (settle s).sq.fences := by
  refine List.mem_filterMap.2 ⟨(f, false), List.mem_map.2 ⟨f, hf, ?_⟩, rfl⟩
  rw [fenceState, hk, getSq_of_find (findSq_cur hst), hw, Bool.true_or, if_pos rfl]

/-- A producer stays, other than the guard of a load. -/
theorem prod_stays {p : Prod} (hp : p ∈ s.sq.prods) (hk : ∀ sc bs, p.kind ≠ .done sc bs) : p ∈ (settle s).sq.prods := by
  refine List.mem_filter.2 ⟨hp, ?_⟩
  split
  · exact absurd ‹_› (hk _ _)
  · rfl

theorem BytesKept.settle {t : State} (h : BytesKept s t) : BytesKept s (settle t) := by
  rw [settle_outside]
  exact h

/-! ## What a shoe word names (R217, R221) -/

variable {d a b : Opnd} {n : Fin 16} {c m : Bool}

theorem shoeIndex (x : DWord) : (x.extractLsb' 0 4).toNat = x.toNat % 16 := by simp

theorem shoeIndex_named (h : namesShoe (uval s a) n s) : ((uval s a).extractLsb' 0 4).toNat = n.val := by
  obtain ⟨hx, -, -⟩ := h
  have := n.isLt
  rw [shoeIndex, hx, BitVec.toNat_ofNat]
  omega

theorem shoeMisuse_iff (x : DWord) (s : State) : shoeMisuse x s = true ↔
    16 ≤ x.toNat ∨ s.team.shoeMask.getLsbD (x.toNat % 16) = false ∨ (vget s.team.shoes (x.toNat % 16)).nslot = 0 := by
  have hhigh : x.extractLsb' 4 60 = 0#60 ↔ ¬ 16 ≤ x.toNat := by
    rw [BitVec.toNat_inj.symm]
    simp only [BitVec.extractLsb'_toNat, Nat.shiftRight_eq_div_pow, BitVec.toNat_ofNat, Nat.zero_mod]
    have := x.isLt
    omega
  simp only [shoeMisuse, shoeIndex, Bool.or_eq_true, Bool.not_eq_true', bne_iff_ne, ne_eq, beq_iff_eq, hhigh, not_not, or_assoc]

theorem not_misused (h : namesShoe (uval s a) n s) : shoeMisuse (uval s a) s = false := by
  have hk := shoeIndex_named h
  obtain ⟨hx, hm, hs⟩ := h
  rw [shoeIndex] at hk
  have hlt : (uval s a).toNat < 16 := by
    have := n.isLt
    rw [hx, BitVec.toNat_ofNat]
    omega
  rw [Bool.eq_false_iff]
  intro hmis
  rcases (shoeMisuse_iff _ s).1 hmis with h | h | h
  · omega
  · rw [hk, hm] at h
    cases h
  · exact hs (hk ▸ h)

theorem shoeReport_eq (x : DWord) (s : State) : shoeReport x s = ⟨0x18#8, BitVec.ofNat 64 (x.toNat % 16), 0#64, s.sq.em⟩ := by
  rw [shoeReport]
  congr 1
  apply BitVec.eq_of_toNat_eq
  rw [BitVec.toNat_setWidth, shoeIndex, BitVec.toNat_ofNat]

/-! ## SHTAKE (R218, R234, R247) -/

/-- The acquire of a take: a producer's waits for its own service, a consumer's for the earlier loads, the take among them. -/
def takeRecord (m : Bool) (k : SquadKey) (seq : Nat) : FenceRec := ⟨k, seq, true, false, false, false, m, .team, none, none⟩

/-- A take has joined its side's order, with the acquire that follows it, and waits to be served. -/
def State.taking (n : Nat) (d : Opnd) (m : Bool) (t : State) : State :=
  let u := setShoeState n (queueTake m t.sq.key t.sq.seq) (addProd (.take (BitVec.ofNat 4 n) m) [d] t)
  { u with
    core := { u.core with ahead := u.core.ahead.filter (·.k != t.sq.key) }
    sq := { u.sq with fences := u.sq.fences ++ [takeRecord m t.sq.key (t.sq.seq + 1)], seq := t.sq.seq + 2 } }

theorem ownShtake_named {k : Fin 32} (h : namesShoe (uval s a) n s) (hb : m = true → shoeBusy s s.team.key n.val = false) :
    ownShtake (.s k) a m s = .done fun t => settle (t.taking n.val (.s k) m) := by
  have hno : (shoeMisuse (uval s a) s || (m && shoeBusy s s.team.key n.val)) = false := by
    cases m with
    | false => rw [not_misused h]; rfl
    | true => rw [not_misused h, hb rfl]; rfl
  simp only [ownShtake, shoeIndex_named h, hno, Bool.false_eq_true, if_false]
  congr 1
  funext t
  cases m with
  | false => exact pushFence_eq (takeRecord false t.sq.key (t.sq.seq + 1)) _
  | true => exact pushFence_eq (takeRecord true t.sq.key (t.sq.seq + 1)) _

/-- The acquire of a take that has just issued waits. -/
theorem acquireWaits_taking (n : Nat) (d : Opnd) (m : Bool) (t : State) :
    acquireWaits (t.taking n d m).sq (takeRecord m t.sq.key (t.sq.seq + 1)) = true := by
  have hprods : (t.taking n d m).sq.prods = t.sq.prods ++ [⟨t.sq.seq, .take (BitVec.ofNat 4 n) m, [d], [], 0⟩] := rfl
  cases m <;> simp [acquireWaits, takeRecord, hprods, ProdKind.orders]

theorem isFull_taking (k : Fin 32) (n : Nat) (m : Bool) (t : State) (o : Opnd) :
    (settle (t.taking n (.s k) m)).sq.isFull o = if o = .s k then false else t.sq.isFull o := by
  rw [← isFull_setFE t.sq (.s k) o false rfl]
  cases o <;> rfl

theorem val_taking (k : Fin 32) (n : Nat) (m : Bool) (t : State) {o : Opnd} (ho : o.isReg = true) (l : Nat) :
    val (settle (t.taking n (.s k) m)) o l = val t o l := by
  cases o with
  | v | s | a | p => rfl
  | _ => cases ho

theorem bytesKept_taking (n : Nat) (d : Opnd) (m : Bool) (t : State) : BytesKept t (t.taking n d m) := by
  unfold State.taking
  exact BytesKept.same

theorem eq_s_of_isS {d : Opnd} (h : d.isS = true) : ∃ k, d = .s k := by
  cases d <;> first | exact ⟨_, rfl⟩ | cases h

theorem shtake_completes (h : ReadyFor (.shtake c d a m) s) (hn : namesShoe (uval s a) n s)
    (hb : m = true → shoeBusy s s.team.key n.val = false) : Completes (.shtake c d a m) s fun t => Retired s t
      ∧ t.sq.isFull d = false ∧ (∀ o, o ≠ d → t.sq.isFull o = s.sq.isFull o) ∧ (∀ o, o.isReg = true → ∀ l, val t o l = val s o l)
      ∧ (∃ p ∈ t.sq.prods, p.seq = s.sq.seq ∧ p.regs = [d] ∧ p.kind = .take (BitVec.ofNat 4 n.val) m)
      ∧ (s.sq.status ≠ .absent → ∃ f ∈ t.sq.fences, f.seq = s.sq.seq + 1 ∧ f.acq = true ∧ f.scope = .team)
      ∧ t.team = { s.team with shoes := vset s.team.shoes n.val (queueTake m s.sq.key s.sq.seq (vget s.team.shoes n.val)) }
      ∧ BytesKept s t := by
  obtain ⟨k, rfl⟩ := eq_s_of_isS (Bool.and_eq_true_iff.1 h.wf).1
  refine completes_of_done (own := ownShtake (.s k) a m) h rfl (ownShtake_named hn hb) ?_
  have hfull := isFull_taking k n.val m (retire 1 (bit31 (.shtake c (.s k) a m)) s)
  obtain ⟨hlclk, hnext⟩ := retired_retire (bit31 (.shtake c (.s k) a m)) s
  refine ⟨?_, ?_, ?_, ?_, ?_, fun hst => ?_, ?_, ?_⟩
  · exact ⟨hlclk, hnext⟩
  · exact (hfull (.s k)).trans (if_pos rfl)
  · exact fun o ho => ((hfull o).trans (if_neg ho)).trans (isFull_retire 1 _ s o)
  · exact fun o ho l => (val_taking k n.val m _ ho l).trans (val_retire 1 _ s o l ho)
  rotate_left 2
  · rfl
  · exact (bytesKept_taking n.val (.s k) m (retire 1 _ s)).settle
  · refine ⟨⟨s.sq.seq, .take (BitVec.ofNat 4 n.val) m, [.s k], [], 0⟩, prod_stays ?_ nofun, rfl, rfl, rfl⟩
    exact List.mem_append_right _ (List.mem_singleton.2 rfl)
  · refine ⟨takeRecord m s.sq.key (s.sq.seq + 1), fence_stays hst rfl ?_ (acquireWaits_taking n.val (.s k) m _), rfl, rfl, rfl⟩
    exact List.mem_append_right _ (List.mem_singleton.2 rfl)

/-! ## SHPUT (R219) -/

/-- What SHPUT refuses: a shoe that it may not name, and a count of 0 or beyond the slots taken (R221). -/
def PutMisused (a b : Opnd) (m : Bool) (s : State) : Prop :=
  let k := (uval s a).toNat % 16
  shoeMisuse (uval s a) s = true ∨ uval s b = 0#64
    ∨ (if m then (vget s.team.shoes k).ptaken else (vget s.team.shoes k).ctaken) < (uval s b).toNat + putsDue k m s
    ∨ (m = true ∧ shoeBusy s s.team.key k = true)

theorem ownShput_misused (h : PutMisused a b m s) : ownShput a b m s = .trap (shoeReport (uval s a) s) := by
  simp only [PutMisused, BitVec.toNat_inj.symm, BitVec.toNat_ofNat, Nat.zero_mod] at h
  simp only [ownShput, shoeIndex, Bool.or_eq_true, Bool.and_eq_true, decide_eq_true_eq, or_assoc, if_pos h]

theorem ownShput_due (h : ¬ PutMisused a b m s) : ownShput a b m s =
    if releasedBefore s.sq s.sq.seq then
      .done fun t => if releasedBefore t.sq t.sq.seq then setShoeState ((uval s a).toNat % 16) (putSlots m (uval s b).toNat) t
        else addLate (.put ((uval s a).toNat % 16) (uval s b).toNat m) t
    else .wait .order := by
  simp only [PutMisused, BitVec.toNat_inj.symm, BitVec.toNat_ofNat, Nat.zero_mod] at h
  simp only [ownShput, shoeIndex, Bool.or_eq_true, Bool.and_eq_true, decide_eq_true_eq, or_assoc, if_neg h]
  cases releasedBefore s.sq s.sq.seq <;> rfl

theorem not_putMisused (hn : namesShoe (uval s a) n s) (hb : uval s b ≠ 0#64)
    (hk : (uval s b).toNat + putsDue n.val m s ≤ (if m then (vget s.team.shoes n.val).ptaken else (vget s.team.shoes n.val).ctaken))
    (hbusy : m = true → shoeBusy s s.team.key n.val = false) : ¬ PutMisused a b m s := by
  have hidx : (uval s a).toNat % 16 = n.val := (shoeIndex _).symm.trans (shoeIndex_named hn)
  simp only [PutMisused, hidx, not_misused hn, Bool.false_eq_true, false_or, not_or, not_and, Nat.not_lt, Bool.not_eq_true]
  exact ⟨hb, hk, hbusy⟩

theorem shput_completes (h : ReadyFor (.shput c a b m) s) (hn : namesShoe (uval s a) n s) (hp : ¬ PutMisused a b m s)
    (hrel : releasedBefore s.sq s.sq.seq = true) : Completes (.shput c a b m) s fun t => ∃ r, Issued s r
      ∧ t = { r with team := { r.team with
          shoes := vset r.team.shoes n.val (putSlots m (uval s b).toNat (vget s.team.shoes n.val)) } } := by
  have hidx : (uval s a).toNat % 16 = n.val := (shoeIndex _).symm.trans (shoeIndex_named hn)
  exact completes_of_done (own := ownShput a b m) h rfl ((ownShput_due hp).trans (if_pos hrel))
    ⟨retire 1 (bit31 (.shput c a b m)) s, issued_retire _ s, by rw [hidx]; exact if_pos hrel⟩

theorem shput_waits (h : ReadyFor (.shput c a b m) s) (hp : ¬ PutMisused a b m s) (hrel : releasedBefore s.sq s.sq.seq = false) :
    exec (.shput c a b m) s = .next (waitHere .order s) :=
  waits_of_wait (own := ownShput a b m) h rfl ((ownShput_due hp).trans (if_neg (Bool.eq_false_iff.1 hrel)))

/-! ## SHQRY (R220) -/

theorem shqry_completes (h : ReadyFor (.shqry c d a) s) (hn : namesShoe (uval s a) n s) :
    Completes (.shqry c d a) s fun t => OnlyRegs [d] s t ∧ UniResult d (shoeReading (vget s.team.shoes n.val)) t := by
  refine completes_of_done (own := ownShqry d a) (u := fun t => t.onSq (·.putU d (shoeReading (vget s.team.shoes n.val)))) h rfl ?_
    (uniform_write h.parity h.poison _ (Bool.and_eq_true_iff.1 h.wf).1 _)
  simp only [ownShqry, not_misused hn, Bool.false_eq_true, if_false, shoeIndex_named hn]

/-! ## Misuse (R221) -/

theorem shtake_misused (h : ReadyFor (.shtake c d a m) s)
    (hm : shoeMisuse (uval s a) s = true ∨ (m = true ∧ shoeBusy s s.team.key ((uval s a).toNat % 16) = true)) :
    Traps (.shtake c d a m) s ⟨0x18#8, BitVec.ofNat 64 ((uval s a).toNat % 16), 0#64, s.sq.em⟩ := by
  rw [← shoeReport_eq (uval s a) s]
  refine trap_completes (own := ownShtake d a m) h rfl ?_
  simp only [ownShtake, shoeIndex, Bool.or_eq_true, Bool.and_eq_true, if_pos hm]

theorem shput_misused (h : ReadyFor (.shput c a b m) s) (hm : PutMisused a b m s) :
    Traps (.shput c a b m) s ⟨0x18#8, BitVec.ofNat 64 ((uval s a).toNat % 16), 0#64, s.sq.em⟩ := by
  rw [← shoeReport_eq (uval s a) s]
  exact trap_completes (own := ownShput a b m) h rfl (ownShput_misused hm)

theorem shqry_misused (h : ReadyFor (.shqry c d a) s) (hm : shoeMisuse (uval s a) s = true) :
    Traps (.shqry c d a) s ⟨0x18#8, BitVec.ofNat 64 ((uval s a).toNat % 16), 0#64, s.sq.em⟩ := by
  rw [← shoeReport_eq (uval s a) s]
  refine trap_completes (own := ownShqry d a) h rfl ?_
  simp only [ownShqry, hm, if_true]

end

/-- Settles O34: the three words on a shoe that they name, and the reports of those that they may not name. -/
theorem shoeWords : Obligations.ShoeWords := by
  unfold Obligations.ShoeWords
  intro c m d a b n s
  refine ⟨fun hn h hb => ?take, fun hn h hz hk hbusy => ⟨fun hrel => ?putWaits, fun hrel => ?put⟩, fun hn h => ?query, ?misuse⟩
  case take => exact shtake_completes h hn hb
  case putWaits => exact shput_waits h (not_putMisused hn hz hk hbusy) hrel
  case put => exact shput_completes h hn (not_putMisused hn hz hk hbusy) hrel
  case query => exact shqry_completes h hn
  case misuse =>
    refine ⟨fun hm => ?_, fun hm h => shput_misused h (.inr (hm.imp_right .inl)), fun hm hbusy => ?_⟩
    · have hm := (shoeMisuse_iff (uval s a) s).2 hm
      exact ⟨fun h => shtake_misused h (.inl hm), fun h => shput_misused h (.inl hm), fun h => shqry_misused h hm⟩
    · exact ⟨fun h => shtake_misused h (.inr ⟨hm, hbusy⟩), fun h => shput_misused h (.inr (.inr (.inr ⟨hm, hbusy⟩)))⟩

end Sys2Proof.Machine
end

/-! # Writes of SHOEn and takes that are served (R217, R218, R225) -/

section
namespace Sys2Proof.Machine

-- One after the other, as above: the check's memory limit bounds the stacks of parallel elaboration.
set_option Elab.async false

section
variable {s : State} {q : Squad} {tm : Team} {n : BitVec 4} {x : DWord}

theorem exec_shoeConfigure (k : SquadKey) (n : BitVec 4) (x : DWord) (s : State) :
    exec (.shoeConfigure k n x) s = execShoeConfigure k n x s := rfl

theorem getTeam_of_find {k : TeamKey} (h : s.findTeam k = some tm) : s.getTeam k = tm := by rw [State.getTeam, h]; rfl

theorem key_of_findTeam {k : TeamKey} (h : s.findTeam k = some tm) : tm.key = k := by
  simpa using List.find?_some (p := fun t : Team => t.key == k) h

/-- A write of SHOEn is refused for the reasons of R217. -/
theorem shoeRefused_found {k : TeamKey} (h : s.findTeam k = some tm) (n : Nat) (x : DWord) :
    shoeRefused s k n x = true ↔ RefusesShoe s tm n x := by
  have hk := key_of_findTeam h
  rw [← hk]
  exact shoeRefused_iff (by rw [hk]; exact getTeam_of_find h) n x

theorem shoeConfigure_legal (h : s.findTeam q.key.team = some tm) (hm : tm.shoeMask.getLsbD n.toNat = true)
    (hr : ¬ RefusesShoe s tm n.toNat x) : Completes (.shoeConfigure q.key n x) s fun t =>
      (t.getTeam q.key.team).shoes = vset tm.shoes n.toNat ⟨x, 0, (x.extractLsb' 32 8).toNat, 0, 0, 0, 0, [], []⟩
      ∧ t = { s with team := t.team, teams := t.teams } := by
  have hok : ((s.getTeam q.key.team).shoeMask.getLsbD n.toNat && !shoeRefused s q.key.team n.toNat x) = true := by
    rw [getTeam_of_find h, hm, Bool.eq_false_iff.2 fun hf => hr ((shoeRefused_found h n.toNat x).1 hf)]
    rfl
  have ⟨hct, hpt⟩ : (vget tm.shoes n.toNat).ctakes = [] ∧ (vget tm.shoes n.toNat).ptakes = [] := by
    simp only [RefusesShoe, not_or, not_not] at hr
    obtain ⟨-, -, -, -, hct, hpt, -⟩ := hr
    exact ⟨hct, hpt⟩
  refine ⟨_, (exec_shoeConfigure q.key n x s).trans (if_pos hok), ?_, updTeam_outside _ _ _⟩
  refine (congrArg Team.shoes (getTeam_updTeam (f := fun tm => { tm with
    shoes := vset tm.shoes n.toNat (reconfigured x (vget tm.shoes n.toNat)) }) h (fun _ => rfl) fun _ h => h)).trans ?_
  simp only [reconfigured_of_free x hct hpt]

theorem shoeConfigure_refused (h : s.findTeam q.key.team = some tm) (hr : RefusesShoe s tm n.toNat x) :
    exec (.shoeConfigure q.key n x) s = .next s := by
  rw [exec_shoeConfigure, execShoeConfigure, (shoeRefused_found h n.toNat x).2 hr, Bool.not_true, Bool.and_false, if_neg Bool.false_ne_true]

/-! ## SHOE_TAKE_SERVE (R218) -/

theorem takeReady_iff (q : Squad) (seq : Nat) : takeReady q seq = true ↔
    (∀ l ∈ q.late, seq ≤ l.1) ∧ ∀ f ∈ q.fences, f.barrier = true → seq ≤ f.seq := by
  simp [takeReady, nothingLate]

/-- The shoe after the oldest take of a side has been served. -/
def Shoe.serve (free : Bool) (r : List (SquadKey × Nat)) (h : Shoe) : Shoe :=
  if free then { h with free := h.free - 1, ptaken := h.ptaken + 1, tail := (h.tail + 1) % h.nslot, ptakes := r }
  else { h with filled := h.filled - 1, ctaken := h.ctaken + 1, head := (h.head + 1) % h.nslot, ctakes := r }

variable {free : Bool} {seq : Nat} {r : List (SquadKey × Nat)}

theorem shoeTakeServe_eq (ht : s.findTeam q.key.team = some tm) (hq : s.findSq q.key = some q)
    (hr : (if free then (vget tm.shoes n.toNat).ptakes else (vget tm.shoes n.toNat).ctakes) = (q.key, seq) :: r) :
    exec (.shoeTakeServe q.key.team n free) s =
      let h := vget tm.shoes n.toNat
      if (if free then h.free else h.filled) = 0 || !takeReady q seq then .next s
      else .next (settle (fillU q.key seq (BitVec.ofNat 64 (h.base + 64 * h.slot * (if free then h.tail else h.head)))
        (s.updTeam q.key.team fun tm => { tm with shoes := vset tm.shoes n.toNat (h.serve free r) }))) := by
  show execShoeTakeServe q.key.team n free s = _
  cases free
  case true =>
    replace hr : (vget tm.shoes n.toNat).ptakes = (q.key, seq) :: r := hr
    simp only [execShoeTakeServe, getTeam_of_find ht, if_true, hr, getSq_of_find hq, Shoe.serve]
  case false =>
    replace hr : (vget tm.shoes n.toNat).ctakes = (q.key, seq) :: r := hr
    simp only [execShoeTakeServe, getTeam_of_find ht, Bool.false_eq_true, if_false, hr, getSq_of_find hq, Shoe.serve]

theorem shoeTakeServe_waits (ht : s.findTeam q.key.team = some tm) (hq : s.findSq q.key = some q)
    (hr : (if free then (vget tm.shoes n.toNat).ptakes else (vget tm.shoes n.toNat).ctakes) = (q.key, seq) :: r)
    (h : (if free then (vget tm.shoes n.toNat).free else (vget tm.shoes n.toNat).filled) = 0 ∨ ¬ takeReady q seq = true) :
    exec (.shoeTakeServe q.key.team n free) s = .next s := by
  rw [shoeTakeServe_eq ht hq hr]
  exact if_pos (by simpa using h)

theorem putU_named (q : Squad) (o : Opnd) (x : DWord) : (q.putU o x).key = q.key ∧ (q.putU o x).status = q.status := by
  cases o <;> exact ⟨rfl, rfl⟩

theorem foldl_putU_named (regs : List Opnd) (x : DWord) (q : Squad) :
    (regs.foldl (fun q o => q.putU o x) q).key = q.key ∧ (regs.foldl (fun q o => q.putU o x) q).status = q.status := by
  induction regs generalizing q with
  | nil => exact ⟨rfl, rfl⟩
  | cons o regs ih =>
    obtain ⟨hk, hs⟩ := ih (q.putU o x)
    obtain ⟨hk', hs'⟩ := putU_named q o x
    exact ⟨hk.trans hk', hs.trans hs'⟩

/-- A squad whose producer `seq` has written `x` to its registers and is done. -/
def Squad.produced (seq : Nat) (x : DWord) (q : Squad) : Squad :=
  { (((q.prods.find? (·.seq == seq)).map (·.regs)).getD []).foldl (fun q o => q.putU o x) q with
    prods := q.prods.filter (·.seq != seq) }

theorem fillU_eq (k : SquadKey) (seq : Nat) (x : DWord) (s : State) : fillU k seq x s = s.updSq k (Squad.produced seq x) := rfl

theorem fillU_squad {d : Fin 32} {kind : ProdKind} {dep : Nat} (x : DWord) (hq : s.findSq q.key = some q)
    (hp : q.prods.find? (·.seq == seq) = some ⟨seq, kind, [.s d], [], dep⟩) :
    (fillU q.key seq x s).findSq q.key = some { q.putU (.s d) x with prods := q.prods.filter (·.seq != seq) } := by
  have hkey (q : Squad) : (q.produced seq x).key = q.key := (foldl_putU_named _ x q).1
  have hstatus (q : Squad) : (q.produced seq x).status = q.status := (foldl_putU_named _ x q).2
  rw [fillU_eq, findSq_updSq _ _ _ hkey (fun q h => by rwa [hstatus]), hq, Option.map_some, Squad.produced, hp]
  rfl

theorem fillU_outside (k : SquadKey) (seq : Nat) (x : DWord) (s : State) :
    fillU k seq x s = { s with sq := (fillU k seq x s).sq, squads := (fillU k seq x s).squads } := updSq_outside _ _ _

theorem shoeTakeServe_served {d : Fin 32} {kind : ProdKind} {dep : Nat} (ht : s.findTeam q.key.team = some tm)
    (hq : s.findSq q.key = some q)
    (hr : (if free then (vget tm.shoes n.toNat).ptakes else (vget tm.shoes n.toNat).ctakes) = (q.key, seq) :: r)
    (hp : q.prods.find? (·.seq == seq) = some ⟨seq, kind, [.s d], [], dep⟩)
    (hn : (if free then (vget tm.shoes n.toNat).free else (vget tm.shoes n.toNat).filled) ≠ 0) (hd : takeReady q seq = true) :
    Completes (.shoeTakeServe q.key.team n free) s fun t =>
      vget (t.getSq q.key).s d.val = BitVec.ofNat 64 ((vget tm.shoes n.toNat).base + 64 * (vget tm.shoes n.toNat).slot *
        (if free then (vget tm.shoes n.toNat).tail else (vget tm.shoes n.toNat).head))
      ∧ (t.getSq q.key).isFull (.s d) = true
      ∧ (t.getTeam q.key.team).shoes = vset tm.shoes n.toNat ((vget tm.shoes n.toNat).serve free r) := by
  refine ⟨_, (shoeTakeServe_eq ht hq hr).trans (if_neg (by simp [hn, hd])), ?_⟩
  beta_reduce
  set f : Team → Team := fun tm' => { tm' with shoes := vset tm'.shoes n.toNat ((vget tm.shoes n.toNat).serve free r) }
  have hq' : (s.updTeam q.key.team f).findSq q.key = some q := by rw [updTeam_outside]; exact hq
  have ht' := getTeam_updTeam (f := f) ht (fun _ => rfl) fun _ h => h
  rw [getSq_settle (fillU_squad _ hq' hp), settleSq_eq]
  refine ⟨(vget_vset q.s d.val d.val _).trans (if_pos ⟨rfl, d.isLt⟩), (isFull_putS q d _ (.s d)).trans (if_pos rfl), ?_⟩
  rw [State.getTeam, findTeam_settle, fillU_outside]
  exact congrArg Team.shoes ht'

/-- Settles O35: writes of SHOEn by R217; takes are served in their order when a slot is free and their turn of program order
has come. -/
theorem shoeEvents : Obligations.ShoeEvents := by
  unfold Obligations.ShoeEvents
  intro s q tm n x ht
  refine ⟨fun hm hr => shoeConfigure_legal ht hm hr, fun hr => shoeConfigure_refused ht hr, fun free seq dep d r => ?_⟩
  intro h due hq hside
  refine ⟨fun hw => shoeTakeServe_waits ht hq hside (hw.imp_right (mt (takeReady_iff q seq).1)), fun hp hn hd => ?_⟩
  exact shoeTakeServe_served ht hq hside hp hn ((takeReady_iff q seq).2 hd)

end
end Sys2Proof.Machine
end

/-! # Barriers (R223 to R225, R230, R395) -/

section
namespace Sys2Proof.Machine

-- One after the other, as above: the check's memory limit bounds the stacks of parallel elaboration.
set_option Elab.async false

section
variable {s : State} {n : BitVec 4} {c : Bool} {a : BitVec 5} {d : Opnd}

theorem RegsKept.trans {ds : List Opnd} {t u : State} (h : RegsKept ds s t) (h' : RegsKept ds t u) : RegsKept ds s u :=
  fun o ho hn => ⟨fun l => ((h' o ho hn).1 l).trans ((h o ho hn).1 l), (h' o ho hn).2.trans (h o ho hn).2⟩

theorem BytesKept.trans {t u : State} (h : BytesKept s t) (h' : BytesKept t u) : BytesKept s u :=
  ⟨fun a => (h'.1 a).trans (h.1 a), fun a => (h'.2.1 a).trans (h.2.1 a), fun a => (h'.2.2 a).trans (h.2.2 a)⟩

/-! ## The completion of a phase (R395) -/

/-- `t` differs from `s` in the phases and the clocks of its launch alone: barriers and scratch are as before. -/
def Paced (s t : State) : Prop :=
  ∃ tm ts la ds, t = { s with team := tm, teams := ts, launch := la, dies := ds }
    ∧ tm.bars = s.team.bars ∧ tm.scratch = s.team.scratch

theorem Paced.refl (s : State) : Paced s s := ⟨s.team, s.teams, s.launch, s.dies, rfl, rfl, rfl⟩

theorem Paced.trans {t u : State} (h : Paced s t) (h' : Paced t u) : Paced s u := by
  obtain ⟨tm, ts, la, ds, rfl, hb, hs⟩ := h
  obtain ⟨tm', ts', la', ds', rfl, hb', hs'⟩ := h'
  exact ⟨tm', ts', la', ds', rfl, hb'.trans hb, hs'.trans hs⟩

theorem paced_shiftClocks (p : Nat) (s : State) : Paced s (shiftClocks p s) := by
  unfold shiftClocks
  dsimp only
  split
  · exact .refl s
  · split
    · exact ⟨s.team, s.teams, _, _, rfl, rfl, rfl⟩
    · exact .refl s

theorem paced_ite {p : Prop} [Decidable p] {t u : State} (ht : Paced s t) (hu : Paced s u) : Paced s (if p then t else u) := by
  split <;> assumption

theorem paced_laggard (s : State) : Paced s (laggard s) := by
  have hphase : Paced s { s with team := { s.team with phases := s.team.phases + 1 } } :=
    ⟨_, s.teams, s.launch, s.dies, rfl, rfl, rfl⟩
  refine hphase.trans (.trans (t := if _ then _ else _) (paced_ite ?_ (.refl _)) (paced_ite (.refl _) ?_))
  · exact ⟨_, _, _, _, rfl, rfl, rfl⟩
  · refine paced_ite (.trans ?_ (paced_shiftClocks _ _)) ?_ <;> exact ⟨_, _, _, _, rfl, rfl, rfl⟩

/-! ## An arrival (R224) -/

theorem arrive_paced (n : BitVec 4) (k : Nat) (s : State) : Paced
    { s with team := { s.team with bars := vset s.team.bars n.toNat (afterArrival (vget s.team.bars n.toNat) k) } } (arrive n k s) :=
  paced_ite (.refl _) (paced_laggard _)

theorem barrierOf_arrive (n : BitVec 4) (k : Nat) (s : State) :
    barrierOf n (arrive n k s) = afterArrival (vget s.team.bars n.toNat) k := by
  obtain ⟨tm, ts, la, ds, h, hb, -⟩ := arrive_paced n k s
  rw [barrierOf, h, hb, vget_vset, if_pos ⟨rfl, n.isLt⟩]

/-- The phase stays exactly while arrivals are missing. -/
theorem afterArrival_phase (b : Barrier) (k : Nat) : (afterArrival b k).phase = b.phase ↔ b.arr + 1 ≠ k := by
  unfold afterArrival
  split
  · have : b.phase + 1#32 ≠ b.phase := by bv_omega
    simp [*]
  · simp [*]

/-- The squad behind an arrival of BAR.sync: it waits for the phase unless its arrival was the last. -/
def Squad.synced (b : Barrier) (k : Nat) (n : BitVec 4) (q : Squad) : Squad :=
  if b.arr + 1 = k then q else { q with syncw := some (b.phase, n), wait := some .barSync, running := false, runPkts := [] }

theorem makeArrival_some (n : BitVec 4) (k : Nat) (d : Opnd) (s : State) : makeArrival n k (some d) s =
    (arrive n k s).onSq (·.putU d ((vget s.team.bars n.toNat).phase.setWidth 64)) := rfl

theorem makeArrival_none (n : BitVec 4) (k : Nat) (s : State) : makeArrival n k none s =
    (arrive n k s).onSq (·.synced (vget s.team.bars n.toNat) k n) := by
  have hp : (barrierOf n (arrive n k s)).phase = (barrierOf n s).phase ↔ (vget s.team.bars n.toNat).arr + 1 ≠ k := by
    rw [barrierOf_arrive]
    exact afterArrival_phase _ k
  simp only [makeArrival, hp, Squad.synced]
  by_cases hk : (vget s.team.bars n.toNat).arr + 1 = k
  · simp only [hk, ne_eq, not_true_eq_false, if_false, if_true]
    rfl
  · simp only [hk, ne_eq, not_false_eq_true, if_false, if_true]
    rfl

/-- A write of squad state behind an arrival. -/
theorem onSq_arrive (n : BitVec 4) (k : Nat) (f : Squad → Squad) (s : State) : ∃ tm ts la ds,
    (arrive n k s).onSq f = { s with sq := f s.sq, team := tm, teams := ts, launch := la, dies := ds }
    ∧ tm.bars = vset s.team.bars n.toNat (afterArrival (vget s.team.bars n.toNat) k) ∧ tm.scratch = s.team.scratch := by
  obtain ⟨tm, ts, la, ds, h, hb, hs⟩ := arrive_paced n k s
  exact ⟨tm, ts, la, ds, by rw [h]; rfl, hb, hs⟩

/-! ## The words -/

/-- The counts that R224 admits at a barrier. -/
def LegalCount (n : BitVec 4) (x : DWord) (s : State) : Prop :=
  1 ≤ x.toNat ∧ x.toNat ≤ s.team.nsq
    ∧ ((vget s.team.bars n.toNat).need = 0 ∨ (vget s.team.bars n.toNat).need = x.toNat) ∧ ∀ y ∈ arrivalsDue n s, y = x.toNat

theorem arrivalFault_eq (n : BitVec 4) (x : DWord) (s : State) [Decidable (LegalCount n x s)] : arrivalFault n x s =
    if LegalCount n x s then none else some ⟨0x12#8, BitVec.ofNat 64 (lowest s.sq.em), x, s.sq.em⟩ := by
  have hiff : (decide (x.toNat < 1) || decide (s.team.nsq < x.toNat) || ((barrierOf n s).need != 0 && (barrierOf n s).need != x.toNat)
      || (arrivalsDue n s).any (fun y => y != x.toNat)) = true ↔ ¬ LegalCount n x s := by
    simp only [LegalCount, barrierOf, Bool.or_eq_true, Bool.and_eq_true, decide_eq_true_eq, bne_iff_ne, List.any_eq_true,
      not_and_or, not_or, not_forall, Nat.not_le, or_assoc, exists_prop, ne_eq]
  simp only [arrivalFault, hiff, ite_not]

theorem arrivalFault_none {x : DWord} (h : LegalCount n x s) : arrivalFault n x s = none := by
  classical rw [arrivalFault_eq, if_pos h]

theorem arrivalFault_some {x : DWord} (h : ¬ LegalCount n x s) :
    arrivalFault n x s = some ⟨0x12#8, BitVec.ofNat 64 (lowest s.sq.em), x, s.sq.em⟩ := by
  classical rw [arrivalFault_eq, if_neg h]

theorem issueArrival_retired (k : Nat) (d : Option Opnd) (rb : Bool) (hr : releasedBefore s.sq s.sq.seq = true) :
    issueArrival n k d (retire 1 rb s) = makeArrival n k d (retire 1 rb s) := by
  have hr : arrivalWait (retire 1 rb s) = false := Bool.not_eq_false' .. ▸ hr
  rw [issueArrival, hr, if_neg Bool.false_ne_true]

theorem barArrive_completes (h : ReadyFor (.barArrive c d a n) s) (hl : LegalCount n (uval s (sReg a)) s)
    (hr : releasedBefore s.sq s.sq.seq = true) : Completes (.barArrive c d a n) s fun t =>
      RegsKept [d] s t ∧ BytesKept s t ∧ UniResult d ((vget s.team.bars n.toNat).phase.setWidth 64) t
      ∧ t.team.bars = vset s.team.bars n.toNat (afterArrival (vget s.team.bars n.toNat) (uval s (sReg a)).toNat) := by
  have ho : ownBarArrive d a n s = .done (issueArrival n (uval s (sReg a)).toNat (some d)) := by
    rw [ownBarArrive, arrivalFault_none hl, arrivalWait, hr]
    rfl
  refine completes_of_done (own := ownBarArrive d a n) h rfl ho ?_
  set rb := bit31 (.barArrive c d a n)
  rw [issueArrival_retired _ _ _ hr, makeArrival_some]
  obtain ⟨tm, ts, la, ds, he, hb, hs⟩ := onSq_arrive n (uval s (sReg a)).toNat
    (·.putU d ((vget s.team.bars n.toNat).phase.setWidth 64)) (retire 1 rb s)
  obtain ⟨hw, hres⟩ := uniform_write h.parity h.poison rb h.wf ((vget s.team.bars n.toNat).phase.setWidth 64)
  refine he ▸ ⟨fun o ho hn => hw.regs o ho hn, ?_, hres, hb⟩
  exact BytesKept.same (scratch := hs)

theorem barSync_completes (h : ReadyFor (.barSync c a n) s) (hl : LegalCount n (uval s (sReg a)) s)
    (hr : releasedBefore s.sq s.sq.seq = true) :
    let b := vget s.team.bars n.toNat
    Completes (.barSync c a n) s fun t => RegsKept [] s t ∧ BytesKept s t
      ∧ t.team.bars = vset s.team.bars n.toNat (afterArrival b (uval s (sReg a)).toNat)
      ∧ (b.arr + 1 ≠ (uval s (sReg a)).toNat → t.sq.syncw = some (b.phase, n) ∧ t.sq.running = false
        ∧ (s.sq.status ≠ .absent → ∃ f ∈ t.sq.fences, f.seq = s.sq.seq ∧ f.acq = true ∧ f.barrier = true))
      ∧ (b.arr + 1 = (uval s (sReg a)).toNat → t.sq.syncw = s.sq.syncw) := by
  intro b
  set k := (uval s (sReg a)).toNat with hk
  have ho : ownBarSync a n s = .done fun t => joinFence true false false true .team (issueArrival n k none t) := by
    rw [ownBarSync, arrivalFault_none hl, arrivalWait, hr]
    rfl
  refine completes_of_done (own := ownBarSync a n) h rfl ho ?_
  set rb := bit31 (.barSync c a n)
  rw [issueArrival_retired _ _ _ hr, makeArrival_none]
  obtain ⟨tm, ts, la, ds, he, hb, hs⟩ := onSq_arrive n k (·.synced b k n) (retire 1 rb s)
  rw [show (vget (retire 1 rb s).team.bars n.toNat) = b from rfl, he]
  have hregs : RegsKept [] s { retire 1 rb s with
      sq := (retire 1 rb s).sq.synced b k n, team := tm, teams := ts, launch := la, dies := ds } := by
    refine RegsKept.of_retire (rb := rb) ?_
    unfold Squad.synced
    split <;> exact RegsKept.same
  refine ⟨hregs.trans (regsKept_pushFence _ _), (BytesKept.same (scratch := hs)).trans (bytesKept_pushFence _ _), ?_,
    fun hn => ?_, fun hn => ?_⟩
  · rw [joinFence, pushFence_eq]
    exact hb
  · rw [joinFence, pushFence_eq, Squad.synced, if_neg hn]
    refine ⟨rfl, rfl, fun hst => ⟨_, fence_stays hst rfl (List.mem_append_right _ (List.mem_singleton.2 rfl)) ?_, rfl, rfl, rfl⟩⟩
    simp [acquireWaits, inSync]
  · rw [joinFence, pushFence_eq, Squad.synced, if_pos hn]
    rfl

theorem arrivals_trap {i : Instr} (hi : i = .barArrive c d a n ∨ i = .barSync c a n) (h : ReadyFor i s)
    (hl : ¬ LegalCount n (uval s (sReg a)) s) :
    Traps i s ⟨0x12#8, BitVec.ofNat 64 (lowest s.sq.em), uval s (sReg a), s.sq.em⟩ := by
  rcases hi with rfl | rfl
  · exact trap_completes (own := ownBarArrive d a n) h rfl (by rw [ownBarArrive, arrivalFault_some hl])
  · exact trap_completes (own := ownBarSync a n) h rfl (by rw [ownBarSync, arrivalFault_some hl])

theorem arrivals_wait {i : Instr} (hi : i = .barArrive c d a n ∨ i = .barSync c a n) (h : ReadyFor i s)
    (hl : LegalCount n (uval s (sReg a)) s) (hr : releasedBefore s.sq s.sq.seq = false) : exec i s = .next (waitHere .order s) := by
  rcases hi with rfl | rfl
  · exact waits_of_wait (own := ownBarArrive d a n) h rfl (by rw [ownBarArrive, arrivalFault_none hl, arrivalWait, hr]; rfl)
  · exact waits_of_wait (own := ownBarSync a n) h rfl (by rw [ownBarSync, arrivalFault_none hl, arrivalWait, hr]; rfl)

theorem barWait_completes (h : ReadyFor (.barWait c a n) s) (hp : (vget s.team.bars n.toNat).phase ≠ (uval s (sReg a)).setWidth 32) :
    Completes (.barWait c a n) s fun t => ∃ r, Issued s r ∧ t = settle { r with
      core := { r.core with ahead := r.core.ahead.filter (·.k != s.sq.key) }
      sq := { r.sq with
        fences := r.sq.fences ++ [⟨s.sq.key, s.sq.seq, true, false, false, false, false, .team, none, none⟩], seq := s.sq.seq + 1 } } :=
  completes_of_done (own := ownBarWait a n) h rfl (if_neg hp) ⟨retire 1 (bit31 (.barWait c a n)) s, issued_retire _ s,
    pushFence_eq _ _⟩

theorem barWait_waits (h : ReadyFor (.barWait c a n) s) (hp : (vget s.team.bars n.toNat).phase = (uval s (sReg a)).setWidth 32) :
    exec (.barWait c a n) s = .next (waitHere (.barWait n (vget s.team.bars n.toNat).phase) s) :=
  waits_of_wait (own := ownBarWait a n) h rfl ((if_pos hp).trans (by rw [hp]))

/-! ## BAR_SYNC_COMPLETION (R225) -/

variable {q : Squad} {tm : Team} {p : BitVec 32}

theorem barSyncCompletion_eq (hq : s.findSq q.key = some q) (ht : s.findTeam q.key.team = some tm) (hw : q.syncw = some (p, n)) :
    exec (.barSyncCompletion q.key) s = if (vget tm.bars n.toNat).phase = p then .next s
      else .next (settle (s.updSq q.key fun q => { q with syncw := none, wait := none })) := by
  show execBarSyncCompletion q.key s = _
  rw [execBarSyncCompletion, getSq_of_find hq, hw, getTeam_of_find ht]

theorem barSyncCompletion_ends (hq : s.findSq q.key = some q) (ht : s.findTeam q.key.team = some tm) (hw : q.syncw = some (p, n))
    (hp : (vget tm.bars n.toNat).phase ≠ p) : Completes (.barSyncCompletion q.key) s fun t => ∃ u, t = settle u
      ∧ u.getSq q.key = { q with syncw := none, wait := none } ∧ u = { s with sq := u.sq, squads := u.squads } :=
  ⟨_, (barSyncCompletion_eq hq ht hw).trans (if_neg hp), _, rfl, getSq_updSq hq (fun _ => rfl) fun _ h => h, updSq_outside _ _ _⟩

end

/-- Settles O36: arrivals count by R224 behind the squad's earlier accesses, and waits end when the phase moves (R225). -/
theorem barrierWords : Obligations.BarrierWords := by
  unfold Obligations.BarrierWords
  intro c d a n s cnt b legal released
  refine ⟨fun h hl hr => barArrive_completes h hl hr, fun h hl hr => barSync_completes h hl hr,
    fun i hi h => ⟨fun hl => arrivals_trap hi h hl, fun hl hr => arrivals_wait hi h hl hr⟩,
    fun h hp => barWait_completes h hp, fun h hp => barWait_waits h hp, fun q tm p hq ht hw => ⟨fun hp => ?_, fun hp => ?_⟩⟩
  · exact barSyncCompletion_ends hq ht hw hp
  · exact (barSyncCompletion_eq hq ht hw).trans (if_pos hp)

end Sys2Proof.Machine
end

/-! # Accumulator words (R199, R268, R290 to R293) -/

section
namespace Sys2Proof.Machine

-- One after the other, as above: the check's memory limit bounds the stacks of parallel elaboration.
set_option Elab.async false

section
variable {s : State} {c : Bool} {n p : Nat}

/-! ## The names and the checks of tiles (R268, R283, R286) -/

theorem zPhys_lt (h : zPhys s n = some p) : p < 8 := lt_of_ownedTiles h

theorem zPoison_none (hb : s.core.zbad = []) (hp : s.core.zpoison = []) (n p : Nat) (es : List (Nat × Nat)) :
    zPoison s n p es = none := by
  rw [zPoison, hb, hp]
  rfl

theorem regPoison_none (hu : s.sq.uncorr = []) (hp : s.sq.poison = []) (srcs : List (Opnd × Bool)) : regPoison s srcs = none := by
  rw [regPoison, lanesPoison, hu, hp]
  rfl

theorem sliceFault_none {k limit : Nat} (h : k ≤ limit) : sliceFault s k 0 limit = none := if_pos h

theorem sliceFault_some {k limit : Nat} (h : limit < k) : sliceFault s k 0 limit = some (boundsReport s (BitVec.ofNat 64 k)) :=
  if_neg (by omega)

theorem zNameReport_eq (t : BitVec 3) (s : State) :
    zNameReport s t.toNat = ⟨0x12#8, BitVec.ofNat 64 (lowest s.sq.em), t.setWidth 64, s.sq.em⟩ := by
  rw [zNameReport, boundsReport, BitVec.ofNat_toNat]

/-! ## ZCLR (R290) -/

theorem vget_foldl_vset {α : Type} [Inhabited α] {m : Nat} (ps : List Nat) (x : α) (v : Vector α m) {q : Nat} (hq : q < m) :
    vget (ps.foldl (fun v p => vset v p x) v) q = if q ∈ ps then x else vget v q := by
  induction ps generalizing v with
  | nil => rfl
  | cons p ps ih =>
    rw [List.foldl_cons, ih, vget_vset]
    by_cases h : p = q
    · subst h
      simp [hq]
    · simp [h, Ne.symm h]

theorem getLsbD_foldl_clear (ps : List Nat) (o : BitVec 8) {q : Nat} (hq : q < 8) :
    (ps.foldl (fun o p => o &&& ~~~(1#8 <<< p)) o).getLsbD q = (!decide (q ∈ ps) && o.getLsbD q) := by
  induction ps generalizing o with
  | nil => simp
  | cons p ps ih =>
    rw [List.foldl_cons, ih]
    by_cases h : p = q
    · subst h
      simp [hq]
    · by_cases hlt : q < p
      · simp [hq, Ne.symm h, hlt]
      · simp [hq, Ne.symm h, show q - p ≠ 0 by omega]

/-- Clearing tiles, where none is poisoned, changes the tiles and their flags. -/
theorem clearTiles_outside (hbad : s.core.zbad = []) (hpoison : s.core.zpoison = []) (ps : List Nat) : clearTiles ps s =
    { s with core := { s.core with z := (clearTiles ps s).core.z, ovf := (clearTiles ps s).core.ovf } } := by
  simp only [clearTiles, hbad, hpoison, List.filter_nil]

theorem z_clearTiles (ps : List Nat) (hp : p < 8) : vget (clearTiles ps s).core.z p =
    if p ∈ ps then Vector.replicate 32 0#2304 else vget s.core.z p := vget_foldl_vset ps _ s.core.z hp

theorem ovf_clearTiles (ps : List Nat) (hp : p < 8) : (clearTiles ps s).core.ovf.getLsbD p =
    (!decide (p ∈ ps) && s.core.ovf.getLsbD p) := getLsbD_foldl_clear ps s.core.ovf hp

/-- The tiles that ZCLR names. -/
def clearedTiles (s : State) (z f : Nat) : List Nat := ((List.range (f + 1)).map (· + z)).filterMap (zPhys s)

theorem mem_clearedTiles (z f : Nat) : p ∈ clearedTiles s z f ↔ ∃ k, k ≤ f ∧ zPhys s (k + z) = some p := by
  simp [clearedTiles]

variable {z f : BitVec 3}

theorem ownZclr_empty (hem : s.sq.em = 0#32) : ownZclr z f s = .done id := if_pos hem

theorem ownZclr_unowned (hem : s.sq.em ≠ 0#32) (hz : zPhys s (z.toNat + f.toNat) = none) :
    ownZclr z f s = .trap (boundsReport s (BitVec.ofNat 64 (z.toNat + f.toNat))) := by
  rw [ownZclr, if_neg hem, hz]
  rfl

theorem ownZclr_clears (hem : s.sq.em ≠ 0#32) (hz : (zPhys s (z.toNat + f.toNat)).isSome = true)
    (hbusy : ∀ k, k ≤ f.toNat → zBusy s.sq (k + z.toNat) = false) :
    ownZclr z f s = .done (clearTiles (clearedTiles s z.toNat f.toNat)) := by
  have hnone : (zPhys s (z.toNat + f.toNat)).isNone = false := by simpa using hz
  have hfree : ((List.range (f.toNat + 1)).map (· + z.toNat)).any (zBusy s.sq) = false := by
    simpa [Nat.lt_succ_iff] using hbusy
  simp only [ownZclr, hem, hnone, hfree, Bool.false_eq_true, if_false]
  rfl

theorem zclr_completes (hbad : s.core.zbad = []) (hpoison : s.core.zpoison = []) (h : ReadyFor (.zclr c z f) s) (hem : s.sq.em ≠ 0#32)
    (hz : (zPhys s (z.toNat + f.toNat)).isSome = true) (hbusy : ∀ k, k ≤ f.toNat → zBusy s.sq (k + z.toNat) = false) :
    Completes (.zclr c z f) s fun t => (∃ r, Issued s r ∧ t = { r with core := { r.core with z := t.core.z, ovf := t.core.ovf } })
      ∧ ∀ p, p < 8 → if ∃ k, k ≤ f.toNat ∧ zPhys s (k + z.toNat) = some p
        then (∀ i, i < 32 → vget (vget t.core.z p) i = 0#2304) ∧ t.core.ovf.getLsbD p = false
        else vget t.core.z p = vget s.core.z p ∧ t.core.ovf.getLsbD p = s.core.ovf.getLsbD p := by
  refine completes_of_done (own := ownZclr z f) h rfl (ownZclr_clears hem hz hbusy)
    ⟨⟨retire 1 (bit31 (.zclr c z f)) s, issued_retire _ s,
      clearTiles_outside (s := retire 1 (bit31 (.zclr c z f)) s) hbad hpoison _⟩, fun p hp => ?_⟩
  rw [z_clearTiles _ hp, ovf_clearTiles _ hp]
  simp only [mem_clearedTiles]
  split
  case isTrue h =>
    refine ⟨fun i hi => ?_, by rw [decide_eq_true h]; rfl⟩
    simp [vget, hi]
  case isFalse h =>
    rw [decide_eq_false h]
    exact ⟨rfl, rfl⟩

/-! ## ZRD (R291, R292) -/

variable {t : BitVec 3} {l : Bool} {x i : BitVec 5} {v : Opnd} {m : BitVec 2}

theorem ownZrd_unowned (hem : s.sq.em ≠ 0#32) (hz : zPhys s t.toNat = none) :
    ownZrd t x i v m s = .trap (zNameReport s t.toNat) := by
  rw [ownZrd, if_neg hem, hz]

theorem ownZrd_owned (hem : s.sq.em ≠ 0#32) (hz : zPhys s t.toNat = some p) (hbusy : zBusy s.sq t.toNat = false) :
    ownZrd t x i v m s = readTile t.toNat p x i v m s := by
  simp only [ownZrd, hem, if_false, hz, hbusy, Bool.false_eq_true]

/-- The last slice of a mode of ZRD: a column, or a group of packed columns. -/
def readLimit (m : BitVec 2) (fmt : Word) : Nat := if m = 0#2 then 63 else outBytes fmt - 1

theorem readTile_outside (hu : s.sq.uncorr = []) (hp : s.sq.poison = []) (hm : m ≠ 2#2) (hk : readLimit m s.sq.fmt < sliceIndex s x i) :
    readTile n p x i v m s = .trap (boundsReport s (BitVec.ofNat 64 (sliceIndex s x i))) := by
  have hslice : sliceFault s (sliceIndex s x i) 0 (if m = 0#2 then 63 else outBytes s.sq.fmt - 1) = _ := sliceFault_some hk
  have hno : ¬ sliceIndex s x i ≤ if m = 0#2 then 63 else outBytes s.sq.fmt - 1 := Nat.not_le.2 hk
  simp only [readTile, if_neg hm, regPoison_none hu hp, hslice, if_neg hno, firstOf]

theorem readTile_inside (hu : s.sq.uncorr = []) (hp : s.sq.poison = []) (hbad : s.core.zbad = []) (hpoison : s.core.zpoison = [])
    (hm : m ≠ 2#2) (hk : sliceIndex s x i ≤ readLimit m s.sq.fmt) : readTile n p x i v m s =
      if m = 0#2 then .done (fun u => u.onSq (·.putLanes v s.sq.em fun r =>
        BitVec.ofNat 32 (readout s.sq.fmt (zElem (vget s.core.z p) r (sliceIndex s x i)))))
      else if tBusy s.sq (Opnd.vnum v) then .wait .tile
      else .done (fun u => u.onSq (·.putTile (Opnd.vnum v) ((Mask.list s.sq.em).flatMap fun r => (List.range 16).map fun w =>
        (r, w, (packedRow s.sq.fmt (vget s.core.z p) r (sliceIndex s x i)).extractLsb' (32 * w) 32)))) := by
  have hslice : sliceFault s (sliceIndex s x i) 0 (if m = 0#2 then 63 else outBytes s.sq.fmt - 1) = none := sliceFault_none hk
  simp only [readTile, if_neg hm, regPoison_none hu hp, zPoison_none hbad hpoison, hslice, ite_self, firstOf]
  rfl

theorem readTile_overflow : readTile n p x i v 2#2 s =
    .done fun u => u.onSq (·.putU v (if s.core.ovf.getLsbD p then 1#64 else 0#64)) := by
  unfold readTile
  exact if_pos rfl

theorem zrdForm_column (h : zrdForm l x i v 0#2 = true) : v.isV = true := (Bool.and_eq_true_iff.1 h).2

theorem zrdForm_packed {k : Fin 64} (h : zrdForm l x i (.v k) 1#2 = true) : k.val < 8 :=
  of_decide_eq_true (Bool.and_eq_true_iff.1 h).2

theorem zrdForm_overflow (h : zrdForm l x i v 2#2 = true) : v.isS = true := (Bool.and_eq_true_iff.1 h).2

theorem zrd_column (hbad : s.core.zbad = []) (hpoison : s.core.zpoison = []) (h : ReadyFor (.zrd c t l x i v 0#2) s)
    (hem : s.sq.em ≠ 0#32) (hz : zPhys s t.toNat = some p) (hbusy : zBusy s.sq t.toNat = false) (hk : sliceIndex s x i ≤ 63) :
    Completes (.zrd c t l x i v 0#2) s fun u => OnlyRegs [v] s u ∧ LaneResult v
      (fun r => BitVec.ofNat 32 (readout s.sq.fmt (zElem (vget s.core.z p) r (sliceIndex s x i)))) s u := by
  refine putLanes_completes (own := ownZrd t x i v 0#2) (.inl (zrdForm_column (x := x) (i := i) h.wf)) h rfl ?_
  rw [ownZrd_owned hem hz hbusy, readTile_inside h.parity h.poison hbad hpoison (by decide) hk, if_pos rfl]

theorem zrd_overflow (h : ReadyFor (.zrd c t l x i v 2#2) s) (hem : s.sq.em ≠ 0#32) (hz : zPhys s t.toNat = some p)
    (hbusy : zBusy s.sq t.toNat = false) : Completes (.zrd c t l x i v 2#2) s fun u =>
      OnlyRegs [v] s u ∧ UniResult v (if s.core.ovf.getLsbD p then 1#64 else 0#64) u := by
  refine putU_completes (own := ownZrd t x i v 2#2) (zrdForm_overflow (x := x) (i := i) h.wf) h rfl ?_
  rw [ownZrd_owned hem hz hbusy, readTile_overflow]

theorem zrd_unowned (h : ReadyFor (.zrd c t l x i v m) s) (hem : s.sq.em ≠ 0#32) (hz : zPhys s t.toNat = none) :
    Traps (.zrd c t l x i v m) s ⟨0x12#8, BitVec.ofNat 64 (lowest s.sq.em), t.setWidth 64, s.sq.em⟩ :=
  zNameReport_eq t s ▸ trap_completes (own := ownZrd t x i v m) h rfl (ownZrd_unowned hem hz)

theorem zrd_outside (h : ReadyFor (.zrd c t l x i v m) s) (hem : s.sq.em ≠ 0#32) (hz : zPhys s t.toNat ≠ none)
    (hbusy : zBusy s.sq t.toNat = false) (hm : m ≠ 2#2) (hk : readLimit m s.sq.fmt < sliceIndex s x i) :
    Traps (.zrd c t l x i v m) s ⟨0x12#8, BitVec.ofNat 64 (lowest s.sq.em), BitVec.ofNat 64 (sliceIndex s x i), s.sq.em⟩ := by
  obtain ⟨p, hz⟩ := Option.ne_none_iff_exists'.1 hz
  exact trap_completes (own := ownZrd t x i v m) h rfl ((ownZrd_owned hem hz hbusy).trans (readTile_outside h.parity h.poison hm hk))

theorem outBytes_pos (fmt : Word) : 1 ≤ outBytes fmt := by
  unfold outBytes
  split
  · decide
  · split <;> decide

/-! ### A write of words of a tile (R285) -/

/-- The word of a row after words of its tile have been patched in. -/
theorem word_patch (r : BitVec 512) (w w' : Nat) (y : Word) (hw : w < 16) :
    (patch r (32 * w') y).extractLsb' (32 * w) 32 = if w' = w then y else r.extractLsb' (32 * w) 32 := by
  apply BitVec.eq_of_getLsbD_eq
  intro k hk
  rw [BitVec.getLsbD_extractLsb', getLsbD_patch _ _ _ (by omega)]
  by_cases h : w' = w
  · subst h
    simp [hk]
  · have hout : ¬ (32 * w' ≤ 32 * w + k ∧ 32 * w + k < 32 * w' + 32) := by omega
    simp [h, hout]

/-- Words whose values depend on their place alone, put into a tile. -/
theorem words_foldl_patch (ws : List (Nat × Nat × Word)) (g : Nat → Nat → Word) (hg : ∀ x ∈ ws, x.2.2 = g x.1 x.2.1)
    (rows : Lanes (BitVec 512)) {i w : Nat} (hi : i < 32) (hw : w < 16) :
    (vget (ws.foldl (fun (r : Lanes (BitVec 512)) x => vset r x.1 (patch (vget r x.1) (32 * x.2.1) x.2.2)) rows) i).extractLsb' (32 * w) 32
      = ((ws.find? (fun x => x.1 == i && x.2.1 == w)).map (·.2.2)).getD ((vget rows i).extractLsb' (32 * w) 32) := by
  induction ws generalizing rows with
  | nil => rfl
  | cons y ws ih =>
    have hrest := fun x hx => hg x (List.mem_cons_of_mem _ hx)
    have hy := hg y List.mem_cons_self
    have hfound : ∀ x, ws.find? (fun x => x.1 == i && x.2.1 == w) = some x → x.2.2 = g i w := by
      intro x hx
      obtain ⟨h1, h2⟩ : x.1 = i ∧ x.2.1 = w := by simpa using List.find?_some hx
      rw [hrest x (List.mem_of_find?_eq_some hx), h1, h2]
    rw [List.foldl_cons, ih hrest, vget_vset, List.find?_cons]
    by_cases h1 : y.1 = i
    · by_cases h2 : y.2.1 = w
      · subst h1 h2
        simp only [beq_self_eq_true, Bool.and_self, Option.map_some, Option.getD_some, hi, and_self, if_true, word_patch _ _ _ _ hw]
        cases hf : ws.find? (fun x => x.1 == y.1 && x.2.1 == y.2.1) with
        | none => rfl
        | some x => exact (hfound x hf).trans hy.symm
      · subst h1
        rw [if_pos ⟨rfl, hi⟩, word_patch _ _ _ _ hw, if_neg h2, beq_eq_false_iff_ne.2 h2, Bool.and_false]
    · rw [if_neg fun h => h1 h.1, beq_eq_false_iff_ne.2 h1, Bool.false_and]

theorem tileWords_putTile {k : Nat} (hk : k < 8) (ws : List (Nat × Nat × Word)) (g : Nat → Nat → Word)
    (hg : ∀ x ∈ ws, x.2.2 = g x.1 x.2.1) (q : Squad) : TileWords k ws q (q.putTile k ws) := by
  refine ⟨fun j hj => (vget_vset ..).trans (if_neg fun h => hj h.1.symm), fun i w hi hw => ?_⟩
  refine (congrArg (fun r : Lanes (BitVec 512) => (vget r i).extractLsb' (32 * w) 32) ?_).trans (words_foldl_patch ws g hg (vget q.t k) hi hw)
  exact (vget_vset ..).trans (if_pos ⟨rfl, hk⟩)

theorem zrd_packed {k : Fin 64} (hbad : s.core.zbad = []) (hpoison : s.core.zpoison = []) (h : ReadyFor (.zrd c t l x i (.v k) 1#2) s)
    (hem : s.sq.em ≠ 0#32) (hz : zPhys s t.toNat = some p) (hbusy : zBusy s.sq t.toNat = false)
    (hk : sliceIndex s x i ≤ outBytes s.sq.fmt - 1) (ht : tBusy s.sq k.val = false) :
    Completes (.zrd c t l x i (.v k) 1#2) s fun u => RegsKept [] s u ∧ BytesKept s u ∧ Retired s u
      ∧ TileWords k.val ((Mask.list s.sq.em).flatMap fun r => (List.range 16).map fun w =>
          (r, w, (packedRow s.sq.fmt (vget s.core.z p) r (sliceIndex s x i)).extractLsb' (32 * w) 32)) s.sq u.sq := by
  have ho : ownZrd t x i (.v k) 1#2 s = _ := (ownZrd_owned hem hz hbusy).trans
    ((readTile_inside h.parity h.poison hbad hpoison (by decide) hk).trans ((if_neg (by decide)).trans (if_neg (Bool.eq_false_iff.1 ht))))
  obtain ⟨hlclk, hnext⟩ := retired_retire (bit31 (.zrd c t l x i (.v k) 1#2)) s
  refine completes_of_done (own := ownZrd t x i (.v k) 1#2) h rfl ho ⟨?_, BytesKept.same, ⟨hlclk, hnext⟩, ?_⟩
  · exact RegsKept.of_retire (rb := bit31 (.zrd c t l x i (.v k) 1#2)) RegsKept.same
  · refine tileWords_putTile (zrdForm_packed (x := x) (i := i) h.wf) _
      (fun r w => (packedRow s.sq.fmt (vget s.core.z p) r (sliceIndex s x i)).extractLsb' (32 * w) 32) (fun y hy => ?_) _
    obtain ⟨r, -, hy⟩ := List.mem_flatMap.1 hy
    obtain ⟨w, -, rfl⟩ := List.mem_map.1 hy
    rfl

/-! ## ZXF (R199, R293) -/

variable {b : BitVec 5} {e : Bool}

theorem ownZxf_unowned {ld : Bool} (hem : s.sq.em ≠ 0#32) (hz : zPhys s z.toNat = none) :
    ownZxf z b e ld s = .trap (zNameReport s z.toNat) := by
  rw [ownZxf, if_neg hem, hz]

theorem ownZxf_busy {ld : Bool} (hem : s.sq.em ≠ 0#32) (hz : zPhys s z.toNat ≠ none) (hbusy : zBusy s.sq z.toNat = true) :
    ownZxf z b e ld s = .wait .tile := by
  obtain ⟨p, hz⟩ := Option.ne_none_iff_exists'.1 hz
  simp only [ownZxf, hem, if_false, hz, hbusy, if_true]

/-- The checks of the accesses of ZXF. -/
def zxfChecks (s : State) (ld : Bool) (a : DWord) : Option Report :=
  memChecks s (if ld then .read else .write) false s.sq.em 8 8 ((zAccesses s a).map (·.1))

/-- The elements that ZXF moves: row, column and address. -/
def zElements (s : State) (a : DWord) : List (Nat × Nat × Nat) := (zAccesses s a).map fun x => (x.2.1, x.2.2, x.1.2)

theorem ownZxf_checked {ld : Bool} (hbad : s.core.zbad = []) (hpoison : s.core.zpoison = []) (hu : s.sq.uncorr = [])
    (hp : s.sq.poison = []) (hem : s.sq.em ≠ 0#32) (hz : zPhys s z.toNat = some p) (hbusy : zBusy s.sq z.toNat = false) :
    ownZxf z b e ld s =
      let acc := zAccesses s (uval s (sReg b))
      let vas := acc.map (·.1.2)
      match zxfChecks s ld (uval s (sReg b)) with
      | some r => .trap r
      | none =>
        if ld then
          if readBlocked s s.sq.seq vas then .wait .order
          else .done (readOrLate vas (fun n => loadAcc n p s.sq.em (zElements s (uval s (sReg b))))
            (.acc p s.sq.em (zElements s (uval s (sReg b)))))
        else .done fun u => countAccesses u.core.id u.launch.asid vas (enqueue [.store (acc.flatMap fun a =>
          cellsAt a.1.2 (toBytes 8 (zElem (vget s.core.z p) a.2.1 a.2.2).toNat))] u) := by
  simp only [ownZxf, hem, if_false, hz, hbusy, Bool.false_eq_true, regPoison_none hu hp, zPoison_none hbad hpoison, ite_self,
    firstOf, zxfChecks]
  cases memChecks s (if ld then .read else .write) false s.sq.em 8 8 ((zAccesses s (uval s (sReg b))).map (·.1)) <;> rfl

section
variable (hbad : s.core.zbad = []) (hpoison : s.core.zpoison = []) (hem : s.sq.em ≠ 0#32) (hbusy : zBusy s.sq z.toNat = false)
include hbad hpoison hem hbusy

theorem zxf_store (h : ReadyFor (.zxf c z b e false) s) (hz : zPhys s z.toNat = some p)
    (hc : zxfChecks s false (uval s (sReg b)) = none) : Completes (.zxf c z b e false) s fun u =>
      ∃ r, Issued s r ∧ Counted { r with sq := { r.sq with
        storeq := r.sq.storeq ++ [⟨s.sq.seq, .store ((zAccesses s (uval s (sReg b))).flatMap
          (fun a => cellsAt a.1.2 (toBytes 8 (zElem (vget s.core.z p) a.2.1 a.2.2).toNat)))⟩], seq := s.sq.seq + 1 } } u := by
  have ho : ownZxf z b e false s = _ := ownZxf_checked hbad hpoison h.parity h.poison hem hz hbusy
  simp only [hc, Bool.false_eq_true, if_false] at ho
  exact completes_of_done h rfl ho ⟨retire 1 (bit31 (.zxf c z b e false)) s, issued_retire _ s, countAccesses_counted _ _ _ _⟩

theorem zxf_faults {ld : Bool} {r : Report} (h : ReadyFor (.zxf c z b e ld) s) (hz : zPhys s z.toNat ≠ none)
    (hc : zxfChecks s ld (uval s (sReg b)) = some r) : Traps (.zxf c z b e ld) s r := by
  obtain ⟨p, hz⟩ := Option.ne_none_iff_exists'.1 hz
  have ho : ownZxf z b e ld s = _ := ownZxf_checked hbad hpoison h.parity h.poison hem hz hbusy
  simp only [hc] at ho
  exact trap_completes h rfl ho

end

/-- The rows of a tile lie 512 bytes apart and its elements 8: they are aligned as the first is. -/
theorem zAddress_aligned (a : DWord) (i k : Nat) : (a + BitVec.ofNat 64 (512 * i + 8 * k)).toNat % 8 = a.toNat % 8 := by
  rw [BitVec.toNat_add, BitVec.toNat_ofNat]
  omega

theorem zAccesses_cons {a : DWord} {i : Nat} {r : List Nat} (h : Mask.list s.sq.em = i :: r) :
    ∃ acc, (zAccesses s a).map (·.1) = (i, (a + BitVec.ofNat 64 (512 * i)).toNat) :: acc := by
  rw [zAccesses, rowsOf, h]
  exact ⟨_, rfl⟩

theorem lanes_zAccesses (a : DWord) (k : Nat) : k ∈ ((zAccesses s a).map (·.1)).map (·.1) ↔ s.sq.em.getLsbD k = true := by
  simp only [zAccesses, rowsOf, List.map_flatMap, List.map_map, Function.comp_def, List.mem_flatMap, List.mem_map, List.mem_range,
    mem_maskList]
  constructor
  · rintro ⟨i, hi, -, -, rfl⟩
    exact hi
  · exact fun hk => ⟨k, hk, 0, by decide, rfl⟩

theorem zxfChecks_unaligned {l : Nat} {a : DWord} (ld : Bool) (hl : IsLowest s.sq.em l) (ha : a.toNat % 8 ≠ 0) :
    zxfChecks s ld a = some ⟨0x0B#8, a + BitVec.ofNat 64 (512 * l), 8#64, s.sq.em⟩ := by
  have hall : ((zAccesses s a).map (·.1)).filter (fun x => x.2 % 8 != 0) = (zAccesses s a).map (·.1) := by
    refine List.filter_eq_self.2 fun x hx => ?_
    obtain ⟨y, hy, rfl⟩ := List.mem_map.1 hx
    obtain ⟨i, -, hy⟩ := List.mem_flatMap.1 hy
    obtain ⟨k, -, rfl⟩ := List.mem_map.1 hy
    rw [bne_iff_ne]
    exact (zAddress_aligned a i k).trans_ne ha
  have hmask : maskOfList (((zAccesses s a).map (·.1)).map (·.1)) = s.sq.em :=
    mask_ext (P := fun k => s.sq.em.getLsbD k = true)
      (fun k hk => by rw [getLsbD_maskOfList _ hk, List.contains_iff_mem, lanes_zAccesses]) fun _ _ => Iff.rfl
  obtain ⟨r, hr⟩ : ∃ r, Mask.list s.sq.em = l :: r := by
    obtain ⟨i, r, hlist, hi, -, hmin, -⟩ := faulting_lanes s.sq.em (fun _ => true) ⟨l, hl.1, rfl⟩
    have hlow : IsLowest s.sq.em i := ⟨hi, fun k hk => Bool.eq_false_iff.2 fun hk' => hmin k hk ⟨hk', rfl⟩⟩
    rw [List.filter_eq_self.2 fun _ _ => rfl] at hlist
    exact ⟨r, by rw [hlist, ← lowest_eq hlow, lowest_eq hl]⟩
  obtain ⟨acc, hacc⟩ := zAccesses_cons (a := a) hr
  rw [hacc] at hall hmask
  simp only [zxfChecks, memChecks, hacc, checkLanes, hall, hmask, firstOf, Bool.false_eq_true, if_false, BitVec.ofNat_toNat,
    BitVec.setWidth_eq]

/-! ### A read behind the retirement of its word -/

theorem storeq_getSq_retire (rb : Bool) (k : SquadKey) (s : State) : ((retire 1 rb s).getSq k).storeq = (s.getSq k).storeq := by
  have hall : (retire 1 rb s).allSquads = if s.sq.status = .absent then s.squads else (retire 1 rb s).sq :: s.squads := rfl
  have hkey : (retire 1 rb s).sq.key = s.sq.key := rfl
  unfold State.getSq State.findSq
  rw [hall, State.allSquads]
  split
  · rfl
  · rw [List.find?_cons, List.find?_cons, hkey]
    cases s.sq.key == k <;> rfl

theorem regionBusy_retire (rb : Bool) (s : State) : regionBusy (retire 1 rb s) = regionBusy s := by
  have hall : (retire 1 rb s).allSquads = if s.sq.status = .absent then s.squads else (retire 1 rb s).sq :: s.squads := rfl
  funext r
  unfold regionBusy
  rw [hall, State.allSquads]
  split <;> rfl

theorem agedByte_retire (rb : Bool) (s : State) : agedByte (retire 1 rb s) = agedByte s := by
  funext pa x
  unfold agedByte
  rw [regionBusy_retire]
  rfl

theorem readNow_retire (rb : Bool) (n va size : Nat) (s : State) : readNow (retire 1 rb s) n va size = readNow s n va size := by
  have hbyte (core asid pa : Nat) : squadByte (retire 1 rb s) s.sq.key core asid n pa = squadByte s s.sq.key core asid n pa := by
    rw [squadByte, storeq_getSq_retire]
    rfl
  have hco (core asid va : Nat) : coherent s core asid true va = true := rfl
  have hco' (core asid va : Nat) : coherent (retire 1 rb s) core asid true va = true := rfl
  simp only [readNow, loadValue, agedByte_retire, hco, hco', if_true]
  have hkey : (retire 1 rb s).sq.key = s.sq.key := rfl
  simp only [hkey, hbyte]
  rfl

theorem readBlocked_retire (rb : Bool) (n : Nat) (vas : List Nat) (s : State) :
    readBlocked (retire 1 rb s) n vas = readBlocked s n vas := rfl

/-! ### A load of the rows of a tile (R293) -/

theorem zElem_foldl_zPut (es : List (Nat × Nat × Nat)) (g : Nat → BitVec 36) (va : Nat → Nat → Nat)
    (hva : ∀ x ∈ es, x.2.2 = va x.1 x.2.1) (t : Lanes (BitVec 2304)) {i k : Nat} (hi : i < 32) (hk : k < 64) :
    zElem (es.foldl (fun t x => zPut t x.1 x.2.1 (g x.2.2)) t) i k =
      if (i, k) ∈ es.map (fun x => (x.1, x.2.1)) then g (va i k) else zElem t i k := by
  induction es generalizing t with
  | nil => rfl
  | cons x es ih =>
    rw [List.foldl_cons, ih fun y hy => hva y (List.mem_cons_of_mem _ hy), zElem_zPut _ _ _ _ hi hk, hva x List.mem_cons_self]
    by_cases hx : x.1 = i ∧ x.2.1 = k
    · obtain ⟨rfl, rfl⟩ := hx
      simp
    · have hne : ¬ (i, k) = (x.1, x.2.1) := fun h => hx ⟨(congrArg Prod.fst h).symm, (congrArg Prod.snd h).symm⟩
      simp only [List.map_cons, List.mem_cons, hne, false_or, if_neg hx]

theorem zElements_eq (a : DWord) : zElements s a = (Mask.list s.sq.em).flatMap fun i => (List.range 64).map fun k =>
    (i, k, (a + BitVec.ofNat 64 (512 * i + 8 * k)).toNat) := by
  simp only [zElements, zAccesses, rowsOf, List.map_flatMap, List.map_map, Function.comp_def]

theorem zElements_address (a : DWord) :
    ∀ x ∈ zElements s a, x.2.2 = (a + BitVec.ofNat 64 (512 * x.1 + 8 * x.2.1)).toNat := by
  intro x hx
  rw [zElements_eq] at hx
  obtain ⟨i, -, hx⟩ := List.mem_flatMap.1 hx
  obtain ⟨k, -, rfl⟩ := List.mem_map.1 hx
  rfl

theorem mem_zElements (a : DWord) {i k : Nat} (hk : k < 64) :
    (i, k) ∈ (zElements s a).map (fun x => (x.1, x.2.1)) ↔ s.sq.em.getLsbD i = true := by
  simp only [zElements_eq, List.map_flatMap, List.map_map, Function.comp_def, List.mem_flatMap, List.mem_map, List.mem_range,
    mem_maskList]
  constructor
  · rintro ⟨j, hj, m, -, he⟩
    cases he
    exact hj
  · exact fun hi => ⟨i, hi, k, hk, rfl⟩

/-- The tile after a load. -/
def loadedTile (n : Nat) (es : List (Nat × Nat × Nat)) (u : State) (t : Lanes (BitVec 2304)) : Lanes (BitVec 2304) :=
  es.foldl (fun t x => zPut t x.1 x.2.1 (BitVec.ofNat 36 (readNow u n x.2.2 8))) t

theorem guardRead_outside (n : Nat) (bytes : List Nat) (s : State) : ∃ prods ahead, guardRead n false bytes s = { s with
    sq := { s.sq with prods := prods }, core := { s.core with ahead := ahead } } := by
  refine ⟨s.sq.prods ++ guardFor s.sq n false bytes, s.core.ahead.filter fun a =>
    !(a.k == s.sq.key && a.scratch == false && bytes.any fun x => lineOf x == a.pa), ?_⟩
  rw [guardRead, forgetAhead, State.updCore, if_pos rfl]
  rfl

theorem RegsKept.of_sq {u : State} (h : u.sq = s.sq) : RegsKept [] s u :=
  fun o _ _ => ⟨fun l => by cases o <;> simp only [val, h], by rw [h]⟩

/-- A load of an accumulator tile at issue leaves the registers; of the tiles it changes the one it names. -/
theorem loadAcc_effect (n : Nat) (em : Mask) (es : List (Nat × Nat × Nat)) (u : State) : RegsKept [] u (takePlace (loadAcc n p em es u))
    ∧ (Retired s u → Retired s (takePlace (loadAcc n p em es u)))
    ∧ (takePlace (loadAcc n p em es u)).core.z = vset u.core.z p (loadedTile n es u (vget u.core.z p)) := by
  obtain ⟨prods, ahead, hg⟩ := guardRead_outside n (physBytes u (es.map (·.2.2)) 8) { u with core := { u.core with
    z := vset u.core.z p (loadedTile n es u (vget u.core.z p))
    zbad := u.core.zbad.filter (fun w => !(w.1 == p && em.getLsbD w.2.1))
    zpoison := u.core.zpoison.filter (fun w => !(w.1 == p && em.getLsbD w.2.1)) } }
  have hl : loadAcc n p em es u = _ := hg
  rw [hl]
  exact ⟨RegsKept.same, fun h => ⟨h.lclk, h.next⟩, rfl⟩

theorem zxf_load (hbad : s.core.zbad = []) (hpoison : s.core.zpoison = []) (h : ReadyFor (.zxf c z b e true) s)
    (hem : s.sq.em ≠ 0#32) (hz : zPhys s z.toNat = some p) (hbusy : zBusy s.sq z.toNat = false)
    (hc : zxfChecks s true (uval s (sReg b)) = none)
    (hr : readBlocked s s.sq.seq ((zAccesses s (uval s (sReg b))).map (·.1.2)) = false) :
    Completes (.zxf c z b e true) s fun u => RegsKept [] s u ∧ Retired s u
      ∧ (∀ k, k ≠ p → vget u.core.z k = vget s.core.z k)
      ∧ ∀ i k, i < 32 → k < 64 → zElem (vget u.core.z p) i k = if s.sq.em.getLsbD i
        then BitVec.ofNat 36 (readNow s s.sq.seq (uval s (sReg b) + BitVec.ofNat 64 (512 * i + 8 * k)).toNat 8)
        else zElem (vget s.core.z p) i k := by
  have ho : ownZxf z b e true s = _ := ownZxf_checked hbad hpoison h.parity h.poison hem hz hbusy
  simp only [hc, hr, Bool.false_eq_true, if_false, if_true] at ho
  refine completes_of_done h rfl ho ?_
  set rb := bit31 (.zxf c z b e true)
  set es := zElements s (uval s (sReg b))
  set vas := (zAccesses s (uval s (sReg b))).map (·.1.2)
  have hnow : readOrLate vas (fun n => loadAcc n p s.sq.em es) (.acc p s.sq.em es) (retire 1 rb s) =
      countAccesses s.core.id s.launch.asid vas (takePlace (loadAcc s.sq.seq p s.sq.em es (retire 1 rb s))) :=
    congrArg (countAccesses s.core.id s.launch.asid vas) (if_neg (by rw [readBlocked_retire]; exact Bool.eq_false_iff.1 hr))
  obtain ⟨hkept, hretired, htiles⟩ := loadAcc_effect (p := p) (s := s) s.sq.seq s.sq.em es (retire 1 rb s)
  have hcounted := countAccesses_counted s.core.id s.launch.asid vas (takePlace (loadAcc s.sq.seq p s.sq.em es (retire 1 rb s)))
  rw [hnow]
  generalize countAccesses _ _ _ _ = u at hcounted ⊢
  have hcore : u.core.z = vset s.core.z p (loadedTile s.sq.seq es (retire 1 rb s) (vget s.core.z p)) := by
    rw [hcounted.outside]
    exact htiles
  obtain ⟨hlclk, hnext⟩ := hretired (retired_retire rb s)
  refine ⟨(hkept.trans (RegsKept.of_sq hcounted.sq)).of_retire, ⟨?_, ?_⟩, fun k hk => ?_, fun i k hi hk => ?_⟩
  · rw [hcounted.sq, hlclk]
  · rw [hcounted.sq, hnext]
  · rw [hcore, vget_vset, if_neg fun h => hk h.1.symm]
  · rw [hcore, vget_vset, if_pos ⟨rfl, zPhys_lt hz⟩, loadedTile]
    simp only [readNow_retire]
    rw [zElem_foldl_zPut es (fun va => BitVec.ofNat 36 (readNow s s.sq.seq va 8))
      (fun i k => (uval s (sReg b) + BitVec.ofNat 64 (512 * i + 8 * k)).toNat) (zElements_address _) _ hi hk]
    simp only [es, mem_zElements _ hk]

end
/-- Settles O38: the three words on owned tiles, and the reports of their checks. -/
theorem accumulatorWords : Obligations.AccumulatorWords := by
  unfold Obligations.AccumulatorWords
  intro c s hbad hpoison
  refine ⟨fun z f h hem hz hbusy => ?clear, fun z f h hem => ?clearEmpty, fun t l x i v f p h hem hz hbusy => ?read,
    fun z b e m p h hem hz hbusy => ?transfer, fun z f h hem hz => ?clearUnowned, fun t l x i v f h hem => ?readFaults,
    fun z b e m h hem => ?transferFaults⟩
  case clear => exact zclr_completes hbad hpoison h hem hz hbusy
  case clearEmpty => exact noAccess_issued (own := ownZclr z f) h rfl (ownZclr_empty hem)
  case read =>
    refine ⟨?_, fun n hf hv hk ht => ?_, ?_⟩
    · rintro rfl hk
      exact zrd_column hbad hpoison h hem hz hbusy hk
    · subst hf hv
      exact zrd_packed hbad hpoison h hem hz hbusy hk ht
    · rintro rfl
      exact zrd_overflow h hem hz hbusy
  case transfer =>
    refine ⟨?_, ?_⟩
    · rintro rfl hc
      exact zxf_store hbad hpoison hem hbusy h hz hc
    · rintro rfl hc hr
      exact zxf_load hbad hpoison h hem hz hbusy hc hr
  case clearUnowned => exact trap_completes (own := ownZclr z f) h rfl (ownZclr_unowned hem hz)
  case readFaults =>
    refine ⟨fun hz => zrd_unowned h hem hz, fun hz hbusy => ?_⟩
    rintro (⟨rfl, hk⟩ | ⟨rfl, hk⟩)
    · exact zrd_outside h hem hz hbusy (by decide) hk
    · exact zrd_outside h hem hz hbusy (by decide) (Nat.lt_of_lt_of_le (Nat.sub_lt (outBytes_pos _) one_pos) hk)
  case transferFaults =>
    refine ⟨fun hz => zNameReport_eq z s ▸ trap_completes (own := ownZxf z b e m) h rfl (ownZxf_unowned hem hz),
      fun hz hbusy => waits_of_wait (own := ownZxf z b e m) h rfl (ownZxf_busy hem hz hbusy), fun hz hbusy => ⟨fun r hr => ?_, ?_⟩⟩
    · exact zxf_faults hbad hpoison hem hbusy h hz hr
    · exact fun l hl ha => zxf_faults hbad hpoison hem hbusy h hz (zxfChecks_unaligned m hl ha)

end Sys2Proof.Machine
end

/-! # Atomics at the point of their scope (R209 to R211, R227, R231, R243, R244) -/

section
namespace Sys2Proof.Machine

-- One after the other, as above: the check's memory limit bounds the stacks of parallel elaboration.
set_option Elab.async false

section
variable {s t u : State} {core : Nat} {k : SquadKey} {cells : List (Nat × Byte)}

/-! ## What a write of a core does to its squads (R205, R244) -/

/-- A squad with its producers changed. -/
def Squad.mapProds (g : Prod → Prod) (q : Squad) : Squad := { q with prods := q.prods.map g }

theorem key_mapProds (g : Prod → Prod) (q : Squad) : (q.mapProds g).key = q.key := rfl

theorem status_mapProds (g : Prod → Prod) (q : Squad) (h : q.status ≠ .absent) : (q.mapProds g).status ≠ .absent := h

/-- A change of producers that keeps their places and kinds, and those of atomics wholly. -/
def Replays (g : Prod → Prod) : Prop :=
  ∀ p, (g p).seq = p.seq ∧ (g p).kind = p.kind ∧ ∀ z uni, p.kind = .atomic z uni → g p = p

/-- Every squad is as before, but for loads that are replayed. -/
def SquadsKept (s t : State) : Prop := ∀ k q, s.findSq k = some q → ∃ g, Replays g ∧ t.findSq k = some (q.mapProds g)

theorem Replays.comp {f g : Prod → Prod} (hf : Replays f) (hg : Replays g) : Replays (g ∘ f) := by
  intro p
  obtain ⟨hs, hk, ha⟩ := hf p
  obtain ⟨hs', hk', ha'⟩ := hg (f p)
  refine ⟨hs'.trans hs, hk'.trans hk, fun z uni h => ?_⟩
  rw [Function.comp_apply, ha' z uni (hk.trans h), ha z uni h]

theorem replays_replayed (s : State) (core asid : Nat) (pas : List Nat) : Replays (Prod.replayed s core asid pas) := by
  intro p
  unfold Prod.replayed
  split
  next h =>
    have hload : ∀ z uni, p.kind ≠ .atomic z uni := fun z uni ha => by rw [ha] at h; cases h
    split
    · exact ⟨rfl, rfl, fun z uni ha => absurd ha (hload z uni)⟩
    · exact ⟨rfl, rfl, fun _ _ _ => rfl⟩
  next => exact ⟨rfl, rfl, fun _ _ _ => rfl⟩

theorem SquadsKept.of_eq (h : ∀ k, t.findSq k = s.findSq k) : SquadsKept s t :=
  fun k q hq => ⟨id, fun _ => ⟨rfl, rfl, fun _ _ _ => rfl⟩, by rw [h, hq, Squad.mapProds, List.map_id]⟩

theorem SquadsKept.trans (h : SquadsKept s t) (h' : SquadsKept t u) : SquadsKept s u := by
  intro k q hq
  obtain ⟨f, hf, hq'⟩ := h k q hq
  obtain ⟨g, hg, hq''⟩ := h' k _ hq'
  exact ⟨g ∘ f, hf.comp hg, by rw [hq'', Squad.mapProds, Squad.mapProds, Squad.mapProds, List.map_map]⟩

theorem squadsKept_updSq {f : Squad → Squad} (hf : ∀ q, ∃ g, Replays g ∧ f q = q.mapProds g) (k : SquadKey) (s : State) :
    SquadsKept s (s.updSq k f) := by
  have hkey (q : Squad) : (f q).key = q.key := by
    obtain ⟨g, -, h⟩ := hf q
    rw [h, key_mapProds]
  have hstatus (q : Squad) (hq : q.status ≠ .absent) : (f q).status ≠ .absent := by
    obtain ⟨g, -, h⟩ := hf q
    rw [h]
    exact status_mapProds g q hq
  intro j q hq
  by_cases hj : j = k
  · subst hj
    obtain ⟨g, hg, h⟩ := hf q
    exact ⟨g, hg, by rw [findSq_updSq _ _ _ hkey hstatus, hq, Option.map_some, h]⟩
  · obtain ⟨g, hg, h⟩ := SquadsKept.of_eq (fun k => rfl) j q hq
    exact ⟨g, hg, (findSq_updSq_other s k j f hj hkey hstatus).trans h⟩

/-- The replays of a squad's loads. -/
def Squad.replay (s : State) (core : Nat) (pas : List Nat) (q : Squad) : Squad :=
  q.mapProds (Prod.replayed s core (s.getLaunch q.key.lid).asid pas)

theorem replay_mapProds (s : State) (core : Nat) (pas : List Nat) (q : Squad) :
    ∃ g, Replays g ∧ q.replay s core pas = q.mapProds g := ⟨_, replays_replayed s core _ pas, rfl⟩

/-- The replays of the loads of some squads. -/
def replaySquads (s : State) (core : Nat) (pas : List Nat) (qs : List Squad) (t : State) : State :=
  qs.foldl (fun t q => if q.prods.any (fun p => !p.got.isEmpty) then t.updSq q.key (Squad.replay s core pas) else t) t

theorem dropL1_eq (core : Nat) (cells : List (Nat × Byte)) (s : State) : dropL1 core cells s =
    let u := s.updCore core (Core.dropLines (cells.map (·.1)))
    replaySquads u core (cells.map (·.1)) (u.coreSquads core) u := by
  unfold dropL1 replaySquads Squad.replay Squad.mapProds
  rfl

theorem replaySquads_cons (core : Nat) (pas : List Nat) (q : Squad) (qs : List Squad) : replaySquads s core pas (q :: qs) t =
    replaySquads s core pas qs
      (if q.prods.any (fun p => !p.got.isEmpty) then t.updSq q.key (Squad.replay s core pas) else t) := rfl

theorem replaySquads_kept (core : Nat) (pas : List Nat) (qs : List Squad) (t : State) :
    SquadsKept t (replaySquads s core pas qs t) := by
  induction qs generalizing t with
  | nil => exact .of_eq fun _ => rfl
  | cons q qs ih =>
    rw [replaySquads_cons]
    refine .trans ?_ (ih _)
    split
    · exact squadsKept_updSq (replay_mapProds s core pas) _ _
    · exact .of_eq fun _ => rfl

theorem replaySquads_outside (core : Nat) (pas : List Nat) (qs : List Squad) (t : State) :
    ∃ sq squads, replaySquads s core pas qs t = { t with sq := sq, squads := squads } := by
  induction qs generalizing t with
  | nil => exact ⟨t.sq, t.squads, rfl⟩
  | cons q qs ih =>
    rw [replaySquads_cons]
    split
    · obtain ⟨sq, squads, h⟩ := ih (t.updSq q.key (Squad.replay s core pas))
      exact ⟨sq, squads, by rw [h, updSq_outside]⟩
    · exact ih t

theorem dropL1_kept (core : Nat) (cells : List (Nat × Byte)) (s : State) : SquadsKept s (dropL1 core cells s) := by
  rw [dropL1_eq]
  refine .trans (.of_eq fun k => ?_) (replaySquads_kept core _ _ _)
  rw [updCore_outside]
  rfl

/-- Dropping the lines of a write leaves all that is on its way or at home. -/
theorem dropL1_outside (core : Nat) (cells : List (Nat × Byte)) (s : State) : ∃ c cs sq squads,
    dropL1 core cells s = { s with core := c, cores := cs, sq := sq, squads := squads }
    ∧ ((dropL1 core cells s).getCore core).merged = (s.getCore core).merged := by
  obtain ⟨sq, squads, h⟩ := replaySquads_outside (s := s.updCore core (Core.dropLines (cells.map (·.1)))) core (cells.map (·.1))
    ((s.updCore core (Core.dropLines (cells.map (·.1)))).coreSquads core) (s.updCore core (Core.dropLines (cells.map (·.1))))
  have hu := updCore_outside s core (Core.dropLines (cells.map (·.1)))
  refine ⟨_, _, sq, squads, ((dropL1_eq core cells s).trans h).trans (by rw [hu]), ?_⟩
  have hcore : (dropL1 core cells s).getCore core = (s.updCore core (Core.dropLines (cells.map (·.1)))).getCore core := by
    rw [dropL1_eq]
    exact congrArg (·.getCore core) h
  rw [hcore, getCore_updCore s core (Core.dropLines (cells.map (·.1))) fun _ => rfl]
  rfl

theorem mem_dropL1 (core : Nat) (cells : List (Nat × Byte)) (s : State) : (dropL1 core cells s).mem = s.mem := by
  obtain ⟨c, cs, sq, squads, h, -⟩ := dropL1_outside core cells s
  rw [h]

theorem mem_updCore (core : Nat) (f : Core → Core) (s : State) : (s.updCore core f).mem = s.mem := by
  rw [updCore_outside]

theorem mem_markDirty (cells : List (Nat × Byte)) (s : State) : (markDirty cells s).mem = s.mem := rfl

theorem getCore_markDirty (cells : List (Nat × Byte)) (s : State) (i : Nat) : (markDirty cells s).getCore i = s.getCore i := rfl

/-! ## The bytes of a naturally aligned access (R199, R231) -/

theorem mem_span {a n x : Nat} : x ∈ span a n ↔ a ≤ x ∧ x < a + n := by
  induction n generalizing a with
  | zero => simp [span]
  | succ n ih =>
    rw [span, List.mem_cons, ih]
    omega

theorem ofBytes_lt (bs : List Byte) : ofBytes bs < 2 ^ (8 * bs.length) := by
  induction bs with
  | nil => exact Nat.one_pos
  | cons b bs ih =>
    have hb := b.isLt
    rw [ofBytes, List.length_cons, Nat.mul_succ, Nat.pow_add]
    omega

theorem length_span (a n : Nat) : (span a n).length = n := by
  induction n generalizing a with
  | zero => rfl
  | succ n ih => rw [span, List.length_cons, ih]

theorem lineOf_access {pa n x : Nat} (hn : n = 4 ∨ n = 8) (ha : pa % n = 0) (hx : x ∈ span pa n) : lineOf x = lineOf pa := by
  rw [mem_span] at hx
  unfold lineOf
  rcases hn with rfl | rfl <;> omega

theorem dedup_constant {α β : Type} [BEq β] [LawfulBEq β] (f : α → β) (b : β) (l : List α) (hl : l ≠ []) (hf : ∀ x ∈ l, f x = b) :
    dedup (l.map f) = [b] := by
  have hrest : ∀ r : List α, (∀ x ∈ r, f x = b) →
      (r.map f).foldl (fun acc x => if acc.contains x then acc else acc ++ [x]) [b] = [b] := by
    intro r
    induction r with
    | nil => exact fun _ => rfl
    | cons x r ih =>
      intro h
      rw [List.map_cons, List.foldl_cons, h x List.mem_cons_self, if_pos (by simp)]
      exact ih fun y hy => h y (List.mem_cons_of_mem _ hy)
  cases l with
  | nil => exact absurd rfl hl
  | cons x r =>
    rw [dedup, List.map_cons, List.foldl_cons, hf x List.mem_cons_self]
    exact hrest r fun y hy => hf y (List.mem_cons_of_mem _ hy)

/-- Cells of one line enter the merge unit as one entry. -/
theorem byLine_single {ln : Nat} (hne : cells ≠ []) (h : ∀ c ∈ cells, lineOf c.1 = ln) : byLine cells = [cells] := by
  rw [byLine, dedup_constant (fun c : Nat × Byte => lineOf c.1) ln cells hne h, List.map_singleton,
    List.filter_eq_self.2 fun c hc => by rw [h c hc, beq_self_eq_true]]

/-! ## Writes at the three points (R209, R227, R231) -/

/-- An entry of the store merge unit. -/
def Core.merging (k : SquadKey) (seq : Nat) (cells : List (Nat × Byte)) (c : Core) : Core :=
  { c with merged := c.merged ++ [⟨c.mstamp, k, seq, cells⟩], mstamp := c.mstamp + 1 }

theorem pushMerged_single {seq ln : Nat} (hne : cells ≠ []) (h : ∀ c ∈ cells, lineOf c.1 = ln) (k : SquadKey) (s : State) :
    pushMerged core k seq cells s = markDirty cells (dropL1 core cells (s.updCore core (Core.merging k seq cells))) := by
  rw [pushMerged, byLine_single hne h]
  rfl

/-- What a write leaves, at whatever point: the squads but for replays, and a well-formed memory. -/
structure Written (s t : State) : Prop where
  squads : SquadsKept s t
  wf : s.mem.wf = true → t.mem.wf = true

theorem dropL1_written (core : Nat) (cells : List (Nat × Byte)) (s : State) : Written s (dropL1 core cells s) :=
  ⟨dropL1_kept core cells s, fun hw => by rw [mem_dropL1]; exact hw⟩

theorem Written.trans (h : Written s t) (h' : Written t u) : Written s u := ⟨h.squads.trans h'.squads, h'.wf ∘ h.wf⟩

theorem homeWrite_written (cells : List (Nat × Byte)) (s : State) : Written s (homeWrite cells s) :=
  ⟨.of_eq fun _ => rfl, fun hw => Memory.writeCells_wf hw cells⟩

theorem updCore_written (core : Nat) (f : Core → Core) (s : State) : Written s (s.updCore core f) := by
  rw [updCore_outside]
  exact ⟨.of_eq fun _ => rfl, id⟩

theorem markDirty_written (cells : List (Nat × Byte)) (s : State) : Written s (markDirty cells s) := ⟨.of_eq fun _ => rfl, id⟩

/-- A write into the merge unit: behind its youngest entry. -/
theorem pushMerged_effect {seq ln : Nat} (hne : cells ≠ []) (h : ∀ c ∈ cells, lineOf c.1 = ln) (k : SquadKey) (s : State) :
    Written s (pushMerged core k seq cells s) ∧ (pushMerged core k seq cells s).mem = s.mem
      ∧ ((pushMerged core k seq cells s).getCore core).merged =
        (s.getCore core).merged ++ [⟨(s.getCore core).mstamp, k, seq, cells⟩] := by
  rw [pushMerged_single hne h]
  obtain ⟨-, -, -, -, -, hmerged⟩ := dropL1_outside core cells (s.updCore core (Core.merging k seq cells))
  refine ⟨((updCore_written core _ s).trans (dropL1_written core cells _)).trans (markDirty_written cells _), ?_, ?_⟩
  · rw [mem_markDirty, mem_dropL1, mem_updCore]
  · rw [getCore_markDirty, hmerged, getCore_updCore s core (Core.merging k seq cells) fun _ => rfl]
    rfl

theorem homeOf_markDirty_dropL1 (core : Nat) (cells : List (Nat × Byte)) (s : State) :
    homeOf (markDirty cells (dropL1 core cells s)) = homeOf s := by
  obtain ⟨c, cs, sq, squads, h, -⟩ := dropL1_outside core cells s
  rw [h]
  rfl

/-- A write at its own home. -/
theorem homeWrite_effect (core : Nat) (cells : List (Nat × Byte)) (hw : s.mem.wf = true) :
    Written s (homeWrite cells (dropL1 core cells s)) ∧ Stored cells s.mem (homeWrite cells (dropL1 core cells s)).mem := by
  refine ⟨(dropL1_written core cells s).trans (homeWrite_written cells _), ?_⟩
  have hmem := mem_dropL1 core cells s
  exact hmem ▸ homeWrite_stored (hmem ▸ hw) cells

/-- A write at a die that is its home. -/
theorem dieAccept_home {d seq : Nat} (h : ∀ c ∈ cells, homeOf s c.1 = d) : dieAccept d k seq cells s = homeWrite cells s :=
  if_pos (List.all_eq_true.2 fun c hc => beq_iff_eq.2 (h c hc))

/-- An entry that is pending at a die. -/
def Die.pending (k : SquadKey) (seq : Nat) (cells : List (Nat × Byte)) (q : Die) : Die :=
  { q with pend := q.pend ++ [⟨q.pstamp, k, seq, cells⟩], pstamp := q.pstamp + 1 }

/-- A write that waits at a die where none is pending. -/
theorem dieAccept_pends {d seq : Nat} {c : Nat × Byte} (hc : c ∈ cells) (h : homeOf s c.1 ≠ d) (hp : (s.getDie d).pend = []) :
    dieAccept d k seq cells s = s.updDie d (Die.pending k seq cells) := by
  have hroom : roomInL2 d s = s := by rw [roomInL2, hp]
  rw [dieAccept, if_neg fun hall => h (beq_iff_eq.1 (List.all_eq_true.1 hall c hc)), hroom]
  rfl

theorem dieAccept_written {d seq : Nat} (hp : (s.getDie d).pend = []) : Written s (dieAccept d k seq cells s) := by
  by_cases h : ∀ c ∈ cells, homeOf s c.1 = d
  · rw [dieAccept_home h]
    exact homeWrite_written cells s
  · push Not at h
    obtain ⟨c, hc, h⟩ := h
    rw [dieAccept_pends hc h hp]
    exact ⟨.of_eq fun _ => rfl, id⟩

theorem findDie_of_exists {d : Nat} (h : ∃ y ∈ s.dies.toList, y.id = d) : s.dies.toList.find? (·.id == d) = some (s.getDie d) := by
  obtain ⟨y, hy, hid⟩ := h
  obtain ⟨z, hz⟩ := Option.isSome_iff_exists.1 ((List.find?_isSome (p := fun z : Die => z.id == d)).2 ⟨y, hy, by simpa using hid⟩)
  rw [State.getDie, hz]
  rfl

/-- The one entry that is pending at a die behind a write that waits there. -/
theorem dieAccept_entry {d seq : Nat} {c : Nat × Byte} (hc : c ∈ cells) (h : homeOf s c.1 ≠ d) (hp : (s.getDie d).pend = [])
    (hd : ∃ y ∈ s.dies.toList, y.id = d) : (dieAccept d k seq cells s).mem = s.mem
      ∧ ((dieAccept d k seq cells s).getDie d).pend = [⟨(s.getDie d).pstamp, k, seq, cells⟩] := by
  rw [dieAccept_pends hc h hp]
  refine ⟨rfl, ?_⟩
  rw [getDie_updDie (f := Die.pending k seq cells) (findDie_of_exists hd) fun _ => rfl, Die.pending, hp]
  rfl

/-! ## The bytes on their way (R227, R231) -/

theorem lastCell_foldl (a : Nat) (l : List (Nat × Byte)) (acc : Option Byte) :
    l.foldl (fun acc c => if c.1 = a then some c.2 else acc) acc = (lastCell l a).or acc := by
  induction l generalizing acc with
  | nil => rfl
  | cons c l ih =>
    rw [List.foldl_cons, ih, lastCell, Option.or_assoc]
    split <;> rfl

theorem lastCell_append (l r : List (Nat × Byte)) (a : Nat) : lastCell (l ++ r) a = (lastCell r a).or (lastCell l a) := by
  induction l with
  | nil => exact (Option.or_none ..).symm
  | cons c l ih => rw [List.cons_append, lastCell, ih, lastCell, Option.or_assoc]

theorem pendingByte_eq (l : List Pending) (a : Nat) : pendingByte l a = lastCell (l.flatMap (·.cells)) a := by
  have hfold : ∀ acc, l.foldl (fun acc e => e.cells.foldl (fun acc c => if c.1 = a then some c.2 else acc) acc) acc =
      (lastCell (l.flatMap (·.cells)) a).or acc := by
    induction l with
    | nil => exact fun _ => rfl
    | cons e l ih =>
      intro acc
      rw [List.foldl_cons, ih, lastCell_foldl, List.flatMap_cons, lastCell_append, Option.or_assoc]
  rw [pendingByte, hfold, Option.or_none]

theorem coreByte_eq (s : State) (core a : Nat) : coreByte s core a = (lastCell (cellsOnWay s core) a).getD (s.mem.read a) := by
  rw [coreByte, dieByte, pendingByte_eq, pendingByte_eq, cellsOnWay, lastCell_append]
  cases lastCell ((s.getCore core).merged.flatMap (·.cells)) a <;> rfl

/-- The value that an atomic of a core finds. -/
def oldValue (s : State) (core pa n : Nat) : Nat :=
  ofBytes ((span pa n).map fun a => (lastCell (cellsOnWay s core) a).getD (s.mem.read a))

theorem oldValue_lt (s : State) (core pa n : Nat) : oldValue s core pa n < 2 ^ (8 * n) := by
  have h := ofBytes_lt ((span pa n).map fun a => (lastCell (cellsOnWay s core) a).getD (s.mem.read a))
  rwa [List.length_map, length_span] at h

/-! ## The point of a scope (R210, R243) -/

/-- Nothing stands between the core and the point of an atomic's scope. -/
def PathFree (s : State) (core : Nat) (scope : Scope) (pa : Nat) : Prop :=
  (scope = .team ∧ pa < 2 ^ 40) ∨ ((s.getCore core).merged = [] ∧ (s.getDie (dieOf core)).pend = [])

variable {scope : Scope} {pa n seq : Nat}

theorem effScope_low (h : pa < 2 ^ 40) : effScope scope pa = scope :=
  if_neg (by simpa [outside] using h)

theorem effScope_team (h : scope = .team ∧ pa < 2 ^ 40) : effScope scope pa = .team := (effScope_low h.2).trans h.1

theorem effScope_far (hs : scope ≠ .squad) (ht : ¬ (scope = .team ∧ pa < 2 ^ 40)) (hd : ¬ (scope = .die ∧ pa < 2 ^ 40)) :
    effScope scope pa = .device ∨ effScope scope pa = .system := by
  by_cases hpa : pa < 2 ^ 40
  · rw [effScope_low hpa]
    cases scope with
    | squad => exact absurd rfl hs
    | team => exact absurd ⟨rfl, hpa⟩ ht
    | die => exact absurd ⟨rfl, hpa⟩ hd
    | device => exact .inl rfl
    | system => exact .inr rfl
  · exact .inr (if_pos (by simpa [outside] using hpa))

theorem drainCoreLine_nil (ln : Nat) (h : (s.getCore core).merged = []) : drainCoreLine core ln s = s := by
  rw [drainCoreLine, h]
  rfl

theorem drainDieLine_nil {d : Nat} (ln : Nat) (h : (s.getDie d).pend = []) : drainDieLine d ln s = s := by
  rw [drainDieLine, h]
  rfl

theorem atomicReady_free (h : PathFree s core scope pa) : atomicReady core scope pa s = s := by
  rcases h with h | ⟨hm, hp⟩
  · rw [atomicReady, effScope_team h]
  · unfold atomicReady
    split
    · rfl
    · rfl
    · exact drainCoreLine_nil _ hm
    · rw [drainCoreLine_nil _ hm, drainDieLine_nil _ hp]
    · rw [drainCoreLine_nil _ hm, drainDieLine_nil _ hp]

theorem atomicOld_free (h : PathFree s core scope pa) : atomicOld core scope pa n s = BitVec.ofNat 64 (oldValue s core pa n) := by
  rw [atomicOld, oldValue]
  congr 3
  funext a
  rcases h with h | ⟨hm, hp⟩
  · rw [effScope_team h]
    exact coreByte_eq s core a
  · have hway : cellsOnWay s core = [] := by rw [cellsOnWay, hm, hp]; rfl
    have hdie : dieByte s (dieOf core) a = s.mem.read a := by rw [dieByte, hp]; rfl
    cases effScope scope pa with
    | squad | team => exact coreByte_eq s core a
    | die => rw [hway]; exact hdie
    | device | system => rw [hway]; rfl

/-! ## The operations (R209, R211, Table 9-7) -/

theorem operates_atomicOp {w : Nat} {opn : BitVec 4} (h : opn.toNat < 12) (hw : 9 ≤ opn.toNat → w = 32) (old x : BitVec w) :
    operates opn.toNat w old x (atomicOp opn w old x) := by
  unfold atomicOp
  generalize opn.toNat = o at h hw
  by_cases ho : 9 ≤ o
  · obtain rfl := hw ho
    interval_cases o <;> simp [operates]
  · have ho : o < 9 := by omega
    interval_cases o <;> simp [operates, BitVec.slt, BitVec.ult, BitVec.ofNat_add]

variable {cas : Option DWord} {opn : BitVec 4} {x : DWord} {old : Nat}

theorem toNat_old (hn : n = 4 ∨ n = 8) (ho : old < 2 ^ (8 * n)) : (BitVec.ofNat 64 old).toNat = old := by
  rw [BitVec.toNat_ofNat]
  rcases hn with rfl | rfl
  · exact Nat.mod_eq_of_lt (by omega)
  · exact Nat.mod_eq_of_lt ho

theorem atomicHits_iff (hn : n = 4 ∨ n = 8) (ho : old < 2 ^ (8 * n)) :
    atomicHits n cas (BitVec.ofNat 64 old) = true ↔ ∀ e, cas = some e → old = e.toNat % 2 ^ (8 * n) := by
  cases cas with
  | none => simp [atomicHits]
  | some e =>
    simp only [atomicHits, beq_iff_eq, toNat_old hn ho, Nat.mod_eq_of_lt ho, Option.some.injEq]
    exact ⟨fun h e' he => he ▸ h, fun h => h e rfl⟩

theorem atomicNew_cas {e : DWord} (hn : n = 4 ∨ n = 8) (ho : old < 2 ^ (8 * n)) (h : old = e.toNat % 2 ^ (8 * n)) :
    atomicNew opn n (some e) (BitVec.ofNat 64 old) x = x := by
  refine if_pos ?_
  rw [toNat_old hn ho, Nat.mod_eq_of_lt ho, h]

theorem atomicNew_op (h12 : opn.toNat < 12) (h4 : 9 ≤ opn.toNat → n = 4) :
    if n = 4 then ∃ y : Word, operates opn.toNat 32 (BitVec.ofNat 32 old) (x.setWidth 32) y
        ∧ (atomicNew opn n none (BitVec.ofNat 64 old) x).toNat = y.toNat
      else ∃ y : DWord, operates opn.toNat 64 (BitVec.ofNat 64 old) x y
        ∧ (atomicNew opn n none (BitVec.ofNat 64 old) x).toNat = y.toNat := by
  unfold atomicNew
  split
  case isTrue =>
    have hold : (BitVec.ofNat 64 old).setWidth 32 = BitVec.ofNat 32 old := BitVec.setWidth_ofNat_of_le (by decide) old
    refine ⟨_, operates_atomicOp h12 (fun _ => rfl) _ _, ?_⟩
    simp only [hold, BitVec.toNat_setWidth]
    exact Nat.mod_eq_of_lt (by omega)
  case isFalse hn => exact ⟨_, operates_atomicOp h12 (fun h => absurd (h4 h) hn) _ _, rfl⟩

end
end Sys2Proof.Machine
end

/-! # MERGE_STEP of an atomic (R209 to R211, R230, R231) -/

section
namespace Sys2Proof.Machine

-- One after the other, as above: the check's memory limit bounds the stacks of parallel elaboration.
set_option Elab.async false

section
variable {s t : State} {core : Nat} {k : SquadKey} {q : Squad} {tm : Team} {rest : List SEntry} {e : SEntry}
  {seq lane va pa n asid : Nat} {scope : Scope} {opn : BitVec 4} {cas : Option DWord} {x : DWord} {ret : Bool}

/-! ## The write of the new value -/

/-- The cells of a naturally aligned datum lie in its line. -/
theorem lineOf_datum (hn : n = 4 ∨ n = 8) (ha : pa % n = 0) (v : Nat) : ∀ c ∈ cellsAt pa (toBytes n v), lineOf c.1 = lineOf pa := by
  intro c hc
  have h := mem_cellsAt hc
  rw [length_toBytes] at h
  exact lineOf_access hn ha (mem_span.2 h)

theorem datum_ne_nil (hn : n = 4 ∨ n = 8) (v : Nat) : cellsAt pa (toBytes n v) ≠ [] := by
  rcases hn with rfl | rfl <;> exact List.cons_ne_nil _ _

theorem home_datum (h : ∀ a, a ∈ span pa n → homeOf s a = homeOf s pa) (v : Nat) :
    ∀ c ∈ cellsAt pa (toBytes n v), homeOf s c.1 = homeOf s pa := by
  intro c hc
  have hc := mem_cellsAt hc
  rw [length_toBytes] at hc
  exact h _ (mem_span.2 hc)

theorem atomicWrite_team (h : scope = .team ∧ pa < 2 ^ 40) : atomicWrite core k seq scope pa n x s =
    pushMerged core k seq (cellsAt pa (toBytes n x.toNat)) s := by
  rw [atomicWrite, effScope_team h]

theorem atomicWrite_die (h : scope = .die ∧ pa < 2 ^ 40) : atomicWrite core k seq scope pa n x s =
    dieAccept (dieOf core) k seq (cellsAt pa (toBytes n x.toNat)) (markDirty (cellsAt pa (toBytes n x.toNat))
      (dropL1 core (cellsAt pa (toBytes n x.toNat)) s)) := by
  rw [atomicWrite, effScope_low h.2, h.1]

theorem atomicWrite_far (hs : scope ≠ .squad) (ht : ¬ (scope = .team ∧ pa < 2 ^ 40)) (hd : ¬ (scope = .die ∧ pa < 2 ^ 40)) :
    atomicWrite core k seq scope pa n x s =
      homeWrite (cellsAt pa (toBytes n x.toNat)) (dropL1 core (cellsAt pa (toBytes n x.toNat)) s) := by
  rcases effScope_far hs ht hd with h | h <;> rw [atomicWrite, h]

theorem pend_markDirty_dropL1 (core d : Nat) (cells cells' : List (Nat × Byte)) (s : State) :
    (markDirty cells' (dropL1 core cells s)).getDie d = s.getDie d := by
  obtain ⟨c, cs, sq, squads, h, -⟩ := dropL1_outside core cells s
  rw [h]
  rfl

theorem PathFree.pend_nil (h : PathFree s core scope pa) (ht : ¬ (scope = .team ∧ pa < 2 ^ 40)) : (s.getDie (dieOf core)).pend = [] :=
  (h.resolve_left ht).2

theorem atomicWrite_written (hfree : PathFree s core scope pa) (hs : scope ≠ .squad) (hn : n = 4 ∨ n = 8) (ha : pa % n = 0) :
    Written s (atomicWrite core k seq scope pa n x s) := by
  by_cases ht : scope = .team ∧ pa < 2 ^ 40
  · rw [atomicWrite_team ht]
    exact (pushMerged_effect (datum_ne_nil hn _) (lineOf_datum hn ha _) k s).1
  · by_cases hd : scope = .die ∧ pa < 2 ^ 40
    · rw [atomicWrite_die hd]
      refine ((dropL1_written core _ s).trans (markDirty_written _ _)).trans (dieAccept_written ?_)
      rw [pend_markDirty_dropL1]
      exact hfree.pend_nil ht
    · rw [atomicWrite_far hs ht hd]
      exact (dropL1_written core _ s).trans (homeWrite_written _ _)

/-- Where the new value of an atomic goes. -/
def AtomicPlaced (core : Nat) (k : SquadKey) (seq : Nat) (scope : Scope) (pa n v : Nat) (s t : State) : Prop :=
  let cells := cellsAt pa (toBytes n v)
  if scope = .team ∧ pa < 2 ^ 40 then (∀ a, t.mem.read a = s.mem.read a)
    ∧ ∃ stamp, (t.getCore core).merged = (s.getCore core).merged ++ [⟨stamp, k, seq, cells⟩]
  else if scope = .die ∧ pa < 2 ^ 40 ∧ homeOf s pa ≠ dieOf core then
    (∃ y ∈ s.dies.toList, y.id = dieOf core) → (∀ a, a ∈ span pa n → homeOf s a = homeOf s pa) →
      (∀ a, t.mem.read a = s.mem.read a) ∧ ∃ stamp, (t.getDie (dieOf core)).pend = [⟨stamp, k, seq, cells⟩]
  else (∀ a, a ∈ span pa n → homeOf s a = homeOf s pa) → Stored cells s.mem t.mem

theorem AtomicPlaced.congr {v : Nat} {t' : State} (h : AtomicPlaced core k seq scope pa n v s t) (hmem : t'.mem = t.mem)
    (hcore : t'.getCore core = t.getCore core) (hdie : t'.getDie (dieOf core) = t.getDie (dieOf core)) :
    AtomicPlaced core k seq scope pa n v s t' := by
  unfold AtomicPlaced
  rw [hmem, hcore, hdie]
  exact h

theorem atomicWrite_placed (hw : s.mem.wf = true) (hfree : PathFree s core scope pa) (hs : scope ≠ .squad) (hn : n = 4 ∨ n = 8)
    (ha : pa % n = 0) : AtomicPlaced core k seq scope pa n x.toNat s (atomicWrite core k seq scope pa n x s) := by
  unfold AtomicPlaced
  by_cases ht : scope = .team ∧ pa < 2 ^ 40
  · rw [if_pos ht, atomicWrite_team ht]
    obtain ⟨-, hmem, hmerged⟩ := pushMerged_effect (core := core) (seq := seq) (datum_ne_nil hn x.toNat) (lineOf_datum hn ha _) k s
    exact ⟨fun a => by rw [hmem], _, hmerged⟩
  rw [if_neg ht]
  by_cases hd : scope = .die ∧ pa < 2 ^ 40
  · rw [atomicWrite_die hd]
    set cells := cellsAt pa (toBytes n x.toNat)
    have hpend := (congrArg Die.pend (pend_markDirty_dropL1 core (dieOf core) cells cells s)).trans (hfree.pend_nil ht)
    have hhome := homeOf_markDirty_dropL1 core cells s
    obtain ⟨c, cs, sq, squads, hdrop, -⟩ := dropL1_outside core cells s
    have hmem : (markDirty cells (dropL1 core cells s)).mem = s.mem := by rw [mem_markDirty, mem_dropL1]
    by_cases haway : homeOf s pa ≠ dieOf core
    · rw [if_pos ⟨hd.1, hd.2, haway⟩]
      intro hdie hall
      obtain ⟨y, hy⟩ := List.exists_mem_of_ne_nil _ (datum_ne_nil (pa := pa) hn x.toNat)
      obtain ⟨hm, hp⟩ := dieAccept_entry (k := k) (seq := seq) hy (by rw [hhome, home_datum hall _ y hy]; exact haway) hpend
        (by rw [hdrop]; exact hdie)
      exact ⟨fun a => by rw [hm, hmem], _, hp⟩
    · rw [if_neg fun h => haway h.2.2]
      intro hall
      rw [dieAccept_home fun c hc => by rw [hhome, home_datum hall _ c hc]; exact not_not.1 haway]
      exact hmem ▸ homeWrite_stored (hmem ▸ hw) cells
  · rw [if_neg fun h => hd ⟨h.1, h.2.1⟩, atomicWrite_far hs ht hd]
    exact fun _ => (homeWrite_effect core _ hw).2

/-! ## One atomic at its point -/

/-- An atomic at the point of its scope: the write of its new value, where it hits. -/
def actAtomic (core : Nat) (k : SquadKey) (seq : Nat) (scope : Scope) (pa n : Nat) (opn : BitVec 4) (cas : Option DWord) (x : DWord)
    (s : State) : State :=
  let old := BitVec.ofNat 64 (oldValue s core pa n)
  if atomicHits n cas old then atomicWrite core k seq scope pa n (atomicNew opn n cas old x) s
  else dropL1 core (cellsAt pa (List.replicate n 0#8)) s

theorem actAtomic_written (hfree : PathFree s core scope pa) (hs : scope ≠ .squad) (hn : n = 4 ∨ n = 8) (ha : pa % n = 0) :
    Written s (actAtomic core k seq scope pa n opn cas x s) := by
  unfold actAtomic
  dsimp only
  split
  · exact atomicWrite_written hfree hs hn ha
  · exact dropL1_written core _ s

theorem actAtomic_misses {e : DWord} (hn : n = 4 ∨ n = 8) (he : cas = some e) (h : oldValue s core pa n ≠ e.toNat % 2 ^ (8 * n)) :
    let t := actAtomic core k seq scope pa n opn cas x s
    t.mem = s.mem ∧ (t.getCore core).merged = (s.getCore core).merged
      ∧ (t.getDie (dieOf core)).pend = (s.getDie (dieOf core)).pend := by
  have hmiss : ¬ atomicHits n cas (BitVec.ofNat 64 (oldValue s core pa n)) = true := fun hh =>
    h ((atomicHits_iff hn (oldValue_lt s core pa n)).1 hh e he)
  obtain ⟨c, cs, sq, squads, hdrop, hmerged⟩ := dropL1_outside core (cellsAt pa (List.replicate n 0#8)) s
  simp only [actAtomic, if_neg hmiss]
  refine ⟨mem_dropL1 .., hmerged, ?_⟩
  rw [hdrop]
  rfl

theorem actAtomic_hits (hw : s.mem.wf = true) (hfree : PathFree s core scope pa) (hs : scope ≠ .squad) (hn : n = 4 ∨ n = 8)
    (ha : pa % n = 0) (h : ∀ e, cas = some e → oldValue s core pa n = e.toNat % 2 ^ (8 * n)) :
    AtomicPlaced core k seq scope pa n (atomicNew opn n cas (BitVec.ofNat 64 (oldValue s core pa n)) x).toNat s
      (actAtomic core k seq scope pa n opn cas x s) := by
  simp only [actAtomic, if_pos ((atomicHits_iff hn (oldValue_lt s core pa n)).2 h)]
  exact atomicWrite_placed hw hfree hs hn ha

/-! ## The value that returns (R212) -/

/-- The atomic at a place of a squad's program order returns one value for all its lanes. -/
def returnsUniform (seq : Nat) (q : Squad) : Bool :=
  q.prods.any fun p => p.seq == seq && (match p.kind with | .atomic _ u => u | _ => false)

/-- A producer that has the value of one more lane. -/
def Prod.gotten (seq lane : Nat) (vals : List DWord) (p : Prod) : Prod :=
  if p.seq = seq then { p with got := p.got ++ [(lane, vals)] } else p

theorem noteGot_eq (vals : List DWord) (s : State) :
    noteGot k seq lane vals s = s.updSq k (Squad.mapProds (Prod.gotten seq lane vals)) := rfl

/-- What is left to do for an atomic that has been performed: its old value returns. -/
def returnOld (k : SquadKey) (seq lane n : Nat) (ret : Bool) (old : DWord) (t : State) : State :=
  if ret then noteGot k seq lane (splitVal (returnsUniform seq (t.getSq k)) (if n = 8 then 3#2 else 2#2) old) t else t

theorem performEntry_atomic (hpa : phys s core asid va = some pa) (hfree : PathFree s core scope pa) :
    performEntry core asid k ⟨seq, .atomic lane va scope n opn cas x ret⟩ s =
      returnOld k seq lane n ret (BitVec.ofNat 64 (oldValue s core pa n)) (actAtomic core k seq scope pa n opn cas x s) := by
  simp only [performEntry, hpa, Option.getD_some, atomicReady_free hfree, atomicOld_free hfree]
  rfl

/-- What returns an old value changes squads and releases alone. -/
theorem returnOld_outside (old : DWord) (t : State) :
    (settle (returnOld k seq lane n ret old t)).mem = t.mem
    ∧ (settle (returnOld k seq lane n ret old t)).getCore core = t.getCore core
    ∧ (settle (returnOld k seq lane n ret old t)).getDie (dieOf core) = t.getDie (dieOf core) := by
  obtain ⟨sq, squads, h⟩ : ∃ sq squads, returnOld k seq lane n ret old t = { t with sq := sq, squads := squads } := by
    unfold returnOld
    split
    · exact ⟨_, _, updSq_outside _ _ _⟩
    · exact ⟨t.sq, t.squads, rfl⟩
  rw [h, settle_outside]
  exact ⟨rfl, rfl, rfl⟩

theorem returnOld_storeq (hq : t.findSq k = some q) (old : DWord) :
    ((settle (returnOld k seq lane n ret old t)).getSq k).storeq = q.storeq := by
  obtain ⟨q', hq', hst⟩ : ∃ q', (returnOld k seq lane n ret old t).findSq k = some q' ∧ q'.storeq = q.storeq := by
    unfold returnOld
    split
    · rw [noteGot_eq, findSq_updSq _ _ _ (key_mapProds _) (status_mapProds _), hq]
      exact ⟨_, rfl, rfl⟩
    · exact ⟨q, hq, rfl⟩
  rw [getSq_settle hq', settleSq_eq]
  exact hst

theorem returnsUniform_eq {g : Prod → Prod} {p : Prod} {z : BitVec 2} {uni : Bool} (hg : Replays g) (hp : p ∈ q.prods)
    (hseq : p.seq = seq) (hone : ∀ r ∈ q.prods, r.seq = seq → r = p) (hk : p.kind = .atomic z uni) :
    returnsUniform seq (q.mapProds g) = uni := by
  rw [Bool.eq_iff_iff, returnsUniform, List.any_eq_true]
  constructor
  · rintro ⟨r, hr, hu⟩
    obtain ⟨r, hr', rfl⟩ := List.mem_map.1 hr
    obtain ⟨hs, hu⟩ := Bool.and_eq_true_iff.1 hu
    obtain rfl := hone r hr' ((hg r).1.symm.trans (beq_iff_eq.1 hs))
    rwa [(hg r).2.1, hk] at hu
  · intro hu
    refine ⟨p, List.mem_map.2 ⟨p, hp, (hg p).2.2 z uni hk⟩, ?_⟩
    simp [hseq, hk, hu]

theorem splitVal_old {old : Nat} (hn : n = 4 ∨ n = 8) (ho : old < 2 ^ (8 * n)) (uni : Bool) :
    splitVal uni (if n = 8 then 3#2 else 2#2) (BitVec.ofNat 64 old) = if uni = true ∨ n = 4 then [BitVec.ofNat 64 old]
      else [BitVec.ofNat 64 (old % 2 ^ 32), BitVec.ofNat 64 (old / 2 ^ 32)] := by
  rcases hn with rfl | rfl
  · simp [splitVal]
  · cases uni with
    | true => simp [splitVal]
    | false =>
      have hlow : ((BitVec.ofNat 64 old).extractLsb' 0 32).setWidth 64 = BitVec.ofNat 64 (old % 2 ^ 32) := by
        apply BitVec.eq_of_toNat_eq
        simp only [BitVec.toNat_setWidth, BitVec.extractLsb'_toNat, BitVec.toNat_ofNat, Nat.shiftRight_zero]
        omega
      have hhigh : ((BitVec.ofNat 64 old).extractLsb' 32 32).setWidth 64 = BitVec.ofNat 64 (old / 2 ^ 32) := by
        apply BitVec.eq_of_toNat_eq
        simp only [BitVec.toNat_setWidth, BitVec.extractLsb'_toNat, BitVec.toNat_ofNat, Nat.shiftRight_eq_div_pow]
        omega
      simp [splitVal, hlow, hhigh]

theorem returnOld_returns {g : Prod → Prod} {p : Prod} {z : BitVec 2} {uni : Bool} {old : Nat} (hn : n = 4 ∨ n = 8)
    (ho : old < 2 ^ (8 * n)) (hg : Replays g) (hq : t.findSq k = some (q.mapProds g)) (hp : p ∈ q.prods) (hseq : p.seq = seq)
    (hone : ∀ r ∈ q.prods, r.seq = seq → r = p) (hk : p.kind = .atomic z uni) :
    { p with got := p.got ++ [(lane, if uni = true ∨ n = 4 then [BitVec.ofNat 64 old]
      else [BitVec.ofNat 64 (old % 2 ^ 32), BitVec.ofNat 64 (old / 2 ^ 32)])] }
      ∈ ((settle (returnOld k seq lane n true (BitVec.ofNat 64 old) t)).getSq k).prods := by
  rw [← splitVal_old hn ho uni, returnOld, if_pos rfl, getSq_of_find hq, returnsUniform_eq hg hp hseq hone hk, noteGot_eq]
  set vals := splitVal uni (if n = 8 then 3#2 else 2#2) (BitVec.ofNat 64 old)
  have hfind : (t.updSq k (Squad.mapProds (Prod.gotten seq lane vals))).findSq k =
      some ((q.mapProds g).mapProds (Prod.gotten seq lane vals)) := by
    rw [findSq_updSq _ _ _ (key_mapProds _) (status_mapProds _), hq, Option.map_some]
  rw [getSq_settle hfind]
  refine List.mem_filter.2 ⟨List.mem_map.2 ⟨p, List.mem_map.2 ⟨p, hp, (hg p).2.2 z uni hk⟩, if_pos hseq⟩, ?_⟩
  simp only [hk]

/-! ## The step -/

/-- A squad whose oldest entry has left its queue. -/
def Squad.dequeued (rest : List SEntry) (q : Squad) : Squad := { q with storeq := rest }

theorem mergeStep_oldest (hq : s.findSq q.key = some q) (ht : s.findTeam q.key.team = some tm) (hc : tm.core = core)
    (hst : q.storeq = e :: rest) (hok : mergeOk s core (s.getLaunch q.key.lid).asid q e = true) :
    exec (.mergeStep core [q.key]) s = .next (settle (performEntry core (s.getLaunch q.key.lid).asid q.key e
      (s.updSq q.key (Squad.dequeued rest)))) := by
  have hone : exec (.mergeStep core [q.key]) s = .next (settle (mergeOne core q.key s)) := rfl
  rw [hone, mergeOne]
  simp only [getSq_of_find hq, hst, getTeam_of_find ht, hc, hok, decide_true, Bool.and_self, if_true]
  rfl

end

/-- Settles O32: the oldest entry of a queue, an atomic with nothing on its way, acts at the point of its scope (R210). -/
theorem atomicPerformed : Obligations.AtomicPerformed := by
  unfold Obligations.AtomicPerformed
  intro s core q tm rest seq lane va pa n scope opn cas x ret hq ht hc hw hst hok hpa hn ha h12 h4 hs hfree
  obtain ⟨sq, squads, hpop⟩ : ∃ sq squads, s.updSq q.key (Squad.dequeued rest) = { s with sq := sq, squads := squads } :=
    ⟨_, _, updSq_outside _ _ _⟩
  have hq' : (s.updSq q.key (Squad.dequeued rest)).findSq q.key = some (q.dequeued rest) := by
    rw [findSq_updSq _ _ _ (fun _ => by rfl) fun _ h => by exact h, hq, Option.map_some]
  have hstep := mergeStep_oldest hq ht hc hst hok
  rw [hpop] at hq' hstep
  set u : State := { s with sq := sq, squads := squads }
  have hfree' : PathFree u core scope pa := hfree
  rw [performEntry_atomic (s := u) (pa := pa) hpa hfree'] at hstep
  obtain ⟨hsquads, hwf⟩ := actAtomic_written (k := q.key) (seq := seq) (opn := opn) (cas := cas) (x := x) hfree' hs hn ha
  obtain ⟨g, hg, hact⟩ := hsquads q.key _ hq'
  obtain ⟨hmem, hcore, hdie⟩ := returnOld_outside (core := core) (k := q.key) (seq := seq) (lane := lane) (n := n) (ret := ret)
    (BitVec.ofNat 64 (oldValue u core pa n)) (actAtomic core q.key seq scope pa n opn cas x u)
  refine ⟨_, hstep, returnOld_storeq hact _, hmem ▸ hwf hw, fun e he hne => ?misses,
    fun hh => ⟨(atomicNew opn n cas (BitVec.ofNat 64 (oldValue u core pa n)) x).toNat, ?operation, ?placed⟩, ?returns⟩
  case misses =>
    obtain ⟨hm, hmerged, hpend⟩ := actAtomic_misses (s := u) (k := q.key) (seq := seq) (scope := scope) (opn := opn) (x := x) hn he hne
    rw [hmem, hcore, hdie]
    exact ⟨fun a => by rw [hm], hmerged, hpend⟩
  case placed =>
    have hplaced : AtomicPlaced core q.key seq scope pa n _ s _ :=
      actAtomic_hits (s := u) (opn := opn) (x := x) hw hfree' hs hn ha hh
    exact hplaced.congr hmem hcore hdie
  case operation =>
    cases cas with
    | some e => exact congrArg BitVec.toNat (atomicNew_cas hn (oldValue_lt u core pa n) (hh e rfl))
    | none => exact atomicNew_op h12 h4
  case returns =>
    rintro rfl p hp hseq hone z uni hk
    exact returnOld_returns hn (oldValue_lt u core pa n) hg hact hp hseq hone hk

end Sys2Proof.Machine
end

/-! # A scratch store that leaves its queue, and the line that its team had read ahead (R206, R231, R244) -/

section
namespace Sys2Proof.Machine
-- One after the other, as above: the check's memory limit bounds the stacks of parallel elaboration.
set_option Elab.async false

/-- A squad whose oldest entry is a store to the scratch line that its core holds as one that the squad had read ahead. -/
def stStoreAhead : State := { State.reset with
  sq := { Squad.empty with status := .live, storeq := [⟨0, .scratch [(0, 1#8)]⟩] }
  team := { Team.empty with status := .running }
  core := { Core.fresh 0 with ahead := [⟨⟨0, 0, 0⟩, 0, true, 0, []⟩] } }

/-- The store that merges forgets the line (R206, R244). -/
theorem scratchStore_forgets {t : State} (h : exec (.mergeStep 0 [stStoreAhead.sq.key]) stStoreAhead = .next t) : t.core.ahead = [] := by
  have hstep := mergeStep_oldest (s := stStoreAhead) (q := stStoreAhead.sq) rfl rfl rfl rfl (by decide)
  obtain rfl := Host.Outcome.next.inj (h.symm.trans hstep)
  rfl

/-- Refutes O30: a scratch store that merges also drops, from its core, the line of scratch that its team had read ahead, so
that the core is not as before. -/
theorem not_storeTravels : ¬ Obligations.StoreTravels := by
  unfold Obligations.StoreTravels
  rintro ⟨hqueue, -⟩
  obtain ⟨hscratch, -⟩ := hqueue stStoreAhead 0 stStoreAhead.sq stStoreAhead.team ⟨0, .scratch [(0, 1#8)]⟩ [] [(0, 1#8)]
    rfl rfl rfl rfl (by decide)
  obtain ⟨t, ht, -, -, -, -, hcore, -⟩ := hscratch rfl rfl
  have hahead : t.core.ahead = stStoreAhead.core.ahead := by rw [hcore]
  rw [scratchStore_forgets ht] at hahead
  exact absurd hahead (by decide)

end Sys2Proof.Machine
end

/-! # Engine commands start (R236, R255 to R263, R299, R300) -/

section
namespace Sys2Proof.Machine

-- One after the other, as above: the check's memory limit bounds the stacks of parallel elaboration.
set_option Elab.async false

section
variable {s : State} {i : Instr} {fn : Nat} {d : Opnd} {a b : BitVec 5}

/-! ## The twelve words -/

/-- The words of the engines, each with its function (Table 9-8). -/
def engineWords (c : Bool) (d : Opnd) (a b : BitVec 5) : List (Instr × Nat) :=
  [(.engStk c d a b, 0), (.engCpy c d a b, 1), (.engDense c d a b, 2), (.engSpar c d a b, 3), (.engDsp c d a, 4),
    (.engCmb c d a b, 5), (.engQapp c d a b, 6), (.engGcond c d a b, 7), (.engLvlw c d a b, 8), (.engCancel c d a b, 9),
    (.engHash c d a, 10), (.engKgrow c d a b, 11)]

/-- The register of the second operand: DSP and HASH have none. -/
def secondOf (fn : Nat) (b : BitVec 5) : BitVec 5 := if fn = 4 ∨ fn = 10 then 0#5 else b

/-- Each of the words is `engWord` of its function, with a ticket of class S. -/
theorem engineWord_own {c : Bool} (hi : (i, fn) ∈ engineWords c d a b) (s : State) :
    exec i s = issueWord i (engWord fn d a (secondOf fn b)) s ∧ (i.wf = true → d.isS = true) := by
  simp only [engineWords, List.mem_cons, List.not_mem_nil, or_false] at hi
  rcases hi with ⟨rfl, rfl⟩ | ⟨rfl, rfl⟩ | ⟨rfl, rfl⟩ | ⟨rfl, rfl⟩ | ⟨rfl, rfl⟩ | ⟨rfl, rfl⟩ | ⟨rfl, rfl⟩ | ⟨rfl, rfl⟩
    | ⟨rfl, rfl⟩ | ⟨rfl, rfl⟩ | ⟨rfl, rfl⟩ | ⟨rfl, rfl⟩ <;> exact ⟨rfl, id⟩

/-! ## The checks of R300, in their order -/

theorem turn_free (ht : fn = 3 ∨ fn = 6 ∨ fn = 7 → turnHeld false s = false) :
    ((fn == 3 || fn == 6 || fn == 7) && turnHeld false s) = false := by
  rw [Bool.and_eq_false_imp]
  intro h
  simp only [Bool.or_eq_true, beq_iff_eq, or_assoc] at h
  exact ht h

/-- The record of an engine word, as it reads it. -/
def engRecord (x : DWord) (s : State) : TensorRec := TensorRec.ofBytes (recordBytes x s)

/-- The record can be read: its turn has come, and its address passes step 2 of R300. -/
structure RecordRead (fn : Nat) (x : DWord) (s : State) : Prop where
  turn : fn = 3 ∨ fn = 6 ∨ fn = 7 → turnHeld false s = false
  fault : recordFault x s = none
  held : recordHeld x s = false

/-- The record is good, and so is the handle that it or the second operand names: steps 2 to 4 of R300. -/
structure RecordGood (fn : Nat) (x y : DWord) (s : State) : Prop where
  read : RecordRead fn x s
  fields : recordBad fn (recordBytes x s) y = none
  handle : handleFault fn (engRecord x s) x y s = none

/-- The list that a command reads at its issue. -/
def issueList (fn : Nat) (x : DWord) (s : State) : Option (List Byte) := if fn = 5 then combineList (engRecord x s) s else some []

/-- The bytes that a command reads at its issue: its record, and CMB's list behind it. -/
def issueBytes (fn : Nat) (x : DWord) (s : State) : List Byte := recordBytes x s ++ (issueList fn x s).getD []

/-- What the list and the ranges of a command fail: steps 3, 5 and 6 of R300. -/
def rangeFault (fn : Nat) (x y : DWord) (s : State) : Option Report :=
  let r := engRecord x s
  let all := issueBytes fn x s
  firstOf [listFault fn r x y all s, hullFault fn r y all s, if fn = 0 then stockFault r y s else none]

section
variable {x y : DWord} (hx : uval s (sReg a) = x) (hy : uval s (sReg b) = y)

include hx in
theorem engWord_recordFault {z : Report} (ht : fn = 3 ∨ fn = 6 ∨ fn = 7 → turnHeld false s = false) (hr : recordFault x s = some z) :
    engWord fn d a b s = .trap z := by
  simp only [engWord, hx, turn_free ht, hr, Bool.false_eq_true, if_false]

include hx hy

theorem engWord_recordBad {off : Nat} (hr : RecordRead fn x s) (hb : recordBad fn (recordBytes x s) y = some off) :
    engWord fn d a b s = .trap (recordReport x off s) := by
  simp only [engWord, hx, hy, turn_free hr.turn, hr.fault, hr.held, hb, Bool.false_eq_true, if_false]

theorem engWord_handleFault {z : Report} (hr : RecordRead fn x s) (hb : recordBad fn (recordBytes x s) y = none)
    (hh : handleFault fn (engRecord x s) x y s = some z) : engWord fn d a b s = .trap z := by
  rw [engRecord] at hh
  simp only [engWord, hx, hy, turn_free hr.turn, hr.fault, hr.held, hb, hh, Bool.false_eq_true, if_false]

theorem engWord_rangeless (hg : RecordGood fn x y s) (hfn : 5 < fn) :
    engWord fn d a b s = .done (startCommand fn d x (engRecord x s) (recordBytes x s) y none) := by
  obtain ⟨hr, hb, hh⟩ := hg
  have htensor : tensorFn fn = false := decide_eq_false (by omega)
  rw [engRecord] at hh ⊢
  simp only [engWord, hx, hy, turn_free hr.turn, hr.fault, hr.held, hb, hh, htensor, Bool.false_eq_true, if_false]

theorem engWord_rangeFault {z : Report} (hg : RecordGood fn x y s) (hfn : fn ≤ 5) (hz : rangeFault fn x y s = some z) :
    engWord fn d a b s = .trap z := by
  obtain ⟨hr, hb, hh⟩ := hg
  have htensor : tensorFn fn = true := decide_eq_true hfn
  simp only [rangeFault, issueBytes, issueList, engRecord] at hz hh
  simp only [engWord, hx, hy, turn_free hr.turn, hr.fault, hr.held, hb, hh, htensor, hz, Bool.false_eq_true, if_false, if_true]

/-- Behind all checks, the range-lock entries decide whether the command starts (R263). -/
theorem engWord_inRange (hg : RecordGood fn x y s) (hfn : fn ≤ 5) (hz : rangeFault fn x y s = none)
    (hstock : fn = 0 → stockHeld s s.core.id (engRecord x s) y = false) :
    engWord fn d a b s = if (freeEntries s).length < 2 then .wait .locks
      else .done (startCommand fn d x (engRecord x s) (issueBytes fn x s) y
        (if (issueList fn x s).isNone then some (listStop (engRecord x s) s) else none)) := by
  obtain ⟨hr, hb, hh⟩ := hg
  have htensor : tensorFn fn = true := decide_eq_true hfn
  have hfree : (decide (fn = 0) && stockHeld s s.core.id (engRecord x s) y) = false := by simpa using hstock
  simp only [rangeFault, issueBytes, issueList, engRecord] at hz hh hfree ⊢
  simp only [engWord, hx, hy, turn_free hr.turn, hr.fault, hr.held, hb, hh, htensor, hz, hfree, Bool.false_eq_true, if_false,
    if_true] <;> rfl

end

/-! ## The start of a command (R263, R299) -/

/-- What a command that has just started is, whatever its release has come to wait for. -/
structure Starts (fn : Nat) (d : Opnd) (raw : List Byte) (u : State) (k : Cmd) : Prop where
  id : k.id = u.part.nextCmd
  squad : k.k = u.sq.key
  function : k.fn = fn
  raw : k.raw = raw
  ticket : k.ticket = d
  seq : k.seq = u.sq.seq
  units : k.units = 0
  entries : k.entries = if tensorFn fn then (freeEntries u).take 2 else []

theorem Starts.settled {raw : List Byte} {u : State} {k : Cmd} (h : Starts fn d raw u k) (rel : FenceRec) :
    Starts fn d raw u { k with rel := rel } := { h with }

/-- A command joins those in flight, with its ranges under its core's locks; of a region's nodes no earlier image need be held. -/
def State.joined (k : Cmd) (locks : List RangeLock) (ages : List ((Nat × Nat) × Nat × List Byte)) (v : State) : State :=
  { v with
    cmds := v.cmds ++ [k], core := { v.core with locks := locks }
    part := { v.part with nodeAges := ages, nextCmd := k.id + 1 } }

/-- An operation on a region that begins may drop the held images of nodes, and changes nothing else. -/
theorem freshAges_outside (g : Nat × Nat) (s : State) (c : Prop) [Decidable c] :
    (if c then freshAges g s else s) = { s with part := { s.part with nodeAges := (if c then freshAges g s else s).part.nodeAges } } := by
  unfold freshAges
  split
  · split <;> rfl
  · rfl

/-- A command starts behind the empty ticket and the counting of what its issue read. -/
theorem startCommand_eq (fn : Nat) (d : Opnd) (ra : DWord) (r : TensorRec) (raw : List Byte) (sb : DWord) (stop : Option Nat) (u : State) :
    ∃ v k locks ages, Counted (addProd (.ticket u.part.nextCmd) [d] u) v ∧ Starts fn d raw u k
      ∧ startCommand fn d ra r raw sb stop u = settle (v.joined k locks ages) := by
  refine ⟨countAccesses u.core.id u.launch.asid (recordReads fn ra r) (addProd (.ticket u.part.nextCmd) [d] u), ?_, ?_, ?_,
    countAccesses_counted _ _ _ _, ?_, ?_⟩
  rotate_left 4
  · unfold startCommand
    dsimp only
    rw [freshAges_outside]
    rfl
  · exact ⟨rfl, rfl, rfl, rfl, rfl, rfl, rfl, rfl⟩

theorem isFull_ticket (hd : d.isS = true) (id : Nat) (s : State) (o : Opnd) :
    (addProd (.ticket id) [d] s).sq.isFull o = if o = d then false else s.sq.isFull o := by
  obtain ⟨k, rfl⟩ := eq_s_of_isS hd
  rw [← isFull_setFE s.sq (.s k) o false rfl]
  cases o <;> rfl

theorem val_ticket (hd : d.isS = true) (id : Nat) (s : State) {o : Opnd} (ho : o.isReg = true) (l : Nat) :
    val (addProd (.ticket id) [d] s) o l = val s o l := by
  obtain ⟨k, rfl⟩ := eq_s_of_isS hd
  cases o with
  | v | s | a | p => rfl
  | _ => cases ho

/-- What the start of a command leaves: the empty ticket beside the other registers, the command in flight, the next number
of a command, and every byte outside the ring. -/
theorem startCommand_effect (hd : d.isS = true) (fn : Nat) (ra : DWord) (r : TensorRec) (raw : List Byte) (sb : DWord)
    (stop : Option Nat) (u : State) : let t := startCommand fn d ra r raw sb stop u
      (∀ o, t.sq.isFull o = if o = d then false else u.sq.isFull o) ∧ (∀ o, o.isReg = true → ∀ l, val t o l = val u o l)
      ∧ (∃ k ∈ t.cmds, Starts fn d raw u k)
      ∧ t.part = { u.part with
          nextCmd := u.part.nextCmd + 1, nodeAges := t.part.nodeAges
          held := t.part.held, nqdrop := t.part.nqdrop, nqtail := t.part.nqtail, dirty := t.part.dirty }
      ∧ (u.mem.wf = true → ∀ a, OutsideRing u a → t.mem.read a = u.mem.read a) := by
  obtain ⟨v, k, locks, ages, hcnt, hk, ht⟩ := startCommand_eq fn d ra r raw sb stop u
  obtain ⟨houtside, hpart, hmem, -⟩ := hcnt
  obtain ⟨dies, mem, part, rfl⟩ : ∃ dies mem part, v = { addProd (.ticket u.part.nextCmd) [d] u with dies := dies, mem := mem, part := part } :=
    ⟨_, _, _, houtside⟩
  rw [ht]
  refine ⟨fun o => ?full, fun o ho l => ?value, ?command, ?part, hmem⟩
  case full =>
    rw [← isFull_ticket hd u.part.nextCmd u o]
    cases o <;> rfl
  case value =>
    rw [← val_ticket hd u.part.nextCmd u ho l]
    cases o with
    | v | s | a | p => rfl
    | _ => cases ho
  case command =>
    exact ⟨_, List.mem_map.2 ⟨k, List.mem_append_right _ (List.mem_singleton_self k), rfl⟩, hk.settled _⟩
  case part =>
    have hnext : (settle (State.joined k locks ages { addProd (.ticket u.part.nextCmd) [d] u with dies := dies, mem := mem, part := part })).part
        = { part with nodeAges := ages, nextCmd := u.part.nextCmd + 1 } := by rw [← hk.id]; rfl
    rw [hnext]
    exact congrArg (fun p : Part => { p with nodeAges := ages, nextCmd := u.part.nextCmd + 1 }) hpart

/-- Two of the free entries: entries of the table that no command of the core holds (R263). -/
theorem freeEntries_free {e : Nat} (he : e ∈ freeEntries s) : e < 64 ∧ ∀ z ∈ s.cmds, z.core = s.core.id → e ∉ z.entries := by
  obtain ⟨hlt, hfree⟩ := List.mem_filter.1 he
  refine ⟨List.mem_range.1 hlt, fun z hz hcore hez => ?_⟩
  have hused : e ∈ (s.cmds.filter (·.core == s.core.id)).flatMap (·.entries) :=
    List.mem_flatMap.2 ⟨z, List.mem_filter.2 ⟨hz, beq_iff_eq.2 hcore⟩, hez⟩
  simp [hused] at hfree

/-- A command has started behind its word, as the statement of its issue says. -/
def Started (fn : Nat) (d : Opnd) (x y : DWord) (r : TensorRec) (raw : List Byte) (stop : Option Nat) (s t : State) : Prop :=
  ∃ q, Issued s q ∧ t = startCommand fn d x r raw y stop q
    ∧ t.sq.isFull d = false ∧ (∀ o, o ≠ d → t.sq.isFull o = s.sq.isFull o) ∧ (∀ o, o.isReg = true → ∀ l, val t o l = val s o l)
    ∧ (∃ k ∈ t.cmds, k.id = s.part.nextCmd ∧ k.k = s.sq.key ∧ k.fn = fn ∧ k.raw = raw ∧ k.ticket = d ∧ k.seq = s.sq.seq ∧ k.units = 0
      ∧ (5 < fn → k.entries = []) ∧ (fn ≤ 5 → k.entries.length = 2 ∧ ∀ e ∈ k.entries, e < 64
        ∧ ∀ z ∈ s.cmds, z.core = s.core.id → e ∉ z.entries))
    ∧ t.part = { s.part with
        nextCmd := s.part.nextCmd + 1, nodeAges := t.part.nodeAges
        held := t.part.held, nqdrop := t.part.nqdrop, nqtail := t.part.nqtail, dirty := t.part.dirty }
    ∧ (s.mem.wf = true → ∀ a, OutsideRing s a → t.mem.read a = s.mem.read a)

theorem startCommand_started (hd : d.isS = true) (hfree : fn ≤ 5 → 2 ≤ (freeEntries s).length) (rb : Bool) (x y : DWord) (r : TensorRec)
    (raw : List Byte) (stop : Option Nat) : Started fn d x y r raw stop s (startCommand fn d x r raw y stop (retire 1 rb s)) := by
  obtain ⟨hfull, hval, ⟨k, hk, hstarts⟩, hpart, hmem⟩ := startCommand_effect hd fn x r raw y stop (retire 1 rb s)
  refine ⟨_, issued_retire rb s, rfl, (hfull d).trans (if_pos rfl), fun o ho => ?_, fun o ho l => ?_,
    ⟨k, hk, hstarts.id, hstarts.squad, hstarts.function, hstarts.raw, hstarts.ticket, hstarts.seq, hstarts.units, fun hfn => ?_,
      fun hfn => ?_⟩, hpart, hmem⟩
  · exact ((hfull o).trans (if_neg ho)).trans (isFull_retire 1 rb s o)
  · exact (hval o ho l).trans (val_retire 1 rb s o l ho)
  · exact hstarts.entries.trans (if_neg (by simpa [tensorFn] using hfn))
  · have hentries : k.entries = (freeEntries s).take 2 := hstarts.entries.trans (if_pos (decide_eq_true hfn))
    rw [hentries]
    exact ⟨List.length_take_of_le (hfree hfn), fun e he => freeEntries_free (List.mem_of_mem_take he)⟩

end

/-- Settles O44: the twelve words are `engWord`, whose outcomes follow the checks of R300 in their order. -/
theorem engineIssue : Obligations.EngineIssue := by
  unfold Obligations.EngineIssue
  intro c d a b s i fn hi h hturn x y raw r started
  obtain ⟨he, hwf⟩ := engineWord_own hi s
  have hd := hwf h.wf
  refine ⟨fun z hz => ?record, fun hfault hheld => ⟨fun off hb => ?field, fun hb => ⟨fun z hz => ?handle, fun hh => ?good⟩⟩⟩
  case record => exact trap_completes h he (engWord_recordFault rfl hturn hz)
  case field => exact trap_completes h he (engWord_recordBad rfl rfl ⟨hturn, hfault, hheld⟩ hb)
  case handle => exact trap_completes h he (engWord_handleFault rfl rfl ⟨hturn, hfault, hheld⟩ hb hz)
  case good =>
    have hg : RecordGood fn x y s := ⟨⟨hturn, hfault, hheld⟩, hb, hh⟩
    refine ⟨fun hfn => ?rangeless, ?tensor⟩
    case rangeless =>
      exact completes_of_done h he (engWord_rangeless rfl rfl hg hfn) (startCommand_started hd (fun h5 => absurd hfn (by omega)) _ _ _ _ _ _)
    case tensor =>
      intro hfn list hlist all faults
      subst hlist
      refine ⟨fun z hz => ?range, fun hz hstock => ⟨fun hlocks => ?locks, fun hlocks => ?starts⟩⟩
      case range => exact trap_completes h he (engWord_rangeFault rfl rfl hg hfn hz)
      case locks => exact waits_of_wait h he ((engWord_inRange rfl rfl hg hfn hz hstock).trans (if_pos hlocks))
      case starts =>
        exact completes_of_done h he ((engWord_inRange rfl rfl hg hfn hz hstock).trans (if_neg (by omega)))
          (startCommand_started hd (fun _ => hlocks) _ _ _ _ _ _)

end Sys2Proof.Machine
end

/-! # Accesses from outside, link ports and the throttle (R238, R260, R387, R391 to R394, R396) -/

section
namespace Sys2Proof.Machine

-- One after the other, as above: the check's memory limit bounds the stacks of parallel elaboration.
set_option Elab.async false

section
variable {s : State} {port pa core shoe : Nat} {op : OuterOp} {bs : List Byte}

/-! ## Accesses to memory (R238, R387, R391, R392) -/

/-- What an access of a party of system scope does at the home of its bytes. -/
def OuterPerformed (s : State) (pa : Nat) (op : OuterOp) (t : State) : Prop :=
  match op with
  | .read n => t.part.outerRead = s.mem.bytes pa n ∧ t.mem = s.mem
  | .write bs => s.mem.wf = true → Stored (cellsAt pa bs) s.mem t.mem
  | .atomic opn n x => t.part.outerRead = s.mem.bytes pa n ∧ (s.mem.wf = true → Stored (cellsAt pa
      (toBytes n (atomicNew opn n none (BitVec.ofNat 64 (s.mem.value pa n)) x).toNat)) s.mem t.mem)
  | .row _ _ _ => t.mem = s.mem

theorem outerAccess_performed (pa : Nat) (op : OuterOp) (s : State) : OuterPerformed s pa op (settle (outerAccess pa op s)) := by
  cases op with
  | read n => exact ⟨rfl, rfl⟩
  | write bs => exact fun hw => homeWrite_stored hw _
  | atomic opn n x => exact ⟨rfl, fun hw => homeWrite_stored hw _⟩
  | row => rfl

theorem hostAccess_eq (hb : s.part.bootst ≠ 0xF#4) (pa : Nat) (op : OuterOp) : exec (.hostMemoryAccess pa op) s =
    if inHbm s pa (outerSize op) || inHostWindow s pa (outerSize op) then .next (settle (outerAccess pa op s))
    else .fault (.unbackedAddress pa) := if_neg (by simp [failed_eq_false hb])

theorem peerAccess_down (hp : portUp s port = false) (pa : Nat) (op : OuterOp) : exec (.peerAccess port pa op) s = .next s :=
  if_pos (by simp [hp])

theorem peerAccess_eq (hb : s.part.bootst ≠ 0xF#4) (hp : portUp s port = true) (pa : Nat) (hop : ∀ core shoe bs, op ≠ .row core shoe bs) :
    exec (.peerAccess port pa op) s =
      if inHbm s pa (outerSize op) then .next (settle (outerAccess pa op s)) else .fault (.unbackedAddress pa) := by
  have hgo : ¬ (failed s || !portUp s port) = true := by simp [failed_eq_false hb, hp]
  cases op with
  | row core shoe bs => exact absurd rfl (hop core shoe bs)
  | _ => exact if_neg hgo

/-! ## A row of a peer's DSP (R260, R392) -/

/-- A team whose shoe has taken a slot's bytes. -/
def Team.published (n : Nat) (bs : List Byte) (tm : Team) : Team :=
  let h := vget tm.shoes n
  let size := 64 * h.slot
  { tm with
    scratch := tm.scratch.writeBytes (h.base + size * h.tail) ((padTo size bs).take size)
    shoes := vset tm.shoes n { h with free := h.free - 1, filled := h.filled + 1, tail := (h.tail + 1) % h.nslot } }

/-- The bytes of a row that fits its slot are those of the row, filled up with zeros. -/
theorem published_stored {tm : Team} (hw : tm.scratch.wf = true) (hn : bs.length ≤ 64 * (vget tm.shoes shoe).slot) :
    let h := vget tm.shoes shoe
    Stored (cellsAt (h.base + 64 * h.slot * h.tail) (padTo (64 * h.slot) bs)) tm.scratch (tm.published shoe bs).scratch := by
  intro h a
  have htake : (padTo (64 * h.slot) bs).take (64 * h.slot) = padTo (64 * h.slot) bs :=
    List.take_of_length_le (length_padTo hn).le
  rw [← htake]
  exact Memory.read_writeCells hw _ a

theorem peerRow_eq (hb : s.part.bootst ≠ 0xF#4) (hp : portUp s port = true) (pa core shoe : Nat) (bs : List Byte) :
    exec (.peerAccess port pa (.row core shoe bs)) s = .next (settle (acceptRow port core shoe bs s)) :=
  if_neg (by simp [failed_eq_false hb, hp])

section
variable {tm : Team} (ht : s.allTeams = [tm]) (hc : tm.core = core) (hst : tm.status = .running)

include ht in
theorem findTeam_only : s.findTeam tm.key = some tm := by rw [State.findTeam, ht, List.find?_singleton]; simp

include ht hc hst

/-- The one team of the part has the shoe, or none has. -/
theorem teamOfShoe_only (shoe : Nat) (ofAsid : Nat → Bool) : teamOfShoe s core shoe ofAsid =
    if tm.shoeMask.getLsbD shoe && ofAsid (s.getLaunch tm.key.lid).asid then some tm else none := by
  simp only [teamOfShoe, ht, List.find?_singleton, hc, hst]
  cases hmask : tm.shoeMask.getLsbD shoe <;> cases hasid : ofAsid (s.getLaunch tm.key.lid).asid <;> simp

/-- The team whose shoe takes the rows of a port: one of the address space to which the port is bound (R260). -/
theorem teamOfRow (port shoe : Nat) :
    teamOfShoe s core shoe (fun n => some n == (s.part.portAsids.find? (·.1 == port)).map (·.2)) =
      if (s.part.portAsids.find? (·.1 == port)).map (·.2) = some (s.getLaunch tm.key.lid).asid ∧ tm.shoeMask.getLsbD shoe = true
      then some tm else none := by
  rw [teamOfShoe_only ht hc hst]
  refine if_congr ?_ rfl rfl
  rw [Bool.and_eq_true, beq_iff_eq]
  exact ⟨fun ⟨hmask, hasid⟩ => ⟨hasid.symm, hmask⟩, fun ⟨hasid, hmask⟩ => ⟨hmask, hasid.symm⟩⟩

/-- The conditions under which a shoe of the team takes a row of a port (R260). -/
def RowBound (s : State) (port shoe : Nat) (bs : List Byte) (tm : Team) : Prop :=
  (s.part.portAsids.find? (·.1 == port)).map (·.2) = some (s.getLaunch tm.key.lid).asid
    ∧ tm.shoeMask.getLsbD shoe = true ∧ (vget tm.shoes shoe).nslot ≠ 0 ∧ bs.length ≤ 64 * (vget tm.shoes shoe).slot

theorem acceptRow_refused (h : ¬ RowBound s port shoe bs tm) :
    acceptRow port core shoe bs s = s.updPart fun p => { p with outerRead := [0#8] } := by
  have hteam := teamOfRow ht hc hst port shoe
  unfold acceptRow
  split at hteam
  next howns =>
    have hrefuses : shoeRefuses (vget tm.shoes shoe) bs.length = true := by
      rw [shoeRefuses, Bool.or_eq_true, beq_iff_eq, decide_eq_true_iff]
      by_contra hno
      exact h ⟨howns.1, howns.2, fun h0 => hno (.inl h0), by omega⟩
    simp only [hteam, hst, hrefuses, reduceCtorEq, if_false, if_true]
  next => simp only [hteam]

theorem acceptRow_accepted (h : RowBound s port shoe bs tm) (hf : 0 < (vget tm.shoes shoe).free) (hq : (vget tm.shoes shoe).ptakes = []) :
    acceptRow port core shoe bs s = (s.updTeam tm.key (Team.published shoe bs)).updPart fun p => { p with outerRead := [1#8] } := by
  obtain ⟨hasid, hmask, hslots, hfits⟩ := h
  have hteam := (teamOfRow ht hc hst port shoe).trans (if_pos ⟨hasid, hmask⟩)
  have hrefuses : shoeRefuses (vget tm.shoes shoe) bs.length = false := by simp [shoeRefuses, hslots, hfits]
  have hready : shoeReady (vget tm.shoes shoe) = true := by simp [shoeReady, hf, hq]
  unfold acceptRow
  simp only [hteam, hst, hrefuses, hready, reduceCtorEq, Bool.false_eq_true, if_false, if_true]
  rfl

theorem peerRow_refused (hb : s.part.bootst ≠ 0xF#4) (hp : portUp s port = true) (pa : Nat) (h : ¬ RowBound s port shoe bs tm) :
    Completes (.peerAccess port pa (.row core shoe bs)) s fun t => t.part.outerRead = [0#8] ∧ t.allTeams = [tm] ∧ t.mem = s.mem := by
  refine ⟨_, peerRow_eq hb hp pa core shoe bs, ?_⟩
  rw [acceptRow_refused ht hc hst h]
  exact ⟨rfl, ht, rfl⟩

/-- A row that is accepted fills the slot at the tail. -/
theorem peerRow_accepted (hb : s.part.bootst ≠ 0xF#4) (hp : portUp s port = true) (pa : Nat) (h : RowBound s port shoe bs tm)
    (hf : 0 < (vget tm.shoes shoe).free) (hq : (vget tm.shoes shoe).ptakes = []) :
    Completes (.peerAccess port pa (.row core shoe bs)) s fun t => t.part.outerRead = [1#8] ∧ t.mem = s.mem
      ∧ t.getTeam tm.key = tm.published shoe bs := by
  refine ⟨_, peerRow_eq hb hp pa core shoe bs, ?_⟩
  rw [acceptRow_accepted ht hc hst h hf hq]
  refine ⟨rfl, ?_, getTeam_updTeam (findTeam_only ht) (fun _ => rfl) fun _ h => h⟩
  rw [updTeam_outside]
  rfl

end

/-- The names of the ring's bytes rest on its base, its size and the windows. -/
theorem OutsideRing.congr {t : State} {a : Nat} (hbase : t.part.nqbase = s.part.nqbase) (hsize : t.part.nqsize = s.part.nqsize)
    (hwindows : t.part.windows = s.part.windows) (h : OutsideRing s a) : OutsideRing t a := by
  intro p hl hu
  have hcanon : canon t p = canon s p := by unfold canon windowAt; rw [hwindows]
  rw [hbase] at hl hu
  rw [hsize] at hu
  rw [hcanon]
  exact h p hl hu

/-! ## Link ports (R393) -/

theorem getLsbD_port {p : BitVec 16} (hport : port < 16) : (p ||| 1#16 <<< port).getLsbD port = true
    ∧ (p &&& ~~~(1#16 <<< port)).getLsbD port = false := by
  simp [hport]

/-- A port goes down: the lifetime counter counts it, the port accepts no access, and a record is posted. -/
theorem linkPortDown_completes (hport : port < 16) (hcap : s.part.caps.ports.getLsbD port = true) (hb : s.part.bootst ≠ 0xF#4) :
    Completes (.linkPortDown port) s fun t => vget t.part.lifetime 5 = vget s.part.lifetime 5 + 1
      ∧ t.part.portsDown = s.part.portsDown ||| (1#16 <<< port) ∧ portUp t port = false
      ∧ (s.mem.wf = true → ∀ a, OutsideRing s a → t.mem.read a = s.mem.read a) := by
  obtain ⟨-, hpart, hmem, -⟩ := post_counted (length_eventNote 8 (port / 4) 0 port)
    ((s.updPart fun p => { p with portsDown := p.portsDown ||| (1#16 <<< port) }).countLife 5)
  have hdown := congrArg Part.portsDown hpart
  refine ⟨_, if_pos (by simp [hcap, hport, failed_eq_false hb]), ?_, hdown, ?_, hmem⟩
  · rw [congrArg Part.lifetime hpart]
    exact (vget_vset ..).trans (if_pos ⟨rfl, by decide⟩)
  · rw [portUp, hdown]
    exact (congrArg (_ && !·) (getLsbD_port hport).1).trans (Bool.and_false _)

theorem linkRetrain_completes (hport : port < 16) (hb : s.part.bootst ≠ 0xF#4) :
    Completes (.linkRetrainComplete port) s fun t => portUp t port = s.part.caps.ports.getLsbD port
      ∧ t = { s with part := { s.part with portsDown := s.part.portsDown &&& ~~~(1#16 <<< port) } } := by
  refine ⟨_, if_neg (by simp [failed_eq_false hb]), ?_, rfl⟩
  exact (congrArg (_ && !·) (getLsbD_port hport).2).trans (Bool.and_true _)

/-! ## The throttle (R280, R394) -/

theorem limitReached_iff {watts : Nat} {plate : Bool} : limitReached ⟨watts, plate⟩ s = true ↔ plate = true ∨ s.part.pcap.toNat ≤ watts := by
  simp [limitReached]

theorem tokensLower_iff {old new : BitVec 16} : tokensLower old new = true ↔
    (∀ d, d < 4 → ntokOf new d ≤ ntokOf old d) ∧ (new ≠ old ∨ new = 0x1111#16) := by
  have hall : [0, 1, 2, 3].all (fun d => decide (ntokOf new d ≤ ntokOf old d)) = true ↔ ∀ d, d < 4 → ntokOf new d ≤ ntokOf old d := by
    rw [show [0, 1, 2, 3] = List.range 4 from rfl]
    simp only [List.all_eq_true, List.mem_range, decide_eq_true_eq]
  rw [tokensLower, Bool.and_eq_true, hall, Bool.or_eq_true, bne_iff_ne, beq_iff_eq]
  refine and_congr_right fun _ => ?_
  by_cases h : new = old
  · simp [h]
  · simp [h, Ne.symm h]

/-- A die whose clusters' clocks have gone down to what a throttle asks for. -/
def Die.slowed (clocks : List Nat) (d : Die) : Die :=
  { d with clocks := d.clocks.zipIdx.map fun c => min c.1 ((clocks[6 * d.id + c.2]?).getD c.1) }

theorem slowed_clocks (clocks : List Nat) (d : Die) : (d.slowed clocks).clocks.length = d.clocks.length
    ∧ ∀ k, (d.slowed clocks).clocks.getD k 0 ≤ d.clocks.getD k 0 := by
  refine ⟨by simp [Die.slowed], fun k => ?_⟩
  simp only [Die.slowed, List.getD_eq_getElem?_getD, List.getElem?_map, List.getElem?_zipIdx]
  cases d.clocks[k]? <;> simp

/-- Updates of dies leave the rest of the state. -/
theorem foldl_updDie_outside (f : Nat → Die → Die) (l : List Nat) (s : State) :
    l.foldl (fun t d => t.updDie d (f d)) s = { s with dies := (l.foldl (fun t d => t.updDie d (f d)) s).dies } := by
  induction l generalizing s with
  | nil => rfl
  | cons d l ih => exact ih _

/-- Updates of dies keep a property that each of them keeps. -/
theorem foldl_updDie_keeps {f : Nat → Die → Die} {P : Die → Prop} (hP : ∀ d y, P y → P (f d y)) (l : List Nat) (s : State)
    (h : ∀ y ∈ s.dies.toList, P y) : ∀ y ∈ (l.foldl (fun t d => t.updDie d (f d)) s).dies.toList, P y := by
  induction l generalizing s with
  | nil => exact h
  | cons d l ih =>
    refine ih _ fun y hy => ?_
    obtain ⟨q, hq, rfl⟩ := mem_updDie hy
    split
    · exact hP d q (h q hq)
    · exact h q hq

theorem setTokens_outside (x : BitVec 16) (s : State) :
    setTokens x s = { s with dies := (setTokens x s).dies, part := { s.part with ntok := x } } := foldl_updDie_outside _ _ _

/-- Tokens change hands on the dies that there are, and no clock changes. -/
theorem setTokens_clocks (x : BitVec 16) (s : State) :
    ∀ y ∈ (setTokens x s).dies.toList, ∃ z ∈ s.dies.toList, y.id = z.id ∧ y.clocks = z.clocks :=
  foldl_updDie_keeps (P := fun y => ∃ z ∈ s.dies.toList, y.id = z.id ∧ y.clocks = z.clocks)
    (f := fun d y => { y with tokens := (y.tokens ++ (List.range 6).filter (fun k => !y.tokens.contains k)).take (ntokOf x d) })
    (fun _ _ h => h) [0, 1, 2, 3] _ fun y hy => ⟨y, hy, rfl, rfl⟩

theorem post_dies (bs : List Byte) (s : State) : (post bs s).dies = s.dies := by
  unfold post
  extract_lets p
  split
  · split <;> rfl
  · split <;> rfl

/-- What a throttle does before its record is posted. -/
def throttled (ntok : BitVec 16) (clocks : List Nat) (s : State) : State :=
  ({ setTokens ntok s with dies := (setTokens ntok s).dies.map (Die.slowed clocks) }).countLife 4

/-- Outside the dies, a throttle changes NTOK and the counters of R403. -/
theorem throttled_outside (ntok : BitVec 16) (clocks : List Nat) (s : State) :
    ∃ dies, throttled ntok clocks s = ({ s with dies := dies, part := { s.part with ntok := ntok } }).countLife 4 :=
  ⟨_, congrArg (fun t : State => ({ t with dies := (setTokens ntok s).dies.map (Die.slowed clocks) }).countLife 4) (setTokens_outside ntok s)⟩

theorem throttle_eq (ntok : BitVec 16) (limit : LimitHit) (clocks : List Nat) (s : State) : exec (.throttle ntok limit clocks) s =
    if s.part.bootst != 3#4 || !limitReached limit s || !ntokLegal ntok || !tokensLower s.part.ntok ntok then .next s
    else .next (post (eventNote 7 0 0 (ntok.toNat + limit.watts % 2 ^ 32 * 2 ^ 32)) (throttled ntok clocks s)) := rfl

theorem throttle_idle {ntok : BitVec 16} {watts : Nat} {plate : Bool} (clocks : List Nat)
    (h : s.part.bootst ≠ 3#4 ∨ (plate = false ∧ watts < s.part.pcap.toNat) ∨ (ntok = s.part.ntok ∧ ntok ≠ 0x1111#16)) :
    exec (.throttle ntok ⟨watts, plate⟩ clocks) s = .next s := by
  refine (throttle_eq ..).trans (if_pos ?_)
  simp only [Bool.or_eq_true, bne_iff_ne, Bool.not_eq_true', ← Bool.not_eq_true, limitReached_iff, tokensLower_iff]
  rcases h with hb | ⟨rfl, hw⟩ | ⟨hn, h1⟩
  · exact .inl (.inl (.inl hb))
  · exact .inl (.inl (.inr (by simpa using hw)))
  · exact .inr fun ⟨_, h⟩ => h.elim (fun h => h hn) h1

/-- The dies of a part that is throttled: no more tokens than NTOK says, and no clock above what it was. -/
theorem throttled_dies (ntok : BitVec 16) (clocks : List Nat) (s : State) : ∀ d ∈ (throttled ntok clocks s).dies.toList,
    (d.id < 4 → d.tokens.length ≤ ntokOf ntok d.id) ∧ ∃ d0 ∈ s.dies.toList, d.id = d0.id ∧ d.clocks.length = d0.clocks.length
      ∧ ∀ k, d.clocks.getD k 0 ≤ d0.clocks.getD k 0 := by
  intro d hd
  obtain ⟨y, hy, rfl⟩ : ∃ y ∈ (setTokens ntok s).dies.toList, y.slowed clocks = d := by
    simpa [throttled, State.countLife, State.updPart, Vector.toList_map] using hd
  obtain ⟨z, hz, hid, hclocks⟩ := setTokens_clocks ntok s y hy
  obtain ⟨hlen, hle⟩ := slowed_clocks clocks y
  rw [hclocks] at hlen hle
  exact ⟨setTokens_tokens ntok s y hy, z, hz, hid, hlen, hle⟩

theorem throttle_completes {ntok : BitVec 16} {watts : Nat} {plate : Bool} (clocks : List Nat) (hb : s.part.bootst = 3#4)
    (hlimit : plate = true ∨ s.part.pcap.toNat ≤ watts)
    (hntok : ∀ d, d < 4 → 1 ≤ ntokOf ntok d ∧ ntokOf ntok d ≤ ntokOf s.part.ntok d ∧ ntokOf ntok d ≤ 6)
    (hlower : ntok ≠ s.part.ntok ∨ ntok = 0x1111#16) : Completes (.throttle ntok ⟨watts, plate⟩ clocks) s fun t =>
      t.part.ntok = ntok ∧ vget t.part.lifetime 4 = vget s.part.lifetime 4 + 1
      ∧ t.dies = (throttled ntok clocks s).dies
      ∧ (s.mem.wf = true → ∀ a, OutsideRing s a → t.mem.read a = s.mem.read a) := by
  have hgo : ¬ (s.part.bootst != 3#4 || !limitReached ⟨watts, plate⟩ s || !ntokLegal ntok || !tokensLower s.part.ntok ntok) = true := by
    simp [hb, limitReached_iff.2 hlimit, (ntokLegal_iff ntok).2 fun d hd => ⟨(hntok d hd).1, (hntok d hd).2.2⟩,
      tokensLower_iff.2 ⟨fun d hd => (hntok d hd).2.1, hlower⟩]
  have hcnt := post_counted (length_eventNote 7 0 0 (ntok.toNat + watts % 2 ^ 32 * 2 ^ 32)) (throttled ntok clocks s)
  obtain ⟨dies, hu⟩ := throttled_outside ntok clocks s
  refine ⟨_, (throttle_eq ..).trans (if_neg hgo), ?_, ?_, post_dies _ _, ?_⟩
  · rw [congrArg Part.ntok hcnt.part, hu]
    rfl
  · rw [congrArg Part.lifetime hcnt.part, hu]
    exact (vget_vset ..).trans (if_pos ⟨rfl, by decide⟩)
  · intro hw a ha
    have hm : (throttled ntok clocks s).mem = s.mem := by rw [hu]; rfl
    have hring : OutsideRing (throttled ntok clocks s) a := ha.congr (by rw [hu]; rfl) (by rw [hu]; rfl) (by rw [hu]; rfl)
    exact (hcnt.memory (by rw [hm]; exact hw) a hring).trans (by rw [hm])

end

/-- Settles O58, event by event from the lemmas above. -/
theorem outsideEvents : Obligations.OutsideEvents := by
  unfold Obligations.OutsideEvents
  intro s performed
  refine ⟨fun hf port pa op => ?failed, fun hb => ⟨fun pa op hin => ?host, fun pa op hhbm hwin => ?hostUnbacked,
      fun port pa op hp => peerAccess_down hp pa op, fun port pa op hp hop => ⟨fun hin => ?peer, fun hout => ?peerUnbacked⟩,
      fun port pa core shoe bs tm hp ht hc hst => ⟨peerRow_refused ht hc hst hb hp pa, fun hbound hfree hq => ?row⟩⟩,
    fun port => linkPortDown_completes, fun port => linkRetrain_completes, fun ntok watts plate clocks => throttle_idle clocks,
    fun ntok watts plate clocks hb hlimit hntok hlower => ?throttle⟩
  case failed =>
    have hfail := failed_iff.2 hf
    exact ⟨if_pos hfail, if_pos (by simp [hfail])⟩
  case host => exact ⟨_, (hostAccess_eq hb pa op).trans (if_pos (by simpa using hin)), outerAccess_performed pa op s⟩
  case hostUnbacked => exact (hostAccess_eq hb pa op).trans (if_neg (by simp [hhbm, hwin]))
  case peer => exact ⟨_, (peerAccess_eq hb hp pa hop).trans (if_pos hin), outerAccess_performed pa op s⟩
  case peerUnbacked => exact (peerAccess_eq hb hp pa hop).trans (if_neg (by simp [hout]))
  case row =>
    obtain ⟨t, hrun, hread, hmem, hteam⟩ := peerRow_accepted ht hc hst hb hp pa hbound hfree hq
    refine ⟨t, hrun, hread, hmem, by rw [hteam]; rfl, fun hw => ?_⟩
    rw [hteam]
    obtain ⟨-, -, -, hfits⟩ := hbound
    exact published_stored hw hfits
  case throttle =>
    obtain ⟨t, hrun, hn, hlife, hdies, hmem⟩ := throttle_completes clocks hb hlimit hntok hlower
    refine ⟨t, hrun, hn, hlife, fun d hd => ?_, fun d hd => ?_, hmem⟩
    · rw [hdies] at hd
      exact (throttled_dies ntok clocks s d hd).1
    · rw [hdies] at hd
      exact (throttled_dies ntok clocks s d hd).2

end Sys2Proof.Machine
end

/-! # Reset values, and the words of t tiles (R283, R285, R287 to R289, R389) -/

section
namespace Sys2Proof.Machine

-- One after the other, as above: the check's memory limit bounds the stacks of parallel elaboration.
set_option Elab.async false

/-- Settles O8: the fields of the reset state, and a LCOKEY read out of the table of zeros. -/
theorem resetValues : Obligations.ResetValues := by
  unfold Obligations.ResetValues
  refine ⟨rfl, rfl, rfl, rfl, rfl, rfl, fun n d hn hd => ?lcokey, rfl, rfl, rfl, rfl, rfl, rfl, rfl⟩
  case lcokey => simp [State.reset, Part.reset, vget, hn, hd]

section
variable {s : State} {c : Bool} {t : BitVec 3} {l : Bool} {x i : BitVec 5} {v : Opnd} {e : Bool} {f : BitVec 2}

/-! ## The slice of a tile that a word names (R283) -/

theorem sliceFault_of_le {n f limit : Nat} (h : n + f ≤ limit) : sliceFault s n f limit = none := if_pos h

theorem sliceFault_of_lt {n f limit : Nat} (h : limit < n + f) :
    sliceFault s n f limit = some (boundsReport s (BitVec.ofNat 64 n)) := if_neg (Nat.not_le.2 h)

theorem tPoison_none (hu : s.sq.uncorr = []) (hp : s.sq.poison = []) (n : Nat) (ws : List (Nat × Nat)) : tPoison s n ws = none := by
  rw [tPoison, hu, hp]
  rfl

theorem lanesPoison_none (hu : s.sq.uncorr = []) (hp : s.sq.poison = []) (m : Mask) (srcs : List (Opnd × Bool)) :
    lanesPoison s m srcs = none := by
  rw [lanesPoison, hu, hp]
  rfl

/-- The accesses of a tile transfer. -/
def transferAccesses (s : State) (l : Bool) (x i : BitVec 5) (v : Opnd) (f : BitVec 2) : List ((Nat × Nat) × (Nat × Nat)) :=
  tileAccesses s l (sliceIndex s x i) f.toNat v

/-- The words of a tile that a read of memory fills, with the address of each. -/
def transferWords (s : State) (l : Bool) (x i : BitVec 5) (v : Opnd) (f : BitVec 2) : List (Nat × Nat × Nat) :=
  (transferAccesses s l x i v f).map fun a => (a.2.1, a.2.2, a.1.2)

/-- The address of a word of a tile in a transfer depends on its place alone. -/
def transferAddress (s : State) (l : Bool) (x i : BitVec 5) (v : Opnd) (row word : Nat) : Nat :=
  if l then (val64 s v row + BitVec.ofNat 64 (4 * (word - sliceIndex s x i))).toNat
  else (uval s v + BitVec.ofNat 64 (64 * (row - sliceIndex s x i) + 4 * word)).toNat

theorem transferAccesses_address : ∀ a ∈ transferAccesses s l x i v f, a.1.2 = transferAddress s l x i v a.2.1 a.2.2 := by
  intro a ha
  cases l with
  | true =>
    obtain ⟨r, -, ha⟩ := List.mem_flatMap.1 ha
    obtain ⟨m, -, rfl⟩ := List.mem_map.1 ha
    simp only [transferAddress, if_true, Nat.add_sub_cancel_left]
  | false =>
    obtain ⟨m, -, ha⟩ := List.mem_flatMap.1 ha
    obtain ⟨w, -, rfl⟩ := List.mem_map.1 ha
    simp only [transferAddress, Bool.false_eq_true, if_false, Nat.add_sub_cancel_left]

/-! ## TLD (R287) -/

theorem ownTld_empty (hem : s.sq.em = 0#32) : ownTld t l x i v e f s = .done id := if_pos hem

theorem ownTld_outside (hu : s.sq.uncorr = []) (hp : s.sq.poison = []) (hem : s.sq.em ≠ 0#32)
    (hk : sliceLimit l < sliceIndex s x i + f.toNat) :
    ownTld t l x i v e f s = .trap (boundsReport s (BitVec.ofNat 64 (sliceIndex s x i))) := by
  simp only [ownTld, hem, if_false, regPoison_none hu hp, sliceFault_of_lt hk, firstOf]

theorem ownTld_inside (hu : s.sq.uncorr = []) (hp : s.sq.poison = []) (hem : s.sq.em ≠ 0#32)
    (hk : sliceIndex s x i + f.toNat ≤ sliceLimit l)
    (hc : memChecks s .read (!l) s.sq.em 4 4 ((transferAccesses s l x i v f).map (·.1)) = none) :
    ownTld t l x i v e f s =
      if tBusy s.sq t.toNat then .wait .tile
      else if readBlocked s s.sq.seq ((transferAccesses s l x i v f).map (·.1.2)) then .wait .order
      else .done (readOrLate ((transferAccesses s l x i v f).map (·.1.2))
        (fun n => loadTile n t.toNat (transferWords s l x i v f)) (.tile t.toNat (transferWords s l x i v f))) := by
  have hc' : memChecks s .read (!l) s.sq.em 4 4 ((tileAccesses s l (sliceIndex s x i) f.toNat v).map (·.1)) = none := hc
  simp only [ownTld, hem, if_false, regPoison_none hu hp, sliceFault_of_le hk, firstOf, hc']
  rfl

/-- The words that TLD reads: row, word of the row and value. -/
def loadedWords (s : State) (l : Bool) (x i : BitVec 5) (v : Opnd) (f : BitVec 2) : List (Nat × Nat × Word) :=
  (transferAccesses s l x i v f).map fun a => (a.2.1, a.2.2, BitVec.ofNat 32 (readNow s s.sq.seq a.1.2 4))

/-- A read of words into a tile behind the retirement of its word. -/
theorem loadTile_retire (rb : Bool) : takePlace (loadTile (retire 1 rb s).sq.seq t.toNat
    (transferWords s l x i v f) (retire 1 rb s)) =
    noteRead false (physBytes s ((transferAccesses s l x i v f).map (·.1.2)) 4)
      ((retire 1 rb s).onSq (·.putTile t.toNat (loadedWords s l x i v f))) := by
  simp only [loadTile, noteRead, transferWords, loadedWords, List.map_map, Function.comp_def, readNow_retire]
  rfl

theorem readOrLate_now {vas : List Nat} {act : Nat → State → State} (w : Late) {u : State} (h : readBlocked u u.sq.seq vas = false) :
    readOrLate vas act w u = countAccesses u.core.id u.launch.asid vas (takePlace (act u.sq.seq u)) := by
  rw [readOrLate, h]
  rfl

theorem noteRead_sq (bytes : List Nat) (s : State) : ∃ prods, (noteRead false bytes s).sq =
    { s.sq with prods := prods, seq := s.sq.seq + 1 } := by
  obtain ⟨prods, ahead, h⟩ := guardRead_outside s.sq.seq bytes s
  exact ⟨prods, by rw [noteRead, h]; rfl⟩

theorem tld_loads (h : ReadyFor (.tld c t l x i v e f) s) (hem : s.sq.em ≠ 0#32)
    (hk : sliceIndex s x i + f.toNat ≤ sliceLimit l)
    (hc : memChecks s .read (!l) s.sq.em 4 4 ((transferAccesses s l x i v f).map (·.1)) = none) (ht : tBusy s.sq t.toNat = false)
    (hr : readBlocked s s.sq.seq ((transferAccesses s l x i v f).map (·.1.2)) = false) :
    Completes (.tld c t l x i v e f) s fun u => ∃ r, Issued s r
      ∧ Counted (noteRead false (physBytes s ((transferAccesses s l x i v f).map (·.1.2)) 4)
          (r.onSq (·.putTile t.toNat (loadedWords s l x i v f)))) u
      ∧ TileWords t.toNat (loadedWords s l x i v f) s.sq u.sq ∧ RegsKept [] s u := by
  have ho : ownTld t l x i v e f s = _ := ownTld_inside h.parity h.poison hem hk hc
  simp only [ht, hr, Bool.false_eq_true, if_false] at ho
  refine completes_of_done h rfl ho ⟨retire 1 (bit31 (.tld c t l x i v e f)) s, issued_retire _ s, ?_⟩
  set rb := bit31 (.tld c t l x i v e f)
  set vas := (transferAccesses s l x i v f).map (·.1.2)
  have hcounted := countAccesses_counted (retire 1 rb s).core.id (retire 1 rb s).launch.asid vas (noteRead false (physBytes s vas 4)
    ((retire 1 rb s).onSq (·.putTile t.toNat (loadedWords s l x i v f))))
  rw [readOrLate_now (u := retire 1 rb s) _ hr, loadTile_retire]
  generalize countAccesses _ _ _ _ = u at hcounted ⊢
  obtain ⟨prods, hsq⟩ := noteRead_sq (physBytes s vas 4) ((retire 1 rb s).onSq (·.putTile t.toNat (loadedWords s l x i v f)))
  refine ⟨hcounted, ?_, ?_⟩
  · rw [hcounted.sq, hsq]
    refine tileWords_putTile t.isLt _ (fun row w => BitVec.ofNat 32 (readNow s s.sq.seq (transferAddress s l x i v row w) 4))
      (fun y hy => ?_) s.sq
    obtain ⟨a, ha, rfl⟩ := List.mem_map.1 hy
    rw [transferAccesses_address a ha]
  · have hkept : RegsKept [] (retire 1 rb s) (noteRead false (physBytes s vas 4)
        ((retire 1 rb s).onSq (·.putTile t.toNat (loadedWords s l x i v f)))) := by
      refine RegsKept.same ?_ ?_ ?_ ?_ ?_ ?_ ?_ ?_ ?_ <;> rw [hsq] <;> rfl
    exact (hkept.trans (RegsKept.of_sq hcounted.sq)).of_retire

theorem tld_waits (h : ReadyFor (.tld c t l x i v e f) s) (hem : s.sq.em ≠ 0#32)
    (hk : sliceIndex s x i + f.toNat ≤ sliceLimit l)
    (hc : memChecks s .read (!l) s.sq.em 4 4 ((transferAccesses s l x i v f).map (·.1)) = none) (ht : tBusy s.sq t.toNat = true) :
    exec (.tld c t l x i v e f) s = .next (waitHere .tile s) :=
  waits_of_wait (own := ownTld t l x i v e f) h rfl ((ownTld_inside h.parity h.poison hem hk hc).trans (if_pos ht))

/-! ## TST (R288) -/

theorem ownTst_empty (hem : s.sq.em = 0#32) : ownTst t l x i v e f s = .done id := if_pos hem

theorem ownTst_outside (hu : s.sq.uncorr = []) (hp : s.sq.poison = []) (hem : s.sq.em ≠ 0#32)
    (hk : sliceLimit l < sliceIndex s x i + f.toNat) :
    ownTst t l x i v e f s = .trap (boundsReport s (BitVec.ofNat 64 (sliceIndex s x i))) := by
  simp only [ownTst, hem, if_false, regPoison_none hu hp, if_neg (Nat.not_le.2 hk), sliceFault_of_lt hk, firstOf]

/-- The bytes that TST stores. -/
def storedCells (s : State) (t : BitVec 3) (l : Bool) (x i : BitVec 5) (v : Opnd) (f : BitVec 2) : List (Nat × Byte) :=
  (transferAccesses s l x i v f).flatMap fun a => cellsAt a.1.2 (toBytes 4 (s.sq.tword t.toNat a.2.1 a.2.2).toNat)

theorem ownTst_inside (hu : s.sq.uncorr = []) (hp : s.sq.poison = []) (hem : s.sq.em ≠ 0#32)
    (hk : sliceIndex s x i + f.toNat ≤ sliceLimit l)
    (hc : memChecks s .write (!l) s.sq.em 4 4 ((transferAccesses s l x i v f).map (·.1)) = none) :
    ownTst t l x i v e f s = .done fun u => countAccesses u.core.id u.launch.asid ((transferAccesses s l x i v f).map (·.1.2))
      (enqueue [.store (storedCells s t l x i v f)] u) := by
  have hc' : memChecks s .write (!l) s.sq.em 4 4 ((tileAccesses s l (sliceIndex s x i) f.toNat v).map (·.1)) = none := hc
  simp only [ownTst, hem, if_false, regPoison_none hu hp, tPoison_none hu hp, ite_self, sliceFault_of_le hk, firstOf, hc']
  rfl

theorem tst_stores (h : ReadyFor (.tst c t l x i v e f) s) (hem : s.sq.em ≠ 0#32)
    (hk : sliceIndex s x i + f.toNat ≤ sliceLimit l)
    (hc : memChecks s .write (!l) s.sq.em 4 4 ((transferAccesses s l x i v f).map (·.1)) = none) :
    Completes (.tst c t l x i v e f) s fun u => ∃ r, Issued s r ∧ Counted { r with sq := { r.sq with
      storeq := r.sq.storeq ++ [⟨s.sq.seq, .store (storedCells s t l x i v f)⟩], seq := s.sq.seq + 1 } } u :=
  completes_of_done h rfl (ownTst_inside h.parity h.poison hem hk hc)
    ⟨retire 1 (bit31 (.tst c t l x i v e f)) s, issued_retire _ s, countAccesses_counted _ _ _ _⟩

/-! ## TMOV (R289) -/

variable {g : Bool}

theorem ownTmov_empty (hem : s.sq.em = 0#32) : ownTmov t l x i v e g s = .done id := if_pos hem

theorem ownTmov_outside (hu : s.sq.uncorr = []) (hp : s.sq.poison = []) (hem : s.sq.em ≠ 0#32)
    (hk : sliceLimit l < sliceIndex s x i) :
    ownTmov t l x i v e g s = .trap (boundsReport s (BitVec.ofNat 64 (sliceIndex s x i))) := by
  have hno : decide (sliceIndex s x i ≤ sliceLimit l) = false := decide_eq_false (Nat.not_le.2 hk)
  simp only [ownTmov, hem, if_false, regPoison_none hu hp, lanesPoison_none hu hp, ite_self, hno, Bool.and_false,
    Bool.false_eq_true, sliceFault_some hk, firstOf]

/-- The words that TMOV writes: row, word of the row and value. -/
def movedWords (s : State) (l : Bool) (n : Nat) (v : Opnd) : List (Nat × Nat × Word) :=
  ((Mask.list s.sq.em).filter (fun k => l || decide (k ≤ 15))).map fun k => ((cellOf l n k).1, (cellOf l n k).2, val32 s v k)

/-- The lane whose word stands at a place of a slice. -/
theorem movedWords_value (n : Nat) : ∀ y ∈ movedWords s l n v, y.2.2 = val32 s v (if l then y.1 else y.2.1) := by
  intro y hy
  obtain ⟨k, -, rfl⟩ := List.mem_map.1 hy
  cases l <;> rfl

theorem ownTmov_write (hu : s.sq.uncorr = []) (hp : s.sq.poison = []) (hem : s.sq.em ≠ 0#32)
    (hk : sliceIndex s x i ≤ sliceLimit l) (ht : tBusy s.sq t.toNat = false) :
    ownTmov t l x i v e true s = .done fun u => u.onSq (·.putTile t.toNat (movedWords s l (sliceIndex s x i) v)) := by
  simp only [ownTmov, hem, if_false, regPoison_none hu hp, lanesPoison_none hu hp, ite_self, Bool.not_true, Bool.false_and,
    Bool.false_eq_true, sliceFault_none hk, firstOf, ht, if_true]
  cases l
  · rfl
  · have hall : (Mask.list s.sq.em).filter (fun k => true || decide (k ≤ 15)) = rowsOf s := List.filter_eq_self.2 fun _ _ => rfl
    rw [movedWords, hall]
    rfl

theorem ownTmov_read (hu : s.sq.uncorr = []) (hp : s.sq.poison = []) (hem : s.sq.em ≠ 0#32)
    (hk : sliceIndex s x i ≤ sliceLimit l) :
    ownTmov t l x i v e false s = .done fun u => u.onSq (·.putLanes v s.sq.em fun k =>
      if l = true ∨ k ≤ 15 then s.sq.tword t.toNat (cellOf l (sliceIndex s x i) k).1 (cellOf l (sliceIndex s x i) k).2 else 0#32) := by
  simp only [ownTmov, hem, if_false, regPoison_none hu hp, tPoison_none hu hp, ite_self, Bool.false_eq_true,
    sliceFault_none hk, firstOf, Bool.or_eq_true, decide_eq_true_eq]
  rfl

theorem tmov_writes (h : ReadyFor (.tmov c t l x i v e true) s) (hem : s.sq.em ≠ 0#32)
    (hk : sliceIndex s x i ≤ sliceLimit l) (ht : tBusy s.sq t.toNat = false) :
    Completes (.tmov c t l x i v e true) s fun u => RegsKept [] s u ∧ BytesKept s u ∧ Retired s u
      ∧ TileWords t.toNat (movedWords s l (sliceIndex s x i) v) s.sq u.sq := by
  obtain ⟨hlclk, hnext⟩ := retired_retire (bit31 (.tmov c t l x i v e true)) s
  exact completes_of_done h rfl (ownTmov_write h.parity h.poison hem hk ht)
    ⟨RegsKept.of_retire (rb := bit31 (.tmov c t l x i v e true)) RegsKept.same, BytesKept.same, ⟨hlclk, hnext⟩,
      tileWords_putTile t.isLt _ (fun row w => val32 s v (if l then row else w)) (movedWords_value _) s.sq⟩

theorem tmovForm_dest (h : (Instr.tmov c t l x i v e g).wf = true) : v.isV = true := (Bool.and_eq_true_iff.1 h).1

theorem tmov_reads (h : ReadyFor (.tmov c t l x i v e false) s) (hem : s.sq.em ≠ 0#32)
    (hk : sliceIndex s x i ≤ sliceLimit l) :
    Completes (.tmov c t l x i v e false) s fun u => OnlyRegs [v] s u ∧ LaneResult v (fun k =>
      if l = true ∨ k ≤ 15 then s.sq.tword t.toNat (cellOf l (sliceIndex s x i) k).1 (cellOf l (sliceIndex s x i) k).2 else 0#32) s u :=
  putLanes_completes (.inl (tmovForm_dest h.wf)) h rfl (ownTmov_read h.parity h.poison hem hk)

end

/-- Settles O37: the words inside their slices, those under an empty EM, and the bounds. -/
theorem tileWordsMove : Obligations.TileWordsMove := by
  unfold Obligations.TileWordsMove
  intro c t l x i v e s n limit
  refine ⟨fun f hem h => ?tldEmpty, fun f hem h => ?tstEmpty, fun f hem h => ?tmovEmpty,
    fun f hem hk => ⟨fun h hc ht hr => tld_loads h hem hk hc ht hr, fun h hc => tst_stores h hem hk hc⟩,
    fun hem hk h ht => tmov_writes h hem hk ht, fun hem hk h => tmov_reads h hem hk,
    fun f hem hk h hc ht => tld_waits h hem hk hc ht,
    fun hem => ⟨fun f hk h => ?tldOutside, fun f hk h => ?tstOutside, fun f hk h => ?tmovOutside⟩⟩
  case tldEmpty => exact noAccess_issued (own := ownTld t l x i v e f) h rfl (ownTld_empty hem)
  case tstEmpty => exact noAccess_issued (own := ownTst t l x i v e f) h rfl (ownTst_empty hem)
  case tmovEmpty => exact noAccess_issued (own := ownTmov t l x i v e f) h rfl (ownTmov_empty hem)
  case tldOutside => exact trap_completes (own := ownTld t l x i v e f) h rfl (ownTld_outside h.parity h.poison hem hk)
  case tstOutside => exact trap_completes (own := ownTst t l x i v e f) h rfl (ownTst_outside h.parity h.poison hem hk)
  case tmovOutside => exact trap_completes (own := ownTmov t l x i v e f) h rfl (ownTmov_outside h.parity h.poison hem hk)

end Sys2Proof.Machine
end

/-! # Matrix words join the pipe (R50, R269, R271 to R273, R278, R294 to R297) -/

section
namespace Sys2Proof.Machine

-- One after the other, as above: the check's memory limit bounds the stacks of parallel elaboration.
set_option Elab.async false

section
variable {s : State} {i : Instr} {b sm : BitVec 5} {e : Bool} {p : Nat} {r : MProg} {y : Report}

/-! ## The checks in their order (R297) -/

/-- The record of a matrix word that has made no step (R294). -/
def freshRecord (i : Instr) (b sm : BitVec 5) (s : State) : MProg :=
  ⟨s.sq.seq, 0, 0, false, i, uval s (sReg b), if fmtSC s.sq.fmt then uval s (sReg sm) else 0#64, s.sq.fmt, s.sq.em,
    Vector.replicate 32 0#2304, false⟩

theorem matrixRecord_fresh (hk : s.sq.mkeep = none) : matrixRecord i b sm s = freshRecord i b sm s := by
  rw [matrixRecord, hk]
  rfl

/-- A matrix word that reaches its own checks: its tiles are named well, and nothing that it reads is poisoned or in use. -/
structure ReachesChecks (i : Instr) (p : Nat) (s : State) : Prop where
  parity : s.sq.uncorr = []
  poison : s.sq.poison = []
  active : s.sq.em ≠ 0#32
  owned : zPhys s (mshape i).z = some p
  tiles : (mshape i).ta + ((mshape i).steps - 1) / 4 ≤ 7
  free : zBusy s.sq (mshape i).z = false
  room : s.sq.mprog.length < 2
  keep : s.sq.mkeep = none
  zbad : s.core.zbad = []
  zpoison : s.core.zpoison = []

/-- The checks of a record that are a word's own. -/
def matrixChecks (s : State) (r : MProg) : List (Option Report) :=
  [matrixFormat s r, matrixDescriptor s r, matrixStock s r, matrixLock s r, matrixMeta s r]

theorem firstOf_replicate_none (l : List (Option Report)) (h : ∀ x ∈ l, x = none) (m : List (Option Report)) :
    firstOf (l ++ m) = firstOf m := by
  induction l with
  | nil => rfl
  | cons x l ih =>
    rw [h x List.mem_cons_self]
    exact ih fun x hx => h x (List.mem_cons_of_mem _ hx)

theorem matrixTilePoison_none (hu : s.sq.uncorr = []) (hp : s.sq.poison = []) (r : MProg) : matrixTilePoison s r = none := by
  simp only [matrixTilePoison, tPoison_none hu hp, ite_self]
  rw [← List.append_nil ((List.map _ _ ++ _) ++ _)]
  refine firstOf_replicate_none _ (fun x hx => ?_) []
  simp only [List.append_assoc, List.cons_append, List.nil_append, List.mem_append, List.mem_map, List.mem_cons, List.not_mem_nil,
    or_false, or_self] at hx
  rcases hx with ⟨-, -, hx⟩ | hx
  · exact hx.symm
  · exact hx

theorem matrixWord_empty (hem : s.sq.em = 0#32) : matrixWord i b sm e s = .done id := if_pos hem

theorem matrixWord_unowned (hem : s.sq.em ≠ 0#32) (hz : zPhys s (mshape i).z = none) :
    matrixWord i b sm e s = .trap (zNameReport s (mshape i).z) := by
  simp only [matrixWord, hem, if_false, hz]

theorem matrixWord_beyond (hem : s.sq.em ≠ 0#32) (hz : zPhys s (mshape i).z ≠ none)
    (ha : 7 < (mshape i).ta + ((mshape i).steps - 1) / 4) : matrixWord i b sm e s =
      .trap (boundsReport s (BitVec.ofNat 64 ((mshape i).ta + ((mshape i).steps - 1) / 4))) := by
  obtain ⟨p, hz⟩ := Option.ne_none_iff_exists'.1 hz
  simp only [matrixWord, hem, if_false, hz, ha, if_true]

/-- What a matrix word comes to, where it reaches its own checks. -/
theorem matrixWord_checked (h : ReachesChecks i p s) : matrixWord i b sm e s =
    match firstOf (matrixChecks s (freshRecord i b sm s)) with
    | some x => .trap x
    | none =>
      let r := { freshRecord i b sm s with before := vget s.core.z p, ovf := s.core.ovf.getLsbD p }
      if doomedWord s.core s.sq s.obj.arith r (vget s.core.z p) then .hold true .tile (startMatrix { r with doomed := true })
      else .done (startMatrix r) := by
  have hroom : decide (2 ≤ s.sq.mprog.length) = false := decide_eq_false (Nat.not_le.2 h.room)
  simp only [matrixWord, h.active, h.owned, Nat.not_lt.2 h.tiles, h.free, hroom, Bool.or_self, Bool.false_eq_true, if_false,
    regPoison_none h.parity h.poison, matrixTilePoison_none h.parity h.poison, zPoison_none h.zbad h.zpoison,
    matrixRecord_fresh h.keep, firstOf]
  rfl

theorem matrixWord_faults (hr : ReachesChecks i p s) (h : ReadyFor i s) (he : exec i s = issueWord i (matrixWord i b sm e) s)
    (hy : firstOf (matrixChecks s (freshRecord i b sm s)) = some y) : Traps i s y := by
  have ho : matrixWord i b sm e s = _ := matrixWord_checked hr
  rw [hy] at ho
  exact trap_completes h he ho

theorem matrixWord_starts (hr : ReachesChecks i p s) (h : ReadyFor i s) (he : exec i s = issueWord i (matrixWord i b sm e) s)
    (hy : firstOf (matrixChecks s (freshRecord i b sm s)) = none)
    (hd : doomedWord s.core s.sq s.obj.arith { freshRecord i b sm s with before := vget s.core.z p, ovf := s.core.ovf.getLsbD p }
      (vget s.core.z p) = false) : Completes i s fun u => ∃ r, Issued s r ∧ u = { r with sq := { r.sq with
        mprog := r.sq.mprog ++ [{ freshRecord i b sm s with before := vget s.core.z p, ovf := s.core.ovf.getLsbD p }]
        mkeep := none, seq := s.sq.seq + 1 } } := by
  have ho : matrixWord i b sm e s = _ := matrixWord_checked hr
  simp only [hy, hd, Bool.false_eq_true, if_false] at ho
  refine completes_of_done h he ho ⟨retire 1 (bit31 i) s, issued_retire _ s, ?_⟩
  have hkeep : (retire 1 (bit31 i) s).sq.mkeep = none := hr.keep
  simp only [startMatrix, hkeep, ite_self]
  rfl

/-! ## Formats and descriptors (R271 to R273) -/

theorem matrixFormat_some (h : fmtAF r.fmt = 0 ∨ ((mshape r.word).sparse = true ∧
    ¬ (isBinary8 (fmtAF r.fmt) = true ∧ isBinary8 (fmtBF r.fmt) = true))) : matrixFormat s r = some (formatReport r.fmt s) := by
  refine if_pos ?_
  simpa only [Bool.or_eq_true, Bool.and_eq_true, decide_eq_true_eq, Bool.not_eq_true', Bool.and_eq_true, Bool.eq_false_iff, ne_eq] using h

theorem matrixDescriptor_data (h : r.sd.extractLsb' 32 32 ≠ 0#32 ∨ 63 < sdNcol r.sd) :
    matrixDescriptor s r = some (boundsReport s r.sd) :=
  if_pos (by simpa only [Bool.or_eq_true, bne_iff_ne, decide_eq_true_eq] using h)

theorem matrixDescriptor_scale (hsd : r.sd.extractLsb' 32 32 = 0#32) (hcol : sdNcol r.sd ≤ 63) (hsc : fmtSC r.fmt = true)
    (h : r.scd.extractLsb' 20 44 ≠ 0#44) : matrixDescriptor s r = some (boundsReport s r.scd) := by
  have hdata : ¬ (r.sd.extractLsb' 32 32 != 0#32 || decide (63 < sdNcol r.sd)) = true := by simp [hsd, hcol]
  have hscale : (fmtSC r.fmt && r.scd.extractLsb' 20 44 != 0#44) = true := by simp [hsc, h]
  rw [matrixDescriptor, if_neg hdata, if_pos hscale]

/-! ## Stock lines (R272, R273) -/

/-- The last stock step that a record reads. -/
def lastStep (r : MProg) : Nat :=
  sdKstep r.sd + (if (mshape r.word).sparse then 2 * (mshape r.word).steps else (mshape r.word).steps) - 1

/-- The report of a stock line outside the allocation. -/
def stockReport (s : State) (line : Nat) : Report := ⟨0x1B#8, BitVec.ofNat 64 line, 0#64, s.sq.em⟩

/-- What the lines of one image report: it starts at `first` and reads `lo` to `hi`. -/
def spanFault (s : State) (first lo hi : Nat) : Option Report :=
  if first < s.team.sbase then some (stockReport s first)
  else if s.team.sbase + s.team.slen ≤ hi then some (stockReport s (max lo (s.team.sbase + s.team.slen)))
  else none

theorem spanFault_below {first lo hi : Nat} (h : first < s.team.sbase) : spanFault s first lo hi = some (stockReport s first) := if_pos h

theorem spanFault_above {first lo hi : Nat} (h : s.team.sbase ≤ first) (h' : s.team.sbase + s.team.slen ≤ hi) :
    spanFault s first lo hi = some (stockReport s (max lo (s.team.sbase + s.team.slen))) :=
  (if_neg (Nat.not_lt.2 h)).trans (if_pos h')

theorem spanFault_inside {first lo hi : Nat} (h : s.team.sbase ≤ first) (h' : hi < s.team.sbase + s.team.slen) :
    spanFault s first lo hi = none := (if_neg (Nat.not_lt.2 h)).trans (if_neg (Nat.not_le.2 h'))

/-- Data lines are looked at first, and scale lines where FMT has scales. -/
theorem matrixStock_eq (s : State) (r : MProg) : matrixStock s r =
    firstOf (spanFault s (sdLine r.sd) (sdLine r.sd + 16 * sdKstep r.sd) (sdLine r.sd + 16 * lastStep r + 15)
      :: if fmtSC r.fmt then [spanFault s (scLine r.scd) (scLine r.scd + sdKstep r.sd) (scLine r.scd + lastStep r)] else []) := by
  cases hsc : fmtSC r.fmt <;> simp only [matrixStock, matrixSpans, hsc, Bool.false_eq_true, if_false, if_true, List.map_cons, List.map_nil] <;> rfl

theorem matrixStock_data (h : spanFault s (sdLine r.sd) (sdLine r.sd + 16 * sdKstep r.sd) (sdLine r.sd + 16 * lastStep r + 15) = some y) :
    matrixStock s r = some y := by
  rw [matrixStock_eq, h]
  rfl

theorem matrixStock_scale (hdata : spanFault s (sdLine r.sd) (sdLine r.sd + 16 * sdKstep r.sd) (sdLine r.sd + 16 * lastStep r + 15) = none)
    (hsc : fmtSC r.fmt = true)
    (h : spanFault s (scLine r.scd) (scLine r.scd + sdKstep r.sd) (scLine r.scd + lastStep r) = some y) : matrixStock s r = some y := by
  rw [matrixStock_eq, hdata, hsc, h]
  rfl

/-! ## Range locks (R278) -/

/-- A fold that keeps the pair with the least first part, the first of several. -/
theorem foldl_least (l : List (Nat × Nat)) (h : Nat × Nat) :
    l.foldl (fun a b => if b.1 < a.1 then b else a) h ∈ h :: l
      ∧ ∀ x ∈ h :: l, (l.foldl (fun a b => if b.1 < a.1 then b else a) h).1 ≤ x.1 := by
  induction l generalizing h with
  | nil => exact ⟨List.mem_cons_self, fun x hx => by rw [List.mem_singleton.1 hx]; exact Nat.le_refl _⟩
  | cons b l ih =>
    rw [List.foldl_cons]
    obtain ⟨hmem, hle⟩ := ih (if b.1 < h.1 then b else h)
    have hfirst := hle _ List.mem_cons_self
    refine ⟨?_, fun x hx => ?_⟩
    · rcases List.mem_cons.1 hmem with hm | hm
      · rw [hm]
        split <;> simp
      · simp [hm]
    · rcases List.mem_cons.1 hx with rfl | hx
      · refine hfirst.trans ?_
        split <;> omega
      · rcases List.mem_cons.1 hx with rfl | hx
        · refine hfirst.trans ?_
          split <;> omega
        · exact hle x (List.mem_cons_of_mem _ hx)

/-- A line that a record reads stands in a range that an STK writes. -/
def LineHeld (s : State) (r : MProg) (ln : Nat) (k : RangeLock) : Prop :=
  ln ∈ linesRead r ∧ k ∈ stockRanges s s.core.id ∧ k.lo ≤ ln ∧ ln < k.hi

/-- The lines and ranges that meet. -/
def heldLines (s : State) (r : MProg) : List (Nat × Nat) :=
  (linesRead r).flatMap fun ln =>
    ((stockRanges s s.core.id).filter (fun k => decide (k.lo ≤ ln) && decide (ln < k.hi))).map fun k => (ln, k.entry)

theorem mem_heldLines {x : Nat × Nat} : x ∈ heldLines s r ↔ ∃ k, LineHeld s r x.1 k ∧ k.entry = x.2 := by
  simp only [heldLines, List.mem_flatMap, List.mem_map, List.mem_filter, Bool.and_eq_true, decide_eq_true_eq, LineHeld]
  constructor
  · rintro ⟨ln, hln, k, ⟨hk, hlo, hhi⟩, rfl⟩
    exact ⟨k, ⟨hln, hk, hlo, hhi⟩, rfl⟩
  · rintro ⟨k, ⟨hln, hk, hlo, hhi⟩, he⟩
    exact ⟨x.1, hln, k, ⟨hk, hlo, hhi⟩, by rw [he]⟩

theorem matrixLock_least {ln : Nat} (h : ∃ k, LineHeld s r ln k) (hmin : ∀ n, n < ln → ¬ ∃ k, LineHeld s r n k) :
    ∃ k, LineHeld s r ln k ∧ matrixLock s r = some ⟨0x08#8, BitVec.ofNat 64 ln, BitVec.ofNat 64 k.entry, s.sq.em⟩ := by
  obtain ⟨k, hk⟩ := h
  have hmem : (ln, k.entry) ∈ heldLines s r := mem_heldLines.2 ⟨k, hk, rfl⟩
  have hlock : matrixLock s r = match heldLines s r with
      | [] => none
      | h :: t => some ⟨0x08#8, BitVec.ofNat 64 (t.foldl (fun a b => if b.1 < a.1 then b else a) h).1,
          BitVec.ofNat 64 (t.foldl (fun a b => if b.1 < a.1 then b else a) h).2, s.sq.em⟩ := rfl
  cases hl : heldLines s r with
  | nil => rw [hl] at hmem; cases hmem
  | cons x l =>
    rw [hl] at hmem hlock
    obtain ⟨hin, hle⟩ := foldl_least l x
    rw [← hl] at hin
    obtain ⟨j, hj, he⟩ := mem_heldLines.1 hin
    have heq : (l.foldl (fun a b => if b.1 < a.1 then b else a) x).1 = ln :=
      Nat.le_antisymm (hle _ hmem) (Nat.not_lt.1 fun hlt => hmin _ hlt ⟨j, hj⟩)
    rw [heq] at hj
    exact ⟨j, hj, by rw [hlock, he, ← heq]⟩

/-! ## Sparsity metadata (R50) -/

/-- The order in which metadata nibbles are looked at: by step, then row, then place. -/
def NibbleBefore (x y : Nat × Nat × Nat) : Prop :=
  x.1 < y.1 ∨ (x.1 = y.1 ∧ (x.2.1 < y.2.1 ∨ (x.2.1 = y.2.1 ∧ x.2.2 < y.2.2)))

/-- The illegal nibbles of a word that has made no step: step, row and place. -/
def badNibbles (s : State) (tm steps : Nat) : List (Nat × Nat × Nat) :=
  (List.range steps).flatMap fun k => (Mask.list s.sq.em).flatMap fun i =>
    ((List.range 8).filter (fun g => badNibble (nibble s.sq tm k i g))).map fun g => (k, i, g)

theorem mem_badNibbles {tm steps k i g : Nat} : (k, i, g) ∈ badNibbles s tm steps ↔
    k < steps ∧ s.sq.em.getLsbD i = true ∧ g < 8 ∧ nibble s.sq tm k i g / 4 ≤ nibble s.sq tm k i g % 4 := by
  simp only [badNibbles, List.mem_flatMap, List.mem_range, mem_maskList, List.mem_map, List.mem_filter, badNibble, decide_eq_true_eq]
  constructor
  · rintro ⟨k', hk, i', hi, g', ⟨hg, hbad⟩, he⟩
    cases he
    exact ⟨hk, hi, hg, hbad⟩
  · rintro ⟨hk, hi, hg, hbad⟩
    exact ⟨k, hk, i, hi, g, ⟨hg, hbad⟩, rfl⟩

theorem badNibbles_sorted (tm steps : Nat) : (badNibbles s tm steps).Pairwise NibbleBefore := by
  refine List.pairwise_flatMap.2 ⟨fun k _ => List.pairwise_flatMap.2 ⟨fun i _ => ?place, ?row⟩, ?step⟩
  case place =>
    refine List.pairwise_map.2 ((List.pairwise_lt_range.filter _).imp fun h => ?_)
    exact .inr ⟨rfl, .inr ⟨rfl, h⟩⟩
  case row =>
    refine List.Pairwise.imp (fun h x hx y hy => ?_) (maskList_sorted s.sq.em)
    obtain ⟨-, -, rfl⟩ := List.mem_map.1 hx
    obtain ⟨-, -, rfl⟩ := List.mem_map.1 hy
    exact .inr ⟨rfl, .inl h⟩
  case step =>
    refine List.pairwise_lt_range.imp fun h x hx y hy => ?_
    obtain ⟨i, -, hi⟩ := List.mem_flatMap.1 hx
    obtain ⟨j, -, hj⟩ := List.mem_flatMap.1 hy
    obtain ⟨-, -, rfl⟩ := List.mem_map.1 hi
    obtain ⟨-, -, rfl⟩ := List.mem_map.1 hj
    exact .inl h

/-- Metadata is looked at where the word is sparse, from its first step on. -/
theorem matrixMeta_fresh (hsp : (mshape r.word).sparse = true) (hdone : r.done = 0) (hem : r.em = s.sq.em) : matrixMeta s r =
    match badNibbles s (mshape r.word).tm (mshape r.word).steps with
    | [] => none
    | (k, i, g) :: _ => some ⟨0x0E#8, BitVec.ofNat 64 (i + k * 256 + g * 65536),
        BitVec.ofNat 64 (nibble s.sq (mshape r.word).tm k i g),
        maskOfList ((badNibbles s (mshape r.word).tm (mshape r.word).steps).map (·.2.1))⟩ := by
  have hall : (List.range (mshape r.word).steps).filter (fun k => decide (r.done ≤ k)) = List.range (mshape r.word).steps :=
    List.filter_eq_self.2 fun k _ => decide_eq_true (hdone ▸ Nat.zero_le k)
  rw [matrixMeta, hsp, hall, hem]
  rfl

/-- The first illegal nibble of the order is reported, with the lanes that hold one. -/
theorem matrixMeta_first (hsp : (mshape r.word).sparse = true) (hdone : r.done = 0) (hem : r.em = s.sq.em) {k i g : Nat} {m : Mask}
    (hbad : (k, i, g) ∈ badNibbles s (mshape r.word).tm (mshape r.word).steps)
    (hmin : ∀ x ∈ badNibbles s (mshape r.word).tm (mshape r.word).steps, ¬ NibbleBefore x (k, i, g))
    (hm : ∀ l, l < 32 → (m.getLsbD l = true ↔ ∃ k' g', (k', l, g') ∈ badNibbles s (mshape r.word).tm (mshape r.word).steps)) :
    matrixMeta s r = some ⟨0x0E#8, BitVec.ofNat 64 (i + k * 256 + g * 65536), BitVec.ofNat 64 (nibble s.sq (mshape r.word).tm k i g), m⟩ := by
  rw [matrixMeta_fresh hsp hdone hem]
  have hsorted := badNibbles_sorted (s := s) (mshape r.word).tm (mshape r.word).steps
  have hmask : maskOfList ((badNibbles s (mshape r.word).tm (mshape r.word).steps).map (·.2.1)) = m := by
    refine mask_ext (P := fun l => ∃ k' g', (k', l, g') ∈ badNibbles s (mshape r.word).tm (mshape r.word).steps) (fun l hl => ?_) hm
    rw [getLsbD_maskOfList _ hl, List.contains_iff_mem, List.mem_map]
    exact ⟨fun ⟨x, hx, he⟩ => ⟨x.1, x.2.2, he ▸ hx⟩, fun ⟨k', g', h⟩ => ⟨_, h, rfl⟩⟩
  rw [hmask]
  revert hbad hmin hsorted
  cases badNibbles s (mshape r.word).tm (mshape r.word).steps with
  | nil => exact fun hbad => nomatch hbad
  | cons x l =>
    intro hbad hmin hsorted
    rcases List.mem_cons.1 hbad with hx | hx
    · subst hx
      rfl
    · exact absurd (List.rel_of_pairwise_cons hsorted hx) (hmin x List.mem_cons_self)

end

/-- Settles O39: the words that do not reach their checks, the faults in R297's order, and the record appended. -/
theorem matrixIssue : Obligations.MatrixIssue := by
  unfold Obligations.MatrixIssue
  intro c z a b sm t f e s i hi h rec0
  have he : exec i s = issueWord i (matrixWord i b sm e) s := by rcases hi with rfl | rfl <;> rfl
  have hz : (mshape i).z = z.toNat := by rcases hi with rfl | rfl <;> rfl
  have ha : (mshape i).ta + ((mshape i).steps - 1) / 4 = a.toNat + f.toNat / 4 := by rcases hi with rfl | rfl <;> rfl
  have hsteps : (mshape i).steps = f.toNat + 1 := by rcases hi with rfl | rfl <;> rfl
  have hsparse : i = .mmas c z a b sm t f e ↔ (mshape i).sparse = true := by
    rcases hi with rfl | rfl
    · exact ⟨fun h => (nomatch h), fun h => (nomatch h)⟩
    · exact ⟨fun _ => rfl, fun _ => rfl⟩
  refine ⟨fun hem => ?empty, fun hem hno => ?unowned, fun hem hown hbeyond => ?beyond,
    fun p hem hown htile hbusy hroom hkeep hbad hpoison => ?faults,
    fun p hem hown htile hbusy hroom hkeep hbad hpoison hf hd hs hl hm hdoomed => ?starts⟩
  case empty => exact noAccess_issued h he (matrixWord_empty hem)
  case unowned => exact zNameReport_eq z s ▸ trap_completes h he (hz ▸ matrixWord_unowned hem (by rw [hz]; exact hno))
  case beyond => exact ha ▸ trap_completes h he (matrixWord_beyond hem (by rw [hz]; exact hown) (by rw [ha]; exact hbeyond))
  case starts =>
    have hr : ReachesChecks i p s := ⟨h.parity, h.poison, hem, by rw [hz]; exact hown, by rw [ha]; exact htile, by rw [hz]; exact hbusy,
      hroom, hkeep, hbad, hpoison⟩
    refine matrixWord_starts hr h he ?_ hdoomed
    exact firstOf_replicate_none [matrixFormat s rec0, matrixDescriptor s rec0, matrixStock s rec0, matrixLock s rec0, matrixMeta s rec0]
      (by simp [hf, hd, hs, hl, hm]) []
  case faults =>
    have hr : ReachesChecks i p s := ⟨h.parity, h.poison, hem, by rw [hz]; exact hown, by rw [ha]; exact htile, by rw [hz]; exact hbusy,
      hroom, hkeep, hbad, hpoison⟩
    intro sparse byte bounds stock fin last held nib wrong
    have traps {y : Report} (pre post : List (Option Report)) (hpre : ∀ x ∈ pre, x = none)
        (hl : matrixChecks s rec0 = pre ++ some y :: post) : Traps i s y :=
      matrixWord_faults hr h he ((congrArg firstOf hl).trans (firstOf_replicate_none pre hpre _))
    have hlast : lastStep rec0 = last := by
      simp only [lastStep, last, sparse, hsparse, rec0, hsteps]
    refine ⟨fun hfmt => ?format, fun hf hsd => ?data, fun hf hsd hcol hsc hscd => ?scale, fun hf hd => ?stock,
      fun hf hd hs ln hheld hmin => ?lock, fun hf hd hs hl hsp k r g m hw hmin hm => ?metadata⟩
    case format =>
      refine traps [] _ (fun _ h => nomatch h) (congrArg (· :: _) (matrixFormat_some ?_))
      exact hfmt.imp_right fun h => ⟨hsparse.1 h.1, h.2⟩
    case data => exact traps [none] _ (by simp) (by rw [matrixChecks, hf, matrixDescriptor_data hsd]; rfl)
    case scale => exact traps [none] _ (by simp) (by rw [matrixChecks, hf, matrixDescriptor_scale hsd hcol hsc hscd]; rfl)
    case stock =>
      have outside {line : Nat} (hs : matrixStock s rec0 = some (stockReport s line)) : stock line :=
        traps [none, none] _ (by simp) (by rw [matrixChecks, hf, hd, hs]; rfl)
      refine ⟨fun hlow => outside (matrixStock_data (spanFault_below hlow)),
        fun hlow hhigh => outside (matrixStock_data (spanFault_above hlow (hlast ▸ hhigh))), fun hlow hhigh hsc => ?_⟩
      have hdata := spanFault_inside (lo := sdLine rec0.sd + 16 * sdKstep rec0.sd) hlow (hlast.symm ▸ hhigh)
      exact ⟨fun hlow' => outside (matrixStock_scale hdata hsc (spanFault_below hlow')),
        fun hlow' hhigh' => outside (matrixStock_scale hdata hsc (spanFault_above hlow' (hlast ▸ hhigh')))⟩
    case lock =>
      obtain ⟨k, hk, hl⟩ := matrixLock_least (s := s) (r := rec0) hheld hmin
      exact ⟨k, hk, traps [none, none, none] _ (by simp) (by rw [matrixChecks, hf, hd, hs, hl]; rfl)⟩
    case metadata =>
      have htm : (mshape rec0.word).tm = t.toNat := by
        have hi : i = .mmas c z a b sm t f e := hsp
        simp only [rec0, hi, mshape]
      have hbadIff (k r g : Nat) : (k, r, g) ∈ badNibbles s (mshape rec0.word).tm (mshape rec0.word).steps ↔ wrong k r g := by
        rw [mem_badNibbles, htm, show (mshape rec0.word).steps = f.toNat + 1 from hsteps, Nat.lt_succ_iff]
        exact ⟨fun ⟨hk, hr, hg, hn⟩ => ⟨hk, BitVec.lt_of_getLsbD hr, hr, hg, hn⟩, fun ⟨hk, _, hr, hg, hn⟩ => ⟨hk, hr, hg, hn⟩⟩
      have hy := matrixMeta_first (s := s) (r := rec0) (hsparse.1 hsp) rfl rfl ((hbadIff k r g).2 hw) (fun x hx hlt => ?_)
        (fun l hl => (hm l hl).trans (exists_congr fun k' => exists_congr fun g' => (hbadIff k' l g').symm))
      · rw [htm] at hy
        exact traps [none, none, none, none] [] (by simp) (by rw [matrixChecks, hf, hd, hs, hl, hy]; rfl)
      · have hle := hmin x.1 x.2.1 x.2.2 ((hbadIff x.1 x.2.1 x.2.2).1 hx)
        simp only [NibbleBefore] at hlt
        omega

end Sys2Proof.Machine
end

/-! # Sparse reads and sparse stores issue (R302, R304, R309, R319 to R327) -/

section
namespace Sys2Proof.Machine

-- One after the other, as above: the check's memory limit bounds the stacks of parallel elaboration.
set_option Elab.async false

section
variable {s : State} {d a b o : Opnd} {e f m : Bool}

/-! ## Registers of pairs and groups (R9, R326) -/

theorem up_isReg (k : Nat) (h : d.isReg = true) : (d.up k).isReg = true := by cases d <;> exact h

theorem pair_isReg (h : d.isReg = true) : ∀ o ∈ d.pair, o.isReg = true := by
  intro o ho
  rw [Opnd.pair] at ho
  split at ho
  · rcases List.mem_cons.1 ho with rfl | ho
    · exact h
    · rw [List.mem_singleton.1 ho]
      exact up_isReg 1 h
  · rw [List.mem_singleton.1 ho]
    exact h

theorem group4_isReg (h : d.isReg = true) : ∀ o ∈ d.group4, o.isReg = true := by
  simp only [Opnd.group4, List.mem_cons, List.not_mem_nil, or_false]
  rintro o (rfl | rfl | rfl | rfl)
  · exact h
  all_goals exact up_isReg _ h

theorem isReg_of_isV (h : d.isV = true) : d.isReg = true := by cases d <;> first | rfl | cases h

theorem isReg_of_isEven (h : d.isEven = true) : d.isReg = true := by cases d <;> first | rfl | cases h

theorem isReg_of_isQuad (h : d.isQuad = true) : d.isReg = true := by cases d <;> first | rfl | cases h

/-! ## Registers that become empty (R64) -/

theorem foldl_setFE_eq (regs : List Opnd) (x : Bool) (q : Squad) : ∃ fev fes fea fep,
    regs.foldl (fun q o => q.setFE o x) q = { q with fev := fev, fes := fes, fea := fea, fep := fep } := by
  induction regs generalizing q with
  | nil => exact ⟨_, _, _, _, rfl⟩
  | cons o regs ih =>
    obtain ⟨fev, fes, fea, fep, h⟩ := ih (q.setFE o x)
    exact ⟨fev, fes, fea, fep, by rw [List.foldl_cons, h, setFE_eq q o x]⟩

theorem val_addProd (kind : ProdKind) (regs : List Opnd) (s : State) (ho : o.isReg = true) (l : Nat) :
    val (addProd kind regs s) o l = val s o l := by
  obtain ⟨fev, fes, fea, fep, h⟩ := foldl_setFE_eq regs false s.sq
  simp only [addProd, addLoad, State.onSq, h]
  cases o with
  | v | s | a | p => rfl
  | _ => cases ho

theorem isFull_addProd (kind : ProdKind) {regs : List Opnd} (hreg : ∀ o ∈ regs, o.isReg = true) (s : State) (o : Opnd) :
    (addProd kind regs s).sq.isFull o = (s.sq.isFull o && !decide (o ∈ regs)) := by
  rw [← isFull_foldl_setFE regs hreg s.sq o]
  cases o <;> rfl

/-! ## Sparse reads (R319 to R322, R325 to R327) -/

/-- The operations on a region that begin change the images of its nodes at most (R317). -/
theorem freshAges_twice (r1 r2 : Nat × Nat) (two : Bool) (s : State) : ∃ ages, freshAges r1 (if two = true then freshAges r2 s else s) =
    { s with part := { s.part with nodeAges := ages } } := by
  have h2 := freshAges_outside r2 s (two = true)
  have h1 := freshAges_outside r1 (if two = true then freshAges r2 s else s) True
  rw [if_pos trivial] at h1
  refine ⟨(freshAges r1 (if two = true then freshAges r2 s else s)).part.nodeAges, h1.trans ?_⟩
  rw [h2]

variable {i : Instr} {op : Nat} {regs : List Opnd} {chk : List (Option Report)} {y : Report}

theorem sparseRead_empty (hem : s.sq.em = 0#32) : sparseRead op m a b regs chk s = .done id := if_pos hem

theorem sparseRead_active (hem : s.sq.em ≠ 0#32) : sparseRead op m a b regs chk s =
    faultOr (firstOf chk) (fun t => addProd (.sparse op m (handle1 s b) (handle2 s b) (laneKeys s a) none) regs
      (freshAges (regionOf s.launch.asid (handle1 s b)) (if op = 3 then freshAges (regionOf s.launch.asid (handle2 s b)) t else t))) :=
  if_neg hem

theorem sparseRead_faults (h : ReadyFor i s) (he : exec i s = issueWord i (sparseRead op m a b regs chk) s) (hem : s.sq.em ≠ 0#32)
    (hy : firstOf chk = some y) : Traps i s y :=
  trap_completes h he ((sparseRead_active hem).trans (by rw [hy]; rfl))

theorem sparseRead_begins (h : ReadyFor i s) (he : exec i s = issueWord i (sparseRead op m a b regs chk) s) (hem : s.sq.em ≠ 0#32)
    (hreg : ∀ o ∈ regs, o.isReg = true) (hy : firstOf chk = none) : Completes i s fun t => ∃ r u, Issued s r
      ∧ u = addProd (.sparse op m (handle1 s b) (handle2 s b) (laneKeys s a) none) regs r
      ∧ t = { u with part := { u.part with nodeAges := t.part.nodeAges } } ∧ (∀ o ∈ regs, t.sq.isFull o = false)
      ∧ (∀ o, o ∉ regs → t.sq.isFull o = s.sq.isFull o) ∧ (∀ o, o.isReg = true → ∀ l, val t o l = val s o l) ∧ BytesKept s t := by
  refine completes_of_done h he ((sparseRead_active hem).trans (faultOr_none _ hy))
    ⟨retire 1 (bit31 i) s, _, issued_retire _ s, rfl, ?_⟩
  obtain ⟨ages, hages⟩ := freshAges_twice (regionOf s.launch.asid (handle1 s b)) (regionOf s.launch.asid (handle2 s b)) (decide (op = 3))
    (retire 1 (bit31 i) s)
  simp only [decide_eq_true_eq] at hages
  set kind : ProdKind := .sparse op m (handle1 s b) (handle2 s b) (laneKeys s a) none
  have hfull (o : Opnd) := (isFull_addProd kind hreg (retire 1 (bit31 i) s) o).trans
    (congrArg (· && !decide (o ∈ regs)) (isFull_retire 1 (bit31 i) s o))
  rw [hages]
  refine ⟨rfl, fun o ho => (hfull o).trans (by simp [ho]), fun o ho => (hfull o).trans (by simp [ho]), fun o ho l => ?_, BytesKept.same⟩
  have hval := (val_addProd kind regs (retire 1 (bit31 i) s) ho l).trans (val_retire 1 (bit31 i) s o l ho)
  rw [← hval]
  cases o with
  | v | s | a | p => rfl
  | _ => cases ho

theorem handleError_dead {h : BitVec 32} (sisx : Bool) (hl : handleLive s s.launch.asid h = false) :
    handleError s h sisx = some ⟨0x10#8, h.setWidth 64, 1#64, s.sq.em⟩ := by
  simp only [handleError, handleSubcode, hl, Bool.not_false, if_true]
  rfl

theorem handleError_malformed {h : BitVec 32} (sisx : Bool) (hl : handleLive s s.launch.asid h = true)
    (hwf : (readDesc s s.launch.asid (handleRegion h)).wf s = false) :
    handleError s h sisx = some ⟨0x10#8, h.setWidth 64, 2#64, s.sq.em⟩ := by
  simp only [handleError, handleSubcode, hl, hwf, Bool.not_false, Bool.not_true, Bool.false_eq_true, if_false, if_true]
  rfl

/-- The four sparse reads: their operation, datum width, registers and checks. -/
def sparseReads (c e f m : Bool) (d a b : Opnd) (s : State) : List (Instr × Nat × Bool × List Opnd × List (Option Report)) :=
  let h1 := handle1 s b
  let h2 := handle2 s b
  let keys := laneKeys s a
  let least := fun p => searchOutside s h1 (fun rd d => leastFrom rd d p)
  [(Instr.sld c d a b e f m, 0, m, (if m then d.pair else [d]), [handleError s h1 false, keyError s h1 keys,
      kittyError keys (fun k => searchOutside s h1 (fun rd d => findKey rd d k))]),
    (.scur c d a b e f, 1, false, d.pair, [handleError s h1 false, kittyError keys least]),
    (.snxt c d a b e f, 2, false, d.group4 ++ a.pair, [handleError s h1 false, kittyError keys least]),
    (.sisx c d a b e f, 3, false, d.group4 ++ a.pair, [handleError s h1 true, handleError s h2 true,
      kittyError keys (fun p => commonOutside s h1 h2 ((readDesc s s.launch.asid (handleRegion h1)).count + 1) p)])]

variable {c : Bool} {x : Instr × Nat × Bool × List Opnd × List (Option Report)}

theorem cursorForm_isReg (h : cursorForm d a b = true) : ∀ o ∈ d.group4 ++ a.pair, o.isReg = true := by
  simp only [cursorForm, Bool.and_eq_true] at h
  obtain ⟨⟨⟨hd, ha⟩, -⟩, -⟩ := h
  exact fun o ho => (List.mem_append.1 ho).elim (group4_isReg (isReg_of_isQuad hd) o) (pair_isReg (isReg_of_isEven ha) o)

theorem sparseReads_isReg (hx : x ∈ sparseReads c e f m d a b s) (hwf : x.1.wf = true) : ∀ o ∈ x.2.2.2.1, o.isReg = true := by
  simp only [sparseReads, List.mem_cons, List.not_mem_nil, or_false] at hx
  rcases hx with rfl | rfl | rfl | rfl
  · have hd : (if m = true then d.isEven else d.isV) = true := (Bool.and_eq_true_iff.1 hwf).2
    cases m with
    | true => exact pair_isReg (isReg_of_isEven hd)
    | false => exact fun o ho => List.mem_singleton.1 ho ▸ isReg_of_isV hd
  · exact pair_isReg (isReg_of_isEven (Bool.and_eq_true_iff.1 hwf).2)
  · exact cursorForm_isReg hwf
  · exact cursorForm_isReg hwf

/-- Each is `sparseRead` of its row. The checks are those of the state at issue. -/
theorem sparseReads_exec (hx : x ∈ sparseReads c e f m d a b s) : exec x.1 s = issueWord x.1 (sparseRead x.2.1 x.2.2.1 a b x.2.2.2.1 x.2.2.2.2) s := by
  simp only [sparseReads, List.mem_cons, List.not_mem_nil, or_false] at hx
  rcases hx with rfl | rfl | rfl | rfl <;> rfl

/-- The handle of the first region is the first that is looked at. -/
theorem sparseReads_handle (hx : x ∈ sparseReads c e f m d a b s) : ∃ sisx rest, x.2.2.2.2 = handleError s (handle1 s b) sisx :: rest := by
  simp only [sparseReads, List.mem_cons, List.not_mem_nil, or_false] at hx
  rcases hx with rfl | rfl | rfl | rfl <;> exact ⟨_, _, rfl⟩

end

/-- Settles O41: the four words are `sparseRead`, whose outcomes the lemmas above state. -/
theorem sparseReadIssue : Obligations.SparseReadIssue := by
  unfold Obligations.SparseReadIssue
  intro c e f m d a b s x h1 h2 keys least hx h
  have hx : x ∈ sparseReads c e f m d a b s := hx
  have he := sparseReads_exec hx
  obtain ⟨sisx, rest, hchk⟩ := sparseReads_handle hx
  refine ⟨fun hem => noAccess_issued h he (sparseRead_empty hem),
    fun hem hy => sparseRead_begins h he hem (sparseReads_isReg hx h.wf) hy, fun y hem hy => sparseRead_faults h he hem hy,
    fun hem hl => sparseRead_faults h he hem ?dead, fun hem hl hwf => sparseRead_faults h he hem ?malformed⟩
  case dead => exact hchk ▸ congrArg (firstOf <| · :: rest) (handleError_dead sisx hl)
  case malformed => exact hchk ▸ congrArg (firstOf <| · :: rest) (handleError_malformed sisx hl hwf)

/-! ## What single-key stores change (R309) -/

section
variable {s : State}

/-- From `r` to `t`, memory and the counts of its accesses have changed, with the lists that go with memory: of dirty pages, of
earlier images of nodes, and of notification records. -/
structure StoresOnly (r t : State) : Prop where
  outside : t = { r with mem := t.mem, dies := t.dies, part := { r.part with
    dirty := t.part.dirty, nodeAges := t.part.nodeAges, held := t.part.held, nqdrop := t.part.nqdrop, nqtail := t.part.nqtail } }
  canonical : r.mem.wf = true → t.mem.wf = true

theorem StoresOnly.refl (s : State) : StoresOnly s s := ⟨rfl, id⟩

theorem StoresOnly.trans {r t u : State} (h : StoresOnly r t) (h' : StoresOnly t u) : StoresOnly r u where
  outside := by rw [h'.outside, h.outside]
  canonical := fun hw => h'.canonical (h.canonical hw)

theorem Counted.storesOnly {r t : State} (h : Counted r t) : StoresOnly r t where
  outside := h.outside.trans (congrArg (fun p => ({ r with dies := t.dies, mem := t.mem, part := p } : State)) (by rw [h.part]))
  canonical := h.canonical

theorem homeWrite_storesOnly (cells : List (Nat × Byte)) (s : State) : StoresOnly s (homeWrite cells s) :=
  ⟨rfl, fun hw => Memory.writeCells_wf hw cells⟩

theorem noteAges_storesOnly (r : Nat × Nat) (k : Kitty) (p : Plan) (s : State) : StoresOnly s (noteAges r k p s) := ⟨rfl, id⟩

theorem freshAges_storesOnly (r : Nat × Nat) (s : State) : StoresOnly s (freshAges r s) := by
  unfold freshAges
  split
  · exact .refl s
  · exact ⟨rfl, id⟩

theorem countNodes_counted (k : Kitty) (is : List Nat) (s : State) : Counted s (countNodes k is s) :=
  foldl_counted _ (fun t _ => countSegment_counted _ _ _ _ t) _ s

theorem storeKey_storesOnly {asid : Nat} {leases : List (Nat × Nat)} {h : BitVec 32} {k v : Nat} {t : State}
    (he : storeKey asid leases h k v s = .ok t) : StoresOnly s t := by
  unfold storeKey at he
  split at he
  · cases he
  · dsimp only at he
    split at he
    · cases he
    · cases he
    · split at he
      · cases he
      · split at he
        · cases he
        · cases he
          exact (noteAges_storesOnly _ _ _ s).trans ((homeWrite_storesOnly _ _).trans (countNodes_counted _ _ _).storesOnly)

theorem acceptLanes_storesOnly (asid : Nat) (leases : List (Nat × Nat)) (h : BitVec 32) (n : Nat) (todo : List (Nat × Nat × Nat))
    (s : State) : StoresOnly s (acceptLanes asid leases h n todo s).1 := by
  fun_induction acceptLanes asid leases h n todo s with
  | case3 s n l k v r t he ih => exact (storeKey_storesOnly he).trans ih
  | _ => exact .refl _

/-! ## SST (R319 to R323) -/

variable {c e f m : Bool} {d a b : Opnd} {y : Report}

/-- The lanes of an SST at issue: lane, key and datum. -/
def sstLanes (s : State) (m : Bool) (d a : Opnd) : List (Nat × Nat × Nat) := (laneKeys s a).map fun k => (k.1, k.2, sstDatum s m d k.1)

/-- The checks of an SST, before any lane is stored. -/
def sstChecks (s : State) (m : Bool) (d a b : Opnd) : List (Option Report) :=
  [handleError s (handle1 s b) false, keyError s (handle1 s b) (laneKeys s a),
    outsideReport 1 (lanesOutside s.launch.asid s.launch.lr.leases (handle1 s b) (sstLanes s m d a) s)]

/-- The lanes that the slice accepts as an SST of `s` issues, performed on `u`. -/
def sstRun (s : State) (m : Bool) (d a b : Opnd) (u : State) : State × List (Nat × Nat × Nat) × SstEnd :=
  acceptLanes s.launch.asid s.launch.lr.leases (handle1 s b) s.sstChunk (sstLanes s m d a) (freshAges (regionOf s.launch.asid (handle1 s b)) u)

/-- The state after them: nothing that the squad had read ahead stays (R321). -/
def sstAccepted (s : State) (m : Bool) (d a b : Opnd) (u : State) : State := dropAhead u.core.id u.sq.key (sstRun s m d a b u).1

theorem ownSst_empty (hem : s.sq.em = 0#32) : ownSst c d a b e f m s = .done id := if_pos hem

section
variable (hem : s.sq.em ≠ 0#32) (hsst : s.sq.sst = none)
include hem hsst

theorem ownSst_turn (ht : turnHeld false s = true) : ownSst c d a b e f m s = .wait .turn := by
  simp only [ownSst, hem, if_false, hsst, ht, if_true]

variable (ht : turnHeld false s = false)
include ht

theorem ownSst_faults (hy : firstOf (sstChecks s m d a b) = some y) : ownSst c d a b e f m s = .trap y := by
  have hy : firstOf [handleError s (handle1 s b) false, keyError s (handle1 s b) (laneKeys s a), outsideReport 1 (lanesOutside s.launch.asid
    s.launch.lr.leases (handle1 s b) ((laneKeys s a).map fun k => (k.1, k.2, sstDatum s m d k.1)) s)] = some y := hy
  simp only [ownSst, hem, if_false, hsst, ht, Bool.false_eq_true, hy]

/-- An SST that passes its checks. -/
theorem ownSst_checked (hy : firstOf (sstChecks s m d a b) = none) : ownSst c d a b e f m s =
    if storeHeld s.sq then .wait .order
    else match (sstRun s m d a b s).2.2 with
      | .exhausted => .fail (sstAccepted s m d a b) (exhaustedReport (handle1 s b) (sstRun s m d a b s).2.1)
      | .outside va => .trap ⟨0x09#8, BitVec.ofNat 64 va, 1#64, maskOfList (((sstRun s m d a b s).2.1.take 1).map (·.1))⟩
      | .dead c => .fail (sstAccepted s m d a b) (regionReport (handle1 s b) c s.sq.em)
      | .fine =>
        if (sstRun s m d a b s).2.1.isEmpty then .done (sstAccepted s m d a b)
        else .hold false .sst (fun t => (sstAccepted s m d a b t).onSq (fun q =>
          { q with sst := some ⟨.sst c d a b e f m, handle1 s b, (sstRun s m d a b s).2.1⟩ })) := by
  have hy : firstOf [handleError s (handle1 s b) false, keyError s (handle1 s b) (laneKeys s a), outsideReport 1 (lanesOutside s.launch.asid
    s.launch.lr.leases (handle1 s b) ((laneKeys s a).map fun k => (k.1, k.2, sstDatum s m d k.1)) s)] = none := hy
  simp only [ownSst, hem, if_false, hsst, ht, Bool.false_eq_true, hy]
  rfl

end

/-- The lanes of an SST change memory and what goes with it, and drop what the squad had read ahead. -/
theorem sstAccepted_effect (u : State) : ∃ r, StoresOnly u r
    ∧ sstAccepted s m d a b u = { r with core := { u.core with ahead := u.core.ahead.filter (·.k != u.sq.key) } } := by
  have h : StoresOnly u (sstRun s m d a b u).1 := (freshAges_storesOnly (regionOf s.launch.asid (handle1 s b)) u).trans
    (acceptLanes_storesOnly s.launch.asid s.launch.lr.leases (handle1 s b) s.sstChunk (sstLanes s m d a) _)
  have hcore : (sstRun s m d a b u).1.core = u.core := by rw [h.outside]
  refine ⟨(sstRun s m d a b u).1, h, ?_⟩
  rw [sstAccepted, ← hcore, dropAhead_cur]

theorem sst_completes (h : ReadyFor (.sst c d a b e f m) s) (hem : s.sq.em ≠ 0#32) (hsst : s.sq.sst = none) (ht : turnHeld false s = false)
    (hy : firstOf (sstChecks s m d a b) = none) (hheld : storeHeld s.sq = false) (hall : (sstRun s m d a b s).2.1 = [])
    (hfine : (sstRun s m d a b s).2.2 = .fine) : Completes (.sst c d a b e f m) s fun t => ∃ r, Issued s r ∧ t = sstAccepted s m d a b r
      ∧ (∀ x ∈ t.core.ahead, x.k ≠ s.sq.key)
      ∧ t = { r with core := { r.core with ahead := t.core.ahead }, mem := t.mem, dies := t.dies, part := { r.part with
          dirty := t.part.dirty, nodeAges := t.part.nodeAges
          held := t.part.held, nqdrop := t.part.nqdrop, nqtail := t.part.nqtail } }
      ∧ (s.mem.wf = true → t.mem.wf = true) := by
  have ho : ownSst c d a b e f m s = _ := ownSst_checked hem hsst ht hy
  simp only [hheld, hfine, hall, Bool.false_eq_true, if_false, List.isEmpty_nil, if_true] at ho
  refine completes_of_done h rfl ho ⟨retire 1 (bit31 (.sst c d a b e f m)) s, issued_retire _ s, rfl, ?_⟩
  obtain ⟨r, hstores, heq⟩ := sstAccepted_effect (s := s) (m := m) (d := d) (a := a) (b := b) (retire 1 (bit31 (.sst c d a b e f m)) s)
  rw [heq]
  refine ⟨fun x hx => ?_, ?_, hstores.canonical⟩
  · exact bne_iff_ne.1 (List.mem_filter.1 hx).2
  · rw [hstores.outside]

theorem sst_exhausts (h : ReadyFor (.sst c d a b e f m) s) (hem : s.sq.em ≠ 0#32) (hsst : s.sq.sst = none) (ht : turnHeld false s = false)
    (hy : firstOf (sstChecks s m d a b) = none) (hheld : storeHeld s.sq = false) (hdry : (sstRun s m d a b s).2.2 = .exhausted) :
    exec (.sst c d a b e f m) s = .next (takeTrap (exhaustedReport (handle1 s b) (sstRun s m d a b s).2.1)
      s.sq.pkt s.sq.word 0 1 (sstAccepted s m d a b s)) := by
  have ho : ownSst c d a b e f m s = _ := ownSst_checked hem hsst ht hy
  simp only [hheld, hdry, Bool.false_eq_true, if_false] at ho
  have he : exec (.sst c d a b e f m) s = issueWord (.sst c d a b e f m) (ownSst c d a b e f m) s := rfl
  rw [he, issueWord, if_pos h.wf, wordOut, prelude_of_ready h]
  simp only [ho]

end

/-- Settles O42: the outcomes of `ownSst`, in its order. -/
theorem sparseStoreIssue : Obligations.SparseStoreIssue := by
  unfold Obligations.SparseStoreIssue
  intro c e f m d a b s h i hd keys todo errors run accepted
  refine ⟨fun hem => noAccess_issued (own := ownSst c d a b e f m) h rfl (ownSst_empty hem),
    fun hem hsst ht => waits_of_wait (own := ownSst c d a b e f m) h rfl (ownSst_turn hem hsst ht),
    fun hem hsst ht => ⟨fun y hy => trap_completes (own := ownSst c d a b e f m) h rfl (ownSst_faults hem hsst ht hy),
      fun hy hheld => ?order, fun hy hheld => ⟨fun hall hfine => sst_completes h hem hsst ht hy hheld hall hfine,
        fun l k v rest hleft hdry => ?exhausted⟩⟩⟩
  case order =>
    exact waits_of_wait (own := ownSst c d a b e f m) h rfl ((ownSst_checked hem hsst ht hy).trans (if_pos hheld))
  case exhausted =>
    have hleft : (sstRun s m d a b s).2.1 = (l, k, v) :: rest := hleft
    have he := sst_exhausts h hem hsst ht hy hheld hdry
    rw [hleft] at he
    exact he

/-! ## The lanes of a held SST and what its squad had read ahead (R236, R309, R321) -/

section
variable {s : State} {k : SquadKey} {q : Squad} {w : Instr} {h : BitVec 32} {lane key v : Nat} {todo : List (Nat × Nat × Nat)} {u : State}

theorem acceptLanes_one {asid : Nat} {leases : List (Nat × Nat)} (hu : storeKey asid leases h key v s = .ok u) :
    acceptLanes asid leases h 1 ((lane, key, v) :: todo) s = (u, todo, .fine) := by
  rw [acceptLanes, hu]
  cases todo <;> rfl

/-- The slice takes the next lane of a held SST, and what the squad had read ahead goes. -/
theorem acceptStore_next (hq : s.findSq k = some q) (hsst : q.sst = some ⟨w, h, (lane, key, v) :: todo⟩)
    (hu : storeKey (s.getLaunch k.lid).asid (s.getLaunch k.lid).lr.leases h key v s = .ok u) : acceptStore k s =
      (dropAhead (s.getTeam k.team).core k u).updSq k fun q =>
        { q with sst := some ⟨w, h, todo⟩, wait := if todo.isEmpty then none else q.wait } := by
  simp only [acceptStore, getSq_of_find hq, hsst, acceptLanes_one hu]

end

/-- The descriptor of an empty region of one dimension: rank 1, VALID, extents 1 and no root (Table 22-1). -/
def memEmptyRegion : Memory := ⟨[(2 ^ 40, 1#8), (2 ^ 40 + 5, 1#8), (2 ^ 40 + 8, 1#8), (2 ^ 40 + 12, 1#8), (2 ^ 40 + 16, 1#8), (2 ^ 40 + 20, 1#8),
  (2 ^ 40 + 32, 0xFF#8), (2 ^ 40 + 33, 0xFF#8), (2 ^ 40 + 34, 0xFF#8), (2 ^ 40 + 35, 0xFF#8)]⟩

/-- A squad whose SST has one lane to go, a zero at key 0 of the empty region 0, and whose core holds a line that the squad read
ahead (R196). -/
def stSstAhead : State := { State.reset with
  sq := { Squad.empty with status := .live, sst := some ⟨.sst false (.v 4) (.v 2) (.s 1) false false false, 0#32, [(0, 0, 0)]⟩ }
  team := { Team.empty with status := .running }
  core := { Core.fresh 0 with ahead := [⟨⟨0, 0, 0⟩, 0, false, 0, []⟩] }
  launch := { Launch.empty with status := .running }
  mem := memEmptyRegion
  part := { Part.reset with
    caps := { Caps.fused with cores := Vector.replicate 4 1#48 }
    asids := [⟨0, 0#64, 0#32, 1#16, false, BitVec.ofNat 64 (2 ^ 40), 1#32⟩] } }

/-- Whether a single-key operation has been performed. -/
def KeyRes.performed {α : Type} : KeyRes α → Bool
  | .ok _ => true
  | _ => false

theorem KeyRes.ok_of_performed {α : Type} {x : KeyRes α} (h : x.performed = true) : ∃ y, x = .ok y := by
  cases x with
  | ok y => exact ⟨y, rfl⟩
  | _ => cases h

theorem stSstAhead_stores :
    ∃ u, storeKey (stSstAhead.getLaunch 0).asid (stSstAhead.getLaunch 0).lr.leases 0#32 0 0 stSstAhead = .ok u :=
  KeyRes.ok_of_performed (by decide +kernel)

/-- The lane's store drops that line from the core. -/
theorem stSstAhead_drops {t u : State} (hu : storeKey (stSstAhead.getLaunch 0).asid (stSstAhead.getLaunch 0).lr.leases 0#32 0 0 stSstAhead = .ok u)
    (ht : exec (.singleKeyOperation (.sst ⟨0, 0, 0⟩)) stSstAhead = .next t) : t.core.ahead = [] := by
  have hrun : exec (.singleKeyOperation (.sst ⟨0, 0, 0⟩)) stSstAhead = .next (settle (acceptStore ⟨0, 0, 0⟩ stSstAhead)) := rfl
  have hcore : u.core = stSstAhead.core := by rw [(storeKey_storesOnly hu).outside]
  have hid : (stSstAhead.getTeam (SquadKey.team ⟨0, 0, 0⟩)).core = u.core.id := by
    rw [hcore]
    rfl
  have haccept := acceptStore_next (k := ⟨0, 0, 0⟩) (q := stSstAhead.sq) rfl rfl hu
  rw [hid, dropAhead_cur] at haccept
  obtain rfl := Host.Outcome.next.inj (ht.symm.trans hrun)
  rw [settle_outside, haccept, updSq_outside, hcore]
  rfl

/-- Refutes O43: a lane of a held SST that is stored also drops, from its core, the line that the squad had read ahead. -/
theorem not_singleKeySteps : ¬ Obligations.SingleKeySteps := by
  unfold Obligations.SingleKeySteps
  intro h
  obtain ⟨-, hsst⟩ := h stSstAhead stSstAhead.sq rfl
  obtain ⟨u, hu⟩ := stSstAhead_stores
  obtain ⟨t, ht, -, -, hcore, -⟩ := hsst _ 0#32 0 0 0 [] u rfl hu
  have hdrop := stSstAhead_drops hu ht
  rw [hcore] at hdrop
  exact absurd hdrop (by decide)

end Sys2Proof.Machine
end

/-! # Commands that end, and the elements of STK and of CPY to a shoe (R236, R258, R259, R262, R263, Table 18-4) -/

section
namespace Sys2Proof.Machine

-- One after the other, as above: the check's memory limit bounds the stacks of parallel elaboration.
set_option Elab.async false

section
variable {s : State}

/-! ## Cores after an update of one -/

theorem getCore_updCore_other (f : Core → Core) {i j : Nat} (hf : ∀ c, (f c).id = c.id) (hij : j ≠ i) :
    (s.updCore i f).getCore j = s.getCore j := by
  unfold State.updCore State.getCore
  by_cases hc : s.core.id = i
  · have hne : s.core.id ≠ j := fun h => hij (h ▸ hc)
    rw [if_pos hc]
    simp only [hf, if_neg hne]
  · rw [if_neg hc]
    have hmap : (s.cores.map (fun q => if q.id = i then f q else q)).find? (·.id == j) = s.cores.find? (·.id == j) := by
      have := find_map_other (fun q : Core => q.id == i) (fun q : Core => q.id == j) f s.cores fun q h => by
        simp only [hf, beq_iff_eq] at h ⊢
        simp [h, hij.symm]
      simpa using this
    split
    · simp only [hmap]
    · have hid : ((f (Core.fresh i)).id == j) = false := by simp [hf, Core.fresh, hij.symm]
      simp only [List.find?_cons, hid]

/-- A part of a core that an update leaves is as before in every core. -/
theorem getCore_updCore_part {α : Type} (g : Core → α) (f : Core → Core) {i : Nat} (hf : ∀ c, (f c).id = c.id) (hg : ∀ c, g (f c) = g c)
    (j : Nat) : g ((s.updCore i f).getCore j) = g (s.getCore j) := by
  by_cases hij : j = i
  · rw [hij, getCore_updCore s i f hf, hg]
  · rw [getCore_updCore_other f hf hij]

theorem Counted.getCore {r t : State} (h : Counted r t) (i : Nat) : t.getCore i = r.getCore i := by
  rw [h.outside]
  rfl

/-! ## Releases (R233, R234) -/

/-- From `r` to `t`, bytes have gone on towards their homes, and no core's locks or stock have changed. -/
structure WentHome (r t : State) : Prop where
  outside : t = { r with
    core := t.core, cores := t.cores, dies := t.dies, mem := t.mem, part := { r.part with dirty := t.part.dirty } }
  locks : ∀ i, (t.getCore i).locks = (r.getCore i).locks

theorem WentHome.refl (s : State) : WentHome s s := ⟨rfl, fun _ => rfl⟩

theorem WentHome.trans {r t u : State} (h : WentHome r t) (h' : WentHome t u) : WentHome r u where
  outside := by rw [h'.outside, h.outside]
  locks := fun i => (h'.locks i).trans (h.locks i)

theorem homeWrite_wentHome (cells : List (Nat × Byte)) (s : State) : WentHome s (homeWrite cells s) := ⟨rfl, fun _ => rfl⟩

theorem updDie_wentHome (d : Nat) (f : Die → Die) (s : State) : WentHome s (s.updDie d f) := ⟨rfl, fun _ => rfl⟩

theorem updCore_wentHome (i : Nat) (f : Core → Core) (hf : ∀ c, (f c).id = c.id) (hl : ∀ c, (f c).locks = c.locks) (s : State) :
    WentHome s (s.updCore i f) where
  outside := by rw [updCore_outside]
  locks := getCore_updCore_part Core.locks f hf hl

theorem acceptFromDie_wentHome (d stamp : Nat) (s : State) : WentHome s (acceptFromDie d stamp s) := by
  unfold acceptFromDie
  split
  · exact .refl s
  · exact (updDie_wentHome _ _ s).trans (homeWrite_wentHome _ _)

theorem dieAccept_wentHome (d : Nat) (k : SquadKey) (seq : Nat) (cells : List (Nat × Byte)) (s : State) :
    WentHome s (dieAccept d k seq cells s) := by
  unfold dieAccept
  split
  · exact homeWrite_wentHome cells s
  · refine WentHome.trans ?_ (updDie_wentHome _ _ _)
    unfold roomInL2
    split
    · exact .refl s
    · split
      · exact acceptFromDie_wentHome _ _ s
      · exact .refl s

theorem acceptFromCore_wentHome (core stamp : Nat) (s : State) : WentHome s (acceptFromCore core stamp s) := by
  unfold acceptFromCore
  split
  · exact .refl s
  · refine (updCore_wentHome core (fun c => { c with merged := c.merged.filter (·.stamp != stamp) }) (fun _ => rfl) (fun _ => rfl) s).trans ?_
    exact (dieAccept_wentHome _ _ _ _ _)

theorem foldl_wentHome {α : Type} (f : State → α → State) (h : ∀ s x, WentHome s (f s x)) (l : List α) (s : State) :
    WentHome s (l.foldl f s) := by
  induction l generalizing s with
  | nil => exact .refl s
  | cons x l ih => exact (h s x).trans (ih (f s x))

theorem releaseNow_wentHome (core : Nat) (scope : Scope) (s : State) : WentHome s (releaseNow core scope s) := by
  have hmerged : WentHome s ((s.getCore core).merged.foldl (fun t e => acceptFromCore core e.stamp t) s) :=
    foldl_wentHome _ (fun t _ => acceptFromCore_wentHome core _ t) _ s
  cases scope with
  | squad | team => exact .refl s
  | die => exact hmerged
  | device | system => exact hmerged.trans (foldl_wentHome _ (fun t _ => acceptFromDie_wentHome _ _ t) _ _)

/-- A release with nothing on its way does nothing. -/
theorem releaseNow_idle {core : Nat} {scope : Scope} (h : scope = .squad ∨ scope = .team
    ∨ ((s.getCore core).merged = [] ∧ (scope = .die ∨ (s.getDie (dieOf core)).pend = []))) : releaseNow core scope s = s := by
  rcases h with rfl | rfl | ⟨hm, hp⟩
  · rfl
  · rfl
  · cases scope with
    | squad | team => rfl
    | die => simp only [releaseNow, hm, List.foldl_nil]
    | device | system =>
      have hp := hp.resolve_left nofun
      simp only [releaseNow, hm, List.foldl_nil, hp]

/-! ## Tickets (R262, R263, Table 18-4) -/

/-- A squad after a uniform value has been written to a producer's registers, and the producer has gone. -/
def Squad.filled (seq : Nat) (x : DWord) (q : Squad) : Squad :=
  { (((q.prods.find? (·.seq == seq)).map (·.regs)).getD []).foldl (fun q o => q.putU o x) q with prods := q.prods.filter (·.seq != seq) }

theorem foldl_putU_place (regs : List Opnd) (x : DWord) (q : Squad) :
    (regs.foldl (fun q o => q.putU o x) q).key = q.key ∧ (regs.foldl (fun q o => q.putU o x) q).status = q.status := by
  induction regs generalizing q with
  | nil => exact ⟨rfl, rfl⟩
  | cons o regs ih =>
    obtain ⟨hk, hs⟩ := ih (q.putU o x)
    refine ⟨hk.trans ?_, hs.trans ?_⟩ <;> cases o <;> rfl

theorem filled_key (seq : Nat) (x : DWord) (q : Squad) : (q.filled seq x).key = q.key := (foldl_putU_place _ x q).1

theorem filled_status (seq : Nat) (x : DWord) (q : Squad) : (q.filled seq x).status = q.status := (foldl_putU_place _ x q).2

theorem filled_register {q : Squad} {seq id dep : Nat} {d : Fin 32} {x : DWord}
    (hp : q.prods.find? (·.seq == seq) = some ⟨seq, .ticket id, [.s d], [], dep⟩) :
    vget (q.filled seq x).s d.val = x ∧ (q.filled seq x).isFull (.s d) = true := by
  have h : q.filled seq x = { q.putU (.s d) x with prods := q.prods.filter (·.seq != seq) } := by rw [Squad.filled, hp]; rfl
  rw [h]
  exact ⟨(vget_vset ..).trans (if_pos ⟨rfl, d.isLt⟩), (isFull_putU q (.s d) (.s d) x rfl).trans (if_pos rfl)⟩

theorem findCmd_settle (s : State) (cmd : Nat) :
    (settle s).findCmd cmd = (s.findCmd cmd).map (fun c => { c with rel := (fenceState s c.rel).1 }) := by
  have hids : ∀ l : List Cmd, (l.map (fun c => { c with rel := (fenceState s c.rel).1 })).find? (·.id == cmd)
      = (l.find? (·.id == cmd)).map (fun c => { c with rel := (fenceState s c.rel).1 }) := fun l => List.find?_map ..
  exact hids s.cmds

/-- A command in flight is found under its own number. -/
theorem id_of_findCmd {cmd : Nat} {c : Cmd} (h : s.findCmd cmd = some c) : c.id = cmd := by simpa using List.find?_some h

/-- What the end of a command has brought home, before its ticket fills: nothing that its squad read ahead stays (R236). -/
def State.beforeTicket (c : Cmd) (s : State) : State := dropAhead (s.getTeam c.k.team).core c.k (releaseNow c.core c.rel.scope s)

theorem beforeTicket_wentHome (c : Cmd) (s : State) : WentHome s (s.beforeTicket c) :=
  (releaseNow_wentHome c.core c.rel.scope s).trans
    (updCore_wentHome _ (fun x => { x with ahead := x.ahead.filter (fun a => a.k != c.k) }) (fun _ => rfl) (fun _ => rfl) _)

theorem fillTicket_eq {c : Cmd} (code : Nat) (hst : (s.getTeam c.k.team).status ≠ .saved) : fillTicket c code s =
    settle ((dropCmd c (s.beforeTicket c)).updSq c.k (Squad.filled c.seq (statusWord c.fn code c.count))) := by
  have hteam : (s.beforeTicket c).getTeam c.k.team = s.getTeam c.k.team := by
    rw [(beforeTicket_wentHome c s).outside]
    rfl
  have hkeep : ((s.beforeTicket c).getTeam c.k.team).status ≠ .saved := by rwa [hteam]
  exact congrArg settle (if_neg hkeep)

/-- A command leaves, with its entries in its core's table; other cores, squads and memory stay. -/
theorem dropCmd_outside (c : Cmd) (s : State) : dropCmd c s = { s with
    cmds := s.cmds.filter (·.id != c.id), core := (dropCmd c s).core, cores := (dropCmd c s).cores } :=
  updCore_outside _ _ _

theorem fillTicket_fills {cmd : Nat} {c : Cmd} {code dep : Nat} {q : Squad} {d : Fin 32} (hc : s.findCmd cmd = some c)
    (hq : s.findSq c.k = some q) (hp : q.prods.find? (·.seq == c.seq) = some ⟨c.seq, .ticket c.id, [.s d], [], dep⟩)
    (hst : (s.getTeam c.k.team).status ≠ .saved) : let t := fillTicket c code s
      vget (t.getSq c.k).s d.val = statusWord c.fn code c.count ∧ (t.getSq c.k).isFull (.s d) = true
      ∧ t.findCmd cmd = none ∧ (t.getCore c.core).locks = (s.getCore c.core).locks.filter (·.cmd != cmd)
      ∧ (c.rel.scope = .squad ∨ c.rel.scope = .team
          ∨ ((s.getCore c.core).merged = [] ∧ (c.rel.scope = .die ∨ (s.getDie (dieOf c.core)).pend = [])) →
        t.mem = s.mem ∧ t.dies = s.dies) := by
  intro t
  have ht : t = _ := fillTicket_eq code hst
  have hhome := beforeTicket_wentHome c s
  have hid := id_of_findCmd hc
  set x := statusWord c.fn code c.count
  set v := dropCmd c (s.beforeTicket c)
  have hv : v = { s.beforeTicket c with
      cmds := (s.beforeTicket c).cmds.filter (·.id != c.id), core := v.core, cores := v.cores } := dropCmd_outside c (s.beforeTicket c)
  have hqv : v.findSq c.k = some q := by
    have hfind : (s.beforeTicket c).findSq c.k = some q := by
      rw [hhome.outside]
      exact hq
    rw [hv]
    exact hfind
  have hfound : (v.updSq c.k (Squad.filled c.seq x)).findSq c.k = some (q.filled c.seq x) := by
    rw [findSq_updSq v c.k _ (filled_key c.seq x) fun r hr => by rw [filled_status]; exact hr, hqv]
    rfl
  have hsq : t.getSq c.k = settleSq (v.updSq c.k (Squad.filled c.seq x)) (q.filled c.seq x) := by rw [ht, getSq_settle hfound]
  obtain ⟨hval, hfull⟩ := filled_register (x := x) hp
  refine ⟨by rw [hsq]; exact hval, by rw [hsq]; exact hfull, ?gone, ?locks, fun hscope => ?home⟩
  case gone =>
    have hcmds : (s.beforeTicket c).cmds = s.cmds := (congrArg State.cmds hhome.outside :)
    rw [ht, findCmd_settle, updSq_outside, hv, hid]
    simp [State.findCmd, hcmds]
  case locks =>
    have hcore : (v.getCore c.core).locks = ((s.beforeTicket c).getCore c.core).locks.filter (·.cmd != c.id) :=
      congrArg Core.locks (getCore_updCore { s.beforeTicket c with cmds := (s.beforeTicket c).cmds.filter (·.id != c.id) } c.core
        (fun x => { x with locks := x.locks.filter (·.cmd != c.id) }) fun _ => rfl)
    rw [hhome.locks, hid] at hcore
    rw [ht, updSq_outside]
    exact hcore
  case home =>
    have hbefore : s.beforeTicket c = { s with core := (s.beforeTicket c).core, cores := (s.beforeTicket c).cores } := by
      rw [State.beforeTicket, releaseNow_idle hscope]
      exact updCore_outside _ _ _
    have hmem : (s.beforeTicket c).mem = s.mem := (congrArg State.mem hbefore :)
    have hdies : (s.beforeTicket c).dies = s.dies := (congrArg State.dies hbefore :)
    rw [ht, updSq_outside, hv]
    exact ⟨hmem, hdies⟩

/-- Which code a command ends with (Table 18-4). -/
theorem ticketFill_ends {cmd : Nat} {c : Cmd} {code : Nat} (hc : s.findCmd cmd = some c)
    (h : c.stop = some code ∨ (c.stop = none ∧ c.cancelled = true ∧ c.fn ≠ 9 ∧ code = 1)
      ∨ (c.stop = none ∧ (c.cancelled = false ∨ c.fn = 9) ∧ cmdDone c = true ∧ code = 0)) :
    exec (.ticketFill cmd) s = .next (fillTicket c code s) := by
  have he : exec (.ticketFill cmd) s = execTicketFill cmd s := rfl
  rw [he, execTicketFill, hc]
  rcases h with hstop | ⟨hstop, hcan, hfn, rfl⟩ | ⟨hstop, hgo, hdone, rfl⟩
  · simp only [hstop]
  · simp only [hstop, hcan, Bool.true_and, bne_iff_ne.2 hfn, if_true]
  · have hno : (c.cancelled && c.fn != 9) = false := by rcases hgo with h | h <;> simp [h]
    simp only [hstop, hno, hdone, Bool.false_eq_true, if_false, if_true]

/-! ## Steps of commands (R258, R259) -/

theorem countElem_counted (c : Cmd) (va : Int) (n : Nat) (s : State) : Counted s (countElem c va n s) :=
  foldl_counted _ (fun _ _ => countSegment_counted _ _ _ _ _) _ s

theorem countElems_counted (c : Cmd) (vas : List Int) (n : Nat) (s : State) : Counted s (countElems c vas n s) :=
  foldl_counted _ (fun t va => countElem_counted c va n t) vas s

/-- The units and the count of a command that has gone on. -/
theorem findCmd_advance {cmd units count : Nat} {c : Cmd} {t : State} (hc : s.findCmd cmd = some c) (ht : t.cmds = s.cmds) :
    ((settle (advance c.id units count t)).findCmd cmd).map (fun k => (k.units, k.count)) = some (c.units + units, c.count + count) := by
  have hfind : t.findCmd cmd = some c := by rw [State.findCmd, ht]; exact hc
  rw [findCmd_settle, advance, id_of_findCmd hc,
    findCmd_updCmd t cmd (fun x => { x with units := x.units + units, count := x.count + count }) fun _ => rfl, hfind]
  rfl

/-- Bytes written into the stock of a core. -/
def writeStock (a : Nat) (bs : List Byte) (s : State) (i : Nat) : State :=
  s.updCore i (fun x => { x with stock := x.stock.writeBytes a bs })

/-- Bytes written into the stock of several cores. -/
def writeStocks (cores : List Nat) (a : Nat) (bs : List Byte) (s : State) : State := cores.foldl (writeStock a bs) s

theorem writeStock_outside (a : Nat) (bs : List Byte) (s : State) (i : Nat) :
    writeStock a bs s i = { s with core := (writeStock a bs s i).core, cores := (writeStock a bs s i).cores } := updCore_outside _ _ _

theorem stock_writeStock (a : Nat) (bs : List Byte) (s : State) (i : Nat) :
    ((writeStock a bs s i).getCore i).stock = (s.getCore i).stock.writeBytes a bs :=
  congrArg Core.stock (getCore_updCore s i (fun x => { x with stock := x.stock.writeBytes a bs }) fun _ => rfl)

theorem getCore_writeStock_other (a : Nat) (bs : List Byte) (s : State) {i k : Nat} (h : k ≠ i) :
    (writeStock a bs s i).getCore k = s.getCore k := getCore_updCore_other _ (fun _ => rfl) h

/-- A change of the cores alone, and then another. -/
theorem coresOnly_trans {r t u : State} (h : t = { r with core := t.core, cores := t.cores })
    (h' : u = { t with core := u.core, cores := u.cores }) : u = { r with core := u.core, cores := u.cores } := by
  rw [h', h]

theorem writeStocks_outside (cores : List Nat) (a : Nat) (bs : List Byte) (s : State) :
    writeStocks cores a bs s = { s with core := (writeStocks cores a bs s).core, cores := (writeStocks cores a bs s).cores } := by
  induction cores generalizing s with
  | nil => rfl
  | cons i cores ih => exact coresOnly_trans (writeStock_outside a bs s i) (ih (writeStock a bs s i))

theorem stock_writeStocks {cores : List Nat} (hnd : cores.Nodup) (a : Nat) (bs : List Byte) (s : State) (k : Nat) :
    ((writeStocks cores a bs s).getCore k).stock =
      if k ∈ cores then (s.getCore k).stock.writeBytes a bs else (s.getCore k).stock := by
  induction cores generalizing s with
  | nil => rfl
  | cons i cores ih =>
    obtain ⟨hi, hnd⟩ := List.nodup_cons.1 hnd
    refine (ih hnd (writeStock a bs s i)).trans ?_
    by_cases hk : k = i
    · subst hk
      rw [if_neg hi, if_pos List.mem_cons_self, stock_writeStock]
    · rw [getCore_writeStock_other a bs s hk]
      simp only [List.mem_cons, hk, false_or]

theorem stockTargets_nodup (s : State) (c : Cmd) : (stockTargets s c).Nodup := by
  refine List.Nodup.filter _ (List.nodup_cons.2 ⟨by simp, List.Nodup.filter _ (List.Nodup.map ?_ (List.nodup_range.filter _))⟩)
  exact fun x y h => Nat.add_left_cancel h

theorem ticketFill_runs {cmd : Nat} {c : Cmd} {t : State} (hc : s.findCmd cmd = some c) (hstop : c.stop = none) (hcan : c.cancelled = false)
    (hdone : cmdDone c = false) (hstart : cmdStarted s c = true) (hshoe : toShoe c = false) (hfn : c.fn ≠ 3)
    (ht : unitOf c s = .ok t) : exec (.ticketFill cmd) s = .next (settle t) := by
  have he : exec (.ticketFill cmd) s = execTicketFill cmd s := rfl
  simp only [he, execTicketFill, hc, hstop, hcan, hdone, hstart, hshoe, Bool.false_and, Bool.false_eq_true, if_false, Bool.not_false,
    Bool.true_and, bne_iff_ne.2 hfn, if_true, ht, applyUnit]

theorem stk_step {cmd : Nat} {c : Cmd} {bs : List Byte} (hc : s.findCmd cmd = some c) (hfn : c.fn = 0) (hstop : c.stop = none)
    (hcan : c.cancelled = false) (hdone : cmdDone c = false) (hstart : cmdStarted s c = true)
    (hheld : stockHeld s c.core c.tr c.sb = false) (hread : engElem s c c.units = .ok bs) : Completes (.ticketFill cmd) s fun t =>
      (∀ k ∈ stockTargets s c, (s.getCore k).stock.wf = true →
        Stored (cellsAt (stockAddr c.tr c.sb c.units) bs) (s.getCore k).stock (t.getCore k).stock)
      ∧ (t.findCmd cmd).map (fun k => (k.units, k.count)) = some (c.units + 1, c.count + 1)
      ∧ (s.mem.wf = true → ∀ a, OutsideRing s a → t.mem.read a = s.mem.read a) := by
  set v := writeStocks (stockTargets s c) (stockAddr c.tr c.sb c.units) bs s
  have hunit : unitOf c s = .ok (advance c.id 1 1 (countElem c (c.tr.addr c.units) c.tr.eb v)) := by
    have h : unitOf c s = unitStk c s := by rw [unitOf, hfn]; rfl
    simp only [h, unitStk, hheld, Bool.false_eq_true, if_false, hread, EngRes.bind]
    rfl
  have hcnt := countElem_counted c (c.tr.addr c.units) c.tr.eb v
  have hout : v = { s with core := v.core, cores := v.cores } := writeStocks_outside _ _ _ s
  have hshoe : toShoe c = false := by simp [toShoe, hfn]
  refine ⟨_, ticketFill_runs hc hstop hcan hdone hstart hshoe (by rw [hfn]; decide) hunit, fun k hk hw => ?stock, ?_, fun hw a ha => ?memory⟩
  case stock =>
    have hcore : ((settle (advance c.id 1 1 (countElem c (c.tr.addr c.units) c.tr.eb v))).getCore k).stock = (v.getCore k).stock :=
      congrArg Core.stock (hcnt.getCore k)
    rw [hcore, stock_writeStocks (stockTargets_nodup s c), if_pos hk]
    exact Memory.read_writeCells hw _
  case memory =>
    have hmem : v.mem = s.mem := (congrArg State.mem hout :)
    have hring : OutsideRing v a := .congr (congrArg (fun t => t.part.nqbase) hout :) (congrArg (fun t => t.part.nqsize) hout :)
      (congrArg (fun t => t.part.windows) hout :) ha
    exact (hcnt.memory (hmem ▸ hw) a hring).trans (by rw [hmem])
  · exact findCmd_advance hc ((congrArg State.cmds hcnt.outside :).trans (congrArg State.cmds hout :))

theorem publish_step {cmd : Nat} {c : Cmd} {tm : Team} {bs : List Byte} (hc : s.findCmd cmd = some c) (hfn : c.fn = 1) (hkind : c.tr.dkind = 3)
    (hstop : c.stop = none) (hcan : c.cancelled = false) (hdone : cmdDone c = false) (hstart : cmdStarted s c = true)
    (htm : s.findTeam c.k.team = some tm) (hw : tm.scratch.wf = true) :
    let n := (c.sb.extractLsb' 0 4).toNat
    let h := vget tm.shoes n
    let k := min (64 * h.slot / c.tr.eb) (c.tr.count - c.units)
    tm.shoeMask.getLsbD n = true → shoeRefuses h 0 = false → shoeReady h = true → engElems s c c.units k = .ok bs →
    Completes (.engineShoePublish cmd) s fun t =>
      (t.getTeam c.k.team).shoes = vset tm.shoes n { h with free := h.free - 1, filled := h.filled + 1, tail := (h.tail + 1) % h.nslot }
      ∧ Stored (cellsAt (h.base + 64 * h.slot * h.tail) ((padTo (64 * h.slot) bs).take (64 * h.slot))) tm.scratch (t.getTeam c.k.team).scratch
      ∧ (t.findCmd cmd).map (fun k => (k.units, k.count)) = some (c.units + k, c.count + k) := by
  intro n h k hmask hrefuses hready hread
  have hgot : s.getTeam c.k.team = tm := by rw [State.getTeam, htm]; rfl
  set v := releaseNow c.core c.rel.scope (countElems c ((List.range k).map (fun i => c.tr.addr (c.units + i))) c.tr.eb s)
  have hunit : unitCpyShoe c s = .ok (advance c.id k k (publish c.k.team n bs v)) := by
    have hno : (!tm.shoeMask.getLsbD n || shoeRefuses (vget tm.shoes n) 0) = false := by rw [hmask]; exact hrefuses
    have hfree : (!shoeReady (vget tm.shoes n)) = false := by rw [show shoeReady (vget tm.shoes n) = true from hready]; rfl
    have hread : engElems s c c.units (min (64 * (vget tm.shoes n).slot / c.tr.eb) (c.tr.count - c.units)) = .ok bs := hread
    simp only [unitCpyShoe, hgot, n, hno, hfree, Bool.false_eq_true, if_false, hread, EngRes.bind]
    rfl
  have hcnt := countElems_counted c ((List.range k).map (fun i => c.tr.addr (c.units + i))) c.tr.eb s
  have hhome := releaseNow_wentHome c.core c.rel.scope (countElems c ((List.range k).map (fun i => c.tr.addr (c.units + i))) c.tr.eb s)
  have hcmds : v.cmds = s.cmds := (congrArg State.cmds hhome.outside :).trans (congrArg State.cmds hcnt.outside :)
  have hteam : v.findTeam c.k.team = some tm := by
    exact (congrArg (fun u => u.findTeam c.k.team) hhome.outside :).trans ((congrArg (fun u => u.findTeam c.k.team) hcnt.outside :).trans htm)
  have hgo : (toShoe c && c.stop.isNone && !c.cancelled && !cmdDone c && cmdStarted s c) = true := by
    simp [toShoe, hfn, hkind, hstop, hcan, hdone, hstart]
  have hrun : exec (.engineShoePublish cmd) s = .next (settle (advance c.id k k (publish c.k.team n bs v))) := by
    have he : exec (.engineShoePublish cmd) s = execEngineShoePublish cmd s := rfl
    have hne : ¬ c.fn = 4 := by omega
    simp only [he, execEngineShoePublish, hc, hgo, if_true, hne, if_false, hunit, applyUnit]
  have hpublished : (settle (advance c.id k k (publish c.k.team n bs v))).getTeam c.k.team = tm.published n bs :=
    getTeam_updTeam (f := Team.published n bs) hteam (fun _ => rfl) fun _ h => h
  refine ⟨_, hrun, ?_, ?_, ?_⟩
  · rw [hpublished]
    rfl
  · rw [hpublished]
    exact Memory.read_writeCells hw _
  · refine findCmd_advance hc ?_
    rw [publish, updTeam_outside]
    exact hcmds

end

/-- Settles O45: the three ends of a command, an element of STK, and a slot of CPY. -/
theorem engineProgress : Obligations.EngineProgress := by
  unfold Obligations.EngineProgress
  intro s cmd c hc
  refine ⟨fun q d code dep hends hq hp hst => ⟨_, ticketFill_ends hc hends, fillTicket_fills hc hq hp hst⟩,
    fun bs hfn hstop hcan hdone hstart hheld hread => stk_step hc hfn hstop hcan hdone hstart hheld hread,
    fun tm bs hfn hkind hstop hcan hdone hstart htm hw => publish_step hc hfn hkind hstop hcan hdone hstart htm hw⟩

end Sys2Proof.Machine
end

/-! # Pre-emption: requests, saves and resumption (R347 to R353) -/

section
namespace Sys2Proof.Machine

-- One after the other, as above: the check's memory limit bounds the stacks of parallel elaboration.
set_option Elab.async false

section
variable {s : State}

/-! ## Squads and teams through a run of updates -/

/-- Squad `k` is there, with a property. -/
def State.SquadWith (s : State) (k : SquadKey) (P : Squad → Prop) : Prop := ∃ q, s.findSq k = some q ∧ P q

/-- Team `k` is there, with a property. -/
def State.TeamWith (s : State) (k : TeamKey) (P : Team → Prop) : Prop := ∃ t, s.findTeam k = some t ∧ P t

theorem State.SquadWith.get {k : SquadKey} {P : Squad → Prop} (h : s.SquadWith k P) : P (s.getSq k) := by
  obtain ⟨q, hq, hP⟩ := h
  rwa [getSq_of_find hq]

theorem State.TeamWith.get {k : TeamKey} {P : Team → Prop} (h : s.TeamWith k P) : P (s.getTeam k) := by
  obtain ⟨t, ht, hP⟩ := h
  rwa [State.getTeam, ht]

theorem State.SquadWith.updSq {j k : SquadKey} {P : Squad → Prop} {f : Squad → Squad} (h : s.SquadWith k P)
    (hk : ∀ q, (f q).key = q.key) (hs : ∀ q, (f q).status = q.status) (hP : ∀ q, P q → P (f q)) : (s.updSq j f).SquadWith k P := by
  obtain ⟨q, hq, hPq⟩ := h
  have hst : ∀ q, q.status ≠ .absent → (f q).status ≠ .absent := fun q hq => by rwa [hs]
  by_cases hj : k = j
  · subst hj
    exact ⟨f q, by rw [findSq_updSq s k f hk hst, hq]; rfl, hP q hPq⟩
  · exact ⟨q, by rw [findSq_updSq_other s j k f hj hk hst, hq], hPq⟩

theorem State.SquadWith.updSq_own {k : SquadKey} {P Q : Squad → Prop} {f : Squad → Squad} (h : s.SquadWith k P)
    (hk : ∀ q, (f q).key = q.key) (hs : ∀ q, (f q).status = q.status) (hQ : ∀ q, P q → Q (f q)) : (s.updSq k f).SquadWith k Q := by
  obtain ⟨q, hq, hP⟩ := h
  exact ⟨f q, by rw [findSq_updSq s k f hk fun q hq => by rwa [hs], hq]; rfl, hQ q hP⟩

theorem State.SquadWith.settle {k : SquadKey} {P : Squad → Prop} (h : s.SquadWith k P) (hP : ∀ q, P q → P (settleSq s q)) :
    (settle s).SquadWith k P := by
  obtain ⟨q, hq, hPq⟩ := h
  exact ⟨settleSq s q, by rw [findSq_settle, hq]; rfl, hP q hPq⟩

theorem findTeam_updTeam_other (s : State) (j k : TeamKey) (f : Team → Team) (hj : k ≠ j) (hk : ∀ t, (f t).key = t.key)
    (hs : ∀ t, t.status ≠ .absent → (f t).status ≠ .absent) : (s.updTeam j f).findTeam k = s.findTeam k := by
  unfold State.updTeam State.findTeam State.allTeams State.isCurTeam
  by_cases hc : (s.team.status != .absent && s.team.key == j) = true
  · rw [if_pos hc]
    simp only [Bool.and_eq_true, bne_iff_ne, beq_iff_eq] at hc
    have : (s.team.key == k) = false := by rw [hc.2]; simpa using hj.symm
    simp [hc.1, hs _ hc.1, hk, this]
  · rw [if_neg hc]
    have hmap : (s.teams.map (fun t => if t.key = j then f t else t)).find? (·.key == k) = s.teams.find? (·.key == k) := by
      have := find_map_other (fun t : Team => t.key == j) (fun t : Team => t.key == k) f s.teams (fun t h => by
        simp only [beq_iff_eq] at h; simp only [hk, h]; simpa using hj.symm)
      simpa using this
    by_cases ha : s.team.status = .absent
    · simp [ha, hmap]
    · simp [ha, List.find?_cons, hmap]

theorem State.TeamWith.updTeam_own {k : TeamKey} {P Q : Team → Prop} {f : Team → Team} (h : s.TeamWith k P)
    (hk : ∀ t, (f t).key = t.key) (hs : ∀ t, t.status ≠ .absent → (f t).status ≠ .absent) (hQ : ∀ t, P t → Q (f t)) :
    (s.updTeam k f).TeamWith k Q := by
  obtain ⟨t, ht, hP⟩ := h
  exact ⟨f t, by rw [findTeam_updTeam s k f hk hs, ht]; rfl, hQ t hP⟩

theorem State.TeamWith.updTeam {j k : TeamKey} {P : Team → Prop} {f : Team → Team} (h : s.TeamWith k P) (hk : ∀ t, (f t).key = t.key)
    (hs : ∀ t, t.status ≠ .absent → (f t).status ≠ .absent) (hP : ∀ t, P t → P (f t)) : (s.updTeam j f).TeamWith k P := by
  by_cases hj : k = j
  · subst hj
    exact h.updTeam_own hk hs hP
  · obtain ⟨t, ht, hPt⟩ := h
    exact ⟨t, by rw [findTeam_updTeam_other s j k f hj hk hs, ht], hPt⟩

theorem State.TeamWith.same {k : TeamKey} {P : Team → Prop} {t : State} (h : s.TeamWith k P) (hteam : t.team = s.team)
    (hteams : t.teams = s.teams) : t.TeamWith k P := by
  rwa [State.TeamWith, State.findTeam, State.allTeams, hteam, hteams]

theorem mem_updTeam (s : State) (k : TeamKey) (f : Team → Team) : (s.updTeam k f).mem = s.mem := by rw [updTeam_outside]

theorem State.SquadWith.same {k : SquadKey} {P : Squad → Prop} {t : State} (h : s.SquadWith k P) (hsq : t.sq = s.sq)
    (hsquads : t.squads = s.squads) : t.SquadWith k P := by
  rwa [State.SquadWith, State.findSq, State.allSquads, hsq, hsquads]

theorem State.SquadWith.updTeam {j : SquadKey} {P : Squad → Prop} (h : s.SquadWith j P) (k : TeamKey) (f : Team → Team) :
    (s.updTeam k f).SquadWith j P := by
  rw [updTeam_outside]
  exact h

/-- What one of a list's steps brings about, and every step keeps, stands after them all. -/
theorem foldl_reaches {α : Type} {f : State → α → State} {I P : State → Prop} {l : List α} {x : α} (hx : x ∈ l)
    (hI : ∀ u y, I u → I (f u y)) (hset : ∀ u, I u → P (f u x)) (hkeep : ∀ u y, P u → P (f u y)) (h : I s) : P (l.foldl f s) := by
  induction l generalizing s with
  | nil => cases hx
  | cons y l ih =>
    rcases List.mem_cons.1 hx with rfl | hx
    · exact List.foldlRecOn l f (hset s h) fun u hu y _ => hkeep u y hu
    · exact ih hx (hI s y h)

/-! ## Requests (R347, R348) -/

/-- A team that is to be pre-empted. -/
def Team.marked (t : Team) : Team := { t with status := .preempting }

/-- A team is to be pre-empted. -/
def markTeam (s : State) (k : TeamKey) : State := s.updTeam k Team.marked

theorem marked_status (t : Team) : t.marked.status ≠ .absent := nofun

theorem markTeam_outside (s : State) (k : TeamKey) :
    markTeam s k = { s with team := (markTeam s k).team, teams := (markTeam s k).teams } := updTeam_outside _ _ _

theorem foldl_markTeam_outside (ks : List TeamKey) (s : State) :
    ks.foldl markTeam s = { s with team := (ks.foldl markTeam s).team, teams := (ks.foldl markTeam s).teams } := by
  refine List.foldlRecOn (b := s) (motive := fun u => u = { s with team := u.team, teams := u.teams }) ks markTeam rfl fun u hu k _ => ?_
  have hstep := markTeam_outside u k
  rw [hstep, hu]

theorem foldl_markTeam_status {ks : List TeamKey} {k : TeamKey} {tm : Team} (hk : k ∈ ks) (htm : s.findTeam k = some tm) :
    (ks.foldl markTeam s).TeamWith k (·.status = .preempting) := by
  have hkey (t : Team) : t.marked.key = t.key := rfl
  refine foldl_reaches (I := fun u => u.TeamWith k fun _ => True) (P := fun u => u.TeamWith k (·.status = .preempting)) hk
    (fun u j hu => ?_) (fun u hu => ?_) (fun u j hu => ?_) ⟨tm, htm, trivial⟩
  · exact hu.updTeam hkey (fun t _ => marked_status t) fun _ _ => trivial
  · exact hu.updTeam_own hkey (fun t _ => marked_status t) fun _ _ => rfl
  · exact hu.updTeam hkey (fun t _ => marked_status t) fun _ _ => rfl

/-- A team that a request names. -/
def requested (lid : Nat) (teams : Option (List Nat)) (t : Team) : Bool :=
  t.key.lid == lid && t.status == .running && (match teams with
    | none => true
    | some l => l.contains t.key.tmid)

/-- The teams that a request names. -/
def requestedTeams (s : State) (lid : Nat) (teams : Option (List Nat)) : List TeamKey :=
  (s.allTeams.filter (requested lid teams)).map (·.key)

theorem preemptionRequest_eq (s : State) (lid : Nat) (teams : Option (List Nat)) : exec (.preemptionRequest lid teams) s =
    if ((requestedTeams s lid teams).foldl markTeam s).part.drain = 0#64 then
      .next ((requestedTeams s lid teams).foldl (fun s k => expireDrain k s) ((requestedTeams s lid teams).foldl markTeam s))
    else .next ((requestedTeams s lid teams).foldl markTeam s) := rfl

theorem mem_requestedTeams {k : TeamKey} {tm : Team} {teams : Option (List Nat)} (htm : s.findTeam k = some tm) (hst : tm.status = .running)
    (hteams : ∀ l, teams = some l → k.tmid ∈ l) : k ∈ requestedTeams s k.lid teams := by
  have hkey : tm.key = k := by simpa using List.find?_some htm
  refine List.mem_map.2 ⟨tm, List.mem_filter.2 ⟨List.mem_of_find?_eq_some htm, ?_⟩, hkey⟩
  cases teams with
  | none => simp [requested, hkey, hst]
  | some l => simpa [requested, hkey, hst] using hteams l rfl

theorem requestedTeams_one {k x : TeamKey} (h : x ∈ requestedTeams s k.lid (some [k.tmid])) : x = k := by
  obtain ⟨t, ht, rfl⟩ := List.mem_map.1 h
  have hreq := (List.mem_filter.1 ht).2
  simp only [requested, List.contains_iff_mem, List.mem_singleton, Bool.and_eq_true, beq_iff_eq] at hreq
  cases hk : t.key
  cases k
  simp_all

/-- A command, cancelled where it is one of a team's that the walker does not run. -/
def cancelCmd (k : TeamKey) (c : Cmd) : Cmd := if c.k.team = k ∧ ¬ (6 ≤ c.fn ∧ c.fn ≤ 9) then { c with cancelled := true } else c

/-- The commands of a team, all but those of the walker, cancelled. -/
def cancelledCmds (k : TeamKey) (cmds : List Cmd) : List Cmd := cmds.map (cancelCmd k)

theorem expireDrain_eq (k : TeamKey) (s : State) : expireDrain k s = { s with cmds := cancelledCmds k s.cmds } := by
  have hone (c : Cmd) : (if c.k.team = k && drainsFn c.fn then { c with cancelled := true } else c) = cancelCmd k c :=
    if_congr (by simp only [drainsFn, Bool.and_eq_true, decide_eq_true_eq, Bool.not_eq_true', Bool.and_eq_false_imp, decide_eq_false_iff_not, not_and]) rfl rfl
  exact congrArg (fun cmds => { s with cmds := cmds }) (List.map_congr_left fun c _ => hone c)

theorem cancelCmd_idem (k : TeamKey) (c : Cmd) : cancelCmd k (cancelCmd k c) = cancelCmd k c := by
  by_cases hc : c.k.team = k ∧ ¬ (6 ≤ c.fn ∧ c.fn ≤ 9)
  · have h : cancelCmd k c = { c with cancelled := true } := if_pos hc
    rw [h]
    exact if_pos hc
  · have h : cancelCmd k c = c := if_neg hc
    rw [h, h]

theorem cancelledCmds_idem (k : TeamKey) (cmds : List Cmd) : cancelledCmds k (cancelledCmds k cmds) = cancelledCmds k cmds := by
  rw [cancelledCmds, cancelledCmds, List.map_map]
  exact List.map_congr_left fun c _ => cancelCmd_idem k c

theorem foldl_expireDrain {ks : List TeamKey} {k : TeamKey} (hne : ks ≠ []) (hall : ∀ x ∈ ks, x = k) (s : State) :
    ks.foldl (fun s k => expireDrain k s) s = { s with cmds := cancelledCmds k s.cmds } := by
  induction ks generalizing s with
  | nil => exact absurd rfl hne
  | cons x ks ih =>
    obtain rfl := hall x List.mem_cons_self
    rw [List.foldl_cons, expireDrain_eq]
    by_cases hks : ks = []
    · rw [hks, List.foldl_nil]
    · rw [ih hks fun y hy => hall y (List.mem_cons_of_mem _ hy), cancelledCmds_idem]

/-! ## TEAM_CONTEXT_SAVE (R348 to R352) -/

/-- A squad's save area is written, and nothing that it read ahead stays. -/
def saveSquad (s : State) (core : Nat) (u : State) (q : Squad) : State := dropAhead core q.key (homeWrite (cellsAt q.ctx (saveArea s q)) u)

theorem saveSquad_wentHome (s : State) (core : Nat) (u : State) (q : Squad) : WentHome u (saveSquad s core u q) :=
  (homeWrite_wentHome _ u).trans
    (updCore_wentHome core (fun c => { c with ahead := c.ahead.filter (fun a => a.k != q.key) }) (fun _ => rfl) (fun _ => rfl) _)

/-- The save areas of a team's squads are written. -/
def saveSquads (k : TeamKey) (s : State) : State := (s.teamSquads k).foldl (saveSquad s (s.getTeam k).core) s

theorem saveTeam_eq (k : TeamKey) (copy : Bool) (s : State) :
    saveTeam k copy s = homeWrite (teamCells (saveSquads k s) ((saveSquads k s).getTeam k) copy) (saveSquads k s) := rfl

theorem saveTeam_wentHome (k : TeamKey) (copy : Bool) (s : State) : WentHome s (saveTeam k copy s) := by
  rw [saveTeam_eq]
  exact (foldl_wentHome _ (saveSquad_wentHome s _) _ s).trans (homeWrite_wentHome _ _)

theorem homeWrite_wf (cells : List (Nat × Byte)) (h : s.mem.wf = true) : (homeWrite cells s).mem.wf = true := Memory.writeCells_wf h cells

theorem dropAhead_mem (core : Nat) (k : SquadKey) (s : State) : (dropAhead core k s).mem = s.mem := by rw [dropAhead, updCore_outside]

theorem saveSquad_wf {core : Nat} {u : State} (q : Squad) (h : u.mem.wf = true) : (saveSquad s core u q).mem.wf = true := by
  rw [saveSquad, dropAhead_mem]
  exact homeWrite_wf _ h

theorem saveTeam_wf (k : TeamKey) (copy : Bool) (h : s.mem.wf = true) : (saveTeam k copy s).mem.wf = true := by
  rw [saveTeam_eq]
  refine homeWrite_wf _ ?_
  exact List.foldlRecOn (b := s) (motive := fun u : State => u.mem.wf = true) _ _ h fun u hu q _ => saveSquad_wf q hu

theorem getTeam_settle (s : State) (k : TeamKey) : (settle s).getTeam k = s.getTeam k := rfl

theorem mem_settle (s : State) : (settle s).mem = s.mem := rfl

theorem countTiles_only (t : Team) (s : State) : countTiles t s = { s with
    part := { s.part with lifetime := (countTiles t s).part.lifetime, hour := (countTiles t s).part.hour } } := by
  unfold countTiles
  split <;> rfl

/-- What a saved team's squads leave their core with. -/
def moveOut (s : State) (q : Squad) : State := moveSquad q.key none s

theorem foldl_moveOut_moves (qs : List Squad) (s : State) : Moves s (qs.foldl moveOut s) := by
  refine List.foldlRecOn (b := s) (motive := Moves s) qs moveOut (Moves.refl s) fun u hu q _ => ?_
  exact hu.trans (moveSquad_moves q.key none u)

theorem State.SquadWith.moveSquad {j k : SquadKey} {P : Squad → Prop} (h : s.SquadWith k P)
    (hP : ∀ q age, P q → P (moveFile none age q)) : (moveSquad j none s).SquadWith k P := by
  obtain ⟨q, hq, hPq⟩ := h
  by_cases hj : k = j
  · subst hj
    exact ⟨_, by rw [findSq_moveSquad, if_pos rfl, hq]; rfl, hP q s.free hPq⟩
  · exact ⟨q, by rw [findSq_moveSquad, if_neg hj, hq], hPq⟩

/-- A squad out of the fast file, whose uncorrectable words have become poison. -/
def MovedOut (q : Squad) : Prop := q.fast = false ∧ q.uncorr = []

theorem foldl_moveOut_squad {qs : List Squad} {q : Squad} (hq : q ∈ qs) (h : s.SquadWith q.key fun _ => True) :
    (qs.foldl moveOut s).SquadWith q.key MovedOut := by
  refine foldl_reaches (I := fun u => u.SquadWith q.key fun _ => True) (P := fun u => u.SquadWith q.key MovedOut) hq
    (fun u x hu => State.SquadWith.moveSquad hu fun _ _ _ => trivial) (fun u hu => ?_)
    (fun u x hu => State.SquadWith.moveSquad hu fun _ _ _ => ⟨rfl, rfl⟩) h
  obtain ⟨r, hr, -⟩ := hu
  exact ⟨moveFile none u.free r, by rw [moveOut, findSq_moveSquad, if_pos rfl, hr]; rfl, rfl, rfl⟩

theorem find_of_mem_teamSquads {k : TeamKey} {q : Squad} (hq : q ∈ s.teamSquads k) : s.SquadWith q.key fun _ => True := by
  have hmem := (List.mem_filter.1 hq).1
  have hsome : (s.findSq q.key).isSome = true := List.find?_isSome.2 ⟨q, hmem, beq_self_eq_true _⟩
  obtain ⟨r, hr⟩ := Option.isSome_iff_exists.1 hsome
  exact ⟨r, hr, trivial⟩

/-- A team that has been saved. -/
def Team.savedWith (copy : Bool) (t : Team) : Team := { t with status := .saved, copied := copy }

/-- The state before a saved team is marked. -/
def beforeSaved (k : TeamKey) (copy : Bool) (s : State) : State :=
  (s.teamSquads k).foldl moveOut (countTiles (s.getTeam k) (withdrawTakes k (saveTeam k copy s)))

theorem teamContextSave_eq {k : TeamKey} {tm : Team} (copy : Bool) (htm : s.findTeam k = some tm) (hst : tm.status = .preempting)
    (hsettled : teamSettled s k = true) :
    exec (.teamContextSave ⟨k, copy⟩) s = .next (settle ((beforeSaved k copy s).updTeam k (Team.savedWith copy))) := by
  have he : exec (.teamContextSave ⟨k, copy⟩) s = execTeamContextSave ⟨k, copy⟩ s := rfl
  have hget : s.getTeam k = tm := by rw [State.getTeam, htm]; rfl
  have hgo : ((s.getTeam k).status = .preempting && teamSettled s k) = true := by simp [hget, hst, hsettled]
  rw [he]
  exact if_pos hgo

/-- The state before a saved team is marked is the state after the writes, but for the team's takes, its squads, and counts of events. -/
theorem beforeSaved_outside (k : TeamKey) (copy : Bool) (s : State) : beforeSaved k copy s = { saveTeam k copy s with
    team := (withdrawTakes k (saveTeam k copy s)).team, teams := (withdrawTakes k (saveTeam k copy s)).teams
    sq := (beforeSaved k copy s).sq, squads := (beforeSaved k copy s).squads, part := (beforeSaved k copy s).part } := by
  have hmoves := foldl_moveOut_moves (s.teamSquads k) (countTiles (s.getTeam k) (withdrawTakes k (saveTeam k copy s)))
  have htiles := countTiles_only (s.getTeam k) (withdrawTakes k (saveTeam k copy s))
  have hwith := updTeam_outside (saveTeam k copy s) k (fun x => { x with shoes := x.shoes.map (fun h => { h with ctakes := [], ptakes := [] }) })
  rw [beforeSaved, hmoves.only, htiles, withdrawTakes, hwith]

/-- A team of which only its status, and the takes of its shoes, have changed. -/
def TakesGone (tm t : Team) : Prop := t.scratch = tm.scratch ∧ ∀ h ∈ t.shoes.toList, h.ctakes = [] ∧ h.ptakes = []

theorem withdrawTakes_team {k : TeamKey} {tm : Team} (htm : s.findTeam k = some tm) : (withdrawTakes k s).TeamWith k (TakesGone tm) := by
  refine State.TeamWith.updTeam_own (P := (· = tm)) ⟨tm, htm, rfl⟩ (fun _ => rfl) (fun _ h => h) ?_
  rintro _ rfl
  refine ⟨rfl, fun h hh => ?_⟩
  rw [Vector.toList_map] at hh
  obtain ⟨y, -, rfl⟩ := List.mem_map.1 hh
  exact ⟨rfl, rfl⟩

theorem beforeSaved_team {k : TeamKey} {tm : Team} (copy : Bool) (htm : s.findTeam k = some tm) :
    (beforeSaved k copy s).TeamWith k (TakesGone tm) := by
  have houtside := beforeSaved_outside k copy s
  have hteam : (saveTeam k copy s).findTeam k = some tm := (congrArg (fun u => u.findTeam k) (saveTeam_wentHome k copy s).outside :).trans htm
  exact (withdrawTakes_team hteam).same (congrArg State.team houtside :) (congrArg State.teams houtside :)

theorem beforeSaved_mem (k : TeamKey) (copy : Bool) (s : State) : (beforeSaved k copy s).mem = (saveTeam k copy s).mem := by
  rw [beforeSaved_outside]

theorem beforeSaved_squad {k : TeamKey} {q : Squad} (copy : Bool) (hq : q ∈ s.teamSquads k) :
    (beforeSaved k copy s).SquadWith q.key MovedOut := by
  have hsave := (saveTeam_wentHome k copy s).outside
  have hwith := updTeam_outside (saveTeam k copy s) k (fun x => { x with shoes := x.shoes.map (fun h => { h with ctakes := [], ptakes := [] }) })
  have htiles := countTiles_only (s.getTeam k) (withdrawTakes k (saveTeam k copy s))
  refine foldl_moveOut_squad hq ?_
  exact (((find_of_mem_teamSquads hq).same (congrArg State.sq hsave :) (congrArg State.squads hsave :)).same
    (congrArg State.sq hwith :) (congrArg State.squads hwith :)).same (congrArg State.sq htiles :) (congrArg State.squads htiles :)

theorem teamContextSave_saves {k : TeamKey} {tm : Team} (copy : Bool) (htm : s.findTeam k = some tm) (hst : tm.status = .preempting)
    (hsettled : teamSettled s k = true) : Completes (.teamContextSave ⟨k, copy⟩) s fun t =>
      (t.getTeam k).status = .saved ∧ (t.getTeam k).copied = copy ∧ (t.getTeam k).scratch = tm.scratch
      ∧ t.mem = (saveTeam k copy s).mem ∧ (s.mem.wf = true → t.mem.wf = true)
      ∧ (∀ h ∈ (t.getTeam k).shoes.toList, h.ctakes = [] ∧ h.ptakes = [])
      ∧ ∀ q ∈ s.teamSquads k, (t.getSq q.key).fast = false ∧ (t.getSq q.key).uncorr = [] := by
  have hteam : ((beforeSaved k copy s).updTeam k (Team.savedWith copy)).TeamWith k
      (fun t => t.status = .saved ∧ t.copied = copy ∧ TakesGone tm t) :=
    (beforeSaved_team copy htm).updTeam_own (fun _ => rfl) (fun _ _ => nofun) fun t ht => ⟨rfl, rfl, ht⟩
  obtain ⟨hstatus, hcopied, hscratch, htakes⟩ := hteam.get
  refine ⟨_, teamContextSave_eq copy htm hst hsettled, ?_⟩
  beta_reduce
  rw [getTeam_settle, mem_settle, mem_updTeam, beforeSaved_mem]
  refine ⟨hstatus, hcopied, hscratch, rfl, saveTeam_wf k copy, htakes, fun q hq => ?_⟩
  exact (((beforeSaved_squad copy hq).updTeam k (Team.savedWith copy)).settle fun _ h => h).get

/-! ## TEAM_RESUME (R353) -/

/-- What a resumed team holds of its area, and of what stayed in place. -/
structure TeamRead (m : Memory) (core : Nat) (tm t : Team) : Prop where
  running : t.status = .running
  core : t.core = core
  scratch : tm.copied = false → t.scratch = tm.scratch
  bars : ∀ n, n < 16 → vget t.bars n = restoreBar m (tm.ctx + 8 * n)

theorem restoreTeam_read (m : Memory) (core : Nat) (tm : Team) : TeamRead m core tm (restoreTeam m core tm) where
  running := rfl
  core := rfl
  scratch := fun h => if_neg (by simp [h])
  bars := fun n hn => by simp [restoreTeam, vget, hn]

/-- What a resumed squad holds of its area. -/
structure SquadRead (m : Memory) (a : Nat) (q : Squad) : Prop where
  ctx : q.ctx = a
  pkt : q.pkt = m.value (a + 8) 4
  em : q.em = BitVec.ofNat 32 (m.value (a + 0x0C) 4)
  fmt : q.fmt = BitVec.ofNat 32 (m.value (a + 0x1C) 4)
  lclk : q.lclk = BitVec.ofNat 64 (m.value (a + 0x70) 8)
  scalar : ∀ n, n < 32 → vget q.s n = BitVec.ofNat 64 (m.value (a + 0x200 + 8 * n) 8)
  vector : ∀ n l, n < 64 → l < 32 → q.vreg n l = BitVec.ofNat 32 (m.value (a + 0xC00 + 128 * n + 4 * l) 4)

theorem restoreSquad_place (m : Memory) (q : Squad) : (restoreSquad m q).key = q.key ∧ (restoreSquad m q).status = q.status := by
  simp only [restoreSquad, and_self]

/-- A squad's context, read back, is as it was kept. -/
theorem restoreSquad_read (m : Memory) (q : Squad) : SquadRead m q.ctx (restoreSquad m q) where
  ctx := by simp only [restoreSquad]
  pkt := by simp only [restoreSquad]
  em := by simp only [restoreSquad]
  fmt := by simp only [restoreSquad]
  lclk := by simp only [restoreSquad]
  scalar := fun n hn => by simp [restoreSquad, vget, table, hn]
  vector := fun n l hn hl => by simp [restoreSquad, Squad.vreg, vget, table, hn, hl]

/-- A squad on another core: what its fences waited for has gone home. -/
def Squad.fencesMoved (q : Squad) : Squad := { q with fences := q.fences.map FenceRec.moved }

theorem SquadRead.fencesMoved {m : Memory} {a : Nat} {q : Squad} (h : SquadRead m a q) : SquadRead m a q.fencesMoved :=
  ⟨h.ctx, h.pkt, h.em, h.fmt, h.lclk, h.scalar, h.vector⟩

theorem fencesMoved_place (q : Squad) : q.fencesMoved.key = q.key ∧ q.fencesMoved.status = q.status := ⟨rfl, rfl⟩

/-- What a squad is after its context has been read back. -/
def resumedOn (m : Memory) (stays : Prop) [Decidable stays] (q : Squad) : Squad :=
  if stays then restoreSquad m q else (restoreSquad m q).fencesMoved

theorem resumedOn_read (m : Memory) (stays : Prop) [Decidable stays] (q : Squad) : SquadRead m q.ctx (resumedOn m stays q) := by
  unfold resumedOn
  split
  · exact restoreSquad_read m q
  · exact (restoreSquad_read m q).fencesMoved

theorem resumedOn_place (m : Memory) (stays : Prop) [Decidable stays] (q : Squad) :
    (resumedOn m stays q).key = q.key ∧ (resumedOn m stays q).status = q.status := by
  unfold resumedOn
  split
  · exact restoreSquad_place m q
  · rw [(fencesMoved_place _).1, (fencesMoved_place _).2]
    exact restoreSquad_place m q

/-- Only squads and teams have changed. -/
def SquadsTeamsOnly (s t : State) : Prop := t = { s with sq := t.sq, squads := t.squads, team := t.team, teams := t.teams }

theorem SquadsTeamsOnly.refl (s : State) : SquadsTeamsOnly s s := rfl

theorem SquadsTeamsOnly.trans {r t u : State} (h : SquadsTeamsOnly r t) (h' : SquadsTeamsOnly t u) : SquadsTeamsOnly r u := by
  rw [SquadsTeamsOnly] at *
  rw [h', h]

theorem SquadsTeamsOnly.updSq (k : SquadKey) (f : Squad → Squad) (s : State) : SquadsTeamsOnly s (s.updSq k f) := by
  rw [SquadsTeamsOnly, updSq_outside]

theorem SquadsTeamsOnly.updTeam (k : TeamKey) (f : Team → Team) (s : State) : SquadsTeamsOnly s (s.updTeam k f) := by
  rw [SquadsTeamsOnly, updTeam_outside]

theorem SquadsTeamsOnly.mem {t : State} (h : SquadsTeamsOnly s t) : t.mem = s.mem := by rw [h]

theorem SquadsTeamsOnly.getCore {t : State} (h : SquadsTeamsOnly s t) (i : Nat) : t.getCore i = s.getCore i := by
  rw [h]
  rfl

/-- A team, with a take of a squad in its shoe's order again. -/
def Team.requeued (k : SquadKey) (x : Nat × Nat × Bool × Opnd) (t : Team) : Team :=
  { t with shoes := vset t.shoes x.2.1 (queueTake x.2.2.1 k x.1 (vget t.shoes x.2.1)) }

/-- A take of a squad that resumes joins its shoe's order again. -/
def requeue (k : SquadKey) (u : State) (x : Nat × Nat × Bool × Opnd) : State := u.updTeam k.team (Team.requeued k x)

/-- A squad resumes: its takes join their shoes' orders, and its matrix words go on. -/
theorem resumeSquad_eq (core : Nat) (k : SquadKey) (s : State) : ∃ f : Squad → Squad,
    resumeSquad core k s = ((pendingTakes (s.getSq k)).foldl (requeue k) s).updSq k f
    ∧ (∀ q, (f q).key = q.key) ∧ (∀ q, (f q).status = q.status) ∧ ∀ m a q, SquadRead m a q → SquadRead m a (f q) := by
  refine ⟨_, rfl, fun _ => rfl, fun _ => rfl, fun m a q h => ?_⟩
  exact ⟨h.ctx, h.pkt, h.em, h.fmt, h.lclk, h.scalar, h.vector⟩

theorem foldl_requeue_only (k : SquadKey) (l : List (Nat × Nat × Bool × Opnd)) (s : State) : SquadsTeamsOnly s (l.foldl (requeue k) s) :=
  List.foldlRecOn (b := s) (motive := SquadsTeamsOnly s) l (requeue k) (.refl s) fun u hu _ _ => hu.trans (.updTeam _ _ u)

theorem resumeSquad_only (core : Nat) (k : SquadKey) (s : State) : SquadsTeamsOnly s (resumeSquad core k s) := by
  obtain ⟨f, he, -⟩ := resumeSquad_eq core k s
  rw [he]
  exact (foldl_requeue_only k _ s).trans (.updSq k f _)

theorem foldl_requeue_team {k : TeamKey} {j : SquadKey} {P : Team → Prop} (hP : ∀ t shoes, P t → P { t with shoes := shoes })
    (l : List (Nat × Nat × Bool × Opnd)) (h : s.TeamWith k P) : (l.foldl (requeue j) s).TeamWith k P :=
  List.foldlRecOn (b := s) (motive := fun u => u.TeamWith k P) l (requeue j) h fun _ hu x _ =>
    State.TeamWith.updTeam (f := Team.requeued j x) hu (fun _ => rfl) (fun _ h => h) fun t => hP t _

theorem foldl_requeue_squad {k j : SquadKey} {P : Squad → Prop} (l : List (Nat × Nat × Bool × Opnd)) (h : s.SquadWith k P) :
    (l.foldl (requeue j) s).SquadWith k P :=
  List.foldlRecOn (b := s) (motive := fun u => u.SquadWith k P) l (requeue j) h fun _ hu _ _ => State.SquadWith.updTeam hu _ _

theorem resumeSquad_team {core : Nat} {j : SquadKey} {k : TeamKey} {P : Team → Prop} (hP : ∀ t shoes, P t → P { t with shoes := shoes })
    (h : s.TeamWith k P) : (resumeSquad core j s).TeamWith k P := by
  obtain ⟨f, he, -⟩ := resumeSquad_eq core j s
  rw [he, updSq_outside]
  exact foldl_requeue_team hP _ h

theorem resumeSquad_squad {core : Nat} {j k : SquadKey} {m : Memory} {a : Nat} (h : s.SquadWith k (SquadRead m a)) :
    (resumeSquad core j s).SquadWith k (SquadRead m a) := by
  obtain ⟨f, he, hkey, hstatus, hread⟩ := resumeSquad_eq core j s
  rw [he]
  exact (foldl_requeue_squad _ h).updSq hkey hstatus (hread m a)

theorem TeamRead.shoes {m : Memory} {core : Nat} {tm : Team} (t : Team) (shoes : Vector Shoe 16) (h : TeamRead m core tm t) :
    TeamRead m core tm { t with shoes := shoes } := ⟨h.running, h.core, h.scratch, h.bars⟩

theorem getCore_focusCore (i : Nat) (s : State) : (s.focusCore i).getCore i = s.getCore i := by
  unfold State.focusCore
  split
  · rfl
  · have hid : (s.getCore i).id = i := by
      unfold State.getCore
      split
      · assumption
      · cases h : s.cores.find? (·.id == i) with
        | none => rfl
        | some c => simpa using List.find?_some h
    exact if_pos hid

/-- A team with other lines that its core's caches serve no more. -/
def Team.shunning (shunned : Caches) (t : Team) : Team := { t with shunned := shunned }

theorem TeamRead.shunning {m : Memory} {core : Nat} {tm t : Team} (shunned : Caches) (h : TeamRead m core tm t) :
    TeamRead m core tm (t.shunning shunned) := ⟨h.running, h.core, h.scratch, h.bars⟩

theorem shunning_place (shunned : Caches) (t : Team) : (t.shunning shunned).key = t.key ∧ (t.shunning shunned).status = t.status := ⟨rfl, rfl⟩

/-- A team as it is read back. -/
def Team.back (m : Memory) (core : Nat) (shunned : Caches) (t : Team) : Team := (restoreTeam m core t).shunning shunned

theorem back_key (m : Memory) (core : Nat) (shunned : Caches) (t : Team) : (t.back m core shunned).key = t.key := by
  rw [Team.back, (shunning_place _ _).1]
  simp only [restoreTeam]

theorem back_status (m : Memory) (core : Nat) (shunned : Caches) (t : Team) : (t.back m core shunned).status ≠ .absent := by
  rw [Team.back, (shunning_place _ _).2]
  simp [restoreTeam]

/-- The state of a resumed team before its squads read their contexts back. -/
def teamBack (k : TeamKey) (core : Nat) (s : State) : State :=
  let x := s.getTeam k
  let shunned := if core = x.core then x.shunned else (s.getCore core).caches
  let u := restoreCore x (s.updTeam k (Team.back s.mem core shunned)) core
  if s.isCurTeam k then u.focusCore core else u

/-- A squad of a resumed team reads its context back. -/
def squadBack (s : State) (k : TeamKey) (core : Nat) (u : State) (j : SquadKey) : State :=
  u.updSq j (resumedOn s.mem (core = (s.getTeam k).core))

/-- The state of a resumed team with its squads' contexts. -/
def contextsBack (k : TeamKey) (core : Nat) (s : State) : State :=
  ((s.teamSquads k).map (·.key)).foldl (squadBack s k core) (teamBack k core s)

theorem teamResume_eq {k : TeamKey} {tm : Team} {core : Nat} (htm : s.findTeam k = some tm) (hst : tm.status = .saved)
    (hrun : (s.getLaunch k.lid).status = .running) (haway : storesAway s tm core = false) (hmay : mayResume s tm core = true) :
    exec (.teamResume k core) s = .next (settle
      ((sortBy keyBefore ((s.teamSquads k).map (·.key))).foldl (fun u j => resumeSquad core j u) (contextsBack k core s))) := by
  have he : exec (.teamResume k core) s = execTeamResume k core s := rfl
  have hget : s.getTeam k = tm := by rw [State.getTeam, htm]; rfl
  have hgo : ((s.getTeam k).status = .saved && (s.getLaunch k.lid).status == .running && !storesAway s (s.getTeam k) core
      && mayResume s (s.getTeam k) core) = true := by simp [hget, hst, hrun, haway, hmay]
  rw [he]
  exact if_pos hgo

/-- What stays where a team resumes in its own allocation, and what a team reads back. -/
theorem teamBack_team {k : TeamKey} {tm : Team} (core : Nat) (htm : s.findTeam k = some tm) :
    (teamBack k core s).TeamWith k (TeamRead s.mem core tm) := by
  have hcore (x : Team) (u : State) : u.TeamWith k (TeamRead s.mem core tm) → (restoreCore x u core).TeamWith k (TeamRead s.mem core tm) := by
    intro h
    rw [restoreCore, updCore_outside]
    exact h
  unfold teamBack
  extract_lets x shunned u
  have hu : u.TeamWith k (TeamRead s.mem core tm) := by
    refine hcore x _ (State.TeamWith.updTeam_own (P := (· = tm)) ⟨tm, htm, rfl⟩ (back_key _ _ _) (fun t _ => back_status _ _ _ t) ?_)
    rintro t rfl
    exact (restoreTeam_read s.mem core t).shunning shunned
  split
  · rw [focusCore_only]
    exact hu
  · exact hu

theorem restoreCore_outside (x : Team) (s : State) (core : Nat) :
    restoreCore x s core = { s with core := (restoreCore x s core).core, cores := (restoreCore x s core).cores } := updCore_outside _ _ _

theorem restoreCore_stock {x : Team} (hx : x.copied = false) (s : State) (core : Nat) :
    ((restoreCore x s core).getCore core).stock = (s.getCore core).stock := by
  unfold restoreCore
  extract_lets m ps tile
  refine getCore_updCore_part Core.stock _ (fun c => ?_) (fun c => ?_) core
  · rfl
  · simp only [hx, Bool.false_eq_true, if_false]

/-- A change of the teams alone, then of the cores alone. -/
theorem teams_cores_trans {r t u : State} (h : t = { r with team := t.team, teams := t.teams })
    (h' : u = { t with core := u.core, cores := u.cores }) :
    u = { r with team := u.team, teams := u.teams, core := u.core, cores := u.cores } := by
  rw [h', h]

theorem teamBack_outside (k : TeamKey) (core : Nat) (s : State) : teamBack k core s = { s with
    team := (teamBack k core s).team, teams := (teamBack k core s).teams
    core := (teamBack k core s).core, cores := (teamBack k core s).cores } := by
  unfold teamBack
  extract_lets x shunned u
  have hu : u = { s with team := u.team, teams := u.teams, core := u.core, cores := u.cores } :=
    teams_cores_trans (updTeam_outside s k (Team.back s.mem core shunned)) (restoreCore_outside x _ core)
  split
  · rw [focusCore_only, hu]
  · exact hu

theorem teamBack_stock {k : TeamKey} {tm : Team} (core : Nat) (htm : s.findTeam k = some tm) (hcopied : tm.copied = false) :
    ((teamBack k core s).getCore core).stock = (s.getCore core).stock := by
  unfold teamBack
  extract_lets x shunned u
  have hx : x.copied = false := by rwa [show x = tm by rw [show x = s.getTeam k from rfl, State.getTeam, htm]; rfl]
  have hu : (u.getCore core).stock = (s.getCore core).stock := by
    refine (restoreCore_stock hx _ core).trans ?_
    rw [updTeam_outside]
    rfl
  split
  · rw [getCore_focusCore, hu]
  · exact hu

theorem contextsBack_only (k : TeamKey) (core : Nat) (s : State) : SquadsTeamsOnly (teamBack k core s) (contextsBack k core s) :=
  List.foldlRecOn (b := teamBack k core s) (motive := SquadsTeamsOnly (teamBack k core s)) _ (squadBack s k core) (.refl _)
    fun u hu j _ => hu.trans (.updSq j _ u)

theorem contextsBack_team {k : TeamKey} {tm : Team} (core : Nat) (htm : s.findTeam k = some tm) :
    (contextsBack k core s).TeamWith k (TeamRead s.mem core tm) := by
  refine List.foldlRecOn (b := teamBack k core s) (motive := fun u => u.TeamWith k (TeamRead s.mem core tm)) _ (squadBack s k core)
    (teamBack_team core htm) fun u hu j _ => ?_
  rw [squadBack, updSq_outside]
  exact hu

theorem contextsBack_squad {q : Squad} (core : Nat) (hq : s.findSq q.key = some q) :
    (contextsBack q.key.team core s).SquadWith q.key (SquadRead s.mem q.ctx) := by
  have hmem : q.key ∈ (s.teamSquads q.key.team).map (·.key) :=
    List.mem_map.2 ⟨q, List.mem_filter.2 ⟨List.mem_of_find?_eq_some hq, beq_self_eq_true _⟩, rfl⟩
  have hread (r : Squad) (hr : r.ctx = q.ctx) : SquadRead s.mem q.ctx (resumedOn s.mem (core = (s.getTeam q.key.team).core) r) :=
    hr ▸ resumedOn_read s.mem _ r
  have hback := teamBack_outside q.key.team core s
  refine foldl_reaches (I := fun u => u.SquadWith q.key (·.ctx = q.ctx)) (P := fun u => u.SquadWith q.key (SquadRead s.mem q.ctx)) hmem
    (fun u j hu => ?_) (fun u hu => ?_) (fun u j hu => ?_) ?_
  · exact State.SquadWith.updSq hu (fun r => (resumedOn_place _ _ r).1) (fun r => (resumedOn_place _ _ r).2) fun r hr => (hread r hr).ctx
  · exact State.SquadWith.updSq_own hu (fun r => (resumedOn_place _ _ r).1) (fun r => (resumedOn_place _ _ r).2) hread
  · exact State.SquadWith.updSq hu (fun r => (resumedOn_place _ _ r).1) (fun r => (resumedOn_place _ _ r).2) fun r hr => hread r hr.ctx
  · exact State.SquadWith.same (P := (·.ctx = q.ctx)) ⟨q, hq, rfl⟩ (congrArg State.sq hback :) (congrArg State.squads hback :)

theorem foldl_resumeSquad_only (core : Nat) (ks : List SquadKey) (s : State) :
    SquadsTeamsOnly s (ks.foldl (fun u j => resumeSquad core j u) s) :=
  List.foldlRecOn (b := s) (motive := SquadsTeamsOnly s) ks _ (.refl s) fun u hu j _ => hu.trans (resumeSquad_only core j u)

theorem SquadRead.settled {m : Memory} {a : Nat} {q : Squad} (h : SquadRead m a q) (s : State) : SquadRead m a (settleSq s q) :=
  ⟨h.ctx, h.pkt, h.em, h.fmt, h.lclk, h.scalar, h.vector⟩

theorem getCore_settle (s : State) (i : Nat) : (settle s).getCore i = s.getCore i := rfl

theorem teamResume_reads {k : TeamKey} {tm : Team} {core : Nat} (htm : s.findTeam k = some tm) (hst : tm.status = .saved)
    (hrun : (s.getLaunch k.lid).status = .running) (haway : storesAway s tm core = false) (hmay : mayResume s tm core = true) :
    Completes (.teamResume k core) s fun t => TeamRead s.mem core tm (t.getTeam k) ∧ t.mem = s.mem
      ∧ (tm.copied = false → (t.getCore core).stock = (s.getCore core).stock)
      ∧ ∀ q, q.key.team = k → s.findSq q.key = some q → SquadRead s.mem q.ctx (t.getSq q.key) := by
  have honly := (contextsBack_only k core s).trans
    (foldl_resumeSquad_only core (sortBy keyBefore ((s.teamSquads k).map (·.key))) (contextsBack k core s))
  refine ⟨_, teamResume_eq htm hst hrun haway hmay, ?_⟩
  beta_reduce
  rw [getTeam_settle, mem_settle, getCore_settle, honly.mem, honly.getCore]
  refine ⟨?team, ?memory, fun hc => teamBack_stock core htm hc, fun q hk hq => ?squad⟩
  case team =>
    refine State.TeamWith.get (P := TeamRead s.mem core tm) ?_
    exact List.foldlRecOn (b := contextsBack k core s) (motive := fun u => u.TeamWith k (TeamRead s.mem core tm)) _ _
      (contextsBack_team core htm) fun u hu j _ => resumeSquad_team TeamRead.shoes hu
  case memory => rw [teamBack_outside]
  case squad =>
    subst hk
    refine State.SquadWith.get (State.SquadWith.settle (P := SquadRead s.mem q.ctx) ?_ fun r hr => hr.settled _)
    exact List.foldlRecOn (b := contextsBack q.key.team core s) (motive := fun u => u.SquadWith q.key (SquadRead s.mem q.ctx)) _ _
      (contextsBack_squad core hq) fun u hu j _ => resumeSquad_squad hu

end

/-- Settles O56: a request and its drain limit, a save, and a resumption. -/
theorem preemptionEvents : Obligations.PreemptionEvents := by
  unfold Obligations.PreemptionEvents
  intro s k tm htm cancels
  have hcancels : cancels = cancelledCmds k s.cmds := rfl
  refine ⟨fun teams hst hteams hdrain => ?request, fun hst hdrain => ?atOnce, fun hst => ?limit, fun copy hst hsettled => ?save,
    fun core hst hrun haway hmay => ?resume⟩
  case request =>
    have hmarked := foldl_markTeam_outside (requestedTeams s k.lid teams) s
    have hpart : ((requestedTeams s k.lid teams).foldl markTeam s).part.drain = s.part.drain := by rw [hmarked]
    refine ⟨(requestedTeams s k.lid teams).foldl markTeam s, ?_, ?_, hmarked⟩
    · rw [preemptionRequest_eq, hpart, if_neg hdrain]
    · exact (foldl_markTeam_status (mem_requestedTeams htm hst hteams) htm).get
  case atOnce =>
    have hmem := mem_requestedTeams (teams := some [k.tmid]) htm hst fun l hl => by cases hl; exact List.mem_singleton.2 rfl
    have hmarked := foldl_markTeam_outside (requestedTeams s k.lid (some [k.tmid])) s
    have hpart : ((requestedTeams s k.lid (some [k.tmid])).foldl markTeam s).part.drain = s.part.drain := by rw [hmarked]
    have hcmds : ((requestedTeams s k.lid (some [k.tmid])).foldl markTeam s).cmds = s.cmds := by rw [hmarked]
    have hexpire := foldl_expireDrain (List.ne_nil_of_mem hmem) (fun x => requestedTeams_one)
      ((requestedTeams s k.lid (some [k.tmid])).foldl markTeam s)
    rw [hcmds] at hexpire
    refine ⟨{ (requestedTeams s k.lid (some [k.tmid])).foldl markTeam s with cmds := cancelledCmds k s.cmds }, ?_,
      (foldl_markTeam_status hmem htm).get, hcancels.symm⟩
    rw [preemptionRequest_eq, hpart, if_pos hdrain, hexpire]
  case limit =>
    have he : exec (.drainLimitExpiry k) s = execDrainLimitExpiry k s := rfl
    have hget : s.getTeam k = tm := by rw [State.getTeam, htm]; rfl
    rw [he, execDrainLimitExpiry, hget, if_pos hst, expireDrain_eq, hcancels]
  case save => exact teamContextSave_saves copy htm hst hsettled
  case resume =>
    obtain ⟨t, ht, hteam, hmem, hstock, hsquads⟩ := teamResume_reads htm hst hrun haway hmay
    refine ⟨t, ht, hteam.running, hteam.core, hmem, fun hc => ⟨hteam.scratch hc, hstock hc⟩, hteam.bars, fun q hk hq => ?_⟩
    obtain ⟨-, hpkt, hem, hfmt, hlclk, hscalar, hvector⟩ := hsquads q hk hq
    exact ⟨hpkt, hem, hfmt, hlclk, hscalar, hvector⟩

end Sys2Proof.Machine
end

/-! # Graph nodes: records taken and nodes fired (R329 to R333, R345, R399) -/

section
namespace Sys2Proof.Machine

-- One after the other, as above: the check's memory limit bounds the stacks of parallel elaboration.
set_option Elab.async false

section
variable {s : State} {graph node : Nat} {g : Graph}

/-! ## Graphs after an update -/

theorem findGraph_updGraph {f : Graph → Graph} (h : s.findGraph graph = some g) (hf : ∀ x, x.idx = graph → (f x).idx = graph) :
    (s.updGraph graph f).findGraph graph = some (f g) := by
  have hfind := find_map_same (fun x : Graph => x.idx == graph) f s.part.graphs fun x hx => by
    simp only [beq_iff_eq] at hx ⊢
    exact hf x hx
  rw [State.findGraph] at h
  simpa [State.updGraph, State.findGraph, State.updPart, h] using hfind

theorem idx_of_findGraph (h : s.findGraph graph = some g) : g.idx = graph := by simpa using List.find?_some h

/-- The graph stands in place of what the walker found. -/
theorem findGraph_replaced {y : Graph} (h : s.findGraph graph = some g) (hy : y.idx = g.idx) :
    (s.updGraph graph (fun _ => y)).findGraph graph = some y :=
  findGraph_updGraph h fun _ _ => hy.trans (idx_of_findGraph h)

/-- Graphs and jobs alone have changed. -/
def GraphsJobsOnly (s t : State) : Prop := t = { s with part := { s.part with graphs := t.part.graphs, jobs := t.part.jobs } }

theorem GraphsJobsOnly.refl (s : State) : GraphsJobsOnly s s := rfl

theorem GraphsJobsOnly.trans {r t u : State} (h : GraphsJobsOnly r t) (h' : GraphsJobsOnly t u) : GraphsJobsOnly r u := by
  rw [GraphsJobsOnly] at *
  rw [h', h]

theorem GraphsJobsOnly.updGraph (s : State) (graph : Nat) (f : Graph → Graph) : GraphsJobsOnly s (s.updGraph graph f) := rfl

theorem GraphsJobsOnly.updJob (s : State) (j : Nat) (f : Job → Job) : GraphsJobsOnly s (s.updJob j f) := rfl

/-- What the walker reads of a node does not depend on the graphs and jobs. -/
theorem GraphsJobsOnly.gnode {t : State} (h : GraphsJobsOnly s t) (g : Graph) (n : Nat) : gnode t g n = gnode s g n := by
  rw [h]
  rfl

/-! ## Completions that arrive (R332) -/

/-- The completions by which a node is to fire once. -/
def firedAt (s : State) (g : Graph) (n : Nat) (jobs : List Nat) : List (Nat × List Nat) :=
  ((List.replicate (needs (gnode s g n)) n).filter (fun n => (gnode s g n).kind != 1)).map (fun n => (n, jobs))

theorem firedAt_eq {n : Nat} (jobs : List Nat) (h : (gnode s g n).kind ≠ 1) :
    firedAt s g n jobs = List.replicate (needs (gnode s g n)) (n, jobs) := by
  rw [firedAt, List.filter_eq_self.2, List.map_replicate]
  intro m hm
  rw [List.eq_of_mem_replicate hm]
  exact bne_iff_ne.2 h

theorem findGraph_fireOnce (jobs : List Nat) (n : Nat) (h : s.findGraph graph = some g) :
    (fireOnce graph jobs n s).findGraph graph = some { g with arrived := g.arrived ++ firedAt s g n jobs } := by
  have he : fireOnce graph jobs n s = deliver graph jobs (List.replicate (needs (gnode s g n)) n) s := by rw [fireOnce, h]
  rw [he]
  exact findGraph_updGraph h fun _ h => h

theorem fireOnce_only (jobs : List Nat) (n : Nat) (s : State) : GraphsJobsOnly s (fireOnce graph jobs n s) := by
  unfold fireOnce
  split
  · exact .refl s
  · exact .updGraph s graph _

/-! ## The end of an execution (R332, R339) -/

theorem countJobs_graphs (jobs : List Nat) (s : State) :
    (jobs.foldl (fun t j => t.updJob j (fun x => { x with counter := x.counter + 1 })) s).part.graphs = s.part.graphs :=
  List.foldlRecOn (b := s) (motive := fun t : State => t.part.graphs = s.part.graphs) jobs _ rfl fun _ ht _ _ => ht

theorem countJobs_only (jobs : List Nat) (s : State) :
    GraphsJobsOnly s (jobs.foldl (fun t j => t.updJob j (fun x => { x with counter := x.counter + 1 })) s) :=
  List.foldlRecOn (b := s) (motive := GraphsJobsOnly s) jobs _ (.refl s) fun t ht j _ => ht.trans (.updJob t j _)

/-- An execution that is no while node's body ends: its graph counts it. -/
theorem nodeEnded_plain (jobs : List Nat) (h : s.findGraph graph = some g) (hloops : g.loops = []) :
    (nodeEnded graph node jobs s).findGraph graph = some { g with counter := g.counter + 1 } ∧ GraphsJobsOnly s (nodeEnded graph node jobs s) := by
  have hcount : (s.updGraph graph (fun x => { x with counter := x.counter + 1 })).findGraph graph = some { g with counter := g.counter + 1 } :=
    findGraph_updGraph h fun _ h => h
  have hfind : (jobs.foldl (fun t j => t.updJob j (fun x => { x with counter := x.counter + 1 }))
      (s.updGraph graph (fun x => { x with counter := x.counter + 1 }))).findGraph graph = some { g with counter := g.counter + 1 } := by
    rw [State.findGraph, countJobs_graphs]
    exact hcount
  have he : nodeEnded graph node jobs s = jobs.foldl (fun t j => t.updJob j (fun x => { x with counter := x.counter + 1 }))
      (s.updGraph graph (fun x => { x with counter := x.counter + 1 })) := by
    simp only [nodeEnded, hfind, Option.bind_some, hloops, List.find?_nil]
  rw [he]
  exact ⟨hfind, (GraphsJobsOnly.updGraph s graph _).trans (countJobs_only jobs _)⟩

/-! ## What fires a node (R331, R332) -/

section
variable {kind : Nat} (hg : s.findGraph graph = some g) (hcan : g.cancelled = false) (hnode : node < g.count) (hkind : (gnode s g node).kind = kind)
include hg hcan hnode hkind

theorem fired_waiting {w : WaitingRec} {rest : List WaitingRec} (hhere : g.waiting.filter (·.node == node) = w :: rest) :
    fired s graph node kind = some ⟨g, gnode s g node, w.jobs, some w, { g with waiting := g.waiting.erase w }⟩ := by
  have hfind : g.waiting.find? (·.node == node) = some w := by rw [← List.head?_filter, hhere]; rfl
  simp [fired, hg, hcan, hkind, Nat.not_le.2 hnode, hfind]

theorem fired_arrivals {jobs : List Nat} {rest : List (Nat × List Nat)} (hhere : g.waiting.filter (·.node == node) = [])
    (harr : arrivals g node (needs (gnode s g node)) = some (jobs, rest)) :
    fired s graph node kind = some ⟨g, gnode s g node, jobs, none, { g with arrived := rest }⟩ := by
  have hfind : g.waiting.find? (·.node == node) = none := by rw [← List.head?_filter, hhere]; rfl
  simp [fired, hg, hcan, hkind, Nat.not_le.2 hnode, hfind, harr]

end

/-- A launch is submitted; beside it, only graphs have changed. -/
def Submits (s : State) (x : Submitted) (t : State) : Prop := t.part.submitted = s.part.submitted ++ [x]
  ∧ t = { s with part := { s.part with submitted := t.part.submitted, nextPid := s.part.nextPid + 1, graphs := t.part.graphs } }

theorem submit_submits (jobs : List Nat) (args : Option (List DWord)) (records : List (List Byte)) (tasks : List (Nat × Nat))
    (f : Graph → Graph) (n : Nat) (s : State) : Submits s ⟨s.part.nextPid, graph, n, jobs, args, records, tasks⟩
      (submit graph n jobs args records tasks (s.updGraph graph f)) := ⟨rfl, rfl⟩

theorem kernelNodeFire_eq {f : Firing} (h : fired s graph node 0 = some f) : exec (.kernelNodeFire graph node) s =
    .next (submit graph node f.jobs (f.waiting.map (fun w => argsOf w.bytes)) [] (match f.waiting with
      | some w => [w.task]
      | none => tasksOf s f.jobs) (s.updGraph graph (fun _ => f.rest))) := by
  have he : exec (.kernelNodeFire graph node) s = execKernelNodeFire graph node s := rfl
  rw [he, execKernelNodeFire, h] <;> rfl

theorem recordNode_eq (hg : s.findGraph graph = some g) (hcan : g.cancelled = false) (hnode : node < g.count)
    (hkind : (gnode s g node).kind = 1) (hhere : g.waiting.filter (·.node == node) ≠ []) :
    recordNode s graph node = some (g, gnode s g node, (g.waiting.filter (·.node == node)).length) := by
  have hlen : (g.waiting.filter (·.node == node)).length ≠ 0 := fun h => hhere (List.length_eq_zero_iff.1 h)
  simp only [recordNode, hg, hcan, hkind, Nat.not_le.2 hnode, decide_false, Bool.or_self, bne_self_eq_false, beq_eq_false_iff_ne.2 hlen,
    Bool.false_eq_true, if_false]

theorem fireRecords_submits (hg : s.findGraph graph = some g) (n : Nat) :
    let l := (orderedRecords s g node).take n
    Submits s ⟨s.part.nextPid, graph, node, dedup (l.flatMap (·.jobs)), none, l.map (·.bytes), l.map (·.task)⟩ (fireRecords g node n s) := by
  rw [← idx_of_findGraph hg]
  exact submit_submits ..

/-! ## Conditional and while nodes (R332) -/

/-- A node fires another, once its own execution has changed no more than graphs and jobs. -/
theorem fireOnce_arrived {t : State} {y : Graph} {n : Nat} (jobs : List Nat) (honly : GraphsJobsOnly s t) (hy : t.findGraph graph = some y)
    (hplace : y.asid = g.asid ∧ y.base = g.base) (hkind : (gnode s g n).kind ≠ 1) :
    ((fireOnce graph jobs n t).findGraph graph).map (fun y => y.arrived.filter (·.1 == n)) =
      some (y.arrived.filter (·.1 == n) ++ List.replicate (needs (gnode s g n)) (n, jobs)) := by
  have hnode : gnode t y n = gnode s g n := by
    rw [honly.gnode, gnode, gnode, nodeBytes, nodeBytes, hplace.1, hplace.2]
  have hfired := firedAt_eq (s := t) (g := y) (n := n) jobs (by rwa [hnode])
  rw [findGraph_fireOnce jobs n hy, hfired, hnode]
  simp

theorem conditionalNodeFire_fires {jobs : List Nat} {rest : List (Nat × List Nat)} (hg : s.findGraph graph = some g)
    (hfired : fired s graph node 2 = some ⟨g, gnode s g node, jobs, none, { g with arrived := rest }⟩) (hloops : g.loops = []) :
    Completes (.conditionalNodeFire graph node) s fun t => (t.findGraph graph).map (·.counter) = some (g.counter + 1)
      ∧ ∀ n, (successors s g (gnode s g node))[min (condValue s g (gnode s g node)) ((gnode s g node).nsucc - 1)]? = some n →
        (gnode s g n).kind ≠ 1 → (t.findGraph graph).map (fun y => y.arrived.filter (·.1 == n)) =
          some (rest.filter (·.1 == n) ++ List.replicate (needs (gnode s g n)) (n, jobs)) := by
  have hrest : (s.updGraph graph (fun _ => { g with arrived := rest })).findGraph graph = some { g with arrived := rest } :=
    findGraph_replaced hg rfl
  obtain ⟨hended, honly⟩ := nodeEnded_plain (node := node) jobs hrest hloops
  replace honly := (GraphsJobsOnly.updGraph s graph _).trans honly
  have he : exec (.conditionalNodeFire graph node) s = execConditionalNodeFire graph node s := rfl
  rw [Completes, he, execConditionalNodeFire, hfired]
  dsimp only
  split
  next hnone => exact ⟨_, rfl, by rw [hended]; rfl, fun n hn => absurd (hnone.symm.trans hn) nofun⟩
  next n hn =>
    refine ⟨_, rfl, by rw [findGraph_fireOnce jobs n hended]; rfl, fun m hm hkind => ?_⟩
    obtain rfl := Option.some.inj (hn.symm.trans hm)
    exact fireOnce_arrived jobs honly hended ⟨rfl, rfl⟩ hkind

theorem whileNodeFire_fires {jobs : List Nat} {rest : List (Nat × List Nat)} {n : Nat} (hg : s.findGraph graph = some g)
    (hfired : fired s graph node 3 = some ⟨g, gnode s g node, jobs, none, { g with arrived := rest }⟩) (hloops : g.loops = [])
    (hn : (successors s g (gnode s g node))[if condValue s g (gnode s g node) ≠ 0 then 0 else 1]? = some n) :
    Completes (.whileNodeFire graph node) s fun t =>
      (t.findGraph graph).map (·.counter) = some (if condValue s g (gnode s g node) ≠ 0 then g.counter else g.counter + 1)
      ∧ (t.findGraph graph).map (·.loops) = some (if condValue s g (gnode s g node) ≠ 0 then [(n, node, jobs)] else [])
      ∧ ((gnode s g n).kind ≠ 1 → (t.findGraph graph).map (fun y => y.arrived.filter (·.1 == n)) =
          some (rest.filter (·.1 == n) ++ List.replicate (needs (gnode s g n)) (n, jobs))) := by
  have hrest : (s.updGraph graph (fun _ => { g with arrived := rest })).findGraph graph = some { g with arrived := rest } :=
    findGraph_replaced hg rfl
  have he : exec (.whileNodeFire graph node) s = execWhileNodeFire graph node s := rfl
  rw [Completes, he, execWhileNodeFire, hfired]
  dsimp only
  by_cases hc : condValue s g (gnode s g node) = 0
  · obtain ⟨hended, honly⟩ := nodeEnded_plain (node := node) jobs hrest hloops
    replace honly := (GraphsJobsOnly.updGraph s graph _).trans honly
    rw [if_neg (not_not_intro hc)] at hn
    rw [if_neg (by simp [hc]), hn, if_neg (not_not_intro hc), if_neg (not_not_intro hc)]
    have hfire := findGraph_fireOnce jobs n hended
    exact ⟨_, rfl, by rw [hfire]; rfl, by rw [hfire]; exact congrArg some hloops, fireOnce_arrived jobs honly hended ⟨rfl, rfl⟩⟩
  · have hbody : ((s.updGraph graph (fun _ => { g with arrived := rest })).updGraph graph
        (fun y => { y with loops := y.loops ++ [(n, node, jobs)] })).findGraph graph =
        some { g with arrived := rest, loops := g.loops ++ [(n, node, jobs)] } := findGraph_updGraph hrest fun _ h => h
    rw [if_pos hc] at hn
    rw [if_pos (by simp [hc]), hn, if_pos hc, if_pos hc]
    have hfire := findGraph_fireOnce jobs n hbody
    refine ⟨_, rfl, by rw [hfire]; rfl, by rw [hfire, hloops]; rfl, ?_⟩
    exact fireOnce_arrived jobs (GraphsJobsOnly.trans (.updGraph s graph _) (.updGraph _ graph _)) hbody ⟨rfl, rfl⟩

/-! ## Records that leave their queue (R329, R330) -/

/-- A queue whose header has been found good. -/
def goodQueue (graph node : Nat) (s : State) : State :=
  s.updGraph graph (fun g => { g with badQueues := g.badQueues.filter (· != node) })

theorem queueRecordTake_eq {q : QHead} (hg : s.findGraph graph = some g) (hcan : g.cancelled = false) (hnode : node < g.count)
    (hx : (gnode s g node).queue ≠ 0) (hq : queueHead s g.asid (gnode s g node).queue = some q) (hclean : q.clean = true)
    (hle : (q.tail + 2 ^ 64 - q.head) % 2 ^ 64 ≤ q.nslot) : exec (.queueRecordTake graph node) s =
      if (q.tail + 2 ^ 64 - q.head) % 2 ^ 64 = 0 then .next (goodQueue graph node s)
      else if walkerHeld s g.asid [(gnode s g node).queue + 8, (gnode s g node).queue + 15] then .next (goodQueue graph node s)
      else .next (admitRecord g node (gnode s g node).queue q.head ((walkerRead s g.asid (q.slots + 64 * (q.head % q.nslot)) 64).getD [])
        (walkerWrite g.asid ((gnode s g node).queue + 8) (toBytes 8 (q.head + 1)) (goodQueue graph node s))) := by
  have he : exec (.queueRecordTake graph node) s = execQueueRecordTake graph node s := rfl
  have hgo : (g.cancelled || decide (g.count ≤ node) || (gnode s g node).queue == 0) = false := by
    simp [hcan, Nat.not_le.2 hnode, hx]
  have hbad : (decide (q.nslot < (q.tail + 2 ^ 64 - q.head) % 2 ^ 64) || !q.clean) = false := by
    rw [hclean, decide_eq_false (Nat.not_lt.2 hle)]
    rfl
  rw [he, execQueueRecordTake, hg]
  refine (if_neg (Bool.eq_false_iff.1 hgo)).trans ?_
  rw [hq]
  exact if_neg (Bool.eq_false_iff.1 hbad)

theorem GraphsJobsOnly.successors {t : State} (h : GraphsJobsOnly s t) (g : Graph) (x : GNode) : successors t g x = successors s g x := by
  rw [h]
  rfl

theorem GraphsJobsOnly.reach {t : State} (h : GraphsJobsOnly s t) (g : Graph) (fuel : Nat) (front seen : List Nat) :
    reach t g fuel front seen = reach s g fuel front seen := by
  induction fuel generalizing front seen with
  | zero => rfl
  | succ fuel ih => simp only [Machine.reach, h.successors, h.gnode, ih]

theorem GraphsJobsOnly.malformed {t : State} (h : GraphsJobsOnly s t) (g : Graph) (n : Nat) : malformed t g n = malformed s g n := by
  simp only [Machine.malformed, h.reach, h.successors, h.gnode]

/-- What QAPP noted of a record goes as the walker takes it. -/
def takeAppended (g : Graph) (n num : Nat) (s : State) : State :=
  s.updGraph g.idx (fun x => { x with appended := x.appended.filter (fun a => !(a.1 == n && a.2.1 == num)) })

theorem takeAppended_only (g : Graph) (n num : Nat) (s : State) : GraphsJobsOnly s (takeAppended g n num s) := .updGraph s g.idx _

/-- A record joins those that wait. -/
def joinWaiting (g : Graph) (w : WaitingRec) (s : State) : State := s.updGraph g.idx (fun x => { x with waiting := x.waiting ++ [w] })

/-- The job that a record starts. -/
def recordJob (s : State) (g : Graph) (bs : List Byte) (task : Nat × Nat) : Job :=
  ⟨s.part.nextJob, g.idx, BitVec.ofNat 64 (field bs 0 8), field bs 8 8, 0, ⟨0, 0, 0#64, 0#64⟩, false, task⟩

/-- A record starts a job. -/
def startJob (g : Graph) (bs : List Byte) (task : Nat × Nat) (s : State) : State :=
  s.updPart (fun p => { p with jobs := p.jobs ++ [recordJob s g bs task], nextJob := s.part.nextJob + 1 })

/-- A record enters its graph under a new job, and under those of its producer. -/
def enterRecord (g : Graph) (n : Nat) (bs : List Byte) (task : Nat × Nat) (more order : List Nat) (s : State) : State :=
  joinWaiting g ⟨n, s.part.nextJob :: more, bs, order, task⟩ (startJob g bs task (takeAppended g n task.2 s))

theorem newJob_good {n : Nat} (bs : List Byte) (task : Nat × Nat) (hm : malformed s g n = false) :
    newJob g n bs task s = (s.part.nextJob, startJob g bs task s) := by
  simp only [newJob, hm, Bool.false_eq_true, if_false]
  rfl

theorem findJob_startJob (g : Graph) (bs : List Byte) (task : Nat × Nat) (h : s.findJob s.part.nextJob = none) :
    (startJob g bs task s).findJob s.part.nextJob = some (recordJob s g bs task) := by
  rw [State.findJob] at h
  rw [State.findJob, startJob, State.updPart, List.find?_append, h]
  simp [recordJob]

section
variable {n queue num : Nat} (bs : List Byte) (hm : malformed s g n = false) (hj : s.findJob s.part.nextJob = none)
include hm hj

/-- What `admitRecord` does with a record that enters the graph. -/
theorem enter_eq (more order : List Nat) : (let r := newJob g n bs (queue, num) (takeAppended g n num s)
    if ((r.2.findJob r.1).map (·.ending.code)).getD 0 = 0 then joinWaiting g ⟨n, r.1 :: more, bs, order, (queue, num)⟩ r.2 else r.2) =
    enterRecord g n bs (queue, num) more order s := by
  have hnew : newJob g n bs (queue, num) (takeAppended g n num s) = (s.part.nextJob, startJob g bs (queue, num) (takeAppended g n num s)) :=
    newJob_good bs (queue, num) (((takeAppended_only g n num s).malformed g n).trans hm)
  have hfind : (startJob g bs (queue, num) (takeAppended g n num s)).findJob s.part.nextJob =
    some (recordJob (takeAppended g n num s) g bs (queue, num)) := findJob_startJob g bs (queue, num) hj
  rw [hnew]
  dsimp only
  rw [hfind]
  rfl

theorem admitRecord_unnoted (hnone : g.appended.find? (fun a => a.1 == n && a.2.1 == num) = none) :
    admitRecord g n queue num bs s = enterRecord g n bs (queue, num) [] [] s := by
  rw [admitRecord, hnone]
  exact enter_eq bs hm hj [] []

theorem admitRecord_noted {js order : List Nat} (hsome : g.appended.find? (fun a => a.1 == n && a.2.1 == num) = some (n, num, js, order))
    (hjs : js ≠ []) : admitRecord g n queue num bs s =
      if entryNode s g n || !js.any (fun j => (s.findJob j).any (·.graph == g.idx)) then enterRecord g n bs (queue, num) js order s
      else joinWaiting g ⟨n, js, bs, order, (queue, num)⟩ (takeAppended g n num s) := by
  have henter := enter_eq (queue := queue) (num := num) bs hm hj js order
  rw [admitRecord, hsome]
  simp only [hm, Bool.and_false, Bool.false_eq_true, if_false, List.isEmpty_iff, hjs]
  rw [← henter]
  rfl

end

section
variable {y : Graph} (hy : s.findGraph graph = some y) (hidx : g.idx = graph)
include hy hidx

theorem findGraph_takeAppended (n num : Nat) : (takeAppended g n num s).findGraph graph =
    some { y with appended := y.appended.filter (fun a => !(a.1 == n && a.2.1 == num)) } := by
  rw [takeAppended, hidx]
  exact findGraph_updGraph hy fun _ h => h

theorem findGraph_joinWaiting (w : WaitingRec) : (joinWaiting g w s).findGraph graph = some { y with waiting := y.waiting ++ [w] } := by
  rw [joinWaiting, hidx]
  exact findGraph_updGraph hy fun _ h => h

theorem findGraph_enterRecord (n : Nat) (bs : List Byte) (task : Nat × Nat) (more order : List Nat) :
    (enterRecord g n bs task more order s).findGraph graph = some { y with
      appended := y.appended.filter (fun a => !(a.1 == n && a.2.1 == task.2))
      waiting := y.waiting ++ [⟨n, s.part.nextJob :: more, bs, order, task⟩] } :=
  findGraph_joinWaiting (s := startJob g bs task (takeAppended g n task.2 s)) (findGraph_takeAppended hy hidx n task.2) hidx _

end

theorem enterRecord_jobs (n : Nat) (bs : List Byte) (task : Nat × Nat) (more order : List Nat) : (enterRecord g n bs task more order s).mem = s.mem
    ∧ (enterRecord g n bs task more order s).part.nextJob = s.part.nextJob + 1
    ∧ (enterRecord g n bs task more order s).part.jobs = s.part.jobs ++ [recordJob s g bs task] := ⟨rfl, rfl, rfl⟩

theorem joinWaiting_mem (g : Graph) (w : WaitingRec) (n num : Nat) (s : State) :
    (joinWaiting g w (takeAppended g n num s)).mem = s.mem ∧ (joinWaiting g w (takeAppended g n num s)).part.jobs = s.part.jobs := ⟨rfl, rfl⟩

theorem entryNode_iff {n : Nat} : entryNode s g n = true ↔ ∀ m, m < g.count → n ∉ successors s g (gnode s g m) := by
  simp [entryNode]

theorem inner_iff {js : List Nat} {i : Nat} :
    js.any (fun j => (s.findJob j).any (·.graph == i)) = true ↔ ∃ j ∈ js, ∃ y, s.findJob j = some y ∧ y.graph = i := by
  simp [Option.any_eq_true]

/-- The bytes of the record at HEAD. -/
def headRecord (s : State) (g : Graph) (q : QHead) : List Byte := (walkerRead s g.asid (q.slots + 64 * (q.head % q.nslot)) 64).getD []

/-- The state after the write of HEAD. -/
def headAdvanced (s : State) (graph node : Nat) (g : Graph) (q : QHead) : State :=
  walkerWrite g.asid ((gnode s g node).queue + 8) (toBytes 8 (q.head + 1)) (goodQueue graph node s)

section
variable {q : QHead} (hg : s.findGraph graph = some g) (hcan : g.cancelled = false) (hnode : node < g.count)
  (hx : (gnode s g node).queue ≠ 0) (hq : queueHead s g.asid (gnode s g node).queue = some q) (hclean : q.clean = true)
  (hpos : (q.tail + 2 ^ 64 - q.head) % 2 ^ 64 ≠ 0) (hle : (q.tail + 2 ^ 64 - q.head) % 2 ^ 64 ≤ q.nslot)
  (hheld : walkerHeld s g.asid [(gnode s g node).queue + 8, (gnode s g node).queue + 15] = false)
include hg

/-- The write of HEAD leaves the jobs, and of the graphs all but the queue's mark. -/
theorem headAdvanced_lists : (headAdvanced s graph node g q).findGraph graph = some { g with badQueues := g.badQueues.filter (· != node) }
    ∧ (headAdvanced s graph node g q).part.nextJob = s.part.nextJob ∧ (headAdvanced s graph node g q).part.jobs = s.part.jobs :=
  ⟨findGraph_updGraph hg fun _ h => h, rfl, rfl⟩

theorem headAdvanced_free (hj : s.findJob s.part.nextJob = none) :
    (headAdvanced s graph node g q).findJob (headAdvanced s graph node g q).part.nextJob = none := by
  obtain ⟨-, hnext, hjobs⟩ := headAdvanced_lists (node := node) (q := q) hg
  rwa [State.findJob, hjobs, hnext]

include hcan hnode hx hq hclean hpos hle hheld

theorem queueRecordTake_admits : exec (.queueRecordTake graph node) s =
    .next (admitRecord g node (gnode s g node).queue q.head (headRecord s g q) (headAdvanced s graph node g q)) := by
  rw [queueRecordTake_eq hg hcan hnode hx hq hclean hle, if_neg hpos, if_neg (by rw [hheld]; decide)]
  rfl

/-- The record of a host, or of a producer that the part does not know, starts a job. -/
theorem queueRecordTake_unnoted (happ : g.appended = []) (hj : s.findJob s.part.nextJob = none)
    (hm : malformed (headAdvanced s graph node g q) g node = false) : Completes (.queueRecordTake graph node) s fun t =>
      t.mem = (headAdvanced s graph node g q).mem
      ∧ (t.findGraph graph).map (·.waiting) =
          some (g.waiting ++ [⟨node, [s.part.nextJob], headRecord s g q, [], ((gnode s g node).queue, q.head)⟩])
      ∧ t.part.nextJob = s.part.nextJob + 1
      ∧ t.part.jobs = s.part.jobs ++ [recordJob s g (headRecord s g q) ((gnode s g node).queue, q.head)] := by
  have hrun := queueRecordTake_admits hg hcan hnode hx hq hclean hpos hle hheld
  obtain ⟨hu, hnext, hjobs⟩ := headAdvanced_lists (node := node) (q := q) hg
  have hfree := headAdvanced_free (node := node) (q := q) hg hj
  generalize headAdvanced s graph node g q = u at *
  rw [admitRecord_unnoted _ hm hfree (by rw [happ]; rfl)] at hrun
  have hfound := findGraph_enterRecord hu (idx_of_findGraph hg) node (headRecord s g q) ((gnode s g node).queue, q.head) [] []
  obtain ⟨hmem, hnext', hjobs'⟩ := enterRecord_jobs (s := u) (g := g) node (headRecord s g q) ((gnode s g node).queue, q.head) [] []
  rw [hnext] at hfound hnext'
  rw [hjobs, recordJob, hnext] at hjobs'
  exact ⟨_, hrun, hmem, by rw [hfound]; rfl, hnext', hjobs'⟩

/-- A record that a producer of the part has appended: at an entry node, or from another graph, it starts a job; else it belongs to its
producer's jobs (log 54). -/
theorem queueRecordTake_noted {js order : List Nat} (happ : g.appended = [(node, q.head, js, order)]) (hjs : js ≠ [])
    (hj : s.findJob s.part.nextJob = none) (hm : malformed (headAdvanced s graph node g q) g node = false) :
    let inner := ∃ j ∈ js, ∃ y, (headAdvanced s graph node g q).findJob j = some y ∧ y.graph = g.idx
    let entry := ∀ m, m < g.count →
      node ∉ successors (headAdvanced s graph node g q) g (gnode (headAdvanced s graph node g q) g m)
    Completes (.queueRecordTake graph node) s fun t =>
      t.mem = (headAdvanced s graph node g q).mem ∧ (t.findGraph graph).map (·.appended) = some []
      ∧ (entry ∨ ¬ inner → (t.findGraph graph).map (·.waiting) =
            some (g.waiting ++ [⟨node, s.part.nextJob :: js, headRecord s g q, order, ((gnode s g node).queue, q.head)⟩])
          ∧ t.part.jobs = s.part.jobs ++ [recordJob s g (headRecord s g q) ((gnode s g node).queue, q.head)])
      ∧ (¬ entry → inner → (t.findGraph graph).map (·.waiting) =
            some (g.waiting ++ [⟨node, js, headRecord s g q, order, ((gnode s g node).queue, q.head)⟩])
          ∧ t.part.jobs = s.part.jobs) := by
  intro inner entry
  have hidx := idx_of_findGraph hg
  have hrun := queueRecordTake_admits hg hcan hnode hx hq hclean hpos hle hheld
  obtain ⟨hu, hnext, hjobs⟩ := headAdvanced_lists (node := node) (q := q) hg
  have hfree := headAdvanced_free (node := node) (q := q) hg hj
  have hentry : entry ↔ entryNode (headAdvanced s graph node g q) g node = true := entryNode_iff.symm
  have hinner : inner ↔ js.any (fun j => ((headAdvanced s graph node g q).findJob j).any (·.graph == g.idx)) = true := inner_iff.symm
  clear_value entry inner
  generalize headAdvanced s graph node g q = u at *
  have hsome : g.appended.find? (fun a => a.1 == node && a.2.1 == q.head) = some (node, q.head, js, order) := by rw [happ]; simp
  have hgone : g.appended.filter (fun a => !(a.1 == node && a.2.1 == q.head)) = [] := by rw [happ]; simp
  rw [admitRecord_noted _ hm hfree hsome hjs] at hrun
  by_cases hcase : (entryNode u g node || !js.any (fun j => (u.findJob j).any (·.graph == g.idx))) = true
  · rw [if_pos hcase] at hrun
    have hfound := findGraph_enterRecord hu hidx node (headRecord s g q) ((gnode s g node).queue, q.head) js order
    obtain ⟨hmem, -, hjobs'⟩ := enterRecord_jobs (s := u) (g := g) node (headRecord s g q) ((gnode s g node).queue, q.head) js order
    rw [hnext] at hfound
    rw [hjobs, recordJob, hnext] at hjobs'
    refine ⟨_, hrun, hmem, by rw [hfound]; exact congrArg some hgone, fun _ => ⟨by rw [hfound]; rfl, hjobs'⟩, fun hno hin => ?_⟩
    rw [hinner.1 hin, Bool.not_true, Bool.or_false] at hcase
    exact absurd (hentry.2 hcase) hno
  · rw [if_neg hcase] at hrun
    have hfound := findGraph_joinWaiting (g := g) (findGraph_takeAppended hu hidx node q.head) hidx
      ⟨node, js, headRecord s g q, order, ((gnode s g node).queue, q.head)⟩
    obtain ⟨hmem, hjobs'⟩ := joinWaiting_mem g ⟨node, js, headRecord s g q, order, ((gnode s g node).queue, q.head)⟩ node q.head u
    rw [hjobs] at hjobs'
    refine ⟨_, hrun, hmem, by rw [hfound]; exact congrArg some hgone, fun h => absurd ?_ hcase, fun _ _ => ⟨by rw [hfound]; rfl, hjobs'⟩⟩
    rcases h with hin | hno
    · rw [hentry.1 hin, Bool.true_or]
    · rw [Bool.eq_false_iff.2 fun h => hno (hinner.2 h), Bool.not_false, Bool.or_true]

end

end

/-- Settles O54: the record that is taken, and each kind of node as it fires. -/
theorem graphNodes : Obligations.GraphNodes := by
  unfold Obligations.GraphNodes
  intro s graph node g hg hcan hnode x here submits fires
  refine ⟨fun q hx hq hclean => ?taken, fun q js order hx hq hclean => ?noted, fun q hx hq hclean hle hheld => ?held,
    fun w rest hkind hhere => ?record, fun jobs rest hkind hhere harr => ?kernel, fun hkind hhere => ?records,
    fun jobs rest hkind hhere harr hloops => ?conditional, fun jobs rest n hkind hhere harr hloops hn => ?whileNode⟩
  case taken =>
    intro n u bs hpos hle happ hj hm hheld
    exact queueRecordTake_unnoted hg hcan hnode hx hq hclean (by omega) hle hheld happ hj hm
  case noted =>
    intro n u bs inner entry hpos hle happ hjs hj hm hheld
    exact queueRecordTake_noted hg hcan hnode hx hq hclean (by omega) hle hheld happ hjs hj hm
  case held =>
    rw [queueRecordTake_eq hg hcan hnode hx hq hclean hle, if_pos hheld, ite_self]
    rfl
  case record =>
    refine ⟨_, kernelNodeFire_eq (fired_waiting hg hcan hnode hkind hhere), submit_submits .., ?_⟩
    exact congrArg (Option.map Graph.waiting) (findGraph_replaced (y := { g with waiting := g.waiting.erase w }) hg rfl)
  case kernel =>
    refine ⟨_, kernelNodeFire_eq (fired_arrivals hg hcan hnode hkind hhere harr), submit_submits .., ?_⟩
    exact congrArg (Option.map Graph.arrived) (findGraph_replaced (y := { g with arrived := rest }) hg rfl)
  case records =>
    intro l taken
    have hrecord := recordNode_eq hg hcan hnode hkind hhere
    have htaken := fireRecords_submits (node := node) hg x.thresh
    refine ⟨fun hle => ⟨_, ?_, htaken⟩, fun htmo hdet => ⟨_, ?_, htaken⟩⟩
    · have he : exec (.recordNodeFire graph node) s = execRecordNodeFire graph node s := rfl
      rw [he, execRecordNodeFire, hrecord]
      exact if_pos (by rw [decide_eq_true hle, Bool.true_or])
    · have he : exec (.recordNodeTimeout graph node) s = execRecordNodeTimeout graph node s := rfl
      rw [he, execRecordNodeTimeout, hrecord]
      exact if_neg (by rw [hdet]; simpa using htmo)
  case conditional => exact conditionalNodeFire_fires hg (fired_arrivals hg hcan hnode hkind hhere harr) hloops
  case whileNode => exact whileNodeFire_fires hg (fired_arrivals hg hcan hnode hkind hhere harr) hloops hn

end Sys2Proof.Machine
end

/-! # Translation as events: walks, shoot-downs, migration and promotion (R355 to R361) -/

section
namespace Sys2Proof.Machine

-- One after the other, as above: the check's memory limit bounds the stacks of parallel elaboration.
set_option Elab.async false

section
variable {s : State}

/-! ## Walks (R355, R357) -/

/-- A part of a die that an update leaves is as before in every die. -/
theorem getDie_updDie_part {α : Type} (g : Die → α) (f : Die → Die) {i : Nat} (hf : ∀ d, (f d).id = d.id) (hg : ∀ d, g (f d) = g d) (j : Nat) :
    g ((s.updDie i f).getDie j) = g (s.getDie j) := by
  have hfind := find_map_key (fun d : Die => d.id == j) (fun d => if d.id = i then f d else d) s.dies.toList fun d => by
    split <;> simp [hf]
  rw [State.getDie, State.updDie, Vector.toList_map, hfind, State.getDie]
  cases s.dies.toList.find? (·.id == j) with
  | none => rfl
  | some d =>
    simp only [Option.map_some, Option.getD_some]
    split
    · exact hg d
    · rfl

/-- What is served, and the entries and roots of tables, rest on the part. -/
theorem served_congr {t : State} (h : t.part = s.part) (pa size : Nat) : served t pa size = served s pa size := by
  have hup : portUp t = portUp s := funext fun p => by rw [portUp, portUp, h]
  rw [served, served, backed, backed, portsOf, portsOf, hup, h]

theorem entryKind_congr {t : State} (h : t.part = s.part) (k : Nat) (e : DWord) : entryKind t k e = entryKind s k e := by
  simp only [entryKind, served_congr h, backed, h]
  rfl

theorem rootOf_congr {t : State} (h : t.part = s.part) (asid : Nat) : rootOf t asid = rootOf s asid := by
  have hent : asidEnt t asid = asidEnt s asid := by rw [asidEnt, asidEnt, h]
  simp only [rootOf, hent, served_congr h]

section
variable {t : State} {d : Nat} (hbyte : ∀ a, dieByte t d a = dieByte s d a) (hpart : t.part = s.part)
include hbyte hpart

theorem dieValue_congr (pa n : Nat) : dieValue t d pa n = dieValue s d pa n := by
  simp only [dieValue, canon, windowAt, hpart, hbyte]

theorem walkFrom_congr (k tab va : Nat) : walkFrom t d k tab va = walkFrom s d k tab va := by
  induction k generalizing tab with
  | zero => rfl
  | succ k ih =>
    simp only [walkFrom, dieValue_congr hbyte hpart, entryKind_congr hpart, ih]

/-- A walk rests on what its die reads, and on the part. -/
theorem walk_congr (asid va : Nat) : walk t d asid va = walk s d asid va := by
  rw [walk, walk, rootOf_congr hpart]
  cases rootOf s asid with
  | none => rfl
  | some a => exact walkFrom_congr hbyte hpart 4 a va

end

/-- The entry that a walk leaves in a TLB. -/
def walked (s : State) (asid va : Nat) (l : DWord × Nat) : TlbEntry := ⟨asid, l.2, va, l.1, (asidEnt s asid).gen⟩

/-- A core that holds one translation more. -/
def Core.translated (e : TlbEntry) (c : Core) : Core := { c with tlb := tlbAdd 128 e c.tlb }

/-- A die that holds one translation more, as do the engines named. -/
def Die.translated (engines : List Nat) (e : TlbEntry) (d : Die) : Die :=
  { d with tlb := tlbAdd 16384 e d.tlb, walkAhead := engines.foldl (aheadAdd e) d.walkAhead }

/-- The state after a walk that has found a leaf. -/
def afterWalk (core asid va : Nat) (l : DWord × Nat) (s : State) : State :=
  (s.updCore core (Core.translated (walked s asid va l))).updDie (dieOf core)
    (Die.translated (enginesFor s (dieOf core) asid) (walked s asid va l))

theorem pageWalk_eq {core asid va : Nat} {l : DWord × Nat} (h : walk s (dieOf core) asid va = some l) :
    exec (.pageWalk core asid va) s = .next (afterWalk core asid va l s) := by
  have he : exec (.pageWalk core asid va) s = execPageWalk core asid va s := rfl
  rw [he, execPageWalk, h]
  rfl

theorem mem_aheadAdd_same (e : TlbEntry) (l : List (Nat × TlbEntry)) (n : Nat) : (n, e) ∈ aheadAdd e l n :=
  List.mem_append_left _ (List.mem_map.2 ⟨e, List.mem_cons_self, rfl⟩)

theorem mem_aheadAdd {e : TlbEntry} {l : List (Nat × TlbEntry)} {n : Nat} (m : Nat) (h : (n, e) ∈ l) : (n, e) ∈ aheadAdd e l m := by
  by_cases hm : n = m
  · exact hm ▸ mem_aheadAdd_same e l n
  · exact List.mem_append_right _ (List.mem_filter.2 ⟨h, by simpa using hm⟩)

theorem mem_foldl_aheadAdd {e : TlbEntry} {engines : List Nat} {n : Nat} (hn : n ∈ engines) (l : List (Nat × TlbEntry)) :
    (n, e) ∈ engines.foldl (aheadAdd e) l := by
  induction engines generalizing l with
  | nil => cases hn
  | cons m engines ih =>
    rcases List.mem_cons.1 hn with rfl | hn
    · exact List.foldlRecOn (b := aheadAdd e l n) (motive := fun l => (n, e) ∈ l) engines (aheadAdd e) (mem_aheadAdd_same e l n)
        fun _ h m _ => mem_aheadAdd m h
    · exact ih hn _

section
variable {core asid va : Nat} {l : DWord × Nat}

theorem afterWalk_outside : afterWalk core asid va l s = { s with
    core := (afterWalk core asid va l s).core, cores := (afterWalk core asid va l s).cores, dies := (afterWalk core asid va l s).dies } := by
  rw [afterWalk, updCore_outside]
  rfl

theorem tlb_afterWalk : ((afterWalk core asid va l s).getCore core).tlb = tlbAdd 128 (walked s asid va l) (s.getCore core).tlb :=
  congrArg Core.tlb (getCore_updCore s core (Core.translated (walked s asid va l)) fun _ => rfl)

theorem walk_afterWalk (d : Nat) : walk (afterWalk core asid va l s) d asid va = walk s d asid va := by
  refine walk_congr (fun a => ?_) (by rw [afterWalk_outside]) asid va
  have hpend : ((afterWalk core asid va l s).getDie d).pend = (s.getDie d).pend := by
    refine (getDie_updDie_part Die.pend (Die.translated (enginesFor s (dieOf core) asid) (walked s asid va l)) (fun _ => rfl) (fun _ => rfl) d).trans ?_
    rw [updCore_outside]
    rfl
  have hmem : (afterWalk core asid va l s).mem = s.mem := by rw [afterWalk_outside]
  rw [dieByte, dieByte, hpend, hmem]

theorem walkAhead_afterWalk (hd : ∃ d ∈ s.dies.toList, d.id = dieOf core) {n : Nat} (hn : n ∈ enginesFor s (dieOf core) asid) :
    (n, walked s asid va l) ∈ ((afterWalk core asid va l s).getDie (dieOf core)).walkAhead := by
  have hdies : (s.updCore core (Core.translated (walked s asid va l))).dies = s.dies := by rw [updCore_outside]
  obtain ⟨d, hd⟩ : ∃ d, (s.updCore core (Core.translated (walked s asid va l))).dies.toList.find? (·.id == dieOf core) = some d := by
    rw [hdies]
    exact ⟨_, findDie_of_exists hd⟩
  rw [afterWalk, getDie_updDie (f := Die.translated (enginesFor s (dieOf core) asid) (walked s asid va l)) hd fun _ => rfl]
  exact mem_foldl_aheadAdd hn _

/-- The leaf that a walk has found is in force for its core. -/
theorem translate_afterWalk (h : walk s (dieOf core) asid va = some l) : translate (afterWalk core asid va l s) core asid va = some l := by
  have hfind : (((afterWalk core asid va l s).getCore core).tlb ++ ((afterWalk core asid va l s).getDie (dieOf core)).tlb).find? (tlbMatches asid va) =
      some (walked s asid va l) := by
    rw [tlb_afterWalk]
    refine List.find?_cons_of_pos ?_
    simp [walked, tlbMatches]
  simp only [translate, hfind, walk_afterWalk, h]
  exact if_pos rfl

end

/-! ## Shoot-downs (R358) -/

/-- A core, and a die, without the entries that a shoot-down names. -/
def Core.shotDown (asids : Option (List Nat)) (lo hi : Nat) (c : Core) : Core := { c with tlb := c.tlb.filter (fun e => !shot asids lo hi e) }

def Die.shotDown (asids : Option (List Nat)) (lo hi : Nat) (d : Die) : Die := { d with
  tlb := d.tlb.filter (fun e => !shot asids lo hi e), walkAhead := d.walkAhead.filter (fun e => !shot asids lo hi e.2) }

section
variable (asids : Option (List Nat)) (lo hi : Nat)

theorem getCore_map (g : Core → Core) (hid : ∀ c, (g c).id = c.id) (hfresh : ∀ i, g (Core.fresh i) = Core.fresh i) (t : State)
    (hcore : t.core = g s.core) (hcores : t.cores = s.cores.map g) (i : Nat) : t.getCore i = g (s.getCore i) := by
  have hfind := find_map_key (fun c : Core => c.id == i) g s.cores fun c => by rw [hid]
  rw [State.getCore, State.getCore, hcore, hcores, hid, hfind]
  split
  · rfl
  · cases s.cores.find? (·.id == i) with
    | none => exact (hfresh i).symm
    | some c => rfl

theorem getDie_map (g : Die → Die) (hid : ∀ d, (g d).id = d.id) (hfresh : ∀ i, g (Die.fresh i) = Die.fresh i) (t : State)
    (hdies : t.dies = s.dies.map g) (i : Nat) : t.getDie i = g (s.getDie i) := by
  have hfind := find_map_key (fun d : Die => d.id == i) g s.dies.toList fun d => by rw [hid]
  rw [State.getDie, State.getDie, hdies, Vector.toList_map, hfind]
  cases s.dies.toList.find? (·.id == i) with
  | none => exact (hfresh i).symm
  | some d => rfl

theorem getCore_shootDown (i : Nat) : (shootDown asids lo hi s).getCore i = (s.getCore i).shotDown asids lo hi :=
  getCore_map (Core.shotDown asids lo hi) (fun _ => rfl) (fun _ => rfl) _ rfl rfl i

theorem getDie_shootDown (i : Nat) : (shootDown asids lo hi s).getDie i = (s.getDie i).shotDown asids lo hi :=
  getDie_map (Die.shotDown asids lo hi) (fun _ => rfl) (fun _ => rfl) _ rfl i

theorem shootDown_outside : shootDown asids lo hi s = { s with
    core := (shootDown asids lo hi s).core, cores := (shootDown asids lo hi s).cores, dies := (shootDown asids lo hi s).dies
    part := { s.part with asids := (shootDown asids lo hi s).part.asids } } := rfl

end

/-- Which entries a shoot-down names. -/
theorem shot_iff {asids : Option (List Nat)} {lo hi : Nat} {e : TlbEntry} : shot asids lo hi e = true ↔ ∀ l, asids = some l →
    e.asid ∈ l ∧ leafG e.leaf = false ∧ e.va / e.size * e.size < hi ∧ lo < (e.va / e.size + 1) * e.size := by
  cases asids with
  | none => simp [shot]
  | some l => simp [shot, and_assoc]

theorem mem_tlb_shootDown {asids : Option (List Nat)} {lo hi core : Nat} {e : TlbEntry} :
    e ∈ ((shootDown asids lo hi s).getCore core).tlb ↔ e ∈ (s.getCore core).tlb ∧ ¬ shot asids lo hi e = true := by
  rw [getCore_shootDown]
  simp [Core.shotDown]

theorem mem_dedup {α : Type} [BEq α] [LawfulBEq α] {l : List α} {x : α} : x ∈ dedup l ↔ x ∈ l := by
  have h (acc : List α) : x ∈ l.foldl (fun acc x => if acc.contains x then acc else acc ++ [x]) acc ↔ x ∈ acc ∨ x ∈ l := by
    induction l generalizing acc with
    | nil => simp
    | cons y l ih =>
      rw [List.foldl_cons, ih, List.mem_cons]
      by_cases hy : acc.contains y = true
      · rw [if_pos hy]
        have hmem : y ∈ acc := by simpa using hy
        exact ⟨fun h => h.imp_right .inr, fun h => h.elim .inl fun h => h.elim (fun h => .inl (h ▸ hmem)) .inr⟩
      · rw [if_neg hy, List.mem_append, List.mem_singleton, or_assoc]
  exact (h []).trans (by simp)

theorem asidEnt_n (s : State) (n : Nat) : (asidEnt s n).n = n := by
  unfold asidEnt
  cases h : s.part.asids.find? (·.n == n) with
  | none => rfl
  | some e => simpa using List.find?_some h

/-- The address spaces that a shoot-down names. -/
def shotAsids (asids : Option (List Nat)) : List Nat := (asids.getD (List.range 1024)).filter (fun n => decide (n < 1024))

theorem mem_shotAsids {asids : Option (List Nat)} {n : Nat} : n ∈ shotAsids asids ↔ n < 1024 ∧ ∀ l, asids = some l → n ∈ l := by
  cases asids with
  | none => simp [shotAsids, List.mem_range]
  | some l => simp [shotAsids, and_comm]

/-- An address space with the next generation. -/
def nextGen (s : State) (n : Nat) : AsidEnt := { asidEnt s n with gen := (asidEnt s n).gen + 1#32 }

theorem asids_shootDown (asids : Option (List Nat)) (lo hi : Nat) : (shootDown asids lo hi s).part.asids =
    s.part.asids.filter (fun e => !(shotAsids asids).contains e.n) ++ (dedup (shotAsids asids)).map (nextGen s) := rfl

/-- The entry of an address space among those that get the next generation. -/
theorem find_nextGen (l : List Nat) (n : Nat) : (l.map (nextGen s)).find? (·.n == n) = if n ∈ l then some (nextGen s n) else none := by
  induction l with
  | nil => rfl
  | cons m l ih =>
    have hm : (nextGen s m).n = m := asidEnt_n s m
    rw [List.map_cons, List.find?_cons, ih, hm]
    by_cases h : m = n
    · subst h
      simp
    · rw [beq_false_of_ne h]
      simp [Ne.symm h]

theorem find_unnamed {asids : Option (List Nat)} {n : Nat} (hn : n ∉ shotAsids asids) (l : List AsidEnt) :
    (l.filter (fun e => !(shotAsids asids).contains e.n)).find? (·.n == n) = l.find? (·.n == n) := by
  rw [List.find?_filter]
  congr 1
  funext e
  by_cases he : e.n = n
  · subst he
    simp [hn]
  · simp [he]

theorem find_named {asids : Option (List Nat)} {n : Nat} (hn : n ∈ shotAsids asids) (l : List AsidEnt) :
    (l.filter (fun e => !(shotAsids asids).contains e.n)).find? (·.n == n) = none := by
  rw [List.find?_eq_none]
  rintro e he hen
  have hmem := (List.mem_filter.1 he).2
  rw [beq_iff_eq.1 hen] at hmem
  simp [hn] at hmem

theorem asidEnt_shootDown (asids : Option (List Nat)) (lo hi n : Nat) :
    asidEnt (shootDown asids lo hi s) n = if n ∈ shotAsids asids then nextGen s n else asidEnt s n := by
  rw [asidEnt, asids_shootDown, List.find?_append, find_nextGen]
  simp only [mem_dedup]
  split
  next h => rw [find_named h, Option.none_or]; rfl
  next h => rw [find_unnamed h, Option.or_none, asidEnt]

theorem shootDown_completes (hb : s.part.bootst ≠ 0xF#4) (asids : Option (List Nat)) (lo hi : Nat) : Completes (.shootDown asids lo hi) s fun t =>
      let gone := fun (e : TlbEntry) => ∀ l, asids = some l → e.asid ∈ l ∧ leafG e.leaf = false
        ∧ e.va / e.size * e.size < hi ∧ lo < (e.va / e.size + 1) * e.size
      (∀ core e, e ∈ (t.getCore core).tlb ↔ e ∈ (s.getCore core).tlb ∧ ¬ gone e)
      ∧ (∀ d e, (e ∈ (t.getDie d).tlb ↔ e ∈ (s.getDie d).tlb ∧ ¬ gone e)
        ∧ ∀ n, (n, e) ∈ (t.getDie d).walkAhead ↔ (n, e) ∈ (s.getDie d).walkAhead ∧ ¬ gone e)
      ∧ (∀ n, n < 1024 → (∀ l, asids = some l → n ∈ l) → (asidEnt t n).gen = (asidEnt s n).gen + 1#32)
      ∧ (∀ n, 1024 ≤ n ∨ (∃ l, asids = some l ∧ n ∉ l) → asidEnt t n = asidEnt s n)
      ∧ t = { s with core := t.core, cores := t.cores, dies := t.dies, part := { s.part with asids := t.part.asids } } := by
  have he : exec (.shootDown asids lo hi) s = .next (if failed s then s else shootDown asids lo hi s) := rfl
  refine ⟨shootDown asids lo hi s, by rw [he, failed_eq_false hb]; rfl, fun core e => ?_, fun d e => ⟨?_, fun n => ?_⟩, fun n hn hnamed => ?_,
    fun n hn => ?_, shootDown_outside asids lo hi⟩
  · beta_reduce
    rw [← shot_iff, mem_tlb_shootDown]
  · beta_reduce
    rw [← shot_iff, getDie_shootDown]
    simp [Die.shotDown]
  · beta_reduce
    rw [← shot_iff, getDie_shootDown]
    simp [Die.shotDown]
  · rw [asidEnt_shootDown, if_pos (mem_shotAsids.2 ⟨hn, hnamed⟩)]
    rfl
  · rw [asidEnt_shootDown, if_neg]
    rintro hmem
    obtain ⟨hlt, hall⟩ := mem_shotAsids.1 hmem
    rcases hn with hge | ⟨l, hl, hno⟩
    · omega
    · exact hno (hall l hl)

/-! ## The part's own shoot-downs (R358, R359, R361) -/

theorem tlb_shootPage {asid lo hi : Nat} {leaf : DWord} {core : Nat} {e : TlbEntry} (he : e ∈ ((shootPage asid lo hi leaf s).getCore core).tlb)
    (hnamed : (e.asid = asid ∧ leafG e.leaf = false) ∨ leafG leaf = true) :
    hi ≤ e.va / e.size * e.size ∨ (e.va / e.size + 1) * e.size ≤ lo := by
  obtain ⟨-, hkept⟩ := mem_tlb_shootDown.1 he
  rw [shot_iff] at hkept
  by_cases hg : leafG leaf = true
  · exact absurd (fun l hl => absurd hl (by simp [hg])) hkept
  · obtain ⟨hasid, hglobal⟩ := hnamed.resolve_right hg
    by_contra hmeets
    refine hkept fun l hl => ?_
    rw [if_neg hg] at hl
    cases hl
    refine ⟨List.mem_singleton.2 hasid, hglobal, ?_, ?_⟩ <;> omega

/-! ## Copies of frames (R359, R361) -/

theorem span_eq_map_range (a n : Nat) : span a n = (List.range n).map (a + ·) := by
  induction n generalizing a with
  | zero => rfl
  | succ n ih =>
    rw [span, ih, List.range_succ_eq_map, List.map_cons, List.map_map]
    refine congrArg₂ _ rfl (List.map_congr_left fun i _ => ?_)
    simp only [Function.comp_apply]
    omega

theorem writeCells_append (m : Memory) (l r : List (Nat × Byte)) : m.writeCells (l ++ r) = (m.writeCells l).writeCells r := by
  induction l generalizing m with
  | nil => rfl
  | cons c l ih => exact ih _

/-- Nothing is on its way to memory. -/
structure Idle (s : State) : Prop where
  cores : ∀ c, (s.getCore c).merged = []
  dies : ∀ d, (s.getDie d).pend = []

theorem settleFrame_idle (h : Idle s) (pa n : Nat) : settleFrame pa n s = s := by
  have hcores (is : List Nat) (f : State → Nat → State) (hf : ∀ i, f s i = s) : is.foldl f s = s :=
    List.foldlRecOn (b := s) (motive := (· = s)) is f rfl fun u hu i _ => hu ▸ hf i
  unfold settleFrame
  extract_lets lines cores u
  have hu : u = s := hcores _ _ fun i => by
    rw [h.cores i]
    rfl
  rw [hu]
  exact hcores _ _ fun d => by
    rw [h.dies d]
    rfl

/-- The cells that a copy of a frame writes. -/
def frameCells (s : State) (src dst n : Nat) : List (Nat × Byte) :=
  (List.range n).map (fun i => (canon s (dst + i), s.mem.read (canon s (src + i))))

/-- From `s` to `t`, frames have been copied: memory holds their cells, the cores' caches hold less, and dirty marks have moved. -/
def Copies (cells : List (Nat × Byte)) (s t : State) : Prop :=
  t = { s with mem := s.mem.writeCells cells, core := t.core, cores := t.cores, part := { s.part with dirty := t.part.dirty } }

theorem Copies.canon {cells : List (Nat × Byte)} {t : State} (h : Copies cells s t) (a : Nat) : canon t a = canon s a := by
  have hpart : t.part.windows = s.part.windows := by rw [h]
  simp only [Machine.canon, windowAt, hpart]

theorem Copies.mem {cells : List (Nat × Byte)} {t : State} (h : Copies cells s t) : t.mem = s.mem.writeCells cells := by rw [h]

theorem Copies.pool {cells : List (Nat × Byte)} {t : State} (h : Copies cells s t) : t.part.promoPool = s.part.promoPool := by rw [h]

theorem Copies.trans {l r : List (Nat × Byte)} {t u : State} (h : Copies l s t) (h' : Copies r t u) : Copies (l ++ r) s u := by
  rw [Copies] at *
  rw [h', h, writeCells_append]

theorem copyFrame_copies (h : Idle s) (src dst n : Nat) : Copies (frameCells s src dst n) s (copyFrame src dst n s) ∧ Idle (copyFrame src dst n s) := by
  have hcells : (span 0 n).map (fun i => (canon s (dst + i), s.mem.read (canon s (src + i)))) = frameCells s src dst n := by
    rw [span_eq_map_range, List.map_map]
    refine List.map_congr_left fun i _ => ?_
    simp only [Function.comp_apply, Nat.zero_add]
  have hout : copyFrame src dst n s = { s with
      mem := s.mem.writeCells (frameCells s src dst n), core := s.core.forgetFrame dst n, cores := s.cores.map (Core.forgetFrame dst n)
      part := { s.part with dirty := moveDirty s src dst n s.part.dirty } } := by
    unfold copyFrame
    extract_lets u cells
    have hu : u = s := settleFrame_idle h src n
    have hc : cells = frameCells s src dst n := by rw [← hcells]; simp only [cells, hu]
    rw [hc, hu]
    rfl
  refine ⟨by rw [Copies, hout], fun c => ?_, fun d => ?_⟩
  · rw [hout, getCore_map (s := s) (Core.forgetFrame dst n) (fun _ => rfl) (fun _ => rfl) _ rfl rfl c]
    exact h.cores c
  · rw [hout]
    exact h.dies d

/-- Frames whose bytes are no destination of the copies are copied one after the other. -/
theorem copyFrames_copies {old : Nat → Nat} {f : Nat} (h : Idle s) (hw : s.mem.wf = true)
    (hapart : ∀ k i b, k < 2 ^ 26 → i < 1024 → b < 65536 → canon s (f + k) ≠ canon s (old i + b)) (is : List Nat) (his : ∀ i ∈ is, i < 1024) :
    Copies (is.flatMap (fun i => frameCells s (old i) (f + 65536 * i) 65536)) s
      (is.foldl (fun t i => copyFrame (old i) (f + 65536 * i) 65536 t) s)
    ∧ Idle (is.foldl (fun t i => copyFrame (old i) (f + 65536 * i) 65536 t) s) := by
  induction is using List.reverseRecOn with
  | nil => exact ⟨rfl, h⟩
  | append_singleton is i ih =>
    obtain ⟨hcopies, hidle⟩ := ih fun j hj => his j (List.mem_append_left _ hj)
    obtain ⟨hstep, hidle'⟩ := copyFrame_copies hidle (old i) (f + 65536 * i) 65536
    have hi := his i (List.mem_append_right _ List.mem_cons_self)
    have hsource (b : Nat) (hb : b < 65536) : ((s.mem.writeCells (is.flatMap (fun i => frameCells s (old i) (f + 65536 * i) 65536))).read
        (canon s (old i + b))) = s.mem.read (canon s (old i + b)) := by
      refine Memory.read_writeCells_out hw fun c hc => ?_
      obtain ⟨j, hj, hc⟩ := List.mem_flatMap.1 hc
      obtain ⟨k, hk, rfl⟩ := List.mem_map.1 hc
      have hj := his j (List.mem_append_left _ hj)
      have hk := List.mem_range.1 hk
      rw [Nat.add_assoc]
      exact hapart _ i b (by omega) hi hb
    have hcells : frameCells (is.foldl (fun t i => copyFrame (old i) (f + 65536 * i) 65536 t) s) (old i) (f + 65536 * i) 65536 =
        frameCells s (old i) (f + 65536 * i) 65536 := by
      refine List.map_congr_left fun b hb => ?_
      rw [hcopies.canon, hcopies.canon, hcopies.mem, hsource b (List.mem_range.1 hb)]
    rw [hcells] at hstep
    rw [List.foldl_append, List.flatMap_append, List.flatMap_singleton]
    exact ⟨hcopies.trans hstep, hidle'⟩

/-! ## An entry replaced, its page shot down, and a record posted -/

/-- `u` is `s` with the cells in memory, as far as the names of bytes and the ring go. -/
structure Holds (cells : List (Nat × Byte)) (s u : State) : Prop where
  mem : u.mem = s.mem.writeCells cells
  windows : u.part.windows = s.part.windows
  nqbase : u.part.nqbase = s.part.nqbase
  nqsize : u.part.nqsize = s.part.nqsize

theorem Holds.refl (s : State) : Holds [] s s := ⟨rfl, rfl, rfl, rfl⟩

theorem Copies.holds {cells : List (Nat × Byte)} {t : State} (h : Copies cells s t) : Holds cells s t :=
  ⟨h.mem, by rw [h], by rw [h], by rw [h]⟩

/-- A page's entry is replaced, and the page shot down. -/
def replaceEntry (a : Nat) (e : DWord) (asid lo hi : Nat) (leaf : DWord) (s : State) : State := shootPage asid lo hi leaf (putEntry a e s)

section
variable {u : State} {cells : List (Nat × Byte)} {a asid lo hi : Nat} {e leaf : DWord} (h : Holds cells s u)
include h

theorem Holds.namedCells (a : Nat) (bs : List Byte) : namedCells u a bs = namedCells s a bs :=
  List.map_congr_left fun c _ => by simp only [canon, windowAt, h.windows]

theorem Holds.replaceEntry : Holds (cells ++ Machine.namedCells s a (toBytes 8 e.toNat)) s (replaceEntry a e asid lo hi leaf u) where
  mem := by
    have hmem : (Machine.replaceEntry a e asid lo hi leaf u).mem = u.mem.writeCells (Machine.namedCells u a (toBytes 8 e.toNat)) := rfl
    rw [hmem, h.namedCells, h.mem, writeCells_append]
  windows := h.windows
  nqbase := h.nqbase
  nqsize := h.nqsize

/-- The record that follows changes no byte outside the ring. -/
theorem Holds.posted (hw : s.mem.wf = true) {bs : List Byte} (hlen : bs.length = 32) (x : Nat) (hx : OutsideRing s x) :
    (settle (post bs u)).mem.read x = (lastCell cells x).getD (s.mem.read x) := by
  have hcounted := post_counted hlen u
  have hwf : u.mem.wf = true := h.mem ▸ Memory.writeCells_wf hw cells
  rw [mem_settle, hcounted.memory hwf x (.congr h.nqbase h.nqsize h.windows hx), h.mem, Memory.read_writeCells hw]

end

theorem getCore_posted {bs : List Byte} (hlen : bs.length = 32) (u : State) (core : Nat) : (settle (post bs u)).getCore core = u.getCore core :=
  (getCore_settle _ core).trans ((post_counted hlen u).getCore core)

/-! ## Migration (R361) -/

section
variable {asid va a : Nat} {l : DWord × Nat} (hwalk : walk s 0 asid va = some l) (hentry : entryAddr s asid va = some a)
include hwalk hentry

theorem migrationRequest_eq {frame : Nat} (hblocked : leafWBLK l.1 = false) (halign : frame % l.2 = 0) (hserved : served s frame l.2 = true)
    (hhigh : frame + l.2 ≤ 2 ^ 52) (hfree : ∀ m ∈ s.part.migrations, m.asid = asid → m.va / l.2 ≠ va / l.2) :
    exec (.migrationRequest asid va frame) s = .next ((replaceEntry a (setBit l.1 7 true) asid (va / l.2 * l.2) (va / l.2 * l.2 + l.2) l.1 s).updPart
      (fun p => { p with migrations := p.migrations ++ [⟨asid, va / l.2 * l.2, leafAddr l.1, frame⟩] })) := by
  have he : exec (.migrationRequest asid va frame) s = execMigrationRequest asid va frame s := rfl
  have hany : s.part.migrations.any (fun m => m.asid == asid && m.va / l.2 == va / l.2) = false := by
    refine List.any_eq_false.2 fun m hm => ?_
    simp only [Bool.and_eq_true, beq_iff_eq, not_and]
    exact hfree m hm
  rw [he, execMigrationRequest, hwalk, hentry]
  refine if_neg ?_
  rw [hblocked, halign, hserved, hany, decide_eq_false (Nat.not_lt.2 hhigh)]
  decide

theorem migrationCompletion_eq {m : Migration} (hm : s.part.migrations.find? (fun m => m.asid == asid && m.va == va / l.2 * l.2) = some m) :
    exec (.migrationCompletion asid va) s = if !(portsOf s m.old l.2 ++ portsOf s m.new l.2).all (portUp s) then .next s
      else .next (settle (post (pageNote 2 (homeOf s m.old) asid 0 m.va m.old)
        ((replaceEntry a (setBit (setBit (reframe l.1 m.new) 5 (hostResident s m.new)) 7 false) asid m.va (m.va + l.2) l.1
          (copyFrame m.old m.new l.2 s)).updPart (fun p => { p with migrations := p.migrations.erase m })))) := by
  have he : exec (.migrationCompletion asid va) s = execMigrationCompletion asid va s := rfl
  rw [he, execMigrationCompletion, hwalk, hentry]
  simp only [hm]
  rfl

end

theorem Holds.updPart {u : State} {cells : List (Nat × Byte)} (h : Holds cells s u) {f : Part → Part} (hwindows : ∀ p, (f p).windows = p.windows)
    (hbase : ∀ p, (f p).nqbase = p.nqbase) (hsize : ∀ p, (f p).nqsize = p.nqsize) : Holds cells s (u.updPart f) :=
  ⟨h.mem, (hwindows _).trans h.windows, (hbase _).trans h.nqbase, (hsize _).trans h.nqsize⟩

theorem held_post {bs : List Byte} (hsize : s.part.nqsize = 0#64) (hroom : s.part.held.length < 64) : (settle (post bs s)).part.held = s.part.held ++ [bs] := by
  have hsettle (t : State) : (settle t).part = t.part := rfl
  rw [hsettle]
  simp only [post, hsize, hroom, if_true]
  rfl

/-! ## Promotion (R359) -/

/-- The entries of a table. -/
def tableEntries (s : State) (tab : Nat) : List DWord := (List.range 1024).map (fun i => BitVec.ofNat 64 (dieValue s 0 (tab + 8 * i) 8))

/-- The entries of a table may become one. -/
def uniformEntries (s : State) (die : Nat) (es : List DWord) : Bool :=
  es.all (fun e => entryKind s 1 e == .leaf && !leafCO e && !leafWBLK e && e.extractLsb' 1 8 == (es.headD 0#64).extractLsb' 1 8
    && inHbm s (leafAddr e) 65536 && homeOf s (leafAddr e) == die)

/-- Frames that stand as those of one page would. -/
def framesInOrder (frames : List Nat) : Bool :=
  frames.headD 0 % 2 ^ 26 == 0 && frames.zipIdx.all (fun f => f.1 == frames.headD 0 + 65536 * f.2)

/-- The frames of a table's entries copied to one of the pool. -/
def copyFrames (f : Nat) (frames : List Nat) (s : State) : State :=
  frames.zipIdx.foldl (fun t x => copyFrame x.1 (f + 65536 * x.2) 65536 t) s

/-- A frame leaves the pool. -/
def withoutFrame (f : Nat) (s : State) : State := s.updPart (fun p => { p with promoPool := p.promoPool.erase f })

theorem withoutFrame_pool (f : Nat) (s : State) : (withoutFrame f s).part.promoPool = s.part.promoPool.erase f := rfl

theorem Holds.withoutFrame {u : State} {cells : List (Nat × Byte)} (h : Holds cells s u) (f : Nat) : Holds cells s (withoutFrame f u) :=
  ⟨h.mem, h.windows, h.nqbase, h.nqsize⟩

/-- The page of 64 MiB has its entry. -/
def promoted (die asid va a : Nat) (e0 : DWord) (frame0 f count : Nat) (s : State) : State :=
  settle (post (pageNote 3 die asid count (va / 2 ^ 26 * 2 ^ 26) frame0)
    (replaceEntry a (reframe (e0 &&& 0x1FF#64) f) asid (va / 2 ^ 26 * 2 ^ 26) (va / 2 ^ 26 * 2 ^ 26 + 2 ^ 26) e0 s))

section
variable {die asid va a tab : Nat} (htab : tableEntry s asid va = some (a, tab))
include htab

theorem promotion_eq : exec (.promotion die asid va) s =
    if !(asidEnt s asid).promo || s.part.promoPaused || !uniformEntries s die (tableEntries s tab) then .next s
    else if framesInOrder ((tableEntries s tab).map leafAddr) then
      .next (promoted die asid va a ((tableEntries s tab).headD 0#64) (((tableEntries s tab).map leafAddr).headD 0)
        (((tableEntries s tab).map leafAddr).headD 0) 0 s)
    else match s.part.promoPool.find? (fun f => homeOf s f == die) with
      | none => .next s
      | some f => .next (promoted die asid va a ((tableEntries s tab).headD 0#64) (((tableEntries s tab).map leafAddr).headD 0) f 1024
          (withoutFrame f (copyFrames f ((tableEntries s tab).map leafAddr) s))) := by
  have he : exec (.promotion die asid va) s = execPromotion die asid va s := rfl
  rw [he, execPromotion, htab]
  rfl

end

theorem headD_map_range {α : Type} (g : Nat → α) (d : α) (n : Nat) : ((List.range (n + 1)).map g).headD d = g 0 := by
  rw [List.range_succ_eq_map]
  rfl

theorem zipIdx_map_range {α : Type} (g : Nat → α) (n : Nat) : ((List.range n).map g).zipIdx = (List.range n).map (fun i => (g i, i)) :=
  List.ext_getElem (by simp) fun i h h' => by simp

section
variable (old : Nat → Nat)

theorem framesInOrder_iff : framesInOrder ((List.range 1024).map old) = true ↔ old 0 % 2 ^ 26 = 0 ∧ ∀ i, i < 1024 → old i = old 0 + 65536 * i := by
  rw [framesInOrder, zipIdx_map_range, headD_map_range old 0 1023, Bool.and_eq_true, beq_iff_eq, List.all_map, List.all_eq_true]
  simp only [List.mem_range, Function.comp_apply, beq_iff_eq]

theorem copyFrames_eq (f : Nat) : copyFrames f ((List.range 1024).map old) s =
    (List.range 1024).foldl (fun t i => copyFrame (old i) (f + 65536 * i) 65536 t) s := by
  rw [copyFrames, zipIdx_map_range, List.foldl_map]

end

section
variable {die asid va a : Nat} {e0 : DWord} {frame0 f count : Nat} {u : State}

/-- A page of 64 MiB that has its entry, from a state in which the frames have been copied. -/
theorem promoted_reads {cells : List (Nat × Byte)} (h : Holds cells s u) (hw : s.mem.wf = true) (x : Nat) (hx : OutsideRing s x) :
    (promoted die asid va a e0 frame0 f count u).mem.read x =
      (lastCell (cells ++ namedCells s a (toBytes 8 (reframe (e0 &&& 0x1FF#64) f).toNat)) x).getD (s.mem.read x) :=
  h.replaceEntry.posted hw (length_pageNote _ _ _ _ _ _) x hx

theorem promoted_shot (core : Nat) (x : TlbEntry) (hx : x ∈ ((promoted die asid va a e0 frame0 f count u).getCore core).tlb)
    (hnamed : (x.asid = asid ∧ leafG x.leaf = false) ∨ leafG e0 = true) :
    va / 2 ^ 26 * 2 ^ 26 + 2 ^ 26 ≤ x.va / x.size * x.size ∨ (x.va / x.size + 1) * x.size ≤ va / 2 ^ 26 * 2 ^ 26 := by
  rw [promoted, getCore_posted (length_pageNote _ _ _ _ _ _)] at hx
  exact tlb_shootPage hx hnamed

theorem replaceEntry_pool (a asid lo hi : Nat) (e leaf : DWord) (u : State) :
    (replaceEntry a e asid lo hi leaf u).part.promoPool = u.part.promoPool := rfl

theorem erased_lists (a asid lo hi : Nat) (e leaf : DWord) (m : Migration) (u : State) :
    ((replaceEntry a e asid lo hi leaf u).updPart (fun p => { p with migrations := p.migrations.erase m })).part.migrations = u.part.migrations.erase m
    ∧ ((replaceEntry a e asid lo hi leaf u).updPart (fun p => { p with migrations := p.migrations.erase m })).part.held = u.part.held := ⟨rfl, rfl⟩

theorem posted_lists {bs : List Byte} (hlen : bs.length = 32) (u : State) :
    (settle (post bs u)).part.migrations = u.part.migrations ∧ (settle (post bs u)).part.promoPool = u.part.promoPool := by
  have hpart : (settle (post bs u)).part = _ := (post_counted hlen u).part
  rw [hpart]
  exact ⟨rfl, rfl⟩

theorem promoted_pool : (promoted die asid va a e0 frame0 f count u).part.promoPool = u.part.promoPool := by
  rw [promoted, (posted_lists (length_pageNote _ _ _ _ _ _) _).2, replaceEntry_pool]

/-- A page of 64 MiB that has its entry, for a frame of the pool to which its frames have been copied. -/
theorem promoted_copied {cells : List (Nat × Byte)} (h : Copies cells s u) (hw : s.mem.wf = true) :
    (∀ x, OutsideRing s x → (promoted die asid va a e0 frame0 f count (withoutFrame f u)).mem.read x =
      (lastCell (cells ++ namedCells s a (toBytes 8 (reframe (e0 &&& 0x1FF#64) f).toNat)) x).getD (s.mem.read x))
    ∧ (promoted die asid va a e0 frame0 f count (withoutFrame f u)).part.promoPool = s.part.promoPool.erase f := by
  refine ⟨promoted_reads (h.holds.withoutFrame f) hw, ?_⟩
  rw [promoted_pool, withoutFrame_pool, h.pool]

end

/-- A migration's copy is made, and the new frame named. -/
def migrated (asid a : Nat) (l : DWord × Nat) (m : Migration) (s : State) : State :=
  (replaceEntry a (setBit (setBit (reframe l.1 m.new) 5 (hostResident s m.new)) 7 false) asid m.va (m.va + l.2) l.1
    (copyFrame m.old m.new l.2 s)).updPart (fun p => { p with migrations := p.migrations.erase m })

section
variable {asid a : Nat} {l : DWord × Nat} {m : Migration} (h : Idle s)
include h

theorem migrated_holds : Holds (frameCells s m.old m.new l.2
    ++ namedCells s a (toBytes 8 (setBit (setBit (reframe l.1 m.new) 5 (hostResident s m.new)) 7 false).toNat)) s (migrated asid a l m s) :=
  (copyFrame_copies h m.old m.new l.2).1.holds.replaceEntry.updPart (fun _ => rfl) (fun _ => rfl) fun _ => rfl

theorem migrated_lists : (migrated asid a l m s).part.migrations = s.part.migrations.erase m
    ∧ (migrated asid a l m s).part.held = s.part.held := by
  have hcopies := (copyFrame_copies h m.old m.new l.2).1
  have hmigrations : (copyFrame m.old m.new l.2 s).part.migrations = s.part.migrations := by rw [hcopies]
  have hheld : (copyFrame m.old m.new l.2 s).part.held = s.part.held := by rw [hcopies]
  rw [migrated, (erased_lists ..).1, (erased_lists ..).2]
  exact ⟨congrArg (List.erase · m) hmigrations, hheld⟩

end

theorem migrationCompletion_completes {asid va a : Nat} {l : DWord × Nat} {m : Migration} (hwalk : walk s 0 asid va = some l)
    (hentry : entryAddr s asid va = some a) (hm : s.part.migrations.find? (fun m => m.asid == asid && m.va == va / l.2 * l.2) = some m)
    (hup : ∀ p ∈ portsOf s m.old l.2 ++ portsOf s m.new l.2, portUp s p = true) (hidle : Idle s) (hw : s.mem.wf = true) :
    Completes (.migrationCompletion asid va) s fun t => t.part.migrations = s.part.migrations.erase m
      ∧ (∀ x, OutsideRing s x → t.mem.read x = (lastCell (frameCells s m.old m.new l.2
          ++ namedCells s a (toBytes 8 (setBit (setBit (reframe l.1 m.new) 5 (hostResident s m.new)) 7 false).toNat)) x).getD (s.mem.read x))
      ∧ (s.part.nqsize = 0#64 → s.part.held.length < 64 →
          t.part.held = s.part.held ++ [pageNote 2 (homeOf s m.old) asid 0 m.va m.old]) := by
  have hall : (portsOf s m.old l.2 ++ portsOf s m.new l.2).all (portUp s) = true := List.all_eq_true.2 hup
  have hrun : exec (.migrationCompletion asid va) s = .next (settle (post (pageNote 2 (homeOf s m.old) asid 0 m.va m.old) (migrated asid a l m s))) := by
    rw [migrationCompletion_eq hwalk hentry hm, hall]
    rfl
  have hchanged := migrated_holds (asid := asid) (a := a) (l := l) (m := m) hidle
  obtain ⟨hmigrations, hheld⟩ := migrated_lists (asid := asid) (a := a) (l := l) (m := m) hidle
  have hlen := length_pageNote 2 (homeOf s m.old) asid 0 m.va m.old
  generalize migrated asid a l m s = v at hrun hchanged hmigrations hheld
  refine ⟨_, hrun, (posted_lists hlen v).1.trans hmigrations, fun x hx => hchanged.posted hw hlen x hx, fun hsize hroom => ?_⟩
  rw [held_post (hchanged.nqsize.trans hsize) (by rwa [hheld]), hheld]

section
variable {die asid va a tab : Nat}

theorem promotion_elsewhere {i : Nat} (htab : tableEntry s asid va = some (a, tab)) (hi : i < 1024)
    (hfar : inHbm s (leafAddr (BitVec.ofNat 64 (dieValue s 0 (tab + 8 * i) 8))) 65536 = false) : exec (.promotion die asid va) s = .next s := by
  have huniform : uniformEntries s die (tableEntries s tab) = false := by
    refine List.all_eq_false.2 ⟨_, List.mem_map.2 ⟨i, List.mem_range.2 hi, rfl⟩, ?_⟩
    simp [hfar]
  rw [promotion_eq htab, huniform, if_pos (by simp)]

theorem uniformEntries_of (h : ∀ i, i < 1024 → let e := fun i => BitVec.ofNat 64 (dieValue s 0 (tab + 8 * i) 8)
    entryKind s 1 (e i) = .leaf ∧ leafCO (e i) = false ∧ leafWBLK (e i) = false ∧ (e i).extractLsb' 1 8 = (e 0).extractLsb' 1 8
      ∧ inHbm s (leafAddr (e i)) 65536 = true ∧ homeOf s (leafAddr (e i)) = die) : uniformEntries s die (tableEntries s tab) = true := by
  rw [uniformEntries, tableEntries, headD_map_range _ _ 1023, List.all_map, List.all_eq_true]
  intro i hi
  obtain ⟨hkind, hco, hwblk, hperm, hhbm, hhome⟩ := h i (List.mem_range.1 hi)
  simp only [Function.comp_apply, hkind, hco, hwblk, hperm, hhbm, hhome, beq_self_eq_true, Bool.not_false, Bool.and_self]

end

end

/-- Settles O57: walks, shoot-downs, migrations and promotions. -/
theorem memoryEventsHold : Obligations.MemoryEvents := by
  unfold Obligations.MemoryEvents
  intro s asid va
  refine ⟨fun core h => ?unmapped, fun core l h => ?walk, fun hb asids lo hi => ?failed, fun hb asids lo hi => shootDown_completes hb asids lo hi,
    fun l a frame hwalk hentry hblocked halign hserved hhigh => ?request, fun l a m hwalk hentry hm => ⟨?down, ?completion⟩,
    fun die a tab f htab hpromo hpaused => ?promotion, fun die a tab i htab hi hfar => promotion_elsewhere htab hi hfar⟩
  case unmapped =>
    have he : exec (.pageWalk core asid va) s = execPageWalk core asid va s := rfl
    rw [he, execPageWalk, h]
  case walk =>
    refine ⟨_, pageWalk_eq h, by rw [tlb_afterWalk]; rfl, translate_afterWalk h, afterWalk_outside, fun hd n hn => walkAhead_afterWalk hd hn⟩
  case failed =>
    have he : exec (.shootDown asids lo hi) s = .next (if failed s then s else shootDown asids lo hi s) := rfl
    rw [he, if_pos (by simp [failed, hb])]
  case request =>
    intro page hfree
    have hbit : setBit l.1 7 true = l.1 ||| 0x80#64 := rfl
    refine ⟨_, migrationRequest_eq hwalk hentry hblocked halign hserved hhigh hfree, rfl, fun hw => ?_, fun core e he hnamed => ?_⟩
    · rw [← hbit]
      exact homeWrite_stored hw _
    · exact tlb_shootPage he hnamed
  case down =>
    rintro ⟨p, hp, hdown⟩
    have hall : (portsOf s m.old l.2 ++ portsOf s m.new l.2).all (portUp s) = false := List.all_eq_false.2 ⟨p, hp, by simp [hdown]⟩
    rw [migrationCompletion_eq hwalk hentry hm, hall]
    rfl
  case completion =>
    intro hup hmerged hpend hw
    exact migrationCompletion_completes hwalk hentry hm hup ⟨hmerged, hpend⟩ hw
  case promotion =>
    intro e old leaf shot inOrder huniform hw
    have hrun := promotion_eq (die := die) htab
    have hentries : tableEntries s tab = (List.range 1024).map e := rfl
    have hframes : ((List.range 1024).map e).map leafAddr = (List.range 1024).map old := List.map_map
    have huni := uniformEntries_of huniform
    rw [huni, hpromo, hpaused, if_neg (by decide), hentries, hframes, headD_map_range e _ 1023, headD_map_range old _ 1023] at hrun
    have horder : framesInOrder ((List.range 1024).map old) = true ↔ inOrder := framesInOrder_iff old
    refine ⟨fun hin hf => ?_, fun hout hnone => ?_, fun hout hsome hapart hmerged hpend => ?_⟩
    · rw [if_pos (horder.2 hin), ← hf] at hrun
      exact ⟨_, hrun, fun x hx => promoted_reads (.refl s) hw x hx, promoted_shot⟩
    · rw [hrun, if_neg (mt horder.1 hout), hnone]
    · rw [if_neg (mt horder.1 hout), hsome] at hrun
      dsimp only at hrun
      rw [copyFrames_eq] at hrun
      have hcopies := (copyFrames_copies (old := old) ⟨hmerged, hpend⟩ hw hapart (List.range 1024) fun i => List.mem_range.1).1
      generalize (List.range 1024).foldl (fun t i => copyFrame (old i) (f + 65536 * i) 65536 t) s = u at hrun hcopies
      obtain ⟨hreads, hpool⟩ := promoted_copied (die := die) (asid := asid) (va := va) (a := a) (e0 := e 0) (frame0 := old 0) (f := f) (count := 1024)
        hcopies hw
      exact ⟨_, hrun, hreads, hpool, promoted_shot⟩

end Sys2Proof.Machine
end

/-! # The life of a launch (R330, R333 to R339, R341, R350) -/

section
namespace Sys2Proof.Machine

-- One after the other, as above: the check's memory limit bounds the stacks of parallel elaboration.
set_option Elab.async false

section
variable {s : State}

/-! ## Registration (R333) -/

theorem withPhase_graphs (i : Option Nat) (p : Part) : (withPhase i p).graphs = p.graphs := by
  cases i with
  | none => rfl
  | some i =>
    have h : withPhase (some i) p = if p.phases.any (·.idx == i) then p else { p with phases := p.phases ++ [⟨i, 0, false⟩] } := rfl
    rw [h]
    split <;> rfl

theorem graphRegistration_takes {i : Nat} (asid base count : Nat) (form : GraphForm) (hb : s.part.bootst = 3#4) (hi : i < 4096)
    (hfree : s.findGraph i = none) (hleast : ∀ j, j < i → s.findGraph j ≠ none) : Completes (.graphRegistration asid base count form) s fun t =>
      t.part.graphs = s.part.graphs ++ [⟨i, asid, base, count, form, 0, false, [], [], [], [], []⟩] ∧ t.mem = s.mem := by
  have hfind : (List.range 4096).find? (fun i => (s.findGraph i).isNone) = some i := by
    rw [List.find?_range_eq_some]
    refine ⟨by rw [hfree]; rfl, List.mem_range.2 hi, fun j hj => ?_⟩
    rw [Bool.not_eq_true', Option.isNone_eq_false_iff]
    exact Option.isSome_iff_ne_none.2 (hleast j hj)
  have he : exec (.graphRegistration asid base count form) s = execGraphRegistration asid base count form s := rfl
  rw [Completes, he, execGraphRegistration, if_pos hb, hfind]
  exact ⟨_, rfl, withPhase_graphs _ _, rfl⟩

/-! ## Launches that end early (R139, R340) -/

/-- A launch stops. -/
def Launch.ended (e : Ending) (l : Launch) : Launch := if l.status = .running then { l with status := .stopping, ending := e } else l

theorem ended_lid (e : Ending) (l : Launch) : (l.ended e).lid = l.lid := by
  unfold Launch.ended
  split <;> rfl

theorem ended_nextTeam (e : Ending) (l : Launch) : (l.ended e).nextTeam = l.nextTeam := by
  unfold Launch.ended
  split <;> rfl

theorem ended_status (e : Ending) (l : Launch) (h : l.status ≠ .absent) : (l.ended e).status ≠ .absent := by
  unfold Launch.ended
  split
  · exact nofun
  · exact h

theorem endLaunch_outside (lid : Nat) (e : Ending) (s : State) : endLaunch lid e s = { s with
    launch := (endLaunch lid e s).launch, launches := (endLaunch lid e s).launches, cmds := (endLaunch lid e s).cmds } := by
  have h : endLaunch lid e s = { s.updLaunch lid (Launch.ended e) with
    cmds := (s.updLaunch lid (Launch.ended e)).cmds.map (fun c => if c.k.lid = lid then { c with cancelled := true } else c) } := rfl
  rw [h, updLaunch_outside]

theorem findLaunch_endLaunch (lid : Nat) (e : Ending) (s : State) : (endLaunch lid e s).findLaunch lid = (s.findLaunch lid).map (Launch.ended e) :=
  findLaunch_updLaunch s lid (Launch.ended e) (ended_lid e) (ended_status e)

/-- A job that is stopped (R340). -/
theorem stopJob_ends {j : Nat} {x : Job} (e : Ending) (h : s.findJob j = some x) (hdone : x.done = false) (hcode : x.ending.code = 0) :
    (stopJob j e s).findJob j = some { x with ending := e } ∧ (stopJob j e s).mem = s.mem := by
  have hfind : (s.updJob j (fun x => { x with ending := e })).findJob j = some { x with ending := e } := by
    have hmap := find_map_same (fun x : Job => x.id == j) (fun x : Job => { x with ending := e }) s.part.jobs fun _ h => h
    rw [State.findJob] at h
    simpa [State.updJob, State.findJob, State.updPart, h] using hmap
  have hlive : (x.done || x.ending.code != 0) = false := by simp [hdone, hcode]
  unfold stopJob
  simp only [h, hlive, Bool.false_eq_true, if_false]
  refine List.foldlRecOn (motive := fun u : State => u.findJob j = some { x with ending := e } ∧ u.mem = s.mem) _ _ ⟨hfind, rfl⟩ fun u hu l _ => ?_
  rw [endLaunch_outside]
  exact hu

/-! ## The start of a launch (R334 to R336, R341) -/

theorem makeResident_resident {asid : Nat} {leases : List (Nat × Nat)} {m : State} (pages : List ResidentPage) (tables : List Nat) (t : State)
    (h : makeResident asid leases pages tables t = some m) : lowestMissing m asid leases = none := by
  induction pages generalizing tables t with
  | nil =>
    simp only [makeResident] at h
    split at h
    next hnone => cases h; exact Option.isNone_iff_eq_none.1 hnone
    next => cases h
  | cons p pages ih =>
    simp only [makeResident] at h
    split at h
    next hnone => cases h; exact hnone
    next =>
      split at h
      next => cases h
      next => exact ih _ _ h

theorem resident_resident {asid : Nat} {leases : List (Nat × Nat)} {req : LaunchRequest} {m : State} (h : resident asid leases req s = some m) :
    lowestMissing m asid leases = none := by
  unfold resident at h
  split at h
  next hnone => cases h; exact Option.isNone_iff_eq_none.1 hnone
  next =>
    split at h
    next => exact makeResident_resident _ _ _ h
    next => cases h

section
variable (s) (g : Graph) (u : Submitted)

/-- The bytes of the launch record of a submitted launch. -/
def submittedBytes : List Byte := (walkerRead s g.asid (gnode s g u.node).lrec 256).getD []

/-- The launch record of a submitted launch, with its parameter words. -/
def launchRecord : LaunchRec :=
  let r := LaunchRec.ofBytes (submittedBytes s g u) ((leaseList s g.asid (submittedBytes s g u)).getD [])
  { r with parms := withHandles g u.node s.part.nextLaunch u.jobs (launchParms u (gnode s g u.node).kind r.parms) }

/-- A submitted launch is refused. -/
def submissionRefused : Bool := launchRefused s g.asid (gnode s g u.node).lrec (submittedBytes s g u) (leaseList s g.asid (submittedBytes s g u))

/-- The launch of a number, with its areas. -/
def startedLaunch (lid : Nat) (areas : List (Nat × Nat) × List (Nat × Nat) × List (Nat × Nat)) : Launch := { Launch.empty with
  lid := lid, status := .running, asid := g.asid, lr := launchRecord s g u, jobs := u.jobs, graph := u.graph, node := u.node
  records := u.records, stream := (launchRecord s g u).rcount != 0, teamAreas := areas.1, squadAreas := areas.2.1, tasks := u.tasks }

/-- A submission that is gone. -/
def withoutSubmission (pid : Nat) (t : State) : State := t.updPart (fun p => { p with submitted := p.submitted.filter (·.pid != pid) })

/-- The state with a started launch in it. -/
def launchEntered (pid : Nat) (areas : List (Nat × Nat) × List (Nat × Nat) × List (Nat × Nat)) (m : State) : State :=
  withoutSubmission pid { m with
    launches := m.launches.filter (fun (y : Launch) => y.lid != s.part.nextLaunch) ++ [startedLaunch s g u s.part.nextLaunch areas]
    part := { m.part with nextLaunch := (s.part.nextLaunch + 1) % 2 ^ 32, ctxPool := areas.2.2 } }

/-- What comes of a launch that has been entered: a DET launch starts all its teams; another waits for room for one. -/
def startOutcome (r : LaunchRec) (t : State) : Host.Outcome State Fault Refusal :=
  if r.det then match startAll s.part.nextLaunch r.teams t with
    | none => .next s
    | some t => .next t
  else if (placeFor t r).isNone then .next s
  else .next t

end

section
variable {g : Graph} {u : Submitted} {req : LaunchRequest} (hu : s.part.submitted.find? (·.pid == req.pid) = some u)
  (hg : s.findGraph u.graph = some g)
include hu hg

theorem launchStart_refused (h : submissionRefused s g u = true) :
    exec (.launchStart req) s = .next (u.jobs.foldl (fun t j => stopJob j ⟨2, 0, 0#64, 0#64⟩ t) (withoutSubmission req.pid s)) := by
  have he : exec (.launchStart req) s = execLaunchStart req s := rfl
  simp only [he, execLaunchStart, hu, hg]
  exact if_pos h

theorem launchStart_eq {areas : List (Nat × Nat) × List (Nat × Nat) × List (Nat × Nat)} (h : submissionRefused s g u = false)
    (hctx : takeContexts (launchRecord s g u) s.part.ctxPool = some areas) (hnum : numberHeld s = false) : exec (.launchStart req) s =
      match resident g.asid (launchRecord s g u).leases req s with
      | none => .next s
      | some m => startOutcome s (launchRecord s g u) (enterStream s.part.nextLaunch g.asid (launchRecord s g u) (launchEntered s g u req.pid areas m)) := by
  have he : exec (.launchStart req) s = execLaunchStart req s := rfl
  simp only [he, execLaunchStart, hu, hg]
  refine (if_neg (Bool.eq_false_iff.1 h)).trans ?_
  split
  next hnone => exact absurd (hctx.symm.trans hnone) nofun
  next teamAreas squadAreas pool hsome =>
    obtain rfl : areas = (teamAreas, squadAreas, pool) := Option.some.inj (hctx.symm.trans hsome)
    rw [hnum, if_neg Bool.false_ne_true]
    split
    next hnone => rw [show resident g.asid (launchRecord s g u).leases req s = none from hnone]
    next m hm =>
      rw [show resident g.asid (launchRecord s g u).leases req s = some m from hm]
      rfl

end

/-! ## The start of a team (R335 to R338, R405) -/

theorem cellRead_absent {l : List Host.Cell} {a : Nat} (h : ∀ c ∈ l, c.1 ≠ a) : cellRead l a = 0#8 := by
  induction l with
  | nil => rfl
  | cons c l ih =>
    rw [cellRead, if_neg (h c List.mem_cons_self)]
    exact ih fun x hx => h x (List.mem_cons_of_mem _ hx)

theorem Memory.read_clear {m : Memory} {a n x : Nat} (hlo : a ≤ x) (hhi : x < a + n) : (m.clear a n).read x = 0#8 := by
  refine cellRead_absent fun c hc hx => ?_
  have hout := (List.mem_filter.1 hc).2
  simp [hx, hlo, hhi] at hout

/-- Values placed in the registers from `k` on. -/
theorem vget_foldl_parms (ps : List DWord) (k : Nat) (v : Vector DWord 32) {i : Nat} (hi : i < 32) :
    vget ((ps.zipIdx k).foldl (fun v x => vset v x.2 x.1) v) i = if k ≤ i ∧ i < k + ps.length then ps.getD (i - k) 0#64 else vget v i := by
  induction ps generalizing k v with
  | nil => rw [if_neg (by simp)]; rfl
  | cons p ps ih =>
    rw [List.zipIdx_cons, List.foldl_cons, ih, vget_vset]
    by_cases hk : i = k
    · subst hk
      simp [hi]
    · by_cases hin : k + 1 ≤ i ∧ i < k + 1 + ps.length
      · have hsub : i - k = i - (k + 1) + 1 := by omega
        rw [if_pos hin, if_pos (by simp only [List.length_cons]; omega), hsub]
        rfl
      · rw [if_neg hin, if_neg (fun h => hk h.1.symm), if_neg (by simp only [List.length_cons]; omega)]

/-- A squad as a team starts with it (R337). -/
structure FreshSquad (l : Launch) (q : Squad) : Prop where
  lclk : q.lclk = 0#64
  live : q.live = BitVec.allOnes 32
  depth : q.depth = Vector.replicate 32 0#8
  suit : q.suit = l.lr.suit
  frames : q.frames = []
  parms : ∀ i, i < l.lr.nparm → i < 32 → i < l.lr.parms.length → vget q.s i = l.lr.parms.getD i 0#64

theorem newSquad_fresh (l : Launch) (su : Suit) (tmid sqid age : Nat) (place : Option Nat) : FreshSquad l (newSquad l su tmid sqid age place) where
  lclk := rfl
  live := rfl
  depth := rfl
  suit := rfl
  frames := rfl
  parms := fun i hn hi hlen => by
    refine (vget_foldl_parms (l.lr.parms.take l.lr.nparm) 0 Squad.empty.s hi).trans ?_
    rw [if_pos ⟨Nat.zero_le i, by rw [List.length_take]; omega⟩, Nat.sub_zero, List.getD_eq_getElem?_getD, List.getElem?_take_of_lt hn,
      ← List.getD_eq_getElem?_getD]

/-- From `s` to `t`, squads with some keys have been created on a core for a launch. -/
structure Created (l : Launch) (core : Nat) (keys : List SquadKey) (s t : State) : Prop where
  squads : ∃ qs, t.squads = s.squads ++ qs ∧ qs.map (·.key) = keys ∧ ∀ q ∈ qs, FreshSquad l q
  teams : t.teams = s.teams
  mem : t.mem = s.mem
  stock : (t.getCore core).stock = (s.getCore core).stock
  launch : ∀ y, s.findLaunch l.lid = some y → ∃ z, t.findLaunch l.lid = some z ∧ z.nextTeam = y.nextTeam

theorem Created.refl (l : Launch) (core : Nat) (s : State) : Created l core [] s s :=
  ⟨⟨[], (List.append_nil _).symm, rfl, fun _ h => absurd h List.not_mem_nil⟩, rfl, rfl, rfl, fun y hy => ⟨y, hy, rfl⟩⟩

theorem Created.trans {l : Launch} {core : Nat} {ks js : List SquadKey} {t u : State} (h : Created l core ks s t) (h' : Created l core js t u) :
    Created l core (ks ++ js) s u where
  squads := by
    obtain ⟨qs, hqs, hkeys, hfresh⟩ := h.squads
    obtain ⟨rs, hrs, hkeys', hfresh'⟩ := h'.squads
    refine ⟨qs ++ rs, by rw [hrs, hqs, List.append_assoc], by rw [List.map_append, hkeys, hkeys'], fun q hq => ?_⟩
    exact (List.mem_append.1 hq).elim (hfresh q) (hfresh' q)
  teams := h'.teams.trans h.teams
  mem := h'.mem.trans h.mem
  stock := h'.stock.trans h.stock
  launch := fun y hy => by
    obtain ⟨z, hz, hnext⟩ := h.launch y hy
    obtain ⟨z', hz', hnext'⟩ := h'.launch z hz
    exact ⟨z', hz', hnext'.trans hnext⟩

/-- A squad that joins the others. -/
theorem addSquad_created {l : Launch} {q : Squad} (core : Nat) (hq : FreshSquad l q) (s : State) :
    Created l core [q.key] s { s with squads := s.squads ++ [q] } :=
  ⟨⟨[q], rfl, rfl, fun _ hr => List.mem_singleton.1 hr ▸ hq⟩, rfl, rfl, rfl, fun y hy => ⟨y, hy, rfl⟩⟩

theorem endLaunch_created (l : Launch) (core : Nat) (e : Ending) (s : State) : Created l core [] s (endLaunch l.lid e s) := by
  refine ⟨⟨[], ?_, rfl, fun _ h => absurd h List.not_mem_nil⟩, ?_, ?_, ?_,
    fun y hy => ⟨y.ended e, by rw [findLaunch_endLaunch, hy]; rfl, ended_nextTeam e y⟩⟩
  · rw [endLaunch_outside, List.append_nil]
  · rw [endLaunch_outside]
  · rw [endLaunch_outside]
  · rw [endLaunch_outside]
    rfl

/-- A core with other hands in its deck cache. -/
def Core.decked (deck : List (Nat × Nat × Nat × Hand)) (c : Core) : Core := { c with deck := deck }

theorem updDeck_created (l : Launch) (core : Nat) (deck : List (Nat × Nat × Nat × Hand)) (s : State) :
    Created l core [] s (s.updCore core (Core.decked deck)) := by
  refine ⟨⟨[], ?_, rfl, fun _ h => absurd h List.not_mem_nil⟩, ?_, ?_,
    getCore_updCore_part Core.stock (Core.decked deck) (fun _ => rfl) (fun _ => rfl) core, fun y hy => ⟨y, ?_, rfl⟩⟩
  · rw [updCore_outside, List.append_nil]
  · rw [updCore_outside]
  · rw [updCore_outside]
  · rw [updCore_outside]
    exact hy

/-- A squad that has been dealt its first hand. -/
def Squad.dealt (h : Nat) (e : Hand) (q : Squad) : Squad := { q with hand := h, hent := e, pkt := e.code, word := 0 }

theorem FreshSquad.dealt {l : Launch} {q : Squad} (h : FreshSquad l q) (n : Nat) (e : Hand) : FreshSquad l (q.dealt n e) :=
  ⟨h.lclk, h.live, h.depth, h.suit, h.frames, h.parms⟩

theorem FreshSquad.stopped {l : Launch} {q : Squad} (h : FreshSquad l q) : FreshSquad l { q with status := .stopped } :=
  ⟨h.lclk, h.live, h.depth, h.suit, h.frames, h.parms⟩

theorem createSquad_created (l : Launch) (core tmid sqid : Nat) (s : State) :
    Created l core [⟨l.lid, tmid, sqid⟩] s (createSquad l core tmid sqid s) := by
  unfold createSquad
  extract_lets o su q fail view
  have hq : FreshSquad l q := newSquad_fresh ..
  have hfail (cause : Nat) (i0 i1 : DWord) : Created l core [⟨l.lid, tmid, sqid⟩] s (fail cause i0 i1) :=
    (addSquad_created core hq.stopped s).trans (endLaunch_created l core _ _)
  split
  next h e _ =>
    exact (addSquad_created core (hq.dealt h e) s).trans (updDeck_created l core _ _)
  next => exact hfail ..
  next => exact hfail ..
  next => exact hfail ..

theorem createSquads_created (l : Launch) (core tmid n : Nat) (s : State) : Created l core ((List.range n).map (fun i => ⟨l.lid, tmid, i⟩)) s
    ((List.range n).foldl (fun t i => createSquad l core tmid i t) s) := by
  induction n with
  | zero => exact .refl l core s
  | succ n ih =>
    rw [List.range_succ, List.foldl_append, List.map_append]
    exact ih.trans (createSquad_created l core tmid n _)

theorem clearCore_outside (r : LaunchRec) (core : Nat) (s : State) :
    clearCore r core s = { s with core := (clearCore r core s).core, cores := (clearCore r core s).cores } := updCore_outside _ _ _

theorem stock_clearCore (r : LaunchRec) (core : Nat) (s : State) :
    ((clearCore r core s).getCore core).stock = (s.getCore core).stock.clear (64 * r.sbase) (64 * r.slen) := by
  unfold clearCore
  extract_lets ps
  refine congrArg Core.stock (getCore_updCore s core _ fun c => ?_)
  rfl

/-- A launch whose next team has started. -/
def Launch.teamStarted (l : Launch) : Launch := { l with nextTeam := l.nextTeam + 1 }

section
variable {lid : Nat} {l : Launch} (hl : s.findLaunch lid = some l) (hid : l.lid = lid)
include hl

theorem getLaunch_of_find : s.getLaunch lid = l := by rw [State.getLaunch, hl]; rfl

theorem teamStart_stopped (hstop : l.debugStop = true) : exec (.teamStart lid) s = .next s := by
  have he : exec (.teamStart lid) s = execTeamStart lid s := rfl
  rw [he, execTeamStart, getLaunch_of_find hl]
  exact if_pos (by simp [hstop])

include hid

/-- The state in which a team's squads are created. -/
theorem startTeam_created (core : Nat) : ∃ v w, Created l core ((List.range l.lr.nsq).map (fun i => ⟨lid, l.nextTeam, i⟩)) v w
    ∧ startTeam lid core s = w.updLaunch lid Launch.teamStarted
    ∧ v = { s with teams := s.teams ++ [newTeam l l.nextTeam core], core := v.core, cores := v.cores }
    ∧ ∀ a, 64 * l.lr.sbase ≤ a → a < 64 * l.lr.sbase + 64 * l.lr.slen → (v.getCore core).stock.read a = 0#8 := by
  refine ⟨clearCore l.lr core { s with teams := s.teams ++ [newTeam l l.nextTeam core] }, _, hid ▸ createSquads_created l core l.nextTeam l.lr.nsq _, ?_,
    clearCore_outside _ _ _, fun a hlo hhi => ?_⟩
  · rw [startTeam, getLaunch_of_find hl]
    rfl
  · rw [stock_clearCore]
    exact Memory.read_clear hlo hhi

theorem teamStart_starts {c : Nat} (hrun : l.status = .running) (hstop : l.debugStop = false) (hnext : l.nextTeam < l.lr.teams) (hdet : l.lr.det = false)
    (hplace : placeFor s l.lr = some c) : Completes (.teamStart lid) s fun t =>
      t.teams = s.teams ++ [newTeam l l.nextTeam c] ∧ (t.getLaunch lid).nextTeam = l.nextTeam + 1 ∧ t.mem = s.mem
      ∧ (∀ a, 64 * l.lr.sbase ≤ a → a < 64 * l.lr.sbase + 64 * l.lr.slen → (t.getCore c).stock.read a = 0#8)
      ∧ ∃ qs : List Squad, t.squads = s.squads ++ qs ∧ qs.map (·.key) = (List.range l.lr.nsq).map (fun i => ⟨lid, l.nextTeam, i⟩)
        ∧ ∀ q ∈ qs, FreshSquad l q := by
  obtain ⟨v, w, hcreated, hstart, hv, hzero⟩ := startTeam_created hl hid c
  have hgo : (l.status != .running || l.debugStop || decide (l.lr.teams ≤ l.nextTeam) || l.lr.det) = false := by
    simp [hrun, hstop, hdet, hnext]
  have hrun : exec (.teamStart lid) s = .next (startTeam lid c s) := by
    have he : exec (.teamStart lid) s = execTeamStart lid s := rfl
    rw [he, execTeamStart, getLaunch_of_find hl]
    refine (if_neg (Bool.eq_false_iff.1 hgo)).trans ?_
    rw [hplace]
  have hvl : v.findLaunch l.lid = some l := by
    rw [hv, hid]
    exact hl
  obtain ⟨z, hz, hznext⟩ := hcreated.launch l hvl
  have hteams : v.teams = s.teams ++ [newTeam l l.nextTeam c] := by rw [hv]
  have hmem : v.mem = s.mem := by rw [hv]
  have hsquads : v.squads = s.squads := by rw [hv]
  have hout := updLaunch_outside w lid Launch.teamStarted
  have hlaunch : (w.updLaunch lid Launch.teamStarted).findLaunch lid = some z.teamStarted := by
    rw [findLaunch_updLaunch w lid Launch.teamStarted (fun _ => rfl) (fun _ h => h), ← hid, hz]
    rfl
  rw [hstart] at hrun
  refine ⟨_, hrun, ?_, ?_, ?_, fun a hlo hhi => ?_, ?_⟩
  · rw [hout]
    exact hcreated.teams.trans hteams
  · rw [State.getLaunch, hlaunch]
    exact congrArg (· + 1) hznext
  · rw [hout]
    exact hcreated.mem.trans hmem
  · have hcore : (w.updLaunch lid Launch.teamStarted).getCore c = w.getCore c := by
      rw [hout]
      rfl
    rw [hcore, hcreated.stock]
    exact hzero a hlo hhi
  · rw [hout, ← hsquads]
    exact hcreated.squads

end

/-! ## The completion of a launch (R337, R339) -/

theorem nodeEnded_only (graph node : Nat) (jobs : List Nat) (s : State) : GraphsJobsOnly s (nodeEnded graph node jobs s)
    ∧ (nodeEnded graph node jobs s).part.jobs =
      (jobs.foldl (fun t j => t.updJob j (fun x => { x with counter := x.counter + 1 }))
        (s.updGraph graph (fun x => { x with counter := x.counter + 1 }))).part.jobs := by
  have hcount := (GraphsJobsOnly.updGraph s graph (fun x => { x with counter := x.counter + 1 })).trans (countJobs_only jobs _)
  unfold nodeEnded
  extract_lets u v
  split
  · exact ⟨hcount, rfl⟩
  next l _ =>
    refine ⟨(GraphsJobsOnly.trans hcount (.updGraph v graph _)).trans (fireOnce_only jobs l.2.1 _), ?_⟩
    unfold fireOnce
    split <;> rfl

theorem findJob_updJob {j : Nat} {x : Job} (h : s.findJob j = some x) {f : Job → Job} (hf : ∀ y, (f y).id = y.id) :
    (s.updJob j f).findJob j = some (f x) := by
  have hmap := find_map_same (fun x : Job => x.id == j) f s.part.jobs fun y hy => by rw [hf]; exact hy
  rw [State.findJob] at h
  simpa [State.updJob, State.findJob, State.updPart, h] using hmap

/-- The node whose execution was a job's launch has ended: the job counts it. -/
theorem nodeEnded_job (graph node : Nat) {j : Nat} {x : Job} (h : s.findJob j = some x) :
    (nodeEnded graph node [j] s).findJob j = some { x with counter := x.counter + 1 } := by
  have hupd : (s.updJob j (fun x => { x with counter := x.counter + 1 })).findJob j = some { x with counter := x.counter + 1 } :=
    findJob_updJob h fun _ => rfl
  rw [State.findJob, (nodeEnded_only graph node [j] s).2]
  exact hupd

theorem moveClocks_outside (l : List (Nat × Int)) (s : State) :
    l.foldl (fun t m => moveClock m.1 (-m.2) t) s = { s with dies := (l.foldl (fun t m => moveClock m.1 (-m.2) t) s).dies } :=
  List.foldlRecOn (b := s) (motive := fun u : State => u = { s with dies := u.dies }) l _ rfl fun u hu m _ => by
    have hstep : moveClock m.1 (-m.2) u = { u with dies := (moveClock m.1 (-m.2) u).dies } := rfl
    rw [hstep, hu]

/-- What stays of the squads, teams and launches when a launch goes. -/
structure Cleared (l : Launch) (s t : State) : Prop where
  squads : t.squads = s.squads.filter (fun q => q.key.lid != l.lid)
  sq : t.sq = if s.sq.key.lid = l.lid then Squad.empty else s.sq
  teams : t.teams = s.teams.filter (fun m => !(m.key.lid == l.lid))
  team : t.team = if (s.team.key.lid == l.lid) = true then Team.empty else s.team
  launches : t.launches = s.launches.filter (fun (y : Launch) => y.lid != l.lid) ++ [{ l with status := .done }]
  launch : t.launch = if s.isCurLaunch l.lid = true then Launch.empty else s.launch
  mem : t.mem = s.mem
  jobs : t.part.jobs = s.part.jobs

theorem clearLaunch_cleared (l : Launch) (s : State) : Cleared l s (clearLaunch l s) := by
  unfold clearLaunch
  extract_lets u cur mine
  have hu : u = { s with dies := u.dies } := moveClocks_outside l.shift s
  have hcur : cur = s.isCurLaunch l.lid := (congrArg (fun u : State => u.isCurLaunch l.lid) hu :)
  constructor
  · exact (congrArg (fun u : State => u.squads.filter (fun q => q.key.lid != l.lid)) hu :)
  · exact (congrArg (fun u : State => if u.sq.key.lid = l.lid then Squad.empty else u.sq) hu :)
  · exact (congrArg (fun u : State => u.teams.filter (fun m => !(m.key.lid == l.lid))) hu :)
  · exact (congrArg (fun u : State => if (u.team.key.lid == l.lid) = true then Team.empty else u.team) hu :)
  · exact (congrArg (fun u : State => u.launches.filter (fun (y : Launch) => y.lid != l.lid) ++ [{ l with status := .done }]) hu :)
  · rw [← hcur]
    exact (congrArg (fun u : State => if cur = true then Launch.empty else u.launch) hu :)
  · exact (congrArg State.mem hu :)
  · exact (congrArg (fun u : State => u.part.jobs) hu :)

section
variable {l : Launch} {t : State} (h : Cleared l s t)
include h

theorem Cleared.findLaunch : t.findLaunch l.lid = some { l with status := .done } := by
  have hrest : t.launches.find? (·.lid == l.lid) = some { l with status := .done } := by
    rw [h.launches, List.find?_append, List.find?_eq_none.2]
    · simp
    · intro y hy
      simpa using (List.mem_filter.1 hy).2
  rw [State.findLaunch, State.allLaunches, h.launch]
  by_cases hcur : s.isCurLaunch l.lid = true
  · rw [if_pos hcur]
    exact hrest
  · rw [if_neg hcur]
    split
    · exact hrest
    next hpresent =>
      have hother : (s.launch.lid == l.lid) = false := by simpa [State.isCurLaunch, hpresent] using hcur
      rw [List.find?_cons, hother]
      exact hrest

theorem Cleared.allSquads (q : Squad) (hq : q ∈ t.allSquads) : q.key.lid ≠ l.lid := by
  have hrest (hq : q ∈ t.squads) : q.key.lid ≠ l.lid := by
    rw [h.squads] at hq
    simpa using (List.mem_filter.1 hq).2
  rw [State.allSquads, h.sq] at hq
  by_cases hown : s.sq.key.lid = l.lid
  · rw [if_pos hown] at hq
    exact hrest hq
  · rw [if_neg hown] at hq
    split at hq
    · exact hrest hq
    · exact (List.mem_cons.1 hq).elim (fun e => e ▸ hown) hrest

theorem Cleared.allTeams (m : Team) (hm : m ∈ t.allTeams) : m.key.lid ≠ l.lid := by
  have hrest (hm : m ∈ t.teams) : m.key.lid ≠ l.lid := by
    rw [h.teams] at hm
    simpa using (List.mem_filter.1 hm).2
  rw [State.allTeams, h.team] at hm
  by_cases hown : (s.team.key.lid == l.lid) = true
  · rw [if_pos hown] at hm
    exact hrest hm
  · rw [if_neg hown] at hm
    split at hm
    · exact hrest hm
    · exact (List.mem_cons.1 hm).elim (fun e => e ▸ by simpa using hown) hrest

end

theorem launchCompletion_eq {lid j : Nat} {l : Launch} {x : Job} (hl : s.findLaunch lid = some l) (hover : launchOver s l = true) (hjobs : l.jobs = [j])
    (hx : s.findJob j = some x) (hxcode : x.ending.code = 0) (hcode : l.ending.code = 0) : exec (.launchCompletion ⟨lid, none⟩) s =
      match (nodeEnded l.graph l.node [j] (clearLaunch l s)).findGraph l.graph with
      | none => .next (nodeEnded l.graph l.node [j] (clearLaunch l s))
      | some g => .next (deliver l.graph [j] (successors (nodeEnded l.graph l.node [j] (clearLaunch l s)) g
          (gnode (nodeEnded l.graph l.node [j] (clearLaunch l s)) g l.node)) (nodeEnded l.graph l.node [j] (clearLaunch l s))) := by
  have he : exec (.launchCompletion ⟨lid, none⟩) s = execLaunchCompletion ⟨lid, none⟩ s := rfl
  have hfilter : l.jobs.filter (fun j => (s.findJob j).any (fun x => x.ending.code == 0)) = [j] := by simp [hjobs, hx, hxcode]
  rw [he, execLaunchCompletion, hl]
  dsimp only
  rw [if_pos hover, hfilter, Option.elim_none]
  dsimp only
  rw [hcode, if_neg (by decide), if_neg (by simp)] <;> rfl

/-- A launch whose record goes with all that is its own, and which its job counts. -/
theorem launchCompletion_completes {lid j : Nat} {l : Launch} {x : Job} (hl : s.findLaunch lid = some l) (hid : l.lid = lid)
    (hover : launchOver s l = true) (hjobs : l.jobs = [j]) (hx : s.findJob j = some x) (hxcode : x.ending.code = 0) (hcode : l.ending.code = 0) :
    Completes (.launchCompletion ⟨lid, none⟩) s fun t => (t.findLaunch lid).map (·.status) = some .done
      ∧ (∀ q ∈ t.allSquads, q.key.lid ≠ lid) ∧ (∀ m ∈ t.allTeams, m.key.lid ≠ lid)
      ∧ (t.findJob j).map (·.counter) = some (x.counter + 1) ∧ t.mem = s.mem := by
  have hcleared := clearLaunch_cleared l s
  have hfind : (clearLaunch l s).findJob j = some x := by rw [State.findJob, hcleared.jobs]; exact hx
  have hjob := nodeEnded_job l.graph l.node hfind
  have honly := (nodeEnded_only l.graph l.node [j] (clearLaunch l s)).1
  have hdone (t : State) (ht : GraphsJobsOnly (clearLaunch l s) t) (hj : t.findJob j = some { x with counter := x.counter + 1 }) :
      (t.findLaunch lid).map (·.status) = some .done ∧ (∀ q ∈ t.allSquads, q.key.lid ≠ lid) ∧ (∀ m ∈ t.allTeams, m.key.lid ≠ lid)
        ∧ (t.findJob j).map (·.counter) = some (x.counter + 1) ∧ t.mem = s.mem := by
    subst hid
    refine ⟨?_, fun q hq => ?_, fun m hm => ?_, by rw [hj]; rfl, ?_⟩
    · rw [ht]
      exact congrArg _ hcleared.findLaunch
    · rw [ht] at hq
      exact hcleared.allSquads q hq
    · rw [ht] at hm
      exact hcleared.allTeams m hm
    · rw [ht]
      exact hcleared.mem
  have hrun := launchCompletion_eq hl hover hjobs hx hxcode hcode
  split at hrun
  · exact ⟨_, hrun, hdone _ honly hjob⟩
  · exact ⟨_, hrun, hdone _ (honly.trans (.updGraph _ l.graph _)) hjob⟩

/-! ## The completion of a job (R330) -/

theorem GraphsJobsOnly.walkerAddr {t : State} (h : GraphsJobsOnly s t) (asid va : Nat) : walkerAddr t asid va = walkerAddr s asid va := by
  rw [h]
  rfl

/-- The cells that the walker writes where its addresses follow one another. -/
theorem filterMap_cellsAt {f : Nat → Option Nat} (bs : List Byte) (va pa : Nat) (h : ∀ b, b < bs.length → f (va + b) = some (pa + b)) :
    (cellsAt va bs).filterMap (fun c => (f c.1).map (·, c.2)) = cellsAt pa bs := by
  induction bs generalizing va pa with
  | nil => rfl
  | cons b bs ih =>
    have hfirst : f va = some pa := h 0 (by simp)
    rw [cellsAt, List.filterMap_cons_some (b := (pa, b)) (by rw [hfirst]; rfl), ih (va + 1) (pa + 1) fun k hk => ?_]
    · rfl
    · have := h (k + 1) (by simpa using hk)
      rwa [show va + (k + 1) = va + 1 + k by omega, show pa + (k + 1) = pa + 1 + k by omega] at this

theorem length_completionSlot (x : Job) : (completionSlot x).length = 64 := by
  simp [completionSlot, length_toBytes]

/-- A job that has completed, before its slot is written. -/
def jobDone (job : Nat) (s : State) : State :=
  (s.updJob job (fun x => { x with done := true })).updPart (fun p => { p with graphs := p.graphs.map (Graph.forget job) })

theorem jobDone_only (job : Nat) (s : State) : GraphsJobsOnly s (jobDone job s) := rfl

/-- The state with a completed job's slot written. -/
def slotWritten (asid job : Nat) (x : Job) (s : State) : State :=
  if x.cq = 0 then jobDone job s else walkerWrite asid x.cq (completionSlot x) (jobDone job s)

section
variable {job : Nat} {x : Job} {g : Graph} (hx : s.findJob job = some x) (hdone : x.done = false) (hbusy : jobBusy s job = false)
  (hg : s.findGraph x.graph = some g)

theorem walkerWrite_findJob (asid va : Nat) (bs : List Byte) (s : State) (j : Nat) : (walkerWrite asid va bs s).findJob j = s.findJob j := rfl

include hx in
theorem slotWritten_findJob (asid : Nat) : (slotWritten asid job x s).findJob job = some { x with done := true } := by
  have hfind : (jobDone job s).findJob job = some { x with done := true } :=
    findJob_updJob (f := fun x => { x with done := true }) hx fun _ => rfl
  unfold slotWritten
  split
  · exact hfind
  · rw [walkerWrite_findJob, hfind]

theorem slotWritten_mem (asid : Nat) : (x.cq = 0 → (slotWritten asid job x s).mem = s.mem)
    ∧ ∀ pa, x.cq ≠ 0 → s.mem.wf = true → (∀ b, b < 64 → walkerAddr s asid (x.cq + b) = some (pa + b)) →
      Stored (cellsAt pa (completionSlot x)) s.mem (slotWritten asid job x s).mem := by
  refine ⟨fun h => by rw [slotWritten, if_pos h]; rfl, fun pa h hw haddr => ?_⟩
  have hcells : (cellsAt x.cq (completionSlot x)).filterMap (fun c => (walkerAddr (jobDone job s) asid c.1).map (·, c.2)) =
      cellsAt pa (completionSlot x) :=
    filterMap_cellsAt (completionSlot x) x.cq pa fun b hb => by
      rw [(jobDone_only job s).walkerAddr]
      exact haddr b (by rwa [length_completionSlot] at hb)
  rw [slotWritten, if_neg h, walkerWrite, hcells]
  exact homeWrite_stored (s := jobDone job s) hw _

include hx hdone hbusy hg

theorem jobCompletion_held (hcq : x.cq ≠ 0) (hheld : walkerHeld s g.asid [x.cq, x.cq + 63] = true) : exec (.jobCompletion job) s = .next s := by
  have he : exec (.jobCompletion job) s = execJobCompletion job s := rfl
  rw [he, execJobCompletion, hx]
  refine (if_neg (by simp [hdone, hbusy])).trans ?_
  rw [hg]
  exact if_pos (by simp [hcq, hheld])

/-- Beside the slot, at most a phase counts the job. -/
theorem jobCompletion_writes (hgo : x.cq = 0 ∨ walkerHeld s g.asid [x.cq, x.cq + 63] = false) : ∃ phases,
    exec (.jobCompletion job) s = .next ((slotWritten g.asid job x s).updPart (fun p => { p with phases := phases })) := by
  have he : exec (.jobCompletion job) s = execJobCompletion job s := rfl
  have hno : ¬ (x.cq != 0 && walkerHeld s g.asid [x.cq, x.cq + 63]) = true := by rcases hgo with h | h <;> simp [h]
  have hrun : exec (.jobCompletion job) s = (match g.form.phase with
      | none => .next (slotWritten g.asid job x s)
      | some i => if (slotWritten g.asid job x s).part.jobs.any (fun y => y.graph == x.graph && !y.done) then .next (slotWritten g.asid job x s)
        else .next ((slotWritten g.asid job x s).updPart (fun p => { p with
          phases := p.phases.map (fun y => if y.idx = i then { y with counter := y.counter + 1 } else y) }))) := by
    rw [he, execJobCompletion, hx]
    simp only [hdone, hbusy, Bool.or_self, Bool.false_eq_true, if_false, hg, hno]
    rfl
  rw [hrun]
  split
  · exact ⟨(slotWritten g.asid job x s).part.phases, rfl⟩
  · split
    · exact ⟨(slotWritten g.asid job x s).part.phases, rfl⟩
    · exact ⟨_, rfl⟩

end

end

/-- Settles O55: registration, the start and refusal of launches, the start of teams, and the completion of launches and jobs. -/
theorem launchLife : Obligations.LaunchLife := by
  unfold Obligations.LaunchLife
  intro s
  refine ⟨fun asid base count form i hb hi hfree hleast => graphRegistration_takes asid base count form hb hi hfree hleast,
    fun pid pages tables u g teamAreas squadAreas pool hu hg => ?start, fun pid pages tables u g j x hu hg hjobs hx hdone hcode hrefused => ?refused,
    fun lid l hl hstop => teamStart_stopped hl hstop, fun lid l c hl hid hrun hstop hnext hdet hplace => ?team,
    fun lid l j x hl hid hover hjobs hx hxcode hcode => launchCompletion_completes hl hid hover hjobs hx hxcode hcode,
    fun job x g hx hdone hbusy hg => ⟨jobCompletion_held hx hdone hbusy hg, fun hgo => ?job⟩⟩
  case start =>
    intro node b leases r0 r req started hgood hctx hnum
    have hstart := launchStart_eq (req := req) (areas := (teamAreas, squadAreas, pool)) hu hg hgood hctx hnum
    refine ⟨fun hnone => if_pos (Option.isNone_iff_eq_none.2 hnone), fun hnone => ?_, fun m hm => ⟨resident_resident hm, fun hdet hcount hplace => ?_⟩⟩
    · rw [hstart, show resident g.asid (launchRecord s g u).leases req s = none from hnone]
    · rw [hstart, show resident g.asid (launchRecord s g u).leases req s = some m from hm]
      have hstarted : started m = enterStream s.part.nextLaunch g.asid (launchRecord s g u)
          (launchEntered s g u pid (teamAreas, squadAreas, pool) m) := by
        rw [enterStream, if_pos (show (launchRecord s g u).rcount = 0 from hcount), launchEntered, startedLaunch,
          show ((launchRecord s g u).rcount != 0) = false from bne_eq_false_iff_eq.2 hcount]
        rfl
      have hroom : (placeFor (started m) (launchRecord s g u)).isNone = false := by
        rw [Option.isNone_eq_false_iff]
        exact hplace
      refine (congrArg (startOutcome s (launchRecord s g u)) hstarted.symm).trans ?_
      rw [startOutcome, show (launchRecord s g u).det = false from hdet, hroom]
      rfl
  case refused =>
    have hrun := launchStart_refused (req := ⟨pid, pages, tables⟩) hu hg hrefused
    rw [hjobs] at hrun
    obtain ⟨hjob, hmem⟩ := stopJob_ends (s := withoutSubmission pid s) ⟨2, 0, 0#64, 0#64⟩ hx hdone hcode
    exact ⟨_, hrun, by rw [List.foldl_cons, List.foldl_nil, hjob]; rfl, hmem⟩
  case team =>
    obtain ⟨t, ht, hteams, hlaunch, hmem, hzero, qs, hqs, hkeys, hfresh⟩ := teamStart_starts hl hid hrun hstop hnext hdet hplace
    refine ⟨t, ht, hteams, hlaunch, hmem, hzero, qs, hqs, hkeys, fun q hq => ?_⟩
    obtain ⟨hlclk, hlive, hdepth, hsuit, hframes, hparms⟩ := hfresh q hq
    exact ⟨hlclk, hlive, hdepth, hsuit, hframes, hparms⟩
  case job =>
    obtain ⟨phases, hrun⟩ := jobCompletion_writes hx hdone hbusy hg hgo
    obtain ⟨hsame, hslot⟩ := slotWritten_mem (s := s) (job := job) (x := x) g.asid
    exact ⟨_, hrun, congrArg (Option.map Job.done) (slotWritten_findJob hx g.asid), hsame, hslot⟩

end Sys2Proof.Machine
end
